-- ==== Sys2Proof/Word.lean ====
section
/-!
DEFINITION. The word types of the SKV-OQ8 (spec 00_scope.md, R5; 02_encoding.md): widths only, no behaviour.
-/
namespace Sys2Proof

/-- One byte of memory. -/
abbrev Byte := BitVec 8
/-- A 32-bit lane value or a 32-bit lane mask (lane `l` at bit `l`, R9). -/
abbrev W32 := BitVec 32
/-- A 64-bit scalar or one instruction word. -/
abbrev W64 := BitVec 64
/-- A 56-bit virtual address or PC (R302). -/
abbrev Va := BitVec 56

/-- A fixed vector filled by a function of the index: it evaluates by `List.ofFn`. -/
def tabulate {α : Type} (n : Nat) (f : Fin n → α) : Vector α n :=
  ⟨⟨List.ofFn f⟩, by simp⟩

/-- One 32-bit value per lane (R9). -/
abbrev Lanes := Vector W32 32

/-- One 64-bit value per lane: the view of an even/odd register pair, or of a 32-bit value widened (R54). -/
abbrev Lanes64 := Vector W64 32

end Sys2Proof
end

