-- ==== Sys2Proof/Config.lean ====
section
/-!
DEFINITION. The free values: constants with no body, where the spec fixes no value. Nothing can be proved of what they
are. Each is named in notes/assumptions.
-/
namespace Sys2Proof.Config

/-- The special functions whose result bits the spec bounds but does not fix (R126). -/
inductive Special where
  | exp2 | log2 | sin | cos | tanh
  deriving DecidableEq, Repr

/-- The FP32 result bits of a special function at a finite FP32 operand where the exact value is not representable: used where they
keep the bound of R126 (R126: every part returns the same bits for the same operand; notes/assumptions/2.md). -/
opaque special : Special → W32 → W32

/-- The bytes of an attestation report's signature, by leaf index and position (R420; notes/assumptions/3.md). -/
opaque attestation : Nat → Nat → Byte

/-- The bytes of the SHA-256 measurement of a firmware image or of the boot ROM, by image and position: 0 is the boot ROM,
1 + 2n the image A after n uploads, 2 + 2n the image B (R420; notes/assumptions/3.md). -/
opaque measurement : Nat → Nat → Byte

/-- A byte of a poisoned line that a host reads (R391 leaves it open; notes/assumptions/41.md). The argument is a fresh number. -/
opaque poisonByte : Nat → Byte

/-- The value of `laneid` as the data of `STS`, which acts once for the slice and has no lane (R168 accepts it there and
states no value; notes/assumptions/4.md). The argument is a fresh number. -/
opaque stsLaneid : Nat → W64

/-- What an accumulator move reads at an element whose offset lies outside the range that R201 gives its space (the spec
states no value; notes/assumptions/5.md). The argument is a fresh number. -/
opaque strayCell : Nat → W64

end Sys2Proof.Config
end

