-- ==== Sys2Proof/Machine/Numbers.lean ====
section
/-!
DEFINITION. Number formats, exact values, rounding and exact sums (spec 03_numbers.md, R68 to R86).
A finite value is held exactly as a signed multiple of a power of two; a format is decoded into such a value and a value
is rounded into a format's code by `roundTo`, which also answers the numeric events of R77 and R78.
-/
namespace Sys2Proof.Machine

/-- The value formats of Table 3.1 and the tapered formats of R72. -/
inductive Fmt where
  | f64 | f32 | f16 | bf16 | e5m2 | e4m3 | e2m1 | tf8 | tf6
  deriving DecidableEq, Repr

/-- The rounding modes of R53. -/
inductive Mode where
  | rne | rtz | rup | rdn
  deriving DecidableEq, Repr

/-- The rounding mode of variant [1:0] (R53). -/
def Mode.ofCode (c : Nat) : Mode :=
  match c % 4 with
  | 0 => .rne | 1 => .rtz | 2 => .rup | _ => .rdn

/-- The six event classes of R87 as bits: [0] invalid, [1] overflow, [2] underflow, [3] inexact, [4] saturation,
[5] NaR produced. -/
abbrev Events := BitVec 6

namespace Events
/-- No event. -/
def none : Events := 0#6
/-- Invalid. -/
def invalid : Events := 1#6
/-- Overflow. -/
def overflow : Events := 2#6
/-- Underflow. -/
def underflow : Events := 4#6
/-- Inexact. -/
def inexact : Events := 8#6
/-- Saturation. -/
def saturation : Events := 16#6
/-- NaR produced. -/
def nar : Events := 32#6
/-- An event when a condition holds. -/
def when (b : Bool) (e : Events) : Events := if b then e else 0#6
end Events

/-- An exact value of an operand or a sum: NaN, an infinity, or (-1)^neg * man * 2^exp (`man = 0` is a signed zero). -/
inductive Num where
  | nan
  | inf (neg : Bool)
  | fin (neg : Bool) (man : Nat) (exp : Int)
  deriving DecidableEq, Repr

namespace Num
/-- A zero of the given sign. -/
def zero (neg : Bool) : Num := .fin neg 0 0
/-- An integer as an exact value; 0 is +0. -/
def ofInt (i : Int) : Num := .fin (decide (i < 0)) i.natAbs 0
/-- Is the value a NaN? -/
def isNan : Num → Bool
  | .nan => true
  | _ => false
/-- Is the value finite? -/
def isFin : Num → Bool
  | .fin .. => true
  | _ => false
/-- The sign of a value; a NaN counts as positive. -/
def sign : Num → Bool
  | .nan => false
  | .inf n => n
  | .fin n _ _ => n
/-- The value with its sign inverted; a NaN stays. -/
def neg : Num → Num
  | .nan => .nan
  | .inf n => .inf (!n)
  | .fin n m e => .fin (!n) m e
/-- The magnitude. -/
def abs : Num → Num
  | .nan => .nan
  | .inf _ => .inf false
  | .fin _ m e => .fin false m e
/-- The value times 2^k. -/
def scale (k : Int) : Num → Num
  | .fin n m e => .fin n m (e + k)
  | x => x
end Num

/-- man1 * 2^exp1 compared with man2 * 2^exp2. -/
def cmpMag (m1 : Nat) (e1 : Int) (m2 : Nat) (e2 : Int) : Ordering :=
  let e := min e1 e2
  compare (m1 * 2 ^ (e1 - e).toNat) (m2 * 2 ^ (e2 - e).toNat)

/-- The order of two finite or infinite values with -0 equal to +0; NaN must be excluded by the caller. -/
def cmpNum : Num → Num → Ordering
  | .inf a, .inf b => if a = b then .eq else if a then .lt else .gt
  | .inf a, _ => if a then .lt else .gt
  | _, .inf b => if b then .gt else .lt
  | .fin n1 m1 e1, .fin n2 m2 e2 =>
    if m1 = 0 ∧ m2 = 0 then .eq
    else if m1 = 0 then (if n2 then .gt else .lt)
    else if m2 = 0 then (if n1 then .lt else .gt)
    else match n1, n2 with
      | false, true => .gt
      | true, false => .lt
      | false, false => cmpMag m1 e1 m2 e2
      | true, true => cmpMag m2 e2 m1 e1
  | _, _ => .eq

/-- The exact product of two values, and whether it is zero times infinity (R83). -/
def mulNum : Num → Num → Num × Bool
  | .nan, _ => (.nan, false)
  | _, .nan => (.nan, false)
  | .inf a, .inf b => (.inf (a != b), false)
  | .inf a, .fin b m _ => if m = 0 then (.nan, true) else (.inf (a != b), false)
  | .fin a m _, .inf b => if m = 0 then (.nan, true) else (.inf (a != b), false)
  | .fin a m1 e1, .fin b m2 e2 => (.fin (a != b) (m1 * m2) (e1 + e2), false)

/-- The least exponent among the finite nonzero terms. -/
def minExp : List Num → Int → Int
  | [], e => e
  | .fin _ m x :: ts, e => minExp ts (if m = 0 then e else min e x)
  | _ :: ts, e => minExp ts e

/-- The sum of the finite terms as a multiple of 2^e. -/
def sumAt (e : Int) : List Num → Int
  | [] => 0
  | .fin n m x :: ts =>
    (if m = 0 then 0 else if n then -((m * 2 ^ (x - e).toNat : Nat) : Int) else ((m * 2 ^ (x - e).toNat : Nat) : Int))
      + sumAt e ts
  | _ :: ts => sumAt e ts

/-- Is the term a negative zero? -/
def isNegZero : Num → Bool
  | .fin true 0 _ => true
  | _ => false

/-- `exact_sum` of R82, and the invalid event of +∞ with -∞. -/
def exactSum (ts : List Num) : Num × Events :=
  if ts.any Num.isNan then (.nan, Events.none)
  else
    let p := ts.any (fun t => t == .inf false)
    let n := ts.any (fun t => t == .inf true)
    if p && n then (.nan, Events.invalid)
    else if p then (.inf false, Events.none)
    else if n then (.inf true, Events.none)
    else
      let e := minExp ts 2000
      let i := sumAt e ts
      if i = 0 then (.zero (ts.all isNegZero), Events.none)
      else (.fin (decide (i < 0)) i.natAbs e, Events.none)

/-- Exponent bits, bias and fraction bits of Table 3.1; the tapered formats have none. -/
def Fmt.params : Fmt → Nat × Nat × Nat
  | .f64 => (11, 1023, 52)
  | .f32 => (8, 127, 23)
  | .f16 => (5, 15, 10)
  | .bf16 => (8, 127, 7)
  | .e5m2 => (5, 15, 2)
  | .e4m3 => (4, 7, 3)
  | .e2m1 => (2, 1, 1)
  | .tf8 => (0, 0, 0)
  | .tf6 => (0, 0, 0)

/-- The width of a code in bits (Table 3.1, R72). -/
def Fmt.width : Fmt → Nat
  | .f64 => 64 | .f32 => 32 | .f16 => 16 | .bf16 => 16 | .e5m2 => 8 | .e4m3 => 8 | .e2m1 => 4 | .tf8 => 8 | .tf6 => 6

/-- Has the format infinities (Table 3.1)? -/
def Fmt.hasInf : Fmt → Bool
  | .f64 => true | .f32 => true | .f16 => true | .bf16 => true | .e5m2 => true | _ => false

/-- A narrow target of R77. -/
def Fmt.narrow : Fmt → Bool
  | .e5m2 => true | .e4m3 => true | .e2m1 => true | .tf8 => true | .tf6 => true | _ => false

/-- tf8 or tf6. -/
def Fmt.tapered : Fmt → Bool
  | .tf8 => true | .tf6 => true | _ => false

/-- The magnitude code of the largest finite value (Table 3.1, R72). -/
def Fmt.maxCode : Fmt → Nat
  | .f64 => 0x7FEFFFFFFFFFFFFF | .f32 => 0x7F7FFFFF | .f16 => 0x7BFF | .bf16 => 0x7F7F | .e5m2 => 0x7B
  | .e4m3 => 0x7E | .e2m1 => 7 | .tf8 => 127 | .tf6 => 31

/-- The canonical NaN of R69; +max for E4M3 and E2M1, NaR for the tapered formats (R77). -/
def Fmt.nanCode : Fmt → Nat
  | .f64 => 0x7FF8000000000000 | .f32 => 0x7FC00000 | .f16 => 0x7E00 | .bf16 => 0x7FC0 | .e5m2 => 0x7E
  | .e4m3 => 0x7E | .e2m1 => 7 | .tf8 => 0x80 | .tf6 => 0x20

/-- `emax` of Table 3.5; formats outside the table have none and answer 0. -/
def Fmt.emax : Fmt → Int
  | .e2m1 => 2 | .e4m3 => 8 | .e5m2 => 15 | _ => 0

/-- Length of the run of bits equal to `b` at the top of an n-bit code. -/
def runLen (mc : Nat) (b : Bool) : Nat → Nat
  | 0 => 0
  | n + 1 => if mc.testBit n = b then 1 + runLen mc b n else 0

/-- The magnitude of a nonzero tapered magnitude code (R72), as (man, exp). -/
def tapMag (mc n es : Nat) : Nat × Int :=
  let b := mc.testBit (n - 1)
  let m := runLen mc b n
  let k : Int := if b then (m : Int) - 1 else -(m : Int)
  let nrest := n - m - 1
  let rest := mc % 2 ^ nrest
  let ne := min es nrest
  let e := (rest / 2 ^ (nrest - ne)) * 2 ^ (es - ne)
  let nf := nrest - ne
  let f := rest % 2 ^ nf
  (2 ^ nf + f, ((2 ^ es : Nat) : Int) * k + (e : Int) - (nf : Int))

/-- Magnitude bits n and exponent bits es of a tapered format (R72). -/
def Fmt.tap : Fmt → Nat × Nat
  | .tf8 => (7, 2)
  | _ => (5, 1)

/-- The value of a code (Tables 3.1 to 3.4, R72), and whether the code is a signalling NaN (R69). -/
def Fmt.decode (f : Fmt) (code : Nat) : Num × Bool :=
  if f.tapered then
    let (n, es) := f.tap
    let s := code.testBit n
    let mc := code % 2 ^ n
    if mc = 0 then (if s then (.nan, false) else (.zero false, false))
    else let (m, e) := tapMag mc n es; (.fin s m e, false)
  else
    let (eb, bias, fb) := f.params
    let s := code.testBit (eb + fb)
    let e := (code / 2 ^ fb) % 2 ^ eb
    let fr := code % 2 ^ fb
    if e + 1 = 2 ^ eb ∧ f.hasInf then
      if fr = 0 then (.inf s, false) else (.nan, !fr.testBit (fb - 1))
    else if f = .e4m3 ∧ e = 15 ∧ fr = 7 then (.nan, false)
    else if e = 0 then (.fin s fr (1 - (bias : Int) - (fb : Int)), false)
    else (.fin s (2 ^ fb + fr) ((e : Int) - (bias : Int) - (fb : Int)), false)

/-- Does a magnitude that lies above its lower neighbour by `rem` of `2^r` (with `even` the lower neighbour's low bit
clear) round up (R77)? `neg` is the sign of the value. -/
def roundsUp (mode : Mode) (neg even : Bool) (rem half : Nat) (below : Bool) : Bool :=
  match mode with
  | .rne => decide (half < rem) || (decide (rem = half) && !below && !even)
  | .rtz => false
  | .rup => !neg
  | .rdn => neg

/-- man * 2^exp as a multiple of 2^q, rounded: the multiple and whether it is exact. -/
def roundMul (mode : Mode) (neg : Bool) (man : Nat) (exp q : Int) : Nat × Bool :=
  if q ≤ exp then (man * 2 ^ (exp - q).toNat, true)
  else
    let r := (q - exp).toNat
    let n := man / 2 ^ r
    let rem := man % 2 ^ r
    if rem = 0 then (n, true)
    else ((if roundsUp mode neg (n % 2 == 0) rem (2 ^ (r - 1)) false then n + 1 else n), false)

/-- The largest tapered magnitude code whose value is at most man * 2^exp, built from its top bit down. -/
def tapFloor (f : Fmt) (man : Nat) (exp : Int) : Nat → Nat → Nat
  | 0, acc => acc
  | b + 1, acc =>
    let t := acc + 2 ^ b
    let (m, e) := tapMag t f.tap.1 f.tap.2
    tapFloor f man exp b (if cmpMag m e man exp == .gt then acc else t)

/-- The code with a sign bit above the magnitude code. -/
def Fmt.signed (f : Fmt) (neg : Bool) (code : Nat) : Nat :=
  if neg then code + 2 ^ (f.width - 1) else code

/-- ±max with the events of an overflow that saturates (R78). -/
def overflowTo (f : Fmt) (neg : Bool) : Nat × Events :=
  (f.signed neg f.maxCode, Events.overflow ||| Events.inexact ||| Events.saturation)

/-- The overflow rule of R78. -/
def overflowed (f : Fmt) (neg : Bool) (mode : Mode) (sat : Bool) : Nat × Events :=
  if f.narrow || sat then overflowTo f neg
  else
    let toInf := match mode with
      | .rne => true
      | .rtz => false
      | .rup => !neg
      | .rdn => neg
    if toInf then (f.signed neg (f.maxCode + 1), Events.overflow ||| Events.inexact) else overflowTo f neg

/-- `round_to` of R77 and R78: the code in format `f`, and the events. -/
def roundTo (f : Fmt) (v : Num) (mode : Mode) (sat : Bool) : Nat × Events :=
  match v with
  | .nan =>
    (f.nanCode, if f.tapered then Events.nar
                else if f = .e4m3 ∨ f = .e2m1 then Events.invalid else Events.none)
  | .inf neg =>
    if f.hasInf && !sat then (f.signed neg (f.maxCode + 1), Events.none) else overflowTo f neg
  | .fin neg man exp =>
    if man = 0 then (if f.tapered then (0, Events.none) else (f.signed neg 0, Events.none))
    else if f.tapered then
      let n := f.tap.1
      let lo := tapFloor f man exp n 0
      let (lm, le) := if lo = 0 then (0, 0) else tapMag lo n f.tap.2
      if lo ≠ 0 ∧ cmpMag lm le man exp = .eq then (if neg then lo + 2 ^ n else lo, Events.none)
      else if lo = f.maxCode then ((if neg then lo + 2 ^ n else lo),
        Events.overflow ||| Events.inexact ||| Events.saturation)
      else
        let (hm, he) := tapMag (lo + 1) n f.tap.2
        let e := min exp (min le he)
        let a2 := 2 * (man * 2 ^ (exp - e).toNat)
        let s := lm * 2 ^ (le - e).toNat + hm * 2 ^ (he - e).toNat
        let up := match mode with
          | .rne => decide (s < a2) || (decide (a2 = s) && lo % 2 == 1)
          | .rtz => false
          | .rup => !neg
          | .rdn => neg
        let res := if up then lo + 1 else lo
        if res = 0 then (0, Events.underflow ||| Events.inexact)
        else ((if neg then res + 2 ^ n else res), Events.inexact)
    else
      let (_, bias, fb) := f.params
      let emin : Int := 1 - (bias : Int)
      let top : Int := (Nat.log2 man : Int) + exp
      let eq := max top emin
      let (n, exact) := roundMul mode neg man exp (eq - (fb : Int))
      let code := (eq - emin).toNat * 2 ^ fb + n
      if f.maxCode < code then overflowed f neg mode sat
      else (f.signed neg code,
        Events.when (!exact) Events.inexact ||| Events.when (decide (code < 2 ^ fb)) Events.underflow)

/-- The exact value rounded to an integral value by the mode (R79, R121), as a signed integer, and whether it is exact. -/
def roundInt (mode : Mode) (neg : Bool) (man : Nat) (exp : Int) : Int × Bool :=
  let (n, exact) := roundMul mode neg man exp 0
  ((if neg then -(n : Int) else (n : Int)), exact)

/-- The bounds of an integer type of w bits. -/
def intBounds (signed : Bool) (w : Nat) : Int × Int :=
  if signed then (-(2 ^ (w - 1) : Nat), (2 ^ (w - 1) : Nat) - 1) else (0, (2 ^ w : Nat) - 1)

/-- `sat` of R71: the bound nearest to the value, and the saturation event when it clamps. -/
def satInt (signed : Bool) (w : Nat) (v : Int) : Int × Events :=
  let (lo, hi) := intBounds signed w
  if v < lo then (lo, Events.saturation) else if hi < v then (hi, Events.saturation) else (v, Events.none)

/-- An integer written into w bits (R71, R92): its residue modulo 2^w. -/
def wrapInt (w : Nat) (v : Int) : Nat := (v % (2 ^ w : Nat)).toNat

/-- Write an exact integer result by R92. -/
def writeInt (signed : Bool) (w : Nat) (sat : Bool) (v : Int) : Nat × Events :=
  if sat then let (x, e) := satInt signed w v; (wrapInt w x, e) else (wrapInt w v, Events.none)

/-- w bits read as an integer of the type (R92). -/
def readInt (signed : Bool) (w : Nat) (c : Nat) : Int :=
  let x := c % 2 ^ w
  if signed && x.testBit (w - 1) then (x : Int) - (2 ^ w : Nat) else (x : Int)

/-- A float value converted to an integer type (R79). -/
def floatToInt (signed : Bool) (w : Nat) (mode : Mode) : Num → Nat × Events
  | .nan => (0, Events.invalid)
  | .inf neg => let (lo, hi) := intBounds signed w; (wrapInt w (if neg then lo else hi), Events.saturation)
  | .fin neg man exp =>
    let (i, exact) := roundInt mode neg man exp
    let (x, e) := satInt signed w i
    (wrapInt w x, e ||| Events.when (!exact) Events.inexact)

/-- Floor square root, one binary digit at a time from digit `b - 1` down. -/
def isqrt (n : Nat) : Nat → Nat → Nat
  | 0, acc => acc
  | b + 1, acc => let t := acc + 2 ^ b; isqrt n b (if t * t ≤ n then t else acc)

/-- 1/x of a nonzero finite magnitude, kept to 80 bits with a sticky last bit: rounding it once rounds the quotient. -/
def rcpNum (neg : Bool) (man : Nat) (exp : Int) : Num :=
  let k := Nat.log2 man + 80
  let q := 2 ^ k / man
  .fin neg (2 * q + (if 2 ^ k % man = 0 then 0 else 1)) (-exp - (k : Int) - 1)

/-- √x of a positive finite value, kept to 60 bits with a sticky last bit. -/
def sqrtNum (man : Nat) (exp : Int) : Num :=
  let odd := exp % 2 != 0
  let m := if odd then 2 * man else man
  let e := if odd then exp - 1 else exp
  let m' := m * 2 ^ 120
  let r := isqrt m' 120 0
  .fin false (2 * r + (if r * r = m' then 0 else 1)) (e / 2 - 61)

/-- 1/√x of a positive finite value, kept to more than 60 bits with a sticky last bit. -/
def rsqrtNum (man : Nat) (exp : Int) : Num :=
  let odd := exp % 2 != 0
  let m := if odd then 2 * man else man
  let e := if odd then exp - 1 else exp
  let k := Nat.log2 m + 80
  let r := isqrt (2 ^ (2 * k) / m) (k + 1) 0
  .fin false (2 * r + (if r * r * m = 2 ^ (2 * k) then 0 else 1)) (-(e / 2) - (k : Int) - 1)

/-- The value of an element under an E8M0 scale code (R70, R75): 0xFF makes it NaN. -/
def scaled (scale : Nat) (v : Num) : Num :=
  if scale = 0xFF then .nan else v.scale ((scale : Int) - 127)

/-- floor(log2) of a nonzero magnitude. -/
def floorLog2 (man : Nat) (exp : Int) : Int := (Nat.log2 man : Int) + exp

/-- The greatest floor(log2 |x|) among the finite nonzero values. -/
def maxLog2 : List Num → Option Int → Option Int
  | [], r => r
  | .fin _ m e :: xs, r =>
    maxLog2 xs (if m = 0 then r else some (match r with | none => floorLog2 m e | some b => max b (floorLog2 m e)))
  | _ :: xs, r => maxLog2 xs r

/-- `block_scale` of R80: the E8M0 scale code of a block. -/
def blockScale (f : Fmt) (xs : List Num) : Nat :=
  match maxLog2 xs none with
  | none => 0x7F
  | some l => (min (max (l - f.emax) (-127)) 127 + 127).toNat

/-- The types of Table 2.8. -/
inductive Ty where
  | s8 | u8 | s32 | u32 | s64 | u64
  | fl (f : Fmt)
  deriving DecidableEq, Repr

/-- The type of a nonzero type code (Table 2.8); code 0 is the default. -/
def Ty.ofCode (dflt : Ty) (c : BitVec 4) : Ty :=
  match c.toNat with
  | 1 => .s8 | 2 => .u8 | 3 => .s32 | 4 => .u32 | 5 => .s64 | 6 => .u64
  | 7 => .fl .f64 | 8 => .fl .f32 | 9 => .fl .bf16 | 10 => .fl .f16 | 11 => .fl .e4m3 | 12 => .fl .e5m2
  | 13 => .fl .e2m1 | 14 => .fl .tf8 | 15 => .fl .tf6
  | _ => dflt

/-- Width in bits. -/
def Ty.width : Ty → Nat
  | .s8 => 8 | .u8 => 8 | .s32 => 32 | .u32 => 32 | .s64 => 64 | .u64 => 64
  | .fl f => f.width

/-- A signed integer type. -/
def Ty.signed : Ty → Bool
  | .s8 => true | .s32 => true | .s64 => true | _ => false

/-- A 64-bit type, which names register pairs (R54). -/
def Ty.wide (t : Ty) : Bool := t.width == 64

/-- An integer in the type: its wrapped bits, or the float's code (`one` and `laneid` of Table 2.7). -/
def Ty.ofNat (t : Ty) (n : Nat) : Nat :=
  match t with
  | .fl f => (roundTo f (.ofInt n) .rne false).1
  | _ => n % 2 ^ t.width

/-- The value of a code of the type as an exact number, and whether it is a signalling NaN. -/
def Ty.value (t : Ty) (c : Nat) : Num × Bool :=
  match t with
  | .fl f => f.decode (c % 2 ^ f.width)
  | _ => (.ofInt (readInt t.signed t.width c), false)

end Sys2Proof.Machine
end

