-- ==== Sys2Proof/Machine/Transcend.lean ====
section
/-!
DEFINITION. The bounds of the special functions (spec 05_group_float_lanes.md R126): the exact functions, computed to 640 bits behind
the binary point, and the test whether a FP32 result lies within a number of ulp, or within an absolute error, of the exact value.
The result itself is a free value within the bound (notes/assumptions/2.md).
-/
namespace Sys2Proof.Machine

/-! ### Fixed point -/

/-- The bits behind the binary point. -/
def fixBits : Nat := 640

/-- 1 in fixed point. -/
def fixOne : Nat := 2 ^ fixBits

/-- A magnitude man × 2^exp in fixed point; exact when no bit lies below. -/
def toFix (man : Nat) (exp : Int) : Nat :=
  if 0 ≤ exp + fixBits then man * 2 ^ (exp + fixBits).toNat else man / 2 ^ (-(exp + fixBits)).toNat

/-- A fixed-point value as an exact number. -/
def ofFix (x : Int) : Num := .fin (decide (x < 0)) x.natAbs (-(fixBits : Int))

/-- ln 2 in fixed point. -/
def fixLn2 : Nat :=
  0xb17217f7d1cf79abc9e3b39803f2f6af40f343267298b62d8a0d175b8baafa2be7b876206debac98559552fb4afa1b10ed2eae35c138214427573b291169b8253e96ca16224ae8c51acbda11317c387e

/-- π/2 in fixed point. -/
def fixHalfPi : Nat :=
  0x1921fb54442d18469898cc51701b839a252049c1114cf98e804177d4c76273644a29410f31c6809bbdf2a33679a748636605614dbe4be286e9fc26adadaa3848bc90b6aecc4bcfd8de89885d34c6fdad6

/-- Sum a series: from the first term, each term from the one before it. -/
def fixSeries (next : Nat → Int → Int) (first : Int) (terms : Nat) : Int :=
  ((List.range terms).foldl (fun (p : Int × Int) k => let t := next k p.2; (p.1 + t, t)) (first, first)).1

/-- e^y for 0 ≤ y < 1. -/
def fixExp (y : Nat) : Nat :=
  (fixSeries (fun k t => t * y / ((k + 1) * fixOne : Nat)) fixOne 150).toNat

/-- sin r for 0 ≤ r < π/2. -/
def fixSinOf (r : Nat) : Int :=
  fixSeries (fun k t => -(t * (r * r : Nat)) / ((2 * k + 2) * (2 * k + 3) * (fixOne * fixOne) : Nat)) r 90

/-- cos r for 0 ≤ r < π/2. -/
def fixCosOf (r : Nat) : Int :=
  fixSeries (fun k t => -(t * (r * r : Nat)) / ((2 * k + 1) * (2 * k + 2) * (fixOne * fixOne) : Nat)) fixOne 90

/-- The sine, a quarter turn ahead for the cosine, of a magnitude. -/
def fixTurn (man : Nat) (exp : Int) (quarter : Nat) : Int :=
  let x := toFix man exp
  let r := x % fixHalfPi
  match (x / fixHalfPi + quarter) % 4 with
  | 0 => fixSinOf r
  | 1 => fixCosOf r
  | 2 => -fixSinOf r
  | _ => -fixCosOf r

/-- e^(-y). -/
def fixExpNeg (y : Nat) : Nat := fixExp (y % fixLn2) |> fun d => fixOne * fixOne / d / 2 ^ (y / fixLn2)

/-! ### The exact values -/

/-- 2^x; what lies below 2^-512 is as close to 0 for every bound. -/
def exactExp2 (neg : Bool) (man : Nat) (exp : Int) : Num :=
  let m := min (toFix man exp) (512 * fixOne)
  let x : Int := if neg then -(m : Int) else m
  .fin false (fixExp ((x % fixOne).toNat * fixLn2 / fixOne)) (x / fixOne - fixBits)

/-- log2 x for x > 0: log2 of man from the series of artanh. -/
def exactLog2 (man : Nat) (exp : Int) : Num :=
  let k := Nat.log2 man
  let t := (man - 2 ^ k) * fixOne / (man + 2 ^ k)
  let odd := (List.range 220).foldl (fun (p : Nat × Nat) j =>
    (p.1 + p.2 / (2 * j + 1), p.2 * t / fixOne * t / fixOne)) (0, t)
  ofFix ((2 * odd.1 * fixOne / fixLn2 : Nat) + ((k : Int) + exp) * fixOne)

/-- sin x. -/
def exactSin (neg : Bool) (man : Nat) (exp : Int) : Num :=
  ofFix (if neg then -fixTurn man exp 0 else fixTurn man exp 0)

/-- cos x. -/
def exactCos (man : Nat) (exp : Int) : Num := ofFix (fixTurn man exp 1)

/-- tanh x; beyond 2^9 it lies closer to ±1 than the fixed point can say. -/
def exactTanh (neg : Bool) (man : Nat) (exp : Int) : Num :=
  let u := if cmpMag man exp 512 0 == .gt then 1 else fixExpNeg (toFix man (exp + 1))
  let v := (fixOne - u) * fixOne / (fixOne + u)
  ofFix (if neg then -(v : Int) else v)

/-! ### The bounds -/

/-- The exponent of the FP32 ulp at a value: the step of the FP32 numbers around it. -/
def ulpExp : Num → Int
  | .fin _ man exp => if man = 0 then -149 else max (-149) (floorLog2 man exp - 23)
  | _ => -149

/-- Does a FP32 code lie within n × 2^q of a value? -/
def within (n : Nat) (q : Int) (x : Num) (c : Nat) : Bool :=
  match (Fmt.f32.decode c).1 with
  | .fin neg man exp =>
    (match (exactSum [.fin neg man exp, x.neg]).1 with
      | .fin _ m e => cmpMag m e n q != .gt
      | _ => false)
  | _ => false

/-- The bound of a special function at a finite operand (R126): 1 ulp for 2^x and log2 x, 2 ulp for the others; an absolute error of
2^-22 for the sine and the cosine beyond 2^20. -/
def boundOf (fn : Config.Special) (man : Nat) (exp : Int) (x : Num) : Nat × Int :=
  match fn with
  | .exp2 | .log2 => (1, ulpExp x)
  | .tanh => (2, ulpExp x)
  | .sin | .cos => if cmpMag man exp 1 20 == .gt then (1, -22) else (2, ulpExp x)

/-- The exact value of a special function at a finite operand. -/
def exactSpecial (fn : Config.Special) (neg : Bool) (man : Nat) (exp : Int) : Num :=
  match fn with
  | .exp2 => exactExp2 neg man exp
  | .log2 => exactLog2 man exp
  | .sin => exactSin neg man exp
  | .cos => exactCos man exp
  | .tanh => exactTanh neg man exp

end Sys2Proof.Machine
end

