-- ==== Sys2Proof/Syntax.lean ====
section
/-!
DEFINITION. The instructions and events of the SKV-OQ8: one constructor of `Instr` for each row of
spec/opcode_table.json. Fields of an encoded frame stay the bit fields of Tables 2.2 to 2.5 and 2.9a
(spec 02_encoding.md), because a frame with an ill-formed field is issued and raises a cause (R43, R54, R59):
the machine, not the decoder, answers for it.
-/
namespace Sys2Proof

/-- The F frame's fields below the opcode (Table 2.2). -/
structure FFrame where
  guard   : BitVec 6
  dst     : BitVec 8
  srcA    : BitVec 8
  srcB    : BitVec 8
  srcC    : BitVec 8
  ty      : BitVec 4
  variant : BitVec 6
  flags   : BitVec 4
  deriving DecidableEq, Repr

/-- The F frame of a control instruction (Table 2.9a): guard, dst, and bits [37:0]. -/
structure CFrame where
  guard : BitVec 6
  dst   : BitVec 8
  body  : BitVec 38
  deriving DecidableEq, Repr

/-- The W frame (Tables 2.2 and 2.5): the F layout of word 0 and the fields of word 1. -/
structure WFrame where
  f      : FFrame
  srcD   : BitVec 8
  srcE   : BitVec 8
  srcF   : BitVec 8
  wflags : BitVec 8
  imm    : BitVec 32
  deriving DecidableEq, Repr

/-- The L frame (Table 2.3). `op` is the L code: F opcode minus 0x040. -/
structure LFrame where
  op    : BitVec 8
  guard : BitVec 6
  dst   : BitVec 8
  srcA  : BitVec 8
  lit   : BitVec 32
  deriving DecidableEq, Repr

/-- One half of a P frame (Table 2.4). `op` is the P code: F opcode minus 0x080. -/
structure PHalf where
  op    : BitVec 7
  guard : BitVec 4
  ty    : BitVec 4
  dst   : BitVec 8
  srcB  : BitVec 8
  deriving DecidableEq, Repr

/-- An engine with command queues of its own: a copy engine of a core (R242), the page-selection engine of a
cluster (R321), the fabric egress engine of a die (R447). Cores are numbered 64d + 8c + k, clusters 8d + c. -/
inductive EngineId where
  | copy (core unit : Nat)
  | psel (cluster : Nat)
  | egress (die : Nat)
  deriving DecidableEq, Repr

/-- The packet kinds of Table 21.2 that carry a request to an exporting part. -/
inductive FabOp where
  | read | write | maskedWrite | atomic
  deriving DecidableEq, Repr

/-- A fabric request packet (Table 21.2): `bytes` lists the offsets written, with their values, or the offsets read
(value ignored); `cmp` is the compare value of a compare-and-swap. -/
structure FabReq where
  src   : BitVec 12
  op    : FabOp
  seq   : BitVec 32
  off   : BitVec 43
  len   : Nat
  aop   : BitVec 4
  ty    : BitVec 4
  cas   : Bool
  cmp   : BitVec 64
  bytes : List (Nat × Byte)
  deriving DecidableEq, Repr

/-- What a destination answers to a request of this part: data, or a refusal, or wait (R434, R444). -/
inductive FabAnswer where
  | data (bytes : List Byte)
  | refused
  | wait
  deriving DecidableEq, Repr

/-- A PCIe AtomicOp (R411). -/
inductive HostAtomicOp where
  | fetchAdd | swap | cas
  deriving DecidableEq, Repr

/-- The storage structures of Table 17.6. -/
inductive EccSite where
  | coreState | l1Line | tlbEntry | walkCache | victimTag | l2Clean | l2Dirty | dram | engineBuffer
  deriving DecidableEq, Repr

/-- What a die's boot authentication and the flash images give at reset (R418, R419): inputs of the boot. -/
structure BootInputs where
  imageA   : Bool
  imageB   : Bool
  trained  : Bool
  diesAuth : BitVec 8
  deriving DecidableEq, Repr

/-- The instructions and events: one constructor per row of spec/opcode_table.json. The events that
only the outside world starts stand last: the compiled code of the model never builds one (Lean's runtime numbers at most
245 constructors that carry data). -/
inductive Instr where
  /-- NOP (R93). -/
  | nop (c : CFrame)
  /-- BRA (R94). -/
  | bra (c : CFrame)
  /-- BRZ (R94). -/
  | brz (c : CFrame)
  /-- BRNZ (R94). -/
  | brnz (c : CFrame)
  /-- BRX (R94). -/
  | brx (c : CFrame)
  /-- BRD (R96). -/
  | brd (c : CFrame)
  /-- JOIN (R97). -/
  | join (c : CFrame)
  /-- BRQ (R95). -/
  | brq (c : CFrame)
  /-- CALL (R100). -/
  | call (c : CFrame)
  /-- CALLX (R100). -/
  | callx (c : CFrame)
  /-- RET (R101). -/
  | ret (c : CFrame)
  /-- EXIT (R102). -/
  | exit (c : CFrame)
  /-- YIELD (R104). -/
  | yield (c : CFrame)
  /-- SLEEP (R103). -/
  | sleep (c : CFrame)
  /-- TRAP (R105). -/
  | trap (c : CFrame)
  /-- BKPT (R105). -/
  | bkpt (c : CFrame)
  /-- ERET (R142). -/
  | eret (c : CFrame)
  /-- SADD (R108). -/
  | sadd (f : FFrame)
  /-- SSUB (R108). -/
  | ssub (f : FFrame)
  /-- SMUL (R108). -/
  | smul (f : FFrame)
  /-- SMULH (R108). -/
  | smulh (f : FFrame)
  /-- SAND (R108). -/
  | sand (f : FFrame)
  /-- SOR (R108). -/
  | sor (f : FFrame)
  /-- SXOR (R108). -/
  | sxor (f : FFrame)
  /-- SNOT (R108). -/
  | snot (f : FFrame)
  /-- SSHL (R108). -/
  | sshl (f : FFrame)
  /-- SSHR (R108). -/
  | sshr (f : FFrame)
  /-- SSRA (R108). -/
  | ssra (f : FFrame)
  /-- SMIN (R108). -/
  | smin (f : FFrame)
  /-- SMAX (R108). -/
  | smax (f : FFrame)
  /-- SMOV (R108). -/
  | smov (f : FFrame)
  /-- SLI (R108). -/
  | sli (f : FFrame)
  /-- SCMP (R109). -/
  | scmp (f : FFrame)
  /-- SSEL (R108). -/
  | ssel (f : FFrame)
  /-- SCLZ (R108). -/
  | sclz (f : FFrame)
  /-- SPOPC (R108). -/
  | spopc (f : FFrame)
  /-- SBFX (R108). -/
  | sbfx (f : FFrame)
  /-- SBFI (R108). -/
  | sbfi (f : FFrame)
  /-- VADD (R111). -/
  | vadd (f : FFrame)
  /-- VSUB (R111). -/
  | vsub (f : FFrame)
  /-- VMUL (R111). -/
  | vmul (f : FFrame)
  /-- VMULH (R111). -/
  | vmulh (f : FFrame)
  /-- VMAD (R111). -/
  | vmad (f : FFrame)
  /-- VAND (R111). -/
  | vand (f : FFrame)
  /-- VOR (R111). -/
  | vor (f : FFrame)
  /-- VXOR (R111). -/
  | vxor (f : FFrame)
  /-- VNOT (R111). -/
  | vnot (f : FFrame)
  /-- VSHL (R111). -/
  | vshl (f : FFrame)
  /-- VSHR (R111). -/
  | vshr (f : FFrame)
  /-- VSRA (R111). -/
  | vsra (f : FFrame)
  /-- VMIN (R111). -/
  | vmin (f : FFrame)
  /-- VMAX (R111). -/
  | vmax (f : FFrame)
  /-- VABS (R111). -/
  | vabs (f : FFrame)
  /-- VNEG (R111). -/
  | vneg (f : FFrame)
  /-- VCLZ (R111). -/
  | vclz (f : FFrame)
  /-- VPOPC (R111). -/
  | vpopc (f : FFrame)
  /-- VBFX (R111). -/
  | vbfx (f : FFrame)
  /-- VBFI (R111). -/
  | vbfi (f : FFrame)
  /-- VBREV (R111). -/
  | vbrev (f : FFrame)
  /-- VSEL (R112). -/
  | vsel (f : FFrame)
  /-- VMOV (R111). -/
  | vmov (f : FFrame)
  /-- VLI (R113). -/
  | vli (f : FFrame)
  /-- VADDC (R114). -/
  | vaddc (f : FFrame)
  /-- VSUBB (R114). -/
  | vsubb (f : FFrame)
  /-- VCMP (R109). -/
  | vcmp (f : FFrame)
  /-- VIDOT4 (R115). -/
  | vidot4 (f : FFrame)
  /-- VFADD (R121). -/
  | vfadd (f : FFrame)
  /-- VFSUB (R121). -/
  | vfsub (f : FFrame)
  /-- VFMUL (R121). -/
  | vfmul (f : FFrame)
  /-- VFMA (R121). -/
  | vfma (f : FFrame)
  /-- VFMIN (R122). -/
  | vfmin (f : FFrame)
  /-- VFMAX (R122). -/
  | vfmax (f : FFrame)
  /-- VFABS (R121). -/
  | vfabs (f : FFrame)
  /-- VFNEG (R121). -/
  | vfneg (f : FFrame)
  /-- VFCMP (R123). -/
  | vfcmp (f : FFrame)
  /-- VFCLASS (R124). -/
  | vfclass (f : FFrame)
  /-- VFROUND (R121). -/
  | vfround (f : FFrame)
  /-- VFDOT2 (R125). -/
  | vfdot2 (f : FFrame)
  /-- VFSCALE (R121). -/
  | vfscale (f : FFrame)
  /-- VRCP (R126). -/
  | vrcp (f : FFrame)
  /-- VRSQ (R126). -/
  | vrsq (f : FFrame)
  /-- VSQRT (R126). -/
  | vsqrt (f : FFrame)
  /-- VEXP2 (R126). -/
  | vexp2 (f : FFrame)
  /-- VLOG2 (R126). -/
  | vlog2 (f : FFrame)
  /-- VSIN (R126). -/
  | vsin (f : FFrame)
  /-- VCOS (R126). -/
  | vcos (f : FFrame)
  /-- VTANH (R126). -/
  | vtanh (f : FFrame)
  /-- VCVT (R128). -/
  | vcvt (f : FFrame)
  /-- VCVTB (R129). -/
  | vcvtb (f : FFrame)
  /-- VPACK (R130). -/
  | vpack (f : FFrame)
  /-- VUNPACK (R130). -/
  | vunpack (f : FFrame)
  /-- PAND (R117). -/
  | pand (f : FFrame)
  /-- POR (R117). -/
  | por (f : FFrame)
  /-- PXOR (R117). -/
  | pxor (f : FFrame)
  /-- PNOT (R117). -/
  | pnot (f : FFrame)
  /-- PMOV (R117). -/
  | pmov (f : FFrame)
  /-- PFROM (R117). -/
  | pfrom (f : FFrame)
  /-- PTO (R117). -/
  | pto (f : FFrame)
  /-- PANY (R117). -/
  | pany (f : FFrame)
  /-- PALL (R117). -/
  | pall (f : FFrame)
  /-- SHFL (R132). -/
  | shfl (f : FFrame)
  /-- VOTE (R134). -/
  | vote (f : FFrame)
  /-- MATCH (R135). -/
  | matchLanes (f : FFrame)
  /-- VRED (R136). -/
  | vred (f : FFrame)
  /-- VSCAN (R136). -/
  | vscan (f : FFrame)
  /-- BCAST (R133). -/
  | bcast (f : FFrame)
  /-- VCOMP (R133). -/
  | vcomp (f : FFrame)
  /-- GFENCE (R137). -/
  | gfence (f : FFrame)
  /-- QCNT (R138). -/
  | qcnt (f : FFrame)
  /-- QROOM (R138). -/
  | qroom (f : FFrame)
  /-- QDRAIN (R138). -/
  | qdrain (f : FFrame)
  /-- LDS (R173). -/
  | lds (f : FFrame)
  /-- STS (R173). -/
  | sts (f : FFrame)
  /-- LD (R173). -/
  | ld (f : FFrame)
  /-- ST (R173). -/
  | st (f : FFrame)
  /-- LDL (R173). -/
  | ldl (f : FFrame)
  /-- STL (R173). -/
  | stl (f : FFrame)
  /-- LDQ (R30). -/
  | ldq (f : FFrame)
  /-- STC (R177). -/
  | stc (f : FFrame)
  /-- LDX (R178). -/
  | ldx (f : FFrame)
  /-- PREF (R179). -/
  | pref (f : FFrame)
  /-- CCTL (R179). -/
  | cctl (f : FFrame)
  /-- ATOM (R182). -/
  | atom (f : FFrame)
  /-- RED (R182). -/
  | red (f : FFrame)
  /-- CAS (R182). -/
  | cas (f : FFrame)
  /-- FENCE (R185). -/
  | fence (f : FFrame)
  /-- FENCEX (R186). -/
  | fencex (f : FFrame)
  /-- WAITCNT (R187). -/
  | waitcnt (f : FFrame)
  /-- TLOOK (R188). -/
  | tlook (f : FFrame)
  /-- TSET (R188). -/
  | tset (f : FFrame)
  /-- TCLR (R188). -/
  | tclr (f : FFrame)
  /-- BINIT (R191). -/
  | binit (f : FFrame)
  /-- BARR (R192). -/
  | barr (f : FFrame)
  /-- BARRX (R192). -/
  | barrx (f : FFrame)
  /-- BWAIT (R194). -/
  | bwait (f : FFrame)
  /-- BTEST (R195). -/
  | btest (f : FFrame)
  /-- BWATCH (R196). -/
  | bwatch (f : FFrame)
  /-- GDEF (R206). -/
  | gdef (w : WFrame)
  /-- GLD (R206). -/
  | gld (w : WFrame)
  /-- GST (R206). -/
  | gst (w : WFrame)
  /-- GMOV (R206). -/
  | gmov (w : WFrame)
  /-- GCHAIN (R207). -/
  | gchain (w : WFrame)
  /-- GPART (R209). -/
  | gpart (w : WFrame)
  /-- GTRAN (R208). -/
  | gtran (w : WFrame)
  /-- GFLAT (R211). -/
  | gflat (w : WFrame)
  /-- GSLICE (R209). -/
  | gslice (w : WFrame)
  /-- GSWZ (R210). -/
  | gswz (w : WFrame)
  /-- GCHK (R219). -/
  | gchk (w : WFrame)
  /-- GBANK (R220). -/
  | gbank (w : WFrame)
  /-- MMA (R224). -/
  | mma (w : WFrame)
  /-- MMAD (R227). -/
  | mmad (w : WFrame)
  /-- MMSP (R228). -/
  | mmsp (w : WFrame)
  /-- FBSET (R232). -/
  | fbset (w : WFrame)
  /-- ACZERO (R235). -/
  | aczero (w : WFrame)
  /-- ACLD (R236). -/
  | acld (w : WFrame)
  /-- ACST (R236). -/
  | acst (w : WFrame)
  /-- ACRD (R235). -/
  | acrd (w : WFrame)
  /-- ACWR (R235). -/
  | acwr (w : WFrame)
  /-- ACMAX (R237). -/
  | acmax (w : WFrame)
  /-- CPY (R254). -/
  | cpy (w : WFrame)
  /-- CPYG (R255). -/
  | cpyg (w : WFrame)
  /-- CPYS (R256). -/
  | cpys (w : WFrame)
  /-- CPYZ (R257). -/
  | cpyz (w : WFrame)
  /-- CPYM (R261). -/
  | cpym (w : WFrame)
  /-- PSEL (R321). -/
  | psel (w : WFrame)
  /-- CPYR (R448). -/
  | cpyr (w : WFrame)
  /-- STREP (R448). -/
  | strep (w : WFrame)
  /-- FCOLL (R451). -/
  | fcoll (w : WFrame)
  /-- SPAWN (R290). -/
  | spawn (w : WFrame)
  /-- SPAWNJ (R291). -/
  | spawnj (w : WFrame)
  /-- JDEC (R292). -/
  | jdec (f : FFrame)
  /-- LAUNCH (R294). -/
  | launch (w : WFrame)
  /-- TGET (R359). -/
  | tget (f : FFrame)
  /-- EGET (R365). -/
  | eget (f : FFrame)
  /-- EPOST (R365). -/
  | epost (f : FFrame)
  /-- SRD (R17). -/
  | srd (f : FFrame)
  /-- SWR (R17). -/
  | swr (f : FFrame)
  /-- TLBI (R311). -/
  | tlbi (f : FFrame)
  /-- TRACE (R400). -/
  | trace (f : FFrame)
  /-- TMARK (R395). -/
  | tmark (f : FFrame)
  /-- PERF (R404). -/
  | perf (f : FFrame)
  /-- LITERAL_FRAME (R45). -/
  | literalFrame (l : LFrame)
  /-- PAIR_FRAME (R48). -/
  | pairFrame (h0 h1 : PHalf)
  /-- HALT_ARRIVAL (R165). -/
  | haltArrival (wg core sub : Nat)
  /-- IDLE_CYCLE (R401). -/
  | idleCycle (core sub : Nat)
  /-- YIELD_WINDOW_END (R104). -/
  | yieldWindowEnd (grp : Nat) (a : Bool)
  /-- SLEEP_WAKE (R103). -/
  | sleepWake (grp : Nat) (a : Bool)
  /-- BWAIT_PROM_WAKE (R194). -/
  | bwaitPromWake (grp : Nat) (a : Bool)
  /-- BWAIT_COMPLETE (R194). -/
  | bwaitComplete (grp : Nat) (a : Bool) (slot1 : Bool)
  /-- THROTTLE_DECAY (R150). -/
  | throttleDecay (core : Nat)
  /-- THROTTLE_WINDOW (R150). -/
  | throttleWindow (core : Nat)
  /-- BANK_SERVE (R156). -/
  | bankServe (core bank : Nat)
  /-- LOAD_RESPONSE (R163). -/
  | loadResponse (core id : Nat)
  /-- STORE_PERFORMED (R164). -/
  | storePerformed (core id : Nat)
  /-- ATOMIC_RESPONSE (R183). -/
  | atomicResponse (core id : Nat)
  /-- MATRIX_PASS_START (R226). -/
  | matrixPassStart (core sub : Nat)
  /-- MATRIX_PASS_COMPLETE (R224). -/
  | matrixPassComplete (core sub : Nat)
  /-- COMMAND_START (R250). -/
  | commandStart (e : EngineId)
  /-- ENGINE_BYTE_SUBTRACT (R251). -/
  | engineByteSubtract (e : EngineId) (elems : Nat)
  /-- COMMAND_COMPLETE (R252). -/
  | commandComplete (e : EngineId)
  /-- TILE_TASK_REPLAY (R265). -/
  | tileTaskReplay (e : EngineId)
  /-- PSEL_COMPLETE (R323). -/
  | pselComplete (cluster : Nat)
  /-- WATCH_READ (R196). -/
  | watchRead (index : Nat)
  /-- PAIR_MESSAGE_ARRIVE (R318). -/
  | pairMessageArrive (index : Nat)
  /-- BUDDY_REQUEST_ARRIVE (R316). -/
  | buddyRequestArrive (core id : Nat)
  /-- PAGE_WALK (R307). -/
  | pageWalk (die : Nat)
  /-- ITEM_QUEUE_ENTER (R286). -/
  | itemQueueEnter (cluster : Nat)
  /-- COUPLER_CYCLE (R295). -/
  | couplerCycle (cluster : Nat)
  /-- COUPLER_IDLE_TIMEOUT (R295). -/
  | couplerIdleTimeout (cluster : Nat)
  /-- CLUSTER_ADMIT (R284). -/
  | clusterAdmit (cluster : Nat)
  /-- GROUP_RETIRE (R36). -/
  | groupRetire (grp : Nat)
  /-- SWAP_OUT (R297). -/
  | swapOut (wg : Nat)
  /-- CONTEXT_SAVE (R380). -/
  | contextSave (wg : Nat)
  /-- FAULT_RECORD_DEFERRED (R375). -/
  | faultRecordDeferred (region : Nat)
  /-- PAGE_PRESENT_RESUME (R377). -/
  | pagePresentResume (ctx : Nat)
  /-- RESTORE (R384). -/
  | restore (cluster : Nat)
  /-- WATCHDOG_EXPIRY (R386). -/
  | watchdogExpiry (wg : Nat)
  /-- SAVE_BUDGET_EXPIRY (R387). -/
  | saveBudgetExpiry (wg : Nat)
  /-- POISON_READ (R391). -/
  | poisonRead (e : EngineId)
  /-- DISTRIBUTOR_STEP (R368). -/
  | distributorStep
  /-- LAUNCH_READ (R367). -/
  | launchRead (region : Nat)
  /-- LAUNCH_COMPLETE (R371). -/
  | launchComplete (launch : Nat)
  /-- ENERGY_WINDOW_START (R363). -/
  | energyWindowStart (region : Nat)
  /-- REGION_ACTIVATE (R360). -/
  | regionActivate (region : Nat)
  /-- REGION_DEACTIVATE (R360). -/
  | regionDeactivate (region : Nat)
  /-- CIRCUIT_READY (R351). -/
  | circuitReady
  /-- FAULT_RESUME (R377). -/
  | faultResume (region index : Nat)
  /-- FAULT_DOMAIN_RESET (R388). -/
  | faultDomainReset (region index : Nat)
  /-- PREEMPT_STOP (R378). -/
  | preemptStop (region : Nat)
  /-- PREEMPT_RESUME (R378). -/
  | preemptResume (region : Nat)
  /-- STEP_END (R408). -/
  | stepEnd (wg : Nat)
  /-- HOST_REQUEST_TIMEOUT (R413). -/
  | hostRequestTimeout (port1 : Bool)
  /-- PORT_FAILURE (R417). -/
  | portFailure (port1 : Bool)
  /-- ATTEST_COMPLETE (R420). -/
  | attestComplete
  /-- PACKAGE_RESET (R418). -/
  | packageReset
  /-- EXPORT_WAIT (R434). -/
  | exportWait (index : Nat)
  /-- FABRIC_RETRANSMIT (R444). -/
  | fabricRetransmit (id : Nat)
  /-- RESERVED_OPCODE (R57). -/
  | reservedOpcode (word : BitVec 64)
  /-- FABRIC_REQUEST_ARRIVE (R434). -/
  | fabricRequestArrive (req : FabReq)
  /-- FABRIC_RESPONSE (R438). -/
  | fabricResponse (id : Nat) (answer : FabAnswer)
  /-- FABRIC_REFUSAL (R435). -/
  | fabricRefusal (core id : Nat)
  /-- COLL_LINE_RESEND (R454). -/
  | collLineResend (die plane : Nat)
  /-- POWER_MEASURE (R364). -/
  | powerMeasure (ends : Nat)
  /-- DROOP_STRETCH (R313). -/
  | droopStretch (die : Nat)
  /-- ECC_ERROR (R389). -/
  | eccError (site : EccSite) (index addr : Nat) (correctable : Bool)
  /-- DIE_FAIL (R392). -/
  | dieFail (die : Nat)
  /-- WAVELENGTH_FAIL (R390). -/
  | wavelengthFail (entry : Nat)
  /-- ENERGY_CHARGE (R363). -/
  | energyCharge (wg region quanta : Nat)
  /-- CTAB_WRITE (R351). -/
  | ctabWrite (entry : Nat) (value : BitVec 64)
  /-- DEBUG_ATTACH (R405). -/
  | debugAttach (region : Nat)
  /-- DEBUG_DETACH (R406). -/
  | debugDetach (region : Nat)
  /-- DEBUG_STOP (R406). -/
  | debugStop (region : Nat)
  /-- DEBUG_HOLD (R409). -/
  | debugHold (region : Nat)
  /-- DEBUG_RELEASE (R409). -/
  | debugRelease (region : Nat)
  /-- DEBUG_STEP (R408). -/
  | debugStep (region index : Nat)
  /-- PUSH_WINDOW_WRITE (R412). -/
  | pushWindowWrite (port1 : Bool) (region : Nat) (image : BitVec 1024)
  /-- HOST_READ (R414, R411): of BAR 2, or of BAR 0. -/
  | hostRead (port1 bar0 : Bool) (offset size : Nat)
  /-- HOST_WRITE (R414). -/
  | hostWrite (port1 : Bool) (offset : Nat) (data : List Byte)
  /-- HOST_ATOMIC (R411). -/
  | hostAtomic (port1 : Bool) (op : HostAtomicOp) (offset size : Nat) (value cmp : BitVec 64)
  /-- HEARTBEAT_WRITE (R415). -/
  | heartbeatWrite (port1 : Bool)
  /-- ATTEST_GO (R420). -/
  | attestGo (port1 : Bool)
  /-- FIRMWARE_IMAGE_UPLOAD (R420). -/
  | firmwareImageUpload (verifies : Bool)
  /-- REGISTER_WRITE (R349). -/
  | registerWrite (port1 : Bool) (offset : Nat) (value : BitVec 64)
  /-- FLIT_REPLAY (R440). -/
  | flitReplay (port : Nat)
  /-- CENSUS_FLIT (R442). -/
  | censusFlit (port vc : Nat) (count : BitVec 16)
  /-- LINK_RETRAIN (R443). -/
  | linkRetrain (port rounds lanes : Nat) (agreed : Bool)
  /-- PORT_ENABLE (R443). -/
  | portEnable (port : Nat) (lport : BitVec 16) (offset : BitVec 64)
  /-- SYNC_FLIT (R455). -/
  | syncFlit (slew : Int)
  /-- CORRELATION_PACKET (R440). -/
  | correlationPacket (first : Bool) (corr : BitVec 32) (engine : BitVec 16) (queue : BitVec 2) (seq : BitVec 32) (kind : BitVec 8) (payload : BitVec 64)
  /-- COLL_RESULT_ARRIVE (R452): the contributions to a line that the switches combine, by leaf in the spine's order and by
  member in the leaf's. -/
  | collResultArrive (die line : Nat) (leaves : List (List (List Byte))) (mismatch : Bool)
  /-- HOST_LINK_DOWN (R413). -/
  | hostLinkDown (port1 : Bool)
  /-- HOST_LINK_UP (R416). -/
  | hostLinkUp (port1 : Bool)
  deriving DecidableEq, Repr

end Sys2Proof
end

