-- ==== Sys2Proof/Machine/Checks.lean ====
section
/-!
DEFINITION. The static conditions of a frame (spec 02_encoding.md R43, R47 to R56; the field tables of the instruction
chapters): which register codes, types, variant and flag bits each instruction accepts. A frame that breaks one raises
0x02 (0x03 or 0x06 in a pair frame); the conditions that depend on the machine's state are in Operands.lean.
-/
namespace Sys2Proof
open Machine

/-- The operand classes of Table 2.7. -/
inductive RC where
  | v | s | q | p | g | a | fb | zero | one | laneid | ones | reserved
  deriving DecidableEq, Repr

/-- The class of a register code (Table 2.7). -/
def RC.of (code : BitVec 8) : RC :=
  let c := code.toNat
  if c < 0x80 then .v else if c < 0xA0 then .s else if c < 0xB0 then .q else if c < 0xC0 then .p
  else if c < 0xE0 then .g else if c < 0xF0 then .a else if c < 0xF8 then .fb
  else match c with
    | 0xF8 => .zero | 0xF9 => .one | 0xFA => .laneid | 0xFB => .ones | _ => .reserved

/-- The number of the named register within its class. -/
def regNo (code : BitVec 8) : Nat :=
  let c := code.toNat
  if c < 0x80 then c else if c < 0xA0 then c - 0x80 else if c < 0xB0 then c - 0xA0 else if c < 0xC0 then c - 0xB0
  else if c < 0xE0 then c - 0xC0 else if c < 0xF0 then c - 0xE0 else c - 0xF0

/-- Which kind of queue a position takes (R25): either, a vector queue, a scalar queue. -/
inductive QKind where
  | any | vec | scalar
  deriving DecidableEq, Repr

/-- An operand position: the classes it accepts (none: the field is unused and must be zero), whether its bits are raw,
whether a vector register names an even/odd pair, and how many consecutive vector registers it covers. -/
structure Pos where
  accepts : List RC
  raw     : Bool := false
  pair    : Bool := false
  kind    : QKind := .any
  regs    : Nat := 1
  deriving DecidableEq, Repr

/-- The field is unused: it must be zero (R43). -/
def Pos.unused : Pos := { accepts := [] }
/-- The field is read as bits (R17, R56). -/
def Pos.bits : Pos := { accepts := [], raw := true }
/-- A vector source of R110 and R120: v registers, vector queues, s registers and the four constants. -/
def Pos.vsrc (pair : Bool) : Pos :=
  { accepts := [.v, .q, .s, .zero, .one, .laneid, .ones], pair, kind := .vec, regs := if pair then 2 else 1 }
/-- A v register or a vector queue. -/
def Pos.vq (pair : Bool) : Pos := { accepts := [.v, .q], pair, kind := .vec, regs := if pair then 2 else 1 }
/-- A v register alone. -/
def Pos.vreg (pair : Bool) : Pos := { accepts := [.v], pair, regs := if pair then 2 else 1 }
/-- A scalar source of R107. -/
def Pos.ssrc : Pos := { accepts := [.s, .q, .zero, .one, .ones], kind := .scalar }
/-- A scalar destination: an s register or a scalar queue. -/
def Pos.sdst : Pos := { accepts := [.s, .q], kind := .scalar }
/-- An s register alone. -/
def Pos.sreg : Pos := { accepts := [.s] }
/-- An s register or a constant that a scalar position takes. -/
def Pos.sconst : Pos := { accepts := [.s, .zero, .one, .ones] }
/-- A predicate register. -/
def Pos.pred : Pos := { accepts := [.p] }
/-- A predicate source of R117. -/
def Pos.psrc : Pos := { accepts := [.p, .zero, .ones] }
/-- A geometry register. -/
def Pos.geom : Pos := { accepts := [.g] }
/-- The constant zero alone. -/
def Pos.zeroc : Pos := { accepts := [.zero] }

/-- Does a field hold a code its position accepts (R43, R54)? -/
def Pos.ok (p : Pos) (code : BitVec 8) : Bool :=
  p.raw || (match p.accepts with
    | [] => code == 0
    | l => l.contains (RC.of code) && !(p.pair && RC.of code == .v && code.toNat % 2 == 1))

/-- What an F frame of one instruction accepts: positions, type codes (`[0]` where there is no type), the variant, the
flag bits assigned, and whether a guard may stand. -/
structure FSpec where
  dst : Pos := .unused
  a   : Pos := .unused
  b   : Pos := .unused
  c   : Pos := .unused
  tys : List Nat := [0]
  variantOk : Bool := false
  flags : Nat := 0
  guardable : Bool := true
  deriving DecidableEq, Repr

/-- A further condition on a frame: when it fails, no type code is accepted. -/
def FSpec.also (sp : FSpec) (ok : Bool) : FSpec := if ok then sp else { sp with tys := [] }

/-- The guard field (R53): with enable clear the other bits are zero. -/
def guardOk (g : BitVec 6) : Bool := g.getLsbD 5 || g == 0

/-- The static conditions of an F frame, or of an L frame when `lit` (srcB is then the literal): R43, R45, R53 to R55. -/
def FFrame.ok (f : FFrame) (sp : FSpec) (lit : Bool) : Bool :=
  guardOk f.guard && (sp.guardable || !f.guard.getLsbD 5) &&
  sp.dst.ok f.dst && sp.a.ok f.srcA && (lit || sp.b.ok f.srcB) && sp.c.ok f.srcC &&
  sp.tys.contains f.ty.toNat && (sp.variantOk || f.variant == 0) && (f.flags.toNat ||| sp.flags) == sp.flags

/-- What the second word of a W frame accepts beside the F layout (R51). -/
structure WSpec where
  f : FSpec
  d : Pos := .unused
  e : Pos := .unused
  s : Pos := .unused
  wflags : Nat := 0
  imm : Bool := false
  litOk : Bool := false
  deriving DecidableEq, Repr

/-- The static conditions of a W frame (R51): flag bit 0 selects the literal, which only some instructions accept and
whose srcB field is zero; a clear bit with no immediate use leaves imm zero. -/
def WFrame.ok (w : WFrame) (sp : WSpec) : Bool :=
  let lit := w.f.flags.getLsbD 0
  w.f.ok { sp.f with flags := sp.f.flags ||| 1 } lit &&
  (!lit || (w.f.srcB == 0 && sp.litOk)) &&
  sp.d.ok w.srcD && sp.e.ok w.srcE && sp.s.ok w.srcF &&
  (w.wflags.toNat ||| sp.wflags) == sp.wflags && (lit || sp.imm || w.imm == 0)

/-- Is a type code that of a 64-bit type (with the default's own width for code 0)? -/
def wide (dflt : Ty) (ty : BitVec 4) : Bool := (Ty.ofCode dflt ty).wide

/-! ### Control (R56, R93) -/

/-- The control forms of Table 2.9a. -/
inductive CForm where
  | long | test (c : RC) | indirect | code | none
  deriving DecidableEq, Repr

/-- The register code of the test and indirect forms, bits [37:30]. -/
def CFrame.reg (c : CFrame) : BitVec 8 := c.body.extractLsb' 30 8
/-- Bits [29:0] of a control frame. -/
def CFrame.low (c : CFrame) : BitVec 30 := c.body.extractLsb' 0 30

/-- The static conditions of a control frame (R56, R91, R93). -/
def CFrame.ok (c : CFrame) (form : CForm) (guardable : Bool) : Bool :=
  guardOk c.guard && (guardable || !c.guard.getLsbD 5) && c.dst == 0 &&
  (match form with
    | .long => true
    | .test rc => RC.of c.reg == rc
    | .indirect => RC.of c.reg == .s && c.low == 0
    | .code => c.reg == 0 && c.low.toNat < 0x10000
    | .none => c.body == 0)

/-! ### Scalar integer (R107 to R109) -/

/-- The integer types of R107 and R110. -/
def intTys : List Nat := [0, 3, 4, 5, 6]

/-- A scalar instruction of Table 4.4 with the given sources. -/
def specS (nsrc : Nat) (sat : Bool) : FSpec :=
  { dst := .sdst, a := if nsrc = 1 then .unused else .ssrc, b := .ssrc, c := if nsrc = 3 then .ssrc else .unused,
    tys := intTys, flags := if sat then 1 else 0 }
/-- `SLI` in its F form joins two halves under a 64-bit type (R108). -/
def specSli (lit : Bool) : FSpec :=
  { dst := .sdst, a := if lit then .unused else .ssrc, b := .ssrc, tys := [0, 5, 6] }
/-- `SCMP` (R109): variant [2:0] at most 5. -/
def specScmp (f : FFrame) : FSpec := { specS 2 false with variantOk := f.variant.toNat ≤ 5 }

/-! ### Vector integer (R110 to R116) -/

/-- A vector integer instruction of Table 4.6. -/
def specV (f : FFrame) (nsrc : Nat) (sat : Bool) : FSpec :=
  let w := wide .s32 f.ty
  { dst := .vq w, a := if nsrc = 1 then .unused else .vsrc w, b := .vsrc w,
    c := if nsrc = 3 then .vsrc w else .unused, tys := intTys, flags := if sat then 1 else 0 }
/-- `VSEL` (R112): srcC is a predicate or a vector source. -/
def specVsel (f : FFrame) : FSpec :=
  let w := wide .s32 f.ty
  { specV f 2 false with c := { Pos.vsrc w with accepts := .p :: (Pos.vsrc w).accepts } }
/-- `VLI` (R113): srcB is an s register or a constant. -/
def specVli (f : FFrame) : FSpec :=
  { specV f 1 false with b := { accepts := [.s, .zero, .one, .laneid, .ones] } }
/-- `VADDC` and `VSUBB` (R114): variant [3:0] names a predicate, [5:4] is zero. -/
def specVcarry (f : FFrame) : FSpec := { specV f 2 false with variantOk := f.variant.toNat < 16 }
/-- `VCMP` (R109, R116). -/
def specVcmp (f : FFrame) : FSpec := { specV f 2 false with dst := .pred, variantOk := f.variant.toNat ≤ 5 }
/-- `VIDOT4` (R115). -/
def specVidot : FSpec :=
  { dst := .vq false, a := .vsrc false, b := .vsrc false, c := .vsrc false, tys := [0, 1, 2], flags := 1 }

/-! ### Float and conversion (R120 to R130) -/

/-- The float types of R120. -/
def floatTys : List Nat := [0, 7, 8, 9, 10]

/-- A float basic instruction of Table 5.1; variant [1:0] is the rounding. -/
def specF (f : FFrame) (nsrc : Nat) (sat : Bool) : FSpec :=
  let w := wide (.fl .f32) f.ty
  { dst := .vq w, a := if nsrc = 1 then .unused else .vsrc w, b := .vsrc w,
    c := if nsrc = 3 then .vsrc w else .unused, tys := floatTys, flags := if sat then 1 else 0,
    variantOk := f.variant.toNat < 4 }
/-- `VFMIN` and `VFMAX` (R122): the variant is zero. -/
def specFminmax (f : FFrame) : FSpec := { specF f 2 false with variantOk := false }
/-- `VFCMP` (R123). -/
def specFcmp (f : FFrame) : FSpec :=
  { specF f 2 false with dst := .pred, variantOk := f.variant.toNat % 4 == 0 && f.variant.toNat / 4 ≤ 6 }
/-- `VFCLASS` (R124): srcB is a v register or an s register. -/
def specFclass (f : FFrame) : FSpec := { specF f 2 false with dst := .pred, b := { accepts := [.v, .s] } }
/-- `VFDOT2` (R125). -/
def specFdot (f : FFrame) : FSpec :=
  { dst := .vq false, a := .vsrc false, b := .vsrc false, c := .vsrc false, tys := [0, 9, 10], flags := 1,
    variantOk := f.variant.toNat < 4 }
/-- `VFSCALE` (R121): srcB is a 32-bit integer operand. -/
def specFscale (f : FFrame) : FSpec := { specF f 2 true with b := .vsrc false }
/-- A special function (R126). -/
def specSpecial : FSpec := { dst := .vq false, b := .vsrc false, tys := [0, 8, 9, 10] }

/-- The second type of a conversion, variant [5:2] (R127). -/
def ty2 (f : FFrame) : BitVec 4 := f.variant.extractLsb' 2 4

/-- `VCVT` (R128). -/
def specCvt (f : FFrame) : FSpec :=
  { dst := .vq (wide (.fl .f32) f.ty), b := .vq (wide (.fl .f32) (ty2 f)), tys := List.range 16, variantOk := true,
    flags := 1 }
/-- `VCVTB` (R129). -/
def specCvtb (f : FFrame) : FSpec :=
  { dst := .vq false, b := .vq false, tys := [11, 12, 13, 14, 15], variantOk := [0, 8, 9, 10].contains (ty2 f).toNat }
/-- `VPACK` and `VUNPACK` (R130): a 64-bit second type is refused. -/
def specPack (f : FFrame) (sat : Bool) : FSpec :=
  { dst := .vq false, b := .vq false, tys := [1, 2, 9, 10, 11, 12, 13, 14, 15],
    variantOk := !([5, 6, 7].contains (ty2 f).toNat), flags := if sat then 1 else 0 }

/-! ### Predicates (R117) -/

/-- `PAND`, `POR`, `PXOR` (two sources), `PNOT`, `PMOV` (one). -/
def specP (nsrc : Nat) : FSpec := { dst := .pred, a := if nsrc = 1 then .unused else .psrc, b := .psrc }
/-- `PFROM`: a v register, a queue or an s register. -/
def specPfrom : FSpec := { dst := .pred, b := { accepts := [.v, .s, .q] } }
/-- `PTO`: to a v register, an s register or a queue. -/
def specPto : FSpec := { dst := { accepts := [.v, .s, .q] }, b := .psrc }
/-- `PANY` and `PALL`. -/
def specPanyall : FSpec := { dst := .sreg, b := .psrc }

/-! ### Cross-lane and queue inspection (R131 to R138) -/

/-- The types of R131. -/
def laneTys : List Nat := [0, 3, 4, 5, 6, 7, 8]

/-- `SHFL` (R132). -/
def specShfl (f : FFrame) : FSpec :=
  let w := wide .u32 f.ty
  { dst := .vq w, a := .vq w, b := { accepts := [.v, .s, .zero, .one, .laneid, .ones] }, tys := laneTys,
    variantOk := f.variant.toNat / 4 ≤ 4 }
/-- `VOTE` (R134). -/
def specVote (f : FFrame) : FSpec :=
  { dst := .sdst, b := { accepts := [.p, .v, .q], kind := .vec }, variantOk := f.variant.toNat < 4 }
/-- `MATCH` (R135): `.feq` needs a float type. -/
def specMatch (f : FFrame) : FSpec :=
  { dst := .vq false, b := .vq (wide .u32 f.ty), tys := laneTys,
    variantOk := f.variant == 0 || (f.variant == 1 && [7, 8].contains f.ty.toNat) }
/-- Conditions on the operation, rounding and saturation of `VRED` and `VSCAN` (R136). -/
def redOk (f : FFrame) : Bool :=
  let op := f.variant.toNat % 8
  let float := [7, 8].contains f.ty.toNat
  op ≤ 5 && !(float && 3 ≤ op) && ((float && op == 0) || f.variant.toNat / 8 % 4 == 0) &&
    (f.flags.toNat % 2 == 0 || (op == 0 && !float))
/-- `VRED` (R136). Its integer `.add` takes the 8-bit types too, in which R85 gives its example (notes/assumptions/96.md). -/
def specVred (f : FFrame) : FSpec :=
  let w := wide .u32 f.ty
  { dst := { accepts := [.v, .q, .s], pair := w, regs := if w then 2 else 1 }, b := .vq w,
    tys := laneTys ++ (if f.variant.toNat % 8 = 0 then [1, 2] else []),
    variantOk := redOk f && f.variant.toNat < 32, flags := if redOk f then 1 else 0 }
/-- `VSCAN` (R136). -/
def specVscan (f : FFrame) : FSpec :=
  let w := wide .u32 f.ty
  { dst := .vq w, b := .vq w, tys := laneTys, variantOk := redOk f, flags := if redOk f then 1 else 0 }
/-- `BCAST` (R133): srcB is an s register, a scalar queue or a constant. -/
def specBcast (f : FFrame) : FSpec :=
  let w := wide .u32 f.ty
  { dst := .vq w, a := .vq w, b := .ssrc, tys := laneTys }
/-- `VCOMP` (R133). -/
def specVcomp (f : FFrame) : FSpec :=
  let w := wide .u32 f.ty
  { dst := .vq w, b := .vq w, tys := laneTys }
/-- `GFENCE` (R137). -/
def specGfence : FSpec := {}
/-- `QCNT`, `QROOM`, `QDRAIN` (R138): the queue named without popping it stands in srcB. -/
def specQ : FSpec := { dst := .sreg, b := { accepts := [.q] } }

/-! ### Pair frames (R48, R49) -/

/-- The F guard of a half's guard field (Table 2.4): 7 is unguarded. -/
def PHalf.fguard (h : PHalf) : BitVec 6 :=
  if h.guard == 7#4 then 0#6 else BitVec.ofNat 6 (32 + (if h.guard.getLsbD 3 then 16 else 0) + h.guard.toNat % 8)

/-- The one-source instructions among the P codes: they do not read their dst (R48, R49). -/
def pUnary (op : BitVec 7) : Bool :=
  [0x08, 0x0E, 0x0F, 0x10, 0x11, 0x14, 0x16, 0x17, 0x66, 0x67, 0x6A].contains op.toNat

/-- The F frame a half executes as (R48). -/
def PHalf.toF (h : PHalf) : FFrame :=
  { guard := h.fguard, dst := h.dst, srcA := if pUnary h.op then 0 else h.dst, srcB := h.srcB, srcC := 0, ty := h.ty,
    variant := 0, flags := 0 }

/-- The F spec of a P code's instruction (Table 2.9); `none` where the code has no P form. -/
def pSpec (h : PHalf) : Option FSpec :=
  let f := h.toF
  let c := h.op.toNat
  if [0x00, 0x01, 0x02, 0x03, 0x05, 0x06, 0x07, 0x09, 0x0A, 0x0B, 0x0C, 0x0D, 0x12].contains c then
    some (specV f 2 false)
  else if [0x08, 0x0E, 0x0F, 0x10, 0x11, 0x14, 0x16].contains c then some (specV f 1 false)
  else if c = 0x17 then some (specVli f)
  else if [0x60, 0x61, 0x62].contains c then some (specF f 2 false)
  else if c = 0x64 ∨ c = 0x65 then some (specFminmax f)
  else if c = 0x66 ∨ c = 0x67 ∨ c = 0x6A then some (specF f 1 false)
  else if c = 0x6C then some (specFscale f)
  else none

/-- Is the type of a half a 64-bit type? -/
def PHalf.wide (h : PHalf) : Bool := (Ty.ofCode (if h.op.toNat < 0x60 then .s32 else .fl .f32) h.ty).wide

/-- The vector registers a half names by a code: none for a code that names no vector register, else one, or a pair
(R49). -/
def PHalf.names (h : PHalf) (code : BitVec 8) : List Nat :=
  if 0x80 ≤ code.toNat then [] else if h.wide then [code.toNat, code.toNat + 1] else [code.toNat]

/-- The vector registers a half reads (R49). `VFSCALE`'s srcB is one register. A half whose srcB is its dst counts two
reads of it, one for each operand (DESIGN CHOICE, notes/assumptions/110.md). -/
def PHalf.reads (h : PHalf) : List Nat :=
  (if pUnary h.op then [] else h.names h.dst) ++
  (if h.op == 0x6C#7 && h.srcB.toNat < 0x80 then [h.srcB.toNat] else h.names h.srcB)

/-- The codes of a half's operands outside their set (R48), the destination first. -/
def PHalf.strays (h : PHalf) : List (BitVec 8) :=
  (if 0x80 ≤ h.dst.toNat then [h.dst] else []) ++
  (if 0x80 ≤ h.srcB.toNat && !(0xF8 ≤ h.srcB.toNat && h.srcB.toNat ≤ 0xFB) then [h.srcB] else [])

/-- Is a half's operand outside its set (R48)? -/
def PHalf.outside (h : PHalf) : Bool := !h.strays.isEmpty

/-- The 0x02 conditions of a half: guard 0b1111, a type not accepted, an odd code for a pair, `VLI` without a constant
(R48, R54, R55, R113). Operands outside the P set are judged by `PHalf.outside`. -/
def PHalf.ok (h : PHalf) : Bool :=
  h.guard != 15#4 &&
  (match pSpec h with
    | none => false
    | some sp => sp.tys.contains h.ty.toNat) &&
  !(h.wide && ((h.dst.toNat < 0x80 && h.dst.toNat % 2 == 1) ||
    (h.op != 0x6C#7 && h.srcB.toNat < 0x80 && h.srcB.toNat % 2 == 1))) &&
  !(h.op == 0x17#7 && (RC.of h.srcB == .v || RC.of h.srcB == .q))

/-- The static cause of a pair frame (R48, R49, R50): the lowest of 0x02, 0x03 and 0x06. An operand outside its set raises
0x06 as R48 says, also where R54 gives a reserved code or a constant destination 0x02; one destination register that both
halves name raises 0x03 whatever its class (DESIGN CHOICE, notes/assumptions/111.md). -/
def pairCause (h0 h1 : PHalf) : Option (BitVec 8) :=
  let banks (l : List Nat) := l.map (· % 4)
  let w0 := h0.names h0.dst
  let w1 := h1.names h1.dst
  let rd := banks (h0.reads ++ h1.reads)
  if !(h0.ok && h1.ok) then some 0x02
  else if (h0.dst == h1.dst && h0.dst.toNat < 0xF8) || (banks w0).any (banks w1).contains || [0, 1, 2, 3].any (fun b => 2 < rd.count b) then some 0x03
  else if h0.outside || h1.outside then some 0x06
  else none

/-! ### Literal frames (R44 to R46) -/

/-- The L codes whose instruction has an L form (Tables 2.9 and 2.10). -/
def LFrame.hasForm (l : LFrame) : Bool :=
  let c := l.op.toNat
  c ≤ 0x14 || (0x40 ≤ c && c ≤ 0x5B) || (0xA0 ≤ c && c ≤ 0xAC) || (0xC0 ≤ c && c ≤ 0xC7)

/-- The L codes with three sources, which read srcC from dst (R45, Table 2.10). -/
def LFrame.ternary (l : LFrame) : Bool := [0x10, 0x14, 0x44, 0x53, 0x55, 0x5B, 0xA3, 0xAB].contains l.op.toNat

/-- The F frame an L frame executes as, its srcB left to the literal (R45). -/
def LFrame.toF (l : LFrame) : FFrame :=
  { guard := l.guard, dst := l.dst, srcA := l.srcA, srcB := 0, srcC := if l.ternary then l.dst else 0, ty := 0,
    variant := 0, flags := 0 }

/-- The spec of an L form's instruction, by its L code. -/
def LFrame.spec (l : LFrame) : FSpec :=
  let f := l.toF
  let c := l.op.toNat
  if c = 0x0E then specSli true
  else if c = 0x0F then specScmp f
  else if [0x07, 0x0D, 0x11, 0x12].contains c then specS 1 false
  else if c = 0x10 ∨ c = 0x14 then specS 3 false
  else if c ≤ 0x14 then specS 2 false
  else if [0x48, 0x4E, 0x4F, 0x50, 0x51, 0x54, 0x56].contains c then specV f 1 false
  else if c = 0x57 then specVli f
  else if c = 0x58 ∨ c = 0x59 then specVcarry f
  else if c = 0x5A then specVcmp f
  else if c = 0x5B then specVidot
  else if c = 0x55 then specVsel f
  else if c = 0x44 ∨ c = 0x53 then specV f 3 false
  else if c ≤ 0x5B then specV f 2 false
  else if c = 0xA3 then specF f 3 false
  else if c = 0xA4 ∨ c = 0xA5 then specFminmax f
  else if [0xA6, 0xA7, 0xAA].contains c then specF f 1 false
  else if c = 0xA8 then specFcmp f
  else if c = 0xA9 then specFclass f
  else if c = 0xAB then specFdot f
  else if c = 0xAC then specFscale f
  else if c ≤ 0xAC then specF f 2 false
  else specSpecial

/-- Does a half's P code have a P form (R48, Table 2.10)? -/
def PHalf.hasForm (h : PHalf) : Bool := (pSpec h).isSome

/-! ### Memory instructions (R53, R168 to R180) -/

/-- Variant [2:0] names a scope (R53). -/
def scopeOk (f : FFrame) : Bool := decide (f.variant.toNat % 8 ≤ 5)
/-- The order of variant [4:3] (R53). -/
def orderOf (f : FFrame) : Nat := f.variant.toNat / 8 % 4
/-- Variant [5]. -/
def bit5 (f : FFrame) : Bool := f.variant.getLsbD 5
/-- The access types of Table 7.2. -/
def memTys : List Nat := [0, 1, 2, 3, 4, 5, 6, 7, 8, 9, 10]
/-- A 64-bit access type. -/
def wideMem (f : FFrame) : Bool := wide .u32 f.ty
/-- `.v4` is legal (R170): a 32-bit type, and a register that is a multiple of 4. -/
def v4Ok (f : FFrame) : Bool :=
  !bit5 f || ([0, 3, 4, 8].contains f.ty.toNat && (RC.of f.dst != .v || f.dst.toNat % 4 == 0))
/-- The registers that the data of a load or store covers. -/
def memRegs (f : FFrame) : Nat := if bit5 f then 4 else if wideMem f then 2 else 1

/-- srcA of a global address: an s base, or the even v of a 64-bit address pair (Table 7.1). -/
def Pos.addrA : Pos := { accepts := [.s, .v], pair := true, regs := 2 }
/-- srcB of a global address: an offset register or `zero`; `zero` alone in the lane-address form. -/
def Pos.addrB (f : FFrame) : Pos := if RC.of f.srcA == .v then .zeroc else { accepts := [.v, .zero] }
/-- srcA of a local-store address. -/
def Pos.lsA : Pos := { accepts := [.s, .zero] }
/-- srcB of a local-store address. -/
def Pos.lsB : Pos := { accepts := [.v, .zero] }
/-- The destination of a vector load. -/
def Pos.loadDst (f : FFrame) : Pos := { accepts := [.v, .q], pair := wideMem f, kind := .vec, regs := memRegs f }
/-- The data of a vector store. -/
def Pos.storeSrc (f : FFrame) : Pos :=
  { accepts := [.v, .q, .zero, .one, .laneid, .ones], pair := wideMem f, kind := .vec, regs := memRegs f }

/-- `LDS`: order `.rlx` or `.acq` (R171); the flag of `.nc` is accepted (Table 7.3). -/
def specLds (f : FFrame) : FSpec :=
  { dst := .sdst, a := .sreg, b := .zeroc, c := .bits, tys := memTys,
    variantOk := scopeOk f && [0, 1].contains (orderOf f) && !bit5 f, flags := 2 }
/-- `STS`: order `.rlx` or `.rel` (R171); laneid is accepted in its data field (R168). -/
def specSts (f : FFrame) : FSpec :=
  { dst := { accepts := [.s, .q, .zero, .one, .laneid, .ones], kind := .scalar }, a := .sreg, b := .zeroc, c := .bits,
    tys := memTys, variantOk := scopeOk f && [0, 2].contains (orderOf f) && !bit5 f }
/-- `LD`: order `.rlx` or `.acq` (R171); the flag of `.nc` is accepted (Table 7.3). -/
def specLd (f : FFrame) : FSpec :=
  { dst := .loadDst f, a := .addrA, b := .addrB f, c := .bits, tys := memTys,
    variantOk := scopeOk f && [0, 1].contains (orderOf f) && v4Ok f, flags := 2 }
/-- `ST`: order `.rlx` or `.rel` (R171). -/
def specSt (f : FFrame) : FSpec :=
  { dst := .storeSrc f, a := .addrA, b := .addrB f, c := .bits, tys := memTys,
    variantOk := scopeOk f && [0, 2].contains (orderOf f) && v4Ok f }
/-- `LDL`: order `.rlx` or `.acq` (R171). -/
def specLdl (f : FFrame) : FSpec :=
  { dst := .loadDst f, a := .lsA, b := .lsB, c := .bits, tys := memTys,
    variantOk := scopeOk f && [0, 1].contains (orderOf f) && v4Ok f }
/-- `STL`: order `.rlx` or `.rel` (R171). -/
def specStl (f : FFrame) : FSpec :=
  { dst := .storeSrc f, a := .lsA, b := .lsB, c := .bits, tys := memTys,
    variantOk := scopeOk f && [0, 2].contains (orderOf f) && v4Ok f }
/-- `LDQ` (R173): order `.rlx` or `.acq` (R171); what its offset field holds depends on the queue's kind. -/
def specLdq (f : FFrame) : FSpec :=
  { dst := { accepts := [.q] }, a := .sreg, b := { accepts := [.v, .zero] }, c := .bits, tys := memTys,
    variantOk := scopeOk f && [0, 1].contains (orderOf f) && !bit5 f }
/-- `STC` (R177): types of 1, 2 or 4 bytes; its stores are `.rlx`. -/
def specStc (f : FFrame) : FSpec :=
  { dst := .sreg, a := .sreg, b := .sreg, c := .sreg, tys := [0, 1, 2, 3, 4, 8, 9, 10, 11, 12, 14],
    variantOk := scopeOk f && orderOf f == 0 && !bit5 f }
/-- `LDX` (R178). -/
def specLdx (f : FFrame) : FSpec :=
  { dst := .sreg, a := .sreg, b := .sreg, variantOk := scopeOk f && [0, 1].contains (orderOf f) && !bit5 f }
/-- `PREF` (R179): variant [5] alone may be set. -/
def specPref (f : FFrame) : FSpec := { a := .addrA, b := .addrB f, c := .bits, variantOk := f.variant.toNat % 32 == 0 }
/-- `CCTL` (R179): with `.all` the address fields are zero. -/
def specCctl (f : FFrame) : FSpec := if bit5 f then { variantOk := f.variant.toNat % 32 == 0 } else specPref f

/-- Is an atomic's operation accepted with its type (Table 7.7, R181)? -/
def atomOk (f : FFrame) : Bool :=
  let op := f.flags.toNat
  let float := [8, 9, 10].contains f.ty.toNat
  let op1 := decide (op ≤ 8) && !(float && 3 ≤ op && op ≤ 5) && (op < 7 || [0, 4, 6].contains f.ty.toNat)
  op1 && !(bit5 f && [9, 10].contains f.ty.toNat)
/-- The types of the atomics (R181). -/
def atomTys : List Nat := [0, 3, 4, 5, 6, 8, 9, 10]
/-- `ATOM` and `RED` (R180). -/
def specAtom (f : FFrame) (ret : Bool) : FSpec :=
  let w := wideMem f
  ({ dst := if ret then .vq w else .unused, a := if bit5 f then .lsA else .addrA,
     b := if bit5 f then .lsB else .addrB f,
     c := { accepts := [.v, .q, .s, .zero, .one, .laneid, .ones], pair := w, regs := if w then 2 else 1 },
     tys := atomTys, variantOk := scopeOk f, flags := 15 } : FSpec).also (atomOk f)
/-- `CAS` (R180): the compare and new registers stand in an even pair, or in four registers from a multiple of 4. -/
def specCas (f : FFrame) : FSpec :=
  let w := wideMem f
  ({ dst := .vq w, a := if bit5 f then .lsA else .addrA, b := if bit5 f then .lsB else .addrB f,
     c := { accepts := [.v], pair := true, regs := if w then 4 else 2 }, tys := atomTys, variantOk := scopeOk f } : FSpec).also
    (!(bit5 f && [9, 10].contains f.ty.toNat) && (!w || f.srcC.toNat % 4 == 0))

/-! ### Fences, tags and barriers (R185 to R196) -/

/-- `FENCE` (R185): `.acq`, `.rel` or `.ar`. -/
def specFence (f : FFrame) : FSpec := ({ variantOk := scopeOk f && !bit5 f } : FSpec).also (orderOf f != 0)
/-- `FENCEX` (R186): path codes 0 to 4, order `.ar`. -/
def specFencex (f : FFrame) : FSpec :=
  ({ a := .bits, b := .bits, variantOk := scopeOk f && !bit5 f } : FSpec).also
    (orderOf f == 3 && decide (f.srcA.toNat ≤ 4) && decide (f.srcB.toNat ≤ 4))
/-- `WAITCNT` (R187): four 6-bit thresholds. -/
def specWaitcnt (f : FFrame) : FSpec :=
  ({ dst := .bits, a := .bits, b := .bits, c := .bits } : FSpec).also
    ([f.dst, f.srcA, f.srcB, f.srcC].all (fun x => decide (x.toNat < 64)))
/-- A key: an s register or the even v of a pair (R188). -/
def Pos.key : Pos := { accepts := [.v, .s], pair := true, regs := 2 }
/-- A slot value or a way: v, s or a constant (R188). -/
def Pos.tagv : Pos := { accepts := [.v, .s, .zero, .one, .laneid, .ones] }
/-- `TLOOK`. -/
def specTlook : FSpec := { dst := .vreg false, a := .key }
/-- `TSET`. -/
def specTset : FSpec := { a := .key, b := .tagv, c := .tagv }
/-- `TCLR`: with `.all` srcA is zero. -/
def specTclr (f : FFrame) : FSpec :=
  { a := if f.variant.getLsbD 0 then .unused else .key, variantOk := decide (f.variant.toNat < 2) }
/-- The variant of a barrier instruction: a scope, and bit 5 where it is assigned (R190). -/
def barVariant (f : FFrame) (b5 : Bool) : Bool := scopeOk f && orderOf f == 0 && (b5 || !bit5 f)
/-- The `.g` flag. -/
def gFlag (f : FFrame) : Bool := f.flags.getLsbD 1
/-- `BINIT`: `.pair` with `.g` is refused (R193). -/
def specBinit (f : FFrame) : FSpec :=
  ({ a := .sreg, b := .sreg, variantOk := barVariant f false, flags := 6 } : FSpec).also (f.flags.toNat / 2 % 4 != 3)
/-- `BARR`. -/
def specBarr (f : FFrame) : FSpec := { a := .sreg, variantOk := barVariant f false, flags := 2 }
/-- `BARRX`: `.g` is refused. -/
def specBarrx (f : FFrame) : FSpec := { a := .sreg, b := .sreg, variantOk := barVariant f true }
/-- `BWAIT`: srcC with `.prom` alone. -/
def specBwait (f : FFrame) : FSpec :=
  { a := .sreg, b := { accepts := [.s, .zero, .one] }, c := if bit5 f then .sdst else .unused,
    variantOk := barVariant f true, flags := 2 }
/-- `BTEST`: its order may be `.acq` (R195). -/
def specBtest (f : FFrame) : FSpec :=
  { dst := .sreg, a := .sreg, variantOk := scopeOk f && decide (orderOf f ≤ 1) && !bit5 f, flags := 2 }
/-- `BWATCH`: `.g` is refused. -/
def specBwatch (f : FFrame) : FSpec := { a := .sreg, b := .sreg, c := .sreg, variantOk := barVariant f false }

/-! ### Geometry (R204, Table 8.2) -/

/-- A W frame's literal: srcB's replacement when flag bit 0 is set (R51). -/
def WFrame.lit (w : WFrame) : Option W32 := if w.f.flags.getLsbD 0 then some w.imm else none
/-- A further condition on a W frame. -/
def WSpec.also (sp : WSpec) (ok : Bool) : WSpec := { sp with f := sp.f.also ok }

/-- A geometry register or `zero`. -/
def Pos.geomz : Pos := { accepts := [.g, .zero] }
/-- `GDEF`: sel at most 8. -/
def specGdef (w : WFrame) : WSpec :=
  ({ f := { dst := .geom, a := .geomz, b := .sconst }, wflags := 15, litOk := true } : WSpec).also (decide (w.wflags.toNat ≤ 8))
/-- `GLD` (`st` false) and `GST`. -/
def specGldst (w : WFrame) (st : Bool) : WSpec :=
  { f := { dst := .geom, a := .sreg, variantOk := scopeOk w.f && [0, if st then 2 else 1].contains (orderOf w.f) },
    imm := true }
/-- `GMOV`. -/
def specGmov : WSpec := { f := { dst := .geom, b := .geom } }
/-- `GCHAIN`. -/
def specGchain : WSpec := { f := { dst := .geom, a := .geom, b := .geom } }
/-- `GPART` and `GSLICE`. -/
def specGpart : WSpec := { f := { dst := .geom, a := .geom, b := .sconst, c := .sconst }, e := .sreg, wflags := 3, litOk := true }
/-- `GTRAN`: imm[31:8] zero. -/
def specGtran (w : WFrame) : WSpec :=
  ({ f := { dst := .geom, a := .geom }, imm := true } : WSpec).also (decide (w.imm.toNat < 256))
/-- `GFLAT`. -/
def specGflat : WSpec := { f := { dst := .geom, a := .geom }, wflags := 3 }
/-- Is a `GSWZ` immediate legal (R210)? -/
def swzOk (raw : Bool) (imm : Nat) : Bool :=
  if raw then imm == 0
  else if imm.testBit 7 then imm == 0x80
  else decide (imm < 0x80) &&
    (imm % 8 == 0 || (decide (1 ≤ imm / 8 % 16) && decide (imm % 8 - 1 + imm / 8 % 16 ≤ 13)))
/-- `GSWZ`: variant [0] is `.raw`. -/
def specGswz (w : WFrame) : WSpec :=
  let raw := w.f.variant.getLsbD 0
  let p := if raw then Pos.sreg else Pos.unused
  ({ f := { dst := .geom, a := .geom, b := p, c := p, variantOk := decide (w.f.variant.toNat < 2) }, imm := true } :
    WSpec).also (swzOk raw w.imm.toNat)
/-- `GCHK`. -/
def specGchk : WSpec := { f := { dst := .sreg, a := .geom, b := .sconst }, wflags := 3, litOk := true }
/-- `GBANK`. -/
def specGbank : WSpec := { f := { dst := .sreg, a := .geom, b := .sconst }, litOk := true }

/-! ### Matrix (R223, R232 to R237) -/

/-- The types of the multiply instructions (R222). -/
def mmTys : List Nat := [0, 1, 2, 7, 8, 9, 10, 11, 12, 13, 14, 15]
/-- A tile. -/
def Pos.tile : Pos := { accepts := [.a] }
/-- An s register or `zero`. -/
def Pos.sz : Pos := { accepts := [.s, .zero] }
/-- A format-block descriptor or `zero`. -/
def Pos.fbz : Pos := { accepts := [.fb, .zero] }
/-- The operand format that the frame itself names (R222); `none` with a descriptor. -/
def mmType (w : WFrame) : Option Nat :=
  if RC.of w.f.srcC = .zero then some (if w.f.ty = 0 then 9 else w.f.ty.toNat) else none
/-- The conditions of a multiply on type, `.sat` and dst: with a descriptor the type is 0; `.sat` for `.s8` and `.u8`
alone; an even tile for `.f64`. -/
def mmOk (w : WFrame) : Bool :=
  match mmType w with
  | none => w.f.ty == 0
  | some t => (!w.f.variant.getLsbD 2 || t == 1 || t == 2) && (t != 7 || w.f.dst.toNat % 2 == 0)
/-- `MMA` and `MMSP`. -/
def specMma (w : WFrame) (sparse : Bool) : WSpec :=
  ({ f := { dst := .tile, a := .vreg false, b := .vreg false, c := .fbz, tys := mmTys,
            variantOk := decide (w.f.variant.toNat < 8) }, d := .geom, e := .geom, s := .sz, imm := sparse } : WSpec).also
    (mmOk w)
/-- `MMAD`. -/
def specMmad (w : WFrame) : WSpec :=
  ({ f := { dst := .tile, a := .sconst, b := .sconst, c := .fbz, tys := mmTys,
            variantOk := decide (w.f.variant.toNat < 8) }, d := .geom, e := .geom, s := .sz, litOk := true } : WSpec).also
    (mmOk w)
/-- A format-block descriptor. -/
def Pos.fblock : Pos := { accepts := [.fb] }
/-- `FBSET` (R232): register form, or load form with variant [5]. -/
def specFbset (w : WFrame) : WSpec :=
  if bit5 w.f then
    { f := { dst := .fblock, a := .sreg, variantOk := scopeOk w.f && [0, 1].contains (orderOf w.f) }, wflags := 1, imm := true }
  else { f := { dst := .fblock, a := .sreg, b := .sconst, c := .sz }, litOk := true }
/-- The cell types of the accumulator instructions (R233). -/
def cellTys : List Nat := [0, 3, 7, 8]
/-- With `.f64` a tile code is even (R233). -/
def evenTile (w : WFrame) (code : BitVec 8) : Bool := w.f.ty != 7 || code.toNat % 2 == 0
/-- `ACZERO`. -/
def specAczero (w : WFrame) : WSpec := ({ f := { dst := .tile, tys := cellTys } } : WSpec).also (evenTile w w.f.dst)
/-- `ACLD` and `ACST` (R236): the scale exponent is imm[7:0], 0 for `.s32` cells. -/
def specAcmove (w : WFrame) : WSpec :=
  ({ f := { dst := .tile, a := .sz, tys := cellTys, variantOk := decide (w.f.variant.toNat < 8) }, d := .geom, imm := true } :
    WSpec).also (evenTile w w.f.dst && decide (w.imm.toNat < 256) && (w.f.ty != 3 || w.imm == 0))
/-- `ACRD`. -/
def specAcrd (w : WFrame) : WSpec :=
  ({ f := { dst := .vq (w.f.ty == 7), a := .tile, b := .sconst, tys := cellTys,
            variantOk := w.f.variant == 0 || w.f.variant == 8 }, litOk := true } : WSpec).also (evenTile w w.f.srcA)
/-- `ACWR`. -/
def specAcwr (w : WFrame) : WSpec :=
  let p := Pos.vq (w.f.ty == 7)
  ({ f := { dst := .tile, a := { p with accepts := p.accepts ++ [.zero, .one, .laneid, .ones] }, b := .sconst,
            tys := cellTys, variantOk := w.f.variant == 0 || w.f.variant == 8 }, litOk := true } : WSpec).also (evenTile w w.f.dst)
/-- `ACMAX`. -/
def specAcmax (w : WFrame) : WSpec :=
  ({ f := { dst := .sreg, b := .tile, tys := cellTys } } : WSpec).also (evenTile w w.f.srcB)

/-! ### Engine commands (R245, R320, R445) -/

/-- The option register of a command (R245): an s register when `.at` or `.rel` is given, up to s30 with both. -/
def Pos.option (w : WFrame) : Pos := if w.wflags.extractLsb' 0 2 = 0 then .unused else .sreg
/-- With `.at` and `.rel` together the pair of registers exists. -/
def optionOk (w : WFrame) : Bool := w.wflags.extractLsb' 0 2 != 3 || decide (regNo w.srcF ≤ 30)
/-- Is the imm zero unless it holds a release value or the literal? -/
def releaseImmOk (w : WFrame) : Bool := w.wflags.getLsbD 1 || w.f.flags.getLsbD 0 || w.imm == 0
/-- The fields that the copy commands share (Table 10.1). -/
def specCopy (w : WFrame) (variantOk trap : Bool) (e : Pos) : WSpec :=
  ({ f := { dst := .sreg, a := .geom, b := .sz, c := .geom, variantOk := variantOk }, d := .sz, e := e, s := .option w,
     wflags := if trap then 0x7F else 0x77, imm := true } : WSpec).also
    (optionOk w && releaseImmOk w && w.wflags.extractLsb' 5 2 != 3)
/-- `CPY` and `CPYM`. -/
def specCpy (w : WFrame) : WSpec := specCopy w (decide (w.f.variant.toNat < 8)) false .unused
/-- `CPYG` and `CPYS`: an index list of n = variant [5:3] + 1. -/
def specCpyg (w : WFrame) : WSpec := specCopy w true true (.vq false)
/-- The form of a `CPYZ`: 0 `.flat`, 1 `.hbm`, 2 `.kvp`. -/
def cpyzForm (w : WFrame) : BitVec 2 := w.f.variant.extractLsb' 3 2
/-- `CPYZ`. -/
def specCpyz (w : WFrame) : WSpec :=
  specCopy w (cpyzForm w != 3) false (if cpyzForm w = 2 && !bit5 w.f then .sreg else .unused) |>.also (cpyzForm w != 3)
/-- `PSEL`: the stride is a multiple of 256, at least 512. -/
def specPsel (w : WFrame) : WSpec :=
  ({ f := { dst := .sreg, a := .sreg, b := .sreg, c := .sreg }, d := .sreg, e := .sz, s := .option w, wflags := 1,
     imm := true } : WSpec).also (decide (512 ≤ w.imm.toNat) && w.imm.toNat % 256 == 0)
/-- `CPYR`. -/
def specCpyr (w : WFrame) : WSpec :=
  ({ f := { dst := .sreg, a := .geom, b := .sz, c := .geom, variantOk := w.f.variant.extractLsb' 3 2 == 0 }, d := .sz,
     e := .sreg, s := .option w, wflags := 7, imm := true } : WSpec).also (optionOk w && releaseImmOk w)
/-- Is the literal bit absent, or `.rel` (R445)? -/
def litNoRel (w : WFrame) : Bool := !(w.f.flags.getLsbD 0 && w.wflags.getLsbD 1)
/-- `STREP`. -/
def specStrep (w : WFrame) : WSpec :=
  ({ f := { dst := .sreg, a := .sreg, b := .sconst, variantOk := w.f.variant.extractLsb' 0 5 == 0 }, d := .sz, e := .sreg,
     s := .option w, wflags := 7, imm := true, litOk := true } : WSpec).also (optionOk w && releaseImmOk w && litNoRel w)
/-- The element types of a collective operation (R453). -/
def collTys (op : Nat) : List Nat := if op = 0 then [8, 9] else if op = 3 then [0] else [3, 4, 8, 9]
/-- `FCOLL`. -/
def specFcoll (w : WFrame) : WSpec :=
  ({ f := { dst := .sreg, a := .sz, b := .sconst, c := .sconst, tys := collTys (w.f.variant.toNat % 4),
            variantOk := decide (w.f.variant.toNat < 4) }, d := .sz, s := .option w, wflags := 7, imm := true,
     litOk := true } : WSpec).also (optionOk w && releaseImmOk w && litNoRel w)

/-! ### Work creation, time and energy (R288, R359, R365) -/

/-- `SPAWN` (Table 12.4): imm is the frame stride. -/
def specSpawn : WSpec := { f := { a := .sreg, b := .sz, c := .sconst }, d := .sz, imm := true }
/-- `SPAWNJ`. -/
def specSpawnj : WSpec := { f := { a := .sreg, b := .sz, c := .sconst }, d := .sz, e := .sreg }
/-- `JDEC`. -/
def specJdec : FSpec := { a := .sreg, b := { accepts := [.s, .zero, .one] } }
/-- `LAUNCH`. -/
def specLaunch : WSpec := { f := { a := .sreg, b := .sz } }
/-- `TGET`: variant [0] is `.dl`. -/
def specTget (f : FFrame) : FSpec :=
  { dst := .sdst, b := if f.variant.getLsbD 0 then .sconst else .unused, variantOk := decide (f.variant.toNat < 2) }
/-- `EGET`. -/
def specEget (f : FFrame) : FSpec := { dst := .sdst, variantOk := decide (f.variant.toNat < 4) }
/-- `EPOST`. -/
def specEpost : FSpec := { a := .sreg }

/-! ### System registers, `TLBI`, trace (R16, R17, R311, R395, R400, R404) -/

/-- The numbers of the assigned system registers. -/
def sysKnown : List Nat :=
  [0x00, 0x01, 0x02, 0x03, 0x04, 0x05, 0x06, 0x07, 0x10, 0x11, 0x12, 0x13, 0x14, 0x15, 0x20, 0x21, 0x22, 0x23, 0x30, 0x31] ++
  [0x40, 0x41, 0x42, 0x43, 0x44, 0x45, 0x46, 0x48, 0x49, 0x4A, 0x4B, 0x50, 0x51, 0x52, 0x58, 0x60, 0x61, 0x68, 0x69, 0x6A, 0x70]
/-- Those that may be written in any mode. -/
def sysUser : List Nat := [0x21, 0x23, 0x58]
/-- Those that may be written in handler mode only. -/
def sysHandler : List Nat :=
  [0x10, 0x11, 0x12, 0x13, 0x15, 0x22, 0x40, 0x41, 0x42, 0x43, 0x44, 0x45, 0x46, 0x48, 0x4A, 0x4B]
/-- `SRD`: srcC holds the register's number as bits; an unassigned one raises 0x02. -/
def specSrd (f : FFrame) : FSpec := ({ dst := .sdst, c := .bits } : FSpec).also (sysKnown.contains f.srcC.toNat)
/-- `SWR`: a register with no writable field raises 0x02. -/
def specSwr (f : FFrame) : FSpec :=
  ({ b := .ssrc, c := .bits } : FSpec).also (sysUser.contains f.srcC.toNat || sysHandler.contains f.srcC.toNat)
/-- `TLBI`. -/
def specTlbi (f : FFrame) : FSpec :=
  let op := f.variant.toNat % 4
  ({ a := if op = 0 then .sreg else .unused, b := if op ≤ 1 then .sreg else .unused,
     variantOk := decide (f.variant.toNat < 8) } : FSpec).also (op != 3)
/-- `TRACE`. -/
def specTrace : FSpec := { a := .sconst, b := .sconst }
/-- `TMARK`. -/
def specTmark : FSpec := { b := .sconst }
/-- `PERF`. -/
def specPerf : FSpec := { dst := .sdst, b := .sconst }

end Sys2Proof
end

