-- ==== Sys2Proof/Machine/State.lean ====
section
/-!
DEFINITION. The state of one SKV-OQ8 package as plain data: every register, memory, queue and table the spec names,
at the level of the group (spec 01), core (06), cluster (12), die (13) and package (16 to 21).
Sparse collections are lists of records. Nothing here behaves: operations are in Ops.lean and the files after it.
-/
namespace Sys2Proof.Machine

/-- Physical memory, or one local-store allocation: (address, byte) pairs, addresses strictly rising, no byte equal to
what an unlisted address reads as (`Memory.background`, 0: notes/assumptions/1.md). -/
abbrev Memory := List Host.Cell

/-- A scope value of variant [2:0] (R53). -/
inductive Scope where
  | grp | wg | clu | die | dev | sys
  deriving DecidableEq, Repr

/-- Where a barrier object lies (R189): a half of a workgroup's local store, or memory. -/
inductive ObjRef where
  | ls (wg : Nat) (half1 : Bool) (off : Nat)
  | mem (pa : Nat)
  deriving DecidableEq, Repr

/-- Why a PC slot is held or waiting (R18, R26, R33, R149, R163, R164, R183, R226, R238, R243). -/
inductive Hold where
  | queueEmpty | queueFull | scoreboard | counterFull | waitCounter | phase | atomicSlot | transTable | throttled
  | engineFull | passFull | tileBusy | itemQueueFull | launchQueueFull | walk | fence | tlbi | requestWindow | sleep
  | brq | pageFault | hostDown | bankQueue | reply
  deriving DecidableEq, Repr

/-- The path in a live PC slot (R18). -/
structure Path where
  pc     : Va
  mask   : W32
  age    : Nat
  depth  : BitVec 16
  parked : Bool
  deriving DecidableEq, Repr

/-- The token state an entry of q0–q11 carries in its tag (R30): base, faulting lanes, lowest cause, the `LDQ`'s PC, and
the type and the variant of the load, needed by the replay of R31, and whether a pop has raised 0x18 for it, so that the next pop
is the replay. -/
structure Token where
  base  : W64
  lanes : W32
  cause : BitVec 8
  pc    : Va
  ty    : BitVec 4
  variant : BitVec 6
  raised : Bool
  deriving DecidableEq, Repr

/-- One entry of q0–q11 (R23): a vector entry uses `lanes`, a scalar entry `scalar`. `fill` names the outstanding access
that will write the entry, when it has been pushed by a load still in flight (R164). `after` names the pushing slice's
accesses outstanding at the push, which happen before what follows the pop (R34). -/
structure QEntry where
  lanes  : Lanes
  scalar : W64
  token  : Option Token
  fill   : Option Nat
  after  : List Nat
  deriving DecidableEq, Repr

/-- One queue register q0–q11 with its declaration (R23, Table 2.15); depth 0 is undeclared. `phases` are the slot phase
bits, flipped at each fill; `head` is the slot of the oldest entry (R33). -/
structure Queue where
  depth   : Nat
  x2a     : Bool
  scalar  : Bool
  entries : List QEntry
  phases  : BitVec 16
  head    : Nat
  deriving DecidableEq, Repr

/-- One class's counter register `sys.evc` (Table 3.6) and the PTB instant of its last counted event (R89). -/
structure EvCounter where
  thr   : BitVec 16
  count : BitVec 16
  win   : BitVec 32
  last  : W64
  deriving DecidableEq, Repr

/-- A 0x48 or 0x53 that is due (R90, R407): its auxiliary words. -/
structure Due48 where
  aux0 : W64
  aux1 : W64
  deriving DecidableEq, Repr

/-- The instruction that holds a popped value for its replay (R119, R194); `bwaitMissed` is a `BWAIT.prom` whose promise miss has
been counted, which goes on as a plain `BWAIT`. -/
inductive HeldBy where
  | brq | bwaitProm | bwaitMissed
  deriving DecidableEq, Repr

/-- What a PC slot waiting at a `BWAIT` waits for (R194): the phase of the object at `obj` to differ from `bit`. `held` is
the instant of a `.prom` form; `asleep` says that the slice still sleeps towards it, `missed` that its miss has been counted. -/
structure BWaitRec where
  obj    : ObjRef
  va     : W64
  bit    : Bool
  wide   : Bool
  held   : Option W64
  asleep : Bool
  missed : Bool
  deriving DecidableEq, Repr

/-- A slice under a halt (R165, R167): running, skidding with the issues made since the halt arrived, or stopped. -/
inductive HaltState where
  | running | skid (n : Nat) | stopped
  deriving DecidableEq, Repr

/-- What handler entry froze (R141): the trapping path's slot and mask; the other slot and the stacks stay in place. -/
structure Frozen where
  slot1 : Bool
  mask  : W32
  deriving DecidableEq, Repr

/-- A path code of `FENCEX` (R186). -/
inductive PathCode where
  | lsu | copy | matrix | psel | coll
  deriving DecidableEq, Repr

/-- A fence point (R186): commands of `later` issued after it wait for the covered accesses (`pend`, outstanding access
numbers), the covered commands (`cmds`, command serials) and the covered passes (`passes`, pass serials). `promise` is
the latest promise among the covered commands. -/
structure FencePoint where
  later   : PathCode
  pend    : List Nat
  cmds    : List Nat
  passes  : List Nat
  promise : W64
  deriving DecidableEq, Repr

/-- What a `TLBI` that has removed its translations waits for (R312): the outstanding accesses, by core and number, and the
commands, by serial, that use a removed translation; the slot that holds the `TLBI`. -/
structure TlbiWait where
  slot1 : Bool
  pend : List (Nat × Nat)
  cmds : List Nat
  deriving DecidableEq, Repr

/-- One slice of a group (Table 1.1, Table 17.5): registers, PC slots, engine queues, system registers, wait counters and
what a stopped or waiting slice keeps. -/
structure Slice where
  slot0    : Option Path
  slot1    : Option Path
  hold0    : Option Hold
  hold1    : Option Hold
  last1    : Bool
  ageCtr   : Nat
  dstackN  : Nat
  cstackN  : Nat
  dages    : List Nat
  vreg     : List Lanes
  pred     : Vector W32 16
  sreg     : Vector W64 32
  q12      : List W64
  q13      : List W64
  q14      : List W64
  cause    : BitVec 8
  aux0     : W64
  aux1     : W64
  epc      : Va
  skid     : BitVec 5
  fpc      : Va
  estat    : BitVec 6
  gbank    : BitVec 8
  corr     : W32
  evctl    : BitVec 18
  evc      : Vector EvCounter 6
  emask    : BitVec 33
  hmode    : Bool
  hscr0    : W64
  hscr1    : W64
  lgeom    : BitVec 6
  frozen   : Option Frozen
  loads    : Nat
  stores   : Nat
  copies   : Nat
  passes   : Nat
  fences   : List FencePoint
  relIds   : List Nat
  acqIds   : List Nat
  due48    : Option Due48
  due53    : Option Due48
  wait0    : Option BWaitRec
  wait1    : Option BWaitRec
  sleep    : Option W64
  yieldEnd : Option Nat
  heldPop  : Option (HeldBy × W64)
  tlbi     : Option TlbiWait
  halt     : HaltState
  bpSkip   : Option (Bool × Va)
  stepped  : Bool
  ended    : Bool
  deriving DecidableEq, Repr

/-- An accumulator tile: row i, column j (R233). -/
abbrev Tile := Vector (Vector W32 32) 32

/-- A resident group (R11, R15, R145): place, registers shared by its slices, and its slices. `id` names the group for
its lifetime; `num` is `sys.grp`; `half1` is set for groups on the odd die of a pair (R315). -/
structure Group where
  id        : Nat
  wg        : Nat
  num       : Nat
  half1     : Bool
  core      : Nat
  sub       : Nat
  slot      : Nat
  stamp     : Nat
  x         : Slice
  a         : Option Slice
  queues    : Vector Queue 12
  geom      : Vector (BitVec 512) 32
  fb        : Vector (BitVec 256) 8
  acc       : List Tile
  frameBase : W64
  itemLanes : W32
  deriving DecidableEq, Repr

/-- Why a workgroup is on its way out of its core (R297, R374, R378, R406); `member` goes out with its cluster set. -/
inductive OutReason where
  | cause1 (cause cause2 : BitVec 8) | pages | poison | preempt | debug (cause : BitVec 8) | refusedRemote | member
  deriving DecidableEq, Repr

/-- Progress of a workgroup's stop (R378): running, told to stop and draining, held in place because no context pages or
no fault-queue place were free (R375, R383). -/
inductive WgPhase where
  | running | draining | heldInPlace (record : Bool)
  deriving DecidableEq, Repr

/-- What a fault record of Table 17.1 will say about the slice that stopped; `since` starts the save's budget (R387), `record`
is the record that names a workgroup held in place (R383). -/
structure StopInfo where
  reason : OutReason
  grp    : Nat
  slice  : Bool
  epc    : Va
  aux0   : W64
  aux1   : W64
  corr   : W32
  pages  : List W64
  since  : Nat
  onReservedPath : Bool
  record : Option Nat
  deriving DecidableEq, Repr

/-- One tag-table entry (Table 6.4). -/
structure TagEntry where
  key   : BitVec 48
  slot  : W32
  valid : Bool
  deriving DecidableEq, Repr

/-- A resident workgroup (R146, R281, R315): its launch, allocations on its core or cores, and its stop state. An item
group is a workgroup of its own (R296). `lsBase1` and `tagBase1` are the places on the odd die's core of a pair; `frames` the
frame areas, as first unit and units of the pool (R22). `est` and `used` are the energy reservation and account, `window` the
PTB of the reservation (R363). -/
structure Wg where
  id       : Nat
  launch   : Option Nat
  region   : Nat
  index    : BitVec 60
  core     : Nat
  pair     : Bool
  item     : Bool
  itemJoins : List W64
  kd       : W64
  desc     : BitVec 1024
  member   : Nat
  ksize    : Nat
  setId    : Nat
  groups   : Nat
  lsize    : Nat
  lsBase   : Nat
  lsBase1  : Nat
  ls0      : Memory
  ls1      : Memory
  tagBase  : Nat
  tagBase1 : Nat
  frames   : List (Nat × Nat)
  tags0    : List (List TagEntry)
  tags1    : List (List TagEntry)
  asn      : BitVec 16
  root     : Nat
  est      : Nat
  used     : Nat
  window   : W64
  progress : Nat
  halted   : Bool
  handler  : Bool
  stepping : Bool
  phase    : WgPhase
  stop     : Option StopInfo
  corr     : W32
  deriving DecidableEq, Repr

/-- Where an access is performed (R174, R300, R152): device memory by physical address, host memory, a peer's exported
window, or a local-store allocation (workgroup, half, offset). -/
inductive Place where
  | mem (pa : Nat)
  | host (pa : Nat)
  | fabric (peer : BitVec 12) (off : Nat)
  | ls (wg : Nat) (half1 : Bool) (off : Nat)
  deriving DecidableEq, Repr

/-- One lane's (or one piece's) part of an outstanding access. `bank` serves a local-store place; `arrived` is false
while the request travels to the buddy core (R316). -/
structure LaneAcc where
  lane    : Nat
  va      : W64
  place   : Place
  size    : Nat
  data    : List Byte
  cmp     : List Byte
  bank    : Nat
  arrived : Bool
  done    : Bool
  deriving DecidableEq, Repr

/-- How a loaded value enters its destination (Table 7.2): size in bytes and whether it is sign-extended. -/
structure LoadExt where
  size   : Nat
  signed : Bool
  deriving DecidableEq, Repr

/-- Where an outstanding access writes its result. -/
inductive PendDst where
  | none
  | vec (n : Nat) (regs : Nat)
  | scalar (n : Nat)
  | queue (n : Nat) (scalar : Bool)
  | geom (n : Nat)
  | fblock (n : Nat)
  deriving DecidableEq, Repr

/-- What an outstanding access does when it is performed. `atomic`: operation, type code, compare-and-swap, whether it
returns. `expand` is the local-store part of `LDX`, which counts as a load (R178). `stage` is a read of a peer's memory that
an instruction needs before it can complete; it stays in the table until that instruction issues again. `reload` is the load
that the replay of a fault token sends again, which no wait counter counts (R31, R164). -/
inductive PendKind where
  | load | store | ldq | expand | stage | reload
  | atomic (aop ty : BitVec 4) (cas : Bool) (ret : Bool)
  deriving DecidableEq, Repr

/-- An entry of the outstanding transaction table, or an unserved local-store instruction (R157, R163). `ev` gathers the numeric
events of an atomic performed in the core, which its issue records once (R87, R89). -/
structure Pending where
  id      : Nat
  grp     : Nat
  a       : Bool
  pc      : Va
  kind    : PendKind
  dst     : PendDst
  ext     : LoadExt
  accs    : List LaneAcc
  scope   : Scope
  acquire : Bool
  sync    : Bool
  nc      : Bool
  deps    : List Nat
  token   : Option Token
  corr    : W32
  refused : Option (W64 × BitVec 12 × BitVec 4)
  ev      : BitVec 6 := 0
  deriving DecidableEq, Repr

/-- One request for a local-store bank (R156): the bank, the core and outstanding access it belongs to, its source in the fixed
order (subcores 0–3; 10 for the buddy core, R316), and whether it has entered the bank's queue or still waits in its source. -/
structure BankReq where
  bank : Nat
  core : Nat
  pend : Nat
  word : Place
  source : Nat
  entered : Bool
  deriving DecidableEq, Repr

/-- A translation (R306): ASN, base of the page, log2 of the page size, and the leaf entry of Table 13.2. -/
structure TlbEntry where
  asn   : BitVec 16
  vbase : Nat
  bits  : Nat
  leaf  : W64
  deriving DecidableEq, Repr

/-- An upper-level entry that a walker has read and keeps until a `TLBI` covers it (R307): ASN, level, base of the range that the
entry covers, and the entry of Table 13.2. -/
structure WalkEntry where
  asn   : BitVec 16
  level : Nat
  vbase : Nat
  entry : W64
  deriving DecidableEq, Repr

/-- A walk that waits for or occupies a walker (R307): the core that missed, address space, root, page address. -/
structure WalkReq where
  core : Nat
  asn  : BitVec 16
  root : Nat
  va   : Nat
  deriving DecidableEq, Repr

/-- A finished walk that met an error, kept for the instruction that waits for it: cause 0x10 or 0x11 (R304); `entry` is
the listed range of R309. -/
structure WalkFault where
  asn   : BitVec 16
  page  : Nat
  cause : BitVec 8
  entry : W64
  deriving DecidableEq, Repr

/-- The kinds of engine command (Table 10.4). `cpyz` carries form and direction. -/
inductive CmdKind where
  | cpy | cpyg | cpys
  | cpyz (form : BitVec 2) (dec : Bool)
  | cpym | psel | cpyr
  | strep
  | fcoll (op : BitVec 2) (ty : BitVec 4)
  deriving DecidableEq, Repr

/-- The outcome fields of a command's status entry as it runs (Table 10.4). -/
structure CmdResult where
  ev  : BitVec 6
  cnt : Nat
  val : W32
  out : BitVec 3
  deriving DecidableEq, Repr

/-- An engine command, as read once at issue (R248, R253, R321, R446). `serial` names it in this model for its lifetime;
`xlat` keeps the translations made at issue (64 KiB page base, place of its first byte); `form` the header, bitmap or
index words read at issue. `query` holds what a command reads once when it starts (R321, R448). `fetched` holds bytes that
peers have answered, by peer and offset, of the `asked` ranges asked for; `badPeers` are the peers that refused or failed
(R449, R450). `ready` says that what it computes as a whole stands in `query`; `moved` and `landed` say how far it has run;
`lines` are the result lines of a collective that have come (R452); `relDone` the peers its release has gone to (R449; any
entry stands for the one release without `.each`); `waiting` counts its unanswered requests. -/
structure Command where
  serial  : Nat
  kind    : CmdKind
  seq     : BitVec 32
  prio    : Bool
  engine  : EngineId
  grp     : Nat
  a       : Bool
  wg      : Nat
  launch  : Option Nat
  region  : Nat
  core    : Nat
  grpNum  : Nat
  asn     : BitVec 16
  corr    : W32
  dstG    : BitVec 512
  srcG    : BitVec 512
  dstH    : W64
  srcH    : W64
  rounding : BitVec 2
  sat     : Bool
  idx     : List W32
  form    : List W64
  option  : W64
  listN   : Nat
  peers   : List (BitVec 12)
  each    : Bool
  barrier : Option W64
  startAt : Option W64
  release : Option (W64 × W32)
  sysScope : Bool
  promise : W64
  bytes   : Nat
  xlat    : List (Nat × Place)
  fences  : List FencePoint
  query   : List Byte
  fetched : Memory
  asked   : Nat
  badPeers : List (BitVec 12)
  moved   : Nat
  landed  : Nat
  result  : CmdResult
  ready   : Bool
  lines   : List Nat
  relDone : List (BitVec 12)
  started : Bool
  waiting : Nat
  arrived : Bool
  deriving DecidableEq, Repr

/-- Why a command is out of its engine: held by a single step in its group's header (R379, R408), as a tile task of a held
region (R409), or stopped at its boundary by a poisoned line, with the index of its fault record (R391). -/
inductive CmdHold where
  | step | task | poison (record : Nat)
  deriving DecidableEq, Repr

/-- A copy engine, page-selection engine or fabric egress engine (R242): queues in order, the running command, and the next
sequence number of each queue. -/
structure Engine where
  normal    : List Command
  prio      : List Command
  running   : Option Command
  seqN      : BitVec 32
  seqP      : BitVec 32
  deriving DecidableEq, Repr

/-- A pass or an accumulator move queued at a matrix unit (R226, R236). `rows` pairs a lane with its A row index; `sparse`
gives each lane of an `MMSP` the positions of its kept values (R228). -/
inductive PassOp where
  | mma (tile : Nat) (rows : List (Nat × W64)) (gA gB : BitVec 512) (hA hB : W64) (fmtA fmtB : BitVec 4)
      (desc : Option (BitVec 256)) (ow sat : Bool) (sparse : Option (List (Nat × List (BitVec 2))))
  | acld (tile : Nat) (mask : W32) (g : BitVec 512) (h : W64) (cell : BitVec 4) (scale : Int) (rounding : BitVec 2)
      (sat : Bool)
  | acst (tile : Nat) (mask : W32) (g : BitVec 512) (h : W64) (cell : BitVec 4) (scale : Int) (rounding : BitVec 2)
      (sat : Bool)
  deriving DecidableEq, Repr

/-- A queued pass with the group that issued it, the issuing instruction's PC (R89), the fence points it
waits for, and the tiles and vector registers it names (R238). -/
structure Pass where
  serial : Nat
  grp    : Nat
  pc     : Va
  op     : PassOp
  cycles : Nat
  fences : List FencePoint
  tiles  : List Nat
  vregs  : List Nat
  deriving DecidableEq, Repr

/-- A subcore (R145, R226): the running pass with the die cycle at which it ends, and the waiting passes; whether the
subcore has issued in the present die cycle (R147). -/
structure Subcore where
  running : Option (Pass × Nat)
  waiting : List Pass
  issued  : Bool
  deriving DecidableEq, Repr

/-- The locality throttle's state for one group slot (R150). -/
structure ThrottleSlot where
  score  : BitVec 16
  denied : Nat
  waited : Bool
  deriving DecidableEq, Repr

/-- One PC range of a core debug block (Table 18.4). -/
structure PcRange where
  lo   : Va
  hi   : Va
  en   : Bool
  fasn : Bool
  asn  : BitVec 16
  deriving DecidableEq, Repr

/-- The PC slot that is issuing: group, slice, slot. -/
structure Cursor where
  grp   : Nat
  a     : Bool
  slot1 : Bool
  deriving DecidableEq, Repr

/-- One core (Table 6.1). `bankq` holds the requests of every bank, oldest first. L1 lines are (physical line address, bringing group slot, 128 bytes), newest first. `served` are
the banks that have served a request in the present die cycle (R156); `ttWait` the slots that wait for entries of the
transaction table with their needs, oldest attempt first (R163); `snap` the counters at the start of the present die cycle
(R404); `ranges` are the PC ranges in effect, `rangesIn` those written, which take effect from the next die cycle (R403);
`decayAt` and `windowAt` the die cycles of the throttle's last halving and last window (R150). -/
structure Core where
  stampCtr : Nat
  subs     : Vector Subcore 4
  slots    : Vector ThrottleSlot 64
  limit    : Nat
  allowed  : List Nat
  lothr    : W32
  l1       : List (Nat × Nat × List Byte)
  victims  : List (Nat × Nat)
  tlb      : List TlbEntry
  faults   : List WalkFault
  pend     : List Pending
  nextPend : Nat
  bankq    : List BankReq
  served   : List Nat
  ttWait   : List (Cursor × Nat)
  eng      : Vector Engine 2
  ranges   : Vector PcRange 16
  rangesIn : Vector PcRange 16
  counters : Vector (Vector (BitVec 48) 11) 17
  snap     : Vector (Vector (BitVec 48) 11) 17
  decayAt  : Nat
  windowAt : Nat
  deriving DecidableEq, Repr

/-- An open group of the coupler (R295): its key, its records by lane, its idle timer. -/
structure OpenGroup where
  code   : Va
  region : W32
  recs   : List (BitVec 256)
  idle   : Nat
  deriving DecidableEq, Repr

/-- An entry of a cluster's workgroup stream (R283): a cluster set of a launch (first index, member count), or saved
contexts that re-enter (R297). `other` is the buddy cluster of a pair set. -/
structure WaitSet where
  launch  : Nat
  first   : Nat
  members : Nat
  ctxs    : List Nat
  est     : Nat
  deriving DecidableEq, Repr

/-- A ready item group, or a saved item group that re-enters (R284, R297). -/
structure ReadyItem where
  code   : Va
  region : W32
  recs   : List (BitVec 256)
  ctx    : Option Nat
  deriving DecidableEq, Repr

/-- One cluster (spec 12): streams with the die cycle at which each head became head, item queue (on chip first; the
records beyond 4,096 lie as bytes in the spill area, the oldest in record `spillHead` of it, `spillLen` of them: R286), records
still entering (the last of a `SPAWN` names the slice whose stores counter it lowers) with the die cycle of their issue, coupler,
item-group number, page-selection engine. `packAt` and `enterAt` are the die cycles in which the coupler last packed and records
last entered. -/
structure Cluster where
  wgStream   : List WaitSet
  wgSince    : Nat
  itemStream : List ReadyItem
  itemSince  : Nat
  preferItem : Bool
  tryAdmit   : Bool
  itemq      : List (BitVec 256)
  spillHead  : Nat
  spillLen   : Nat
  entering   : List (BitVec 256 × Option (Nat × Bool) × Nat)
  opened     : List OpenGroup
  itemSeq    : BitVec 60
  packAt     : Nat
  enterAt    : Nat
  psel       : Engine
  deriving DecidableEq, Repr

/-- One compute die (spec 13): clock, shared TLB, walk cache, misses that wait for a walk, fabric egress engine, and how it stands (R392,
R419). `lead` is how far its PTB copy is ahead of the generator (R357). -/
structure Die where
  dcyc      : Nat
  nextEdge  : Nat
  stretch   : Bool
  stretched : Nat
  recent    : List Nat
  lead      : Nat
  tlb       : List TlbEntry
  wcache    : List WalkEntry
  missq     : List WalkReq
  egress    : Engine
  present   : Bool
  fenced    : Bool
  deriving DecidableEq, Repr

/-- A launch in expansion or with work outstanding (R367, R371). `next` is the first index not yet handed out; `back` are the
first indices of sets that came back to the distributor (R392); `topSince` is the PTB since which a co-resident launch has been
the highest candidate without fitting (R369); `code` is what memory held when the launch was accepted, with the page fills
since: what its workgroups fetch (R41). -/
structure Launch where
  id       : Nat
  region   : Nat
  record   : BitVec 1024
  recAddr  : Nat
  desc     : BitVec 1024
  next     : Nat
  retired  : Nat
  energy   : Nat
  est      : Nat
  since    : Nat
  replayed : Bool
  back     : List Nat
  topSince : Option Nat
  code     : Memory
  deriving DecidableEq, Repr

/-- The part's own view of an active region (R360, R368, R378, R405). `ebud` and `win` are the values of the present window
(R361, R373); `headSince` is the launch-queue place whose descriptor a page fill has been asked for (R367); `recs` are the
fault-queue places that have held a record (R376). -/
structure Region where
  num      : Nat
  launches : List Nat
  stopped  : Bool
  attached : Bool
  holdTasks : Bool
  deferred : List (BitVec 4096)
  headSince : Option Nat
  ebud      : Nat
  win       : Nat
  lap       : Bool
  recs      : List Nat
  deriving DecidableEq, Repr

/-- Where a saved context stands (R297, R377, R384). -/
inductive CtxPhase where
  | saved | resumed | waitingPages
  deriving DecidableEq, Repr

/-- A saved workgroup (R380): where its image lies and what the part itself holds of it. -/
structure Ctx where
  id      : Nat
  region  : Nat
  launch  : Option Nat
  addr    : Nat
  pages   : Nat
  owner   : Nat
  phase   : CtxPhase
  reason  : OutReason
  record  : Option Nat
  needed  : List W64
  shell   : Wg
  shells  : List Group
  resend  : List Pending
  setId   : Nat
  step    : Bool
  cluster : Nat
  deriving DecidableEq, Repr

/-- A halt on its way (R165): workgroup, core, subcore, and the die cycle at which it arrives. -/
structure HaltMsg where
  wg   : Nat
  core : Nat
  sub  : Nat
  due  : Nat
  deriving DecidableEq, Repr

/-- A local_complete message between the halves of a pair object (R318). -/
structure PairMsg where
  wg    : Nat
  half1 : Bool
  off   : Nat
  count : BitVec 16
  deriving DecidableEq, Repr

/-- A watch armed on a barrier object (R196): the object, the watched word's address and place, the PTB of the next read, and whether
a coherence event has reached its line since the last read. -/
structure Watch where
  wg    : Nat
  half1 : Bool
  off   : Nat
  va    : W64
  place : Place
  next  : Nat
  event : Bool
  deriving DecidableEq, Repr

/-- What a port sends to the host: a raised vector, or the completion of a read. -/
inductive HostOut where
  | vector (v : Nat)
  | completion (bytes : List Byte)
  deriving DecidableEq, Repr

/-- One host port (R411 to R417, Table 19.2). `adopting` says that the other port is taking over this port's
regions, one after another (R417); `vectors` are the pending MSI-X vectors, `msix` the bytes of the MSI-X table, `out`
what was sent to the host, newest last. -/
structure Port where
  up        : Bool
  downSince : Nat
  beat      : Nat
  failed    : Bool
  adopting  : Bool
  adoptedFrom : Bool
  adopted   : Bool
  drops     : BitVec 32
  dropRegion : BitVec 16
  dropReason : BitVec 3
  b2base    : BitVec 52
  vectors   : List Nat
  msix      : Memory
  out       : List HostOut
  deriving DecidableEq, Repr

/-- One fabric port (Table 21.1), the time at which it last went down (R454), its credits and received-return counts per virtual channel (R441, R442). -/
structure FabPort where
  up      : Bool
  lanes   : BitVec 3
  rounds  : BitVec 2
  dis     : Bool
  en      : Bool
  retrains : BitVec 32
  lport   : BitVec 16
  downAt  : Nat
  credits : Vector Nat 4
  returns : Vector (BitVec 16) 4
  deriving DecidableEq, Repr

/-- Who waits for a fabric request or a held host request of this part; `part`: nobody (a launch's completion, R371). -/
inductive FabOwner where
  | access (core pend : Nat) (lanes : List Nat)
  | command (e : EngineId) (peer : BitVec 12) (bytes : Nat)
  | releaseOf (e : EngineId)
  | watch (wg : Nat) (half1 : Bool) (off : Nat)
  | part
  deriving DecidableEq, Repr

/-- An unanswered request of this part to a peer (R438, R444). -/
structure FabOut where
  id    : Nat
  peer  : BitVec 12
  seq   : BitVec 32
  req   : FabReq
  owner : FabOwner
  sent  : Nat
  tries : Nat
  plane : Nat
  deriving DecidableEq, Repr

/-- What the fabric egress sends that is no request: collective contributions, correlation packets, answers. -/
inductive FabMsg where
  | answer (dst : BitVec 12) (seq : BitVec 32) (a : FabAnswer)
  | contribution (coll : Nat) (inst : BitVec 32) (line plane : Nat) (op : BitVec 2) (ty : BitVec 4) (count : Nat)
      (data : List Byte)
  | correlation (dst : BitVec 12) (corr : W32) (engine : BitVec 16) (queue : BitVec 2) (seq : BitVec 32)
  | request (r : FabReq) (dst : BitVec 12) (plane : Nat)
  deriving DecidableEq, Repr

/-- The fabric attachment (spec 21). `part` and `coll` list the entries that are not zero. `held` are the requests that wait for a
page, each with the time of its last answer and whether its record is written (R434). -/
structure Fabric where
  dev     : BitVec 12
  xroot   : BitVec 64
  xasn    : BitVec 16
  xreg    : BitVec 16
  ports   : Vector FabPort 48
  part    : List (Nat × BitVec 64)
  coll    : List (Nat × BitVec 128)
  seqOut  : List (Nat × BitVec 32)
  outs    : List FabOut
  nextId  : Nat
  answered : List (BitVec 12 × BitVec 32 × FabAnswer)
  held    : List (FabReq × Nat × Bool)
  collNo  : List (Nat × BitVec 32)
  sent    : List FabMsg
  ftoff   : W64
  joined  : Bool
  deriving DecidableEq, Repr

/-- A hardware breakpoint and a watchpoint (Table 18.5). -/
structure Breakpoint where
  pc     : Va
  region : BitVec 16
  en     : Bool
  deriving DecidableEq, Repr

/-- A hardware watchpoint (Table 18.5). -/
structure Watchpoint where
  addr   : Va
  region : BitVec 16
  en     : Bool
  rd     : Bool
  wr     : Bool
  sz     : BitVec 3
  deriving DecidableEq, Repr

/-- What a stepped `SPAWN`, `SPAWNJ` or `LAUNCH` started, held until its group next runs (R408): continuation records for a
cluster's item queue, and a launch record for a region's queue. -/
structure HeldWork where
  wg      : Nat
  grp     : Nat
  a       : Bool
  cluster : Nat
  recs    : List (BitVec 256)
  launch  : Option (Nat × List Byte)
  counted : Bool
  deriving DecidableEq, Repr

/-- The package controller, its registers (Tables 16.1, 17.2, 18.5, 19.2) and the distributor. `circuits` are the
connection-table entries whose circuit is being changed (R351), `lostWl` the entries that have lost a wavelength, once for
each (R390). `power` is the energy of the last millisecond that was measured, in µJ, `powerAt` the PTB and `powerBase` the
`pkg.etot` at its end (R364). `heldHost` are the part's own writes to host memory whose port is down (R413), `uploads` how often
the images A and B have been replaced (R420). -/
structure Package where
  pwr     : BitVec 16
  etot    : BitVec 48
  rtab    : BitVec 64
  rmax    : BitVec 16
  rstat   : BitVec 21
  cstat   : BitVec 13
  gres    : BitVec 14
  ctab    : Vector (BitVec 64) 512
  circuits : List Nat
  lostWl  : List Nat
  spill   : Vector (BitVec 96) 64
  fdst    : BitVec 20
  pstat   : BitVec 20
  cerr    : BitVec 48
  dstat   : BitVec 20
  bps     : Vector Breakpoint 4
  wps     : Vector Watchpoint 4
  stage   : BitVec 4
  slotB   : Bool
  dies    : BitVec 24
  hbper   : BitVec 32
  attBusy : Bool
  attPort1 : Bool
  attResult : BitVec 3
  attAddr : BitVec 52
  nonce   : BitVec 256
  leaf    : Nat
  images  : BootInputs
  port0   : Port
  port1   : Port
  power    : Nat
  powerAt  : Nat
  powerBase : BitVec 48
  rr      : Vector Nat 16
  lastSet : Option Nat
  heldCmds : List (CmdHold × Command)
  heldWork : List HeldWork
  heldHost : List (Nat × List Byte)
  uploads : Nat × Nat
  deriving DecidableEq, Repr

/-- The whole machine. `inputs` are the events the world outside decides (hosts, peers, errors) and any choice of order
among the part's own events; step takes them in order. `cur` is the slot step has chosen. `time` counts tenths of a
nanosecond since the PTB started; `ptbFine` is the PTB in units of 10^-9 ticks and `rate` its present slew in parts of 10^8
(R357, R455). `fresh` counts free values taken (Config): the model's own field, not the spec's. -/
structure State where
  mem      : Memory
  poison   : List Nat
  restored : List Nat
  groups   : List Group
  wgs      : List Wg
  cores    : Vector Core 512
  clusters : Vector Cluster 64
  dies     : Vector Die 8
  pkg      : Package
  regions  : List Region
  launches : List Launch
  ctxs     : List Ctx
  halts    : List HaltMsg
  pairMsgs : List PairMsg
  watches  : List Watch
  fabric   : Fabric
  time     : Nat
  ptbFine  : Nat
  rate     : Int
  nextId   : Nat
  inputs   : List Instr
  cur      : Option Cursor
  fresh    : Nat
  deriving DecidableEq, Repr

/-- No value in any lane. -/
def Lanes.zero : Lanes := Vector.replicate 32 0#32

/-- A counter register with nothing counted. -/
def EvCounter.reset : EvCounter := { thr := 0, count := 0, win := 0, last := 0 }

/-- A slice with every register at the value Table 1.2, Table 3.6 and Table 5.3 give for reset, no vector register
allocated and no live slot. -/
def Slice.reset : Slice :=
  { slot0 := none, slot1 := none, hold0 := none, hold1 := none, last1 := true, ageCtr := 0, dstackN := 0, cstackN := 0,
    dages := [], vreg := [], pred := Vector.replicate 16 0, sreg := Vector.replicate 32 0, q12 := [], q13 := [], q14 := [],
    cause := 0, aux0 := 0, aux1 := 0, epc := 0, skid := 0, fpc := 0, estat := 0, gbank := 0, corr := 0, evctl := 0,
    evc := Vector.replicate 6 EvCounter.reset, emask := 0, hmode := false, hscr0 := 0, hscr1 := 0, lgeom := 0,
    frozen := none, loads := 0, stores := 0, copies := 0, passes := 0, fences := [], relIds := [], acqIds := [],
    due48 := none, due53 := none, wait0 := none, wait1 := none, sleep := none, yieldEnd := none, heldPop := none, tlbi := none,
    halt := .running, bpSkip := none, stepped := false, ended := false }

/-- An undeclared queue register. -/
def Queue.reset : Queue := { depth := 0, x2a := false, scalar := false, entries := [], phases := 0, head := 0 }

/-- An engine with empty queues. -/
def Engine.reset : Engine :=
  { normal := [], prio := [], running := none, seqN := 0, seqP := 0 }

/-- An idle subcore. -/
def Subcore.reset : Subcore := { running := none, waiting := [], issued := false }

/-- A disabled PC range of a core debug block (Table 18.4). -/
def PcRange.reset : PcRange := { lo := 0, hi := 0, en := false, fasn := false, asn := 0 }

/-- A core after die reset: nothing resident, the throttle limit 64 (R150), `sys.lothr` 256 (Table 1.2). -/
def Core.reset : Core :=
  { stampCtr := 0, subs := Vector.replicate 4 Subcore.reset,
    slots := Vector.replicate 64 { score := 0, denied := 0, waited := false }, limit := 64, allowed := [], lothr := 256,
    l1 := [], victims := [], tlb := [], faults := [], pend := [], nextPend := 0, bankq := [], served := [], ttWait := [],
    eng := Vector.replicate 2 Engine.reset, ranges := Vector.replicate 16 PcRange.reset,
    rangesIn := Vector.replicate 16 PcRange.reset, counters := Vector.replicate 17 (Vector.replicate 11 0), snap := Vector.replicate 17 (Vector.replicate 11 0),
    decayAt := 0, windowAt := 0 }

/-- A cluster with nothing queued. -/
def Cluster.reset : Cluster :=
  { wgStream := [], wgSince := 0, itemStream := [], itemSince := 0, preferItem := false, tryAdmit := false, itemq := [],
    spillHead := 0, spillLen := 0, entering := [], opened := [], itemSeq := 0, packAt := 0, enterAt := 0, psel := Engine.reset }

/-- A die before the boot takes it into service. -/
def Die.reset : Die :=
  { dcyc := 0, nextEdge := 0, stretch := false, stretched := 0, recent := [], lead := 0, tlb := [], wcache := [], missq := [],
    egress := Engine.reset, present := false, fenced := false }

/-- A host port after reset (Table 19.2). -/
def Port.reset : Port :=
  { up := true, downSince := 0, beat := 0, failed := false, adopting := false, adoptedFrom := false, adopted := false, drops := 0,
    dropRegion := 0, dropReason := 0, b2base := 0, vectors := [], msix := [], out := [] }

/-- A fabric port after reset (Table 21.1). -/
def FabPort.reset : FabPort :=
  { up := false, lanes := 0, rounds := 0, dis := false, en := false, retrains := 0, lport := 0, downAt := 0,
    credits := Vector.replicate 4 512, returns := Vector.replicate 4 0 }

/-- The fabric attachment after reset (Table 21.1, `sys.ftoff` of R455). -/
def Fabric.reset : Fabric :=
  { dev := 0, xroot := 0, xasn := 0, xreg := 0, ports := Vector.replicate 48 FabPort.reset, part := [], coll := [],
    seqOut := [], outs := [], nextId := 0, answered := [], held := [], collNo := [], sent := [], ftoff := 0,
    joined := false }

/-- The 36 valid connection-table entries of R352 as the words of Table 16.2. -/
def ctabDefault : List Nat :=
  [0x51010, 0x51032, 0x51054, 0x51076, 0x40420, 0x40430, 0x40440, 0x40450, 0x40460, 0x40470, 0x40421, 0x40431] ++
  [0x40441, 0x40451, 0x40461, 0x40471, 0x40442, 0x40452, 0x40462, 0x40472, 0x40443, 0x40453, 0x40463, 0x40473] ++
  [0x40464, 0x40474, 0x40465, 0x40475, 0x61480, 0x61481, 0x61482, 0x61483, 0x61484, 0x61485, 0x61486, 0x61487]

/-- The package controller after reset: the reset values of Tables 16.1, 17.2, 18.5 and 19.2 and the connection table of
R352. -/
def Package.reset : Package :=
  { pwr := 3200, etot := 0, rtab := 0, rmax := 0, rstat := 0, cstat := 0, gres := 0,
    ctab := tabulate 512 (fun i => BitVec.ofNat 64 (ctabDefault.getD i.val 0)), circuits := [], lostWl := [],
    spill := Vector.replicate 64 0, fdst := 0, pstat := 0, cerr := 0, dstat := 0,
    bps := Vector.replicate 4 { pc := 0, region := 0, en := false },
    wps := Vector.replicate 4 { addr := 0, region := 0, en := false, rd := false, wr := false, sz := 0 },
    stage := 0, slotB := false, dies := 0, hbper := 100000000, attBusy := false, attPort1 := false, attResult := 0, attAddr := 0, nonce := 0,
    leaf := 0, images := { imageA := true, imageB := true, trained := true, diesAuth := 0xFF }, port0 := Port.reset,
    port1 := Port.reset, power := 0, powerAt := 0, powerBase := 0, rr := Vector.replicate 16 0,
    lastSet := none, heldCmds := [], heldWork := [],
    heldHost := [], uploads := (0, 0) }

/-- The machine right after reset: no group resident, memory listing nothing, the package controller in its boot ROM
(R418). -/
def State.reset : State :=
  { mem := [], poison := [], restored := [], groups := [], wgs := [], cores := Vector.replicate 512 Core.reset,
    clusters := Vector.replicate 64 Cluster.reset, dies := Vector.replicate 8 Die.reset, pkg := Package.reset,
    regions := [], launches := [], ctxs := [], halts := [], pairMsgs := [], watches := [], fabric := Fabric.reset,
    time := 0, ptbFine := 0, rate := 0, nextId := 0, inputs := [], cur := none, fresh := 0 }

/-- Faults: states in which the machine has no next state to give. -/
inductive Fault where
  /-- Raised when an instruction is executed with no issuing slot, which `step` never does. Safe: no hardware state. -/
  | noIssuer
  deriving DecidableEq, Repr

/-- Refusals. -/
inductive Refusal where
  /-- An instruction this model gives no meaning to yet. Raised by the dispatcher alone. Safe. -/
  | notModelled (mnemonic : String)
  deriving DecidableEq, Repr

end Sys2Proof.Machine
end

