-- ==== Sys2Proof/Machine/Memory.lean ====
section
/-!
DEFINITION. Bytes, bit fields and the memory list: one read and one write of a byte, and everything wider built from them
(little-endian, R5). Used for device memory, for local-store allocations and for host memory (spec 13_die.md R299, R300;
06_core.md R152).
-/
namespace Sys2Proof.Machine

/-- Bits [lo+w-1 : lo] of a number. -/
def bitsAt (x lo w : Nat) : Nat := (x / 2 ^ lo) % 2 ^ w

/-- One bit of a number. -/
def bitAt (x i : Nat) : Bool := x.testBit i

/-- A number with bits [lo+w-1 : lo] replaced by the low w bits of v. -/
def setBits (x lo w v : Nat) : Nat :=
  x % 2 ^ lo + 2 ^ lo * (v % 2 ^ w) + 2 ^ (lo + w) * (x / 2 ^ (lo + w))

/-- The bytes of a number, least significant first. -/
def toBytes : Nat → Nat → List Byte
  | 0, _ => []
  | n + 1, v => BitVec.ofNat 8 v :: toBytes n (v / 256)

/-- The number that a little-endian byte list holds. -/
def ofBytes : List Byte → Nat
  | [] => 0
  | b :: bs => b.toNat + 256 * ofBytes bs

/-- The sign extension of the low w bits of x, as an integer. -/
def sextNat (w x : Nat) : Int :=
  let y := x % 2 ^ w
  if y.testBit (w - 1) then (y : Int) - (2 ^ w : Nat) else (y : Int)

/-- x rounded up to a multiple of a. -/
def roundUp (x a : Nat) : Nat := (x + a - 1) / a * a

/-- What an unlisted address reads as: 0 (notes/assumptions/1.md). -/
def Memory.background : Byte := 0#8

/-- The canonical form of a memory: addresses strictly rising, no byte equal to the background. -/
def Memory.wf : Memory → Bool
  | [] => true
  | [c] => c.2 != Memory.background
  | c :: d :: m => c.2 != Memory.background && decide (c.1 < d.1) && Memory.wf (d :: m)

/-- The byte at an address. -/
def Memory.read : Memory → Nat → Byte
  | [], _ => Memory.background
  | c :: m, a => if c.1 = a then c.2 else if a < c.1 then Memory.background else Memory.read m a

/-- Put a byte at an address, keeping the canonical form. -/
def Memory.write : Memory → Nat → Byte → Memory
  | [], a, b => if b = Memory.background then [] else [(a, b)]
  | c :: m, a, b =>
    if c.1 = a then (if b = Memory.background then m else (a, b) :: m)
    else if a < c.1 then (if b = Memory.background then c :: m else (a, b) :: c :: m)
    else c :: Memory.write m a b

/-- n bytes from an address upward. -/
def Memory.readBytes (m : Memory) (a : Nat) : Nat → List Byte
  | 0 => []
  | n + 1 => m.read a :: Memory.readBytes m (a + 1) n

/-- Write a byte list from an address upward. -/
def Memory.writeBytes : Memory → Nat → List Byte → Memory
  | m, _, [] => m
  | m, a, b :: bs => Memory.writeBytes (m.write a b) (a + 1) bs

/-- An n-byte little-endian number. -/
def Memory.readNat (m : Memory) (a n : Nat) : Nat := ofBytes (m.readBytes a n)

/-- Write a number as n bytes, little-endian. -/
def Memory.writeNat (m : Memory) (a n v : Nat) : Memory := m.writeBytes a (toBytes n v)

/-- Bits [lo+w-1 : lo] of the record at an address, bit 0 being bit 0 of its first byte. -/
def Memory.readBits (m : Memory) (a lo w : Nat) : Nat :=
  bitsAt (m.readNat (a + lo / 8) ((lo % 8 + w + 7) / 8)) (lo % 8) w

/-- Replace bits [lo+w-1 : lo] of the record at an address. -/
def Memory.writeBits (m : Memory) (a lo w v : Nat) : Memory :=
  let n := (lo % 8 + w + 7) / 8
  m.writeNat (a + lo / 8) n (setBits (m.readNat (a + lo / 8) n) (lo % 8) w v)

/-- The parity of a number of at most 64 bits: the sum of its bits modulo 2. -/
def parity (x : Nat) : Nat → Nat
  | 0 => 0
  | n + 1 => (x % 2 + parity (x / 2) n) % 2

/-- The number of ones among the low n bits. -/
def popCount (x : Nat) : Nat → Nat
  | 0 => 0
  | n + 1 => x % 2 + popCount (x / 2) n

end Sys2Proof.Machine
end

