-- ==== Sys2Proof/Machine/Map.lean ====
section
/-!
DEFINITION. The physical memory map (spec 16_package_work.md R353 to R356, 19_host.md R419): which cell of storage a
physical address names. Device storage is kept under its die-window or LPDDR address, so the aliases of R354 and R355
reach the same bytes; host memory is kept under its own address (R413).
-/
namespace Sys2Proof.Machine

/-- One GiB. -/
def gib : Nat := 2 ^ 30

/-- The dies in service, ascending (R419). -/
def State.presentDies (s : State) : List Nat := (List.range 8).filter (fun d => s.pkg.dies.getLsbD d)

/-- The guarded reservation of a quad in GiB (`pkg.gres`); 0 when the quad holds a dark die (R419). -/
def State.guardGib (s : State) (quad : Nat) : Nat :=
  if (List.range 4).all (fun i => s.pkg.dies.getLsbD (4 * quad + i)) then
    (s.pkg.gres.extractLsb' (8 * quad) 6).toNat
  else 0

/-- A place in die d's bonded DRAM that a program or the part may reach: inside the fitted memory (Table 16.3), the die
in service, outside the reserved range of R355. -/
def State.window (s : State) (d off : Nat) : Option Nat :=
  let r := s.guardGib (d / 4)
  if s.pkg.dies.getLsbD d && decide (off < (if d < 6 then 48 else 64) * gib) &&
      !(decide (48 * gib - r * gib ≤ off) && decide (off < 48 * gib) && decide (0 < r)) then
    some (d * 2 ^ 36 + off)
  else none

/-- The storage address of a physical address (Table 16.3, R354, R355, R419); `none` where nothing stands (R353). -/
def State.canonPa (s : State) (pa : Nat) : Option Nat :=
  let p := s.presentDies
  let n := p.length
  if pa < 0x8000000000 then s.window (pa / 2 ^ 36) (pa % 2 ^ 36)
  else if pa < 0xE000000000 then
    let off := pa - 0x8000000000
    let g := off / 2 ^ 21
    if n = 0 then none
    else if off < n * 48 * gib then s.window (p.getD (g % n) 0) (g / n * 2 ^ 21 + off % 2 ^ 21) else none
  else if 0x10000000000 ≤ pa ∧ pa < 0x18000000000 then
    let quad := if pa < 0x14000000000 then 0 else 1
    let off := (pa - 0x10000000000) % 0x4000000000
    let r := s.guardGib quad
    let g := off / 2 ^ 21
    let row := g / 3
    let others := ((List.range 4).filter (fun i => i != row % 4)).map (fun i => 4 * quad + i)
    if off < 3 * r * gib then
      some (others.getD (g % 3) 0 * 2 ^ 36 + (48 * gib - r * gib + row * 2 ^ 21 + off % 2 ^ 21))
    else none
  else if 0x20000000000 ≤ pa ∧ pa < 0x38000000000 then some pa
  else if 2 ^ 51 ≤ pa ∧ pa < 2 ^ 52 then some pa
  else none

/-- The die whose bonded DRAM holds a storage address, if any (R353, R392). -/
def homeDie (pa : Nat) : Option Nat := if pa < 0x8000000000 then some (pa / 2 ^ 36) else none

/-- The die that a line of device memory is homed on (R300): the LPDDR 6 tier is spread over the dies present at boot as the
interleaved aperture is (R419). -/
def State.homeOf (s : State) (pa : Nat) : Option Nat :=
  if 0x20000000000 ≤ pa ∧ pa < 0x38000000000 then
    let p := s.presentDies
    p[(pa - 0x20000000000) / 2 ^ 21 % p.length]?
  else homeDie pa

/-- Does a storage address lie in the range that guarded memory reserves on its die (R355)? -/
def State.inGuard (s : State) (pa : Nat) : Bool :=
  let d := pa / 2 ^ 36
  let off := pa % 2 ^ 36
  decide (48 * gib - s.guardGib (d / 4) * gib ≤ off) && decide (off < 48 * gib)

/-- Is the 128-byte line of a storage address poisoned (R391)? The unguarded lines of a fenced die are, until a full-line
write restores one (R392). -/
def State.poisoned (s : State) (pa : Nat) : Bool :=
  s.poison.contains (pa / 128) ||
  (match s.homeOf pa with
    | some d => (match s.dies[d]? with | some x => x.fenced | none => false) && !s.inGuard pa &&
        !s.restored.contains (pa / 128)
    | none => false)

/-- The lines that a range covers whole. -/
def wholeLines (pa n : Nat) : List Nat :=
  let first := (pa + 127) / 128
  (List.range ((pa + n) / 128 - first)).map (fun i => first + i)

/-- A write that covers a whole line clears its poison (R391). -/
def State.clearPoison (s : State) (lines : List Nat) : State :=
  if lines.isEmpty then s
  else { s with poison := s.poison.filter (fun l => !lines.contains l),
                restored := s.restored ++ lines.filter (fun l => !s.restored.contains l && s.poisoned (128 * l)) }

/-- The part's own read of n bytes at a physical address; an address that names nothing reads 0. -/
def State.peek (s : State) (pa n : Nat) : Nat :=
  match s.canonPa pa with
  | some a => s.mem.readNat a n
  | none => 0

/-- The part's own read of a bit field of a record at a physical address. -/
def State.peekBits (s : State) (pa lo w : Nat) : Nat :=
  match s.canonPa pa with
  | some a => s.mem.readBits a lo w
  | none => 0

/-- The part's own write of n bytes at a physical address; an address that names nothing takes nothing. -/
def State.poke (s : State) (pa n v : Nat) : State :=
  match s.canonPa pa with
  | some a => { s with mem := s.mem.writeNat a n v }
  | none => s

/-- The part's own write of a bit field of a record at a physical address. -/
def State.pokeBits (s : State) (pa lo w v : Nat) : State :=
  match s.canonPa pa with
  | some a => { s with mem := s.mem.writeBits a lo w v }
  | none => s

/-- The part's own write of a byte list at a physical address; lines that it covers whole lose their poison (R391). -/
def State.pokeBytes (s : State) (pa : Nat) (bs : List Byte) : State :=
  match s.canonPa pa with
  | some a => { s with mem := s.mem.writeBytes a bs }.clearPoison (wholeLines a bs.length)
  | none => s

/-! ### Region control blocks (R360, R361) -/

/-- The physical address of a region's control block. -/
def State.rcbAddr (s : State) (r : Nat) : Nat := s.pkg.rtab.toNat + 256 * r

/-- A field of a region's own control block (Table 16.4). -/
def State.rcb (s : State) (r lo w : Nat) : Nat := s.peekBits (s.rcbAddr r) lo w

/-- Write a field of a region's control block. -/
def State.setRcb (s : State) (r lo w v : Nat) : State := s.pokeBits (s.rcbAddr r) lo w v

/-- The region whose value field group `bit` takes for region r: r itself when its own bit is set or it is a root, else
the nearest ancestor that owns it (R361). The fuel bounds the climb. -/
def State.ownerOf (s : State) (bit : Nat) : Nat → Nat → Nat
  | 0, r => r
  | fuel + 1, r =>
    let parent := s.rcb r 32 32
    if parent = 0 ∨ (s.rcb r 96 12).testBit bit then r else s.ownerOf bit fuel parent

/-- The longest chain of ancestors a climb follows: one per active region. -/
def State.climb (s : State) : Nat := s.regions.length + 1

/-- A field of the group's owner (R361). -/
def State.rcbOwned (s : State) (bit r lo w : Nat) : Nat := s.rcb (s.ownerOf bit s.climb r) lo w

/-- The region and its ancestors, nearest first. -/
def State.chain (s : State) : Nat → Nat → List Nat
  | 0, _ => []
  | fuel + 1, r => if r = 0 then [] else r :: s.chain fuel (s.rcb r 32 32)

/-- The region's handler PC; 0: no handler (group 6). -/
def State.hpc (s : State) (r : Nat) : Nat := s.rcbOwned 6 r 448 56

end Sys2Proof.Machine
end

