-- ==== Sys2Proof/Machine/Ops.lean ====
section
/-!
DEFINITION. The shared operations of the machine: reaching the parts of the state, how an instruction's meaning runs
(`Exec`, `issue`), taking a trap and leaving handler mode (spec 05_group_float_lanes.md R139 to R144), halts
(06_core.md R165 to R167), trace records (18_debug.md R397 to R399) and lane-cycle records (R401, R402).
-/
namespace Sys2Proof.Machine

/-! ### Reaching the parts of the state -/

/-- Core number 64d + 8c + k. -/
def State.core (s : State) (i : Nat) : Core := (s.cores[i]?).getD Core.reset
/-- Change one core. -/
def State.modCore (s : State) (i : Nat) (f : Core → Core) : State :=
  { s with cores := s.cores.setIfInBounds i (f (s.core i)) }
/-- Cluster number 8d + c. -/
def State.cluster (s : State) (i : Nat) : Cluster := (s.clusters[i]?).getD Cluster.reset
/-- Change one cluster. -/
def State.modCluster (s : State) (i : Nat) (f : Cluster → Cluster) : State :=
  { s with clusters := s.clusters.setIfInBounds i (f (s.cluster i)) }
/-- A die. -/
def State.die (s : State) (i : Nat) : Die := (s.dies[i]?).getD Die.reset
/-- Change one die. -/
def State.modDie (s : State) (i : Nat) (f : Die → Die) : State :=
  { s with dies := s.dies.setIfInBounds i (f (s.die i)) }
/-- The group of an id. -/
def State.group? (s : State) (id : Nat) : Option Group := s.groups.find? (fun g => g.id == id)
/-- Change one group. -/
def State.modGroup (s : State) (id : Nat) (f : Group → Group) : State :=
  { s with groups := s.groups.map (fun g => if g.id = id then f g else g) }
/-- The resident workgroup of an id. -/
def State.wg? (s : State) (id : Nat) : Option Wg := s.wgs.find? (fun w => w.id == id)
/-- Change one workgroup. -/
def State.modWg (s : State) (id : Nat) (f : Wg → Wg) : State :=
  { s with wgs := s.wgs.map (fun w => if w.id = id then f w else w) }

/-- A slice of a group: the A-slice or the X-slice (R10). -/
def Group.slice? (g : Group) (a : Bool) : Option Slice := if a then g.a else some g.x
/-- Change one slice of a group. -/
def Group.modSlice (g : Group) (a : Bool) (f : Slice → Slice) : Group :=
  if a then { g with a := g.a.map f } else { g with x := f g.x }
/-- Change one slice. -/
def State.modSlice (s : State) (grp : Nat) (a : Bool) (f : Slice → Slice) : State :=
  s.modGroup grp (fun g => g.modSlice a f)
/-- The slice of a group id. -/
def State.slice? (s : State) (grp : Nat) (a : Bool) : Option Slice := (s.group? grp).bind (fun g => g.slice? a)

/-- A PC slot of a slice (R18). -/
def Slice.slot (sl : Slice) (one : Bool) : Option Path := if one then sl.slot1 else sl.slot0
/-- Put a path into a slot, or free it. -/
def Slice.setSlot (sl : Slice) (one : Bool) (p : Option Path) : Slice :=
  if one then { sl with slot1 := p } else { sl with slot0 := p }
/-- Mark a slot as held, or clear the mark. -/
def Slice.setHold (sl : Slice) (one : Bool) (h : Option Hold) : Slice :=
  if one then { sl with hold1 := h } else { sl with hold0 := h }
/-- The mark of a slot. -/
def Slice.hold (sl : Slice) (one : Bool) : Option Hold := if one then sl.hold1 else sl.hold0

/-- The die of a core. -/
def dieOf (core : Nat) : Nat := core / 64
/-- The cluster of a core. -/
def clusterOf (core : Nat) : Nat := core / 8
/-- The buddy core of a core: the same place on the buddy die (R315). -/
def buddyOf (core : Nat) : Nat := if dieOf core % 2 = 0 then core + 64 else core - 64
/-- The PTB copy of a die in ticks (R357). -/
def State.ptb (s : State) (die : Nat) : Nat := s.ptbFine / 10 ^ 9 + (s.die die).lead
/-- A package-wide PTB value at the routing die. -/
def State.ptb0 (s : State) : Nat := s.ptbFine / 10 ^ 9

/-! ### How a meaning runs -/

/-- What a trap records (R140): cause, auxiliary words, the PC it leaves, and `sys.fpc` where the cause sets it. -/
structure TrapInfo where
  cause : BitVec 8
  aux0  : W64
  aux1  : W64
  epc   : Va
  fpc   : Option Va
  deriving DecidableEq, Repr

/-- Why an instruction does not complete: it traps, it holds its slot (R18) and asks for translations (R307), it meets a page that is not present (0x10, resolved by
the part: R309), it meets a poisoned line (R391), the host port that it needs refuses it (R413, with the auxiliary word of R435),
or it has no issuing slot. Nothing of the instruction stays done (R24, R139)
but what `keep` holds: the state before the instruction (`Env.before`) with what its wait or its trap itself leaves. -/
inductive Stop where
  | trap (t : TrapInfo) (keep : Option State)
  | hold (h : Hold) (walks : List WalkReq) (keep : Option State)
  | pages (l : List W64)
  | poison (va : W64)
  | refused (va aux1 : W64)
  | fault (f : Fault)
  deriving DecidableEq, Repr

/-- A meaning reads and changes the state and may stop. -/
abbrev Exec := StateT State (Except Stop)

/-- The issuing slot with what the instruction reads: the state before the instruction (R7). -/
structure Env where
  before : State
  cur  : Cursor
  g    : Group
  sl   : Slice
  path : Path
  w    : Wg
  deriving DecidableEq, Repr

/-- The environment of the slot that step has chosen. -/
def State.env? (s : State) : Option Env :=
  match s.cur with
  | none => none
  | some c =>
    match s.group? c.grp with
    | none => none
    | some g =>
      match g.slice? c.a with
      | none => none
      | some sl =>
        match sl.slot c.slot1 with
        | none => none
        | some p =>
          match s.wg? g.wg with
          | none => none
          | some w => some { before := s, cur := c, g := g, sl := sl, path := p, w := w }

/-- Stop with a trap whose `sys.epc` is the PC of the instruction. -/
def raise {α : Type} (e : Env) (cause : BitVec 8) (aux0 aux1 : W64 := 0) : Exec α :=
  fun _ => .error (.trap { cause := cause, aux0 := aux0, aux1 := aux1, epc := e.path.pc, fpc := none } none)

/-- Stop by holding the slot. -/
def hold {α : Type} (h : Hold) (walks : List WalkReq := []) : Exec α :=
  fun _ => .error (.hold h walks none)

/-- Run a part of an instruction whose traps yield to lower causes that other checks of the same instruction meet (R139). Those
checks run on the same state; a walk they wait for comes first, and 0x10 is a cause like the others. -/
def orLower {α : Type} (a : Exec α) (b : Exec Unit) : Exec α := fun s =>
  match a s with
  | .error (.trap t k) =>
    (match b s with
      | .error (.trap u j) => .error (if u.cause < t.cause then .trap u j else .trap t k)
      | .error (.pages l) => .error (if 0x10 < t.cause then .pages l else .trap t k)
      | .error (.hold h w j) => .error (.hold h w j)
      | _ => .error (.trap t k))
  | r => r

/-- Trap when a condition holds. -/
def trapIf (e : Env) (c : Bool) (cause : BitVec 8) (aux0 aux1 : W64 := 0) : Exec Unit :=
  if c then raise e cause aux0 aux1 else pure ()

/-- Hold when a condition holds. -/
def holdIf (c : Bool) (h : Hold) : Exec Unit := if c then hold h else pure ()

/-- Change the issuing slice. -/
def modSl (e : Env) (f : Slice → Slice) : Exec Unit :=
  modify (fun s => s.modSlice e.cur.grp e.cur.a f)

/-- Change the issuing group. -/
def modGrp (e : Env) (f : Group → Group) : Exec Unit := modify (fun s => s.modGroup e.cur.grp f)

/-- The lanes whose guard passes (R9, R53). -/
def Slice.guardMask (sl : Slice) (g : BitVec 6) : W32 :=
  if g.getLsbD 5 then
    let p := (sl.pred[(g.extractLsb' 0 4).toNat]?).getD 0
    if g.getLsbD 4 then ~~~p else p
  else BitVec.allOnes 32

/-- The active lanes of the issuing slot under a guard (R9). -/
def Env.active (e : Env) (guard : BitVec 6) : W32 := e.path.mask &&& e.sl.guardMask guard

/-- Move the issuing path past a frame of n bytes (R38). -/
def advance (e : Env) (n : Nat) : Exec Unit :=
  modSl e (fun sl => sl.setSlot e.cur.slot1
    ((sl.slot e.cur.slot1).map (fun p => { p with pc := e.path.pc + BitVec.ofNat 56 n })))

/-! ### Trace records (R396 to R399) -/

/-- The fields of a trace record that its writer gives (Table 18.1). -/
structure TraceRec where
  type    : Nat
  detail  : Nat := 0
  queue   : Nat := 3
  engine  : Nat := 0
  origin  : Nat := 0
  seq     : Nat := 0
  corr    : W32 := 0
  ptb     : Nat
  payload : Nat := 0
  deriving DecidableEq, Repr

/-- Write a trace record to the buffer of a region (R399): dropped when the buffer has no records. tidx wraps at tsize, so the
part keeps the parity of the laps itself: it flips at each wrap (Table 18.1, notes/assumptions/45.md). -/
def State.trace (s : State) (region : Nat) (r : TraceRec) : State :=
  let o := s.ownerOf 7 s.climb region
  let tsize := s.rcb o 640 32
  if tsize = 0 then s
  else
    let i := s.rcb o 672 32
    let tbase := s.rcb o 576 64
    let lap := (s.regions.any (fun (x : Region) => x.num == o && x.lap)).toNat
    let s1 := { s.setRcb o 672 32 ((i + 1) % tsize) with
      regions := s.regions.map (fun (x : Region) => if x.num = o then { x with lap := x.lap ^^ decide (tsize ≤ i + 1) } else x) }
    let w0 := r.type % 256 + r.detail % 256 * 2 ^ 8 + r.queue % 4 * 2 ^ 16 + lap * 2 ^ 31 +
      r.engine % 2 ^ 16 * 2 ^ 32 + r.origin % 2 ^ 15 * 2 ^ 48
    let w1 := r.seq % 2 ^ 32 + r.corr.toNat * 2 ^ 32
    s1.pokeBytes (tbase + 32 * (i % tsize)) (toBytes 8 w0 ++ toBytes 8 w1 ++ toBytes 8 r.ptb ++ toBytes 8 r.payload)

/-- The identity of a slice, which is no engine: kind 0 with its die, cluster and core (R396). -/
def sliceIdent (core : Nat) : Nat := dieOf core * 2 ^ 9 + clusterOf core % 8 * 2 ^ 6 + core % 8 * 2 ^ 3

/-- The origin bits [62:48] of a record of a slice (Table 18.1). -/
def originOf (core num : Nat) (a : Bool) : Nat :=
  dieOf core + clusterOf core % 8 * 8 + core % 8 * 64 + num % 32 * 512 + (if a then 16384 else 0)

/-- The origin of a group's slice. -/
def Group.origin (g : Group) (a : Bool) : Nat := originOf g.core g.num a

/-! ### Lane-cycle records (R401, R402) -/

/-- Add n to counter j of the total set and of every enabled range that a PC and ASN fall in (R402). -/
def Core.count (k : Core) (j n : Nat) (at_ : Option (Va × BitVec 16)) : Core :=
  let hits (i : Nat) : Bool :=
    i == 16 || (match at_, k.ranges[i]? with
      | some (pc, asn), some r => r.en && decide (r.lo ≤ pc) && decide (pc < r.hi) && (!r.fasn || r.asn == asn)
      | _, _ => false)
  { k with counters := tabulate 17 (fun i =>
      if hits i.val then
        (k.counters[i]).setIfInBounds j (((k.counters[i])[j]?).getD 0 + BitVec.ofNat 48 n)
      else k.counters[i]) }

/-- The number of lanes of a mask. -/
def lanesOf (m : W32) : Nat := popCount m.toNat 32

/-- Classify the 32 lane-slots of an issue (R401). -/
def State.countIssue (s : State) (e : Env) (act : W32) : State :=
  let off := e.path.mask &&& ~~~act
  let absent := if e.w.item then ~~~e.g.itemLanes &&& ~~~e.path.mask else 0#32
  let masked := ~~~(e.path.mask ||| absent)
  let at_ := some (e.path.pc, e.w.asn)
  s.modCore e.g.core (fun k =>
    (((k.count 0 (lanesOf act) at_).count 1 (lanesOf masked) at_).count 2 (lanesOf off) at_).count 3 (lanesOf absent) at_)

/-! ### Halts (R165 to R167) -/

/-- What a PC slot waits for at a `BWAIT` (R194). -/
def Slice.wait (sl : Slice) (one : Bool) : Option BWaitRec := if one then sl.wait1 else sl.wait0
/-- Put a wait on a slot. -/
def Slice.setWait (sl : Slice) (one : Bool) (w : Option BWaitRec) : Slice :=
  if one then { sl with wait1 := w } else { sl with wait0 := w }

/-- Is a slot ready by its marks: live, not parked, held by nothing, waiting for no phase, its slice not asleep (R18, R103,
R194)? -/
def Slice.readySlot (sl : Slice) (one : Bool) : Bool :=
  (match sl.slot one with | some p => !p.parked | none => false) && (sl.hold one).isNone && (sl.wait one).isNone &&
  sl.sleep.isNone

/-- The slot R19 would issue next among the ready ones; the lowest live slot when none is (R165). A slice asleep stands at
its `SLEEP`, the slot that issued last (R103). -/
def Slice.nextSlot (sl : Slice) : Option Bool :=
  match sl.frozen with
  | some f => if (sl.slot f.slot1).isSome then some f.slot1 else none
  | none =>
    if sl.sleep.isSome && (sl.slot sl.last1).isSome then some sl.last1
    else if sl.readySlot (!sl.last1) then some (!sl.last1)
    else if sl.readySlot sl.last1 then some sl.last1
    else if sl.slot0.isSome then some false
    else if sl.slot1.isSome then some true
    else none

/-- The popped instant that a waiting `BWAIT.prom` keeps for its next issue (R194), with whether its miss has been counted. -/
def BWaitRec.keeps (w : BWaitRec) : Option (HeldBy × W64) :=
  w.held.map (fun t => (if w.missed then .bwaitMissed else .bwaitProm, t))

/-- Stop a slice under a halt: `sys.skid` and `sys.epc` as R165 lays down. A `SLEEP` or `BWAIT` in progress issues
again after it (R103, R194). -/
def Slice.stopAt (sl : Slice) (skid : Nat) : Slice :=
  let pc := match sl.nextSlot with
    | some one => (match sl.slot one with | some p => p.pc | none => sl.epc)
    | none => sl.epc
  { sl with halt := .stopped, skid := BitVec.ofNat 5 skid, epc := pc, sleep := none, wait0 := none, wait1 := none, tlbi := none,
            heldPop := ((sl.wait0.bind BWaitRec.keeps).or (sl.wait1.bind BWaitRec.keeps)).or sl.heldPop }

/-- Is some slot of the slice ready? -/
def Slice.anyReady (sl : Slice) : Bool := sl.readySlot false || sl.readySlot true

/-- The halt reaches a slice (R165): one with no ready slot stops at once, the others begin their skid. -/
def Slice.reach (sl : Slice) : Slice :=
  if sl.ended || sl.hmode then sl
  else match sl.halt with
    | .running => if sl.anyReady then { sl with halt := .skid 0 } else sl.stopAt 0
    | _ => sl

/-- The subcores that hold slices of a workgroup, with their cores. -/
def State.subsOf (s : State) (wg : Nat) : List (Nat × Nat) :=
  ((s.groups.filter (fun g => g.wg == wg)).map (fun g => (g.core, g.sub))).eraseDups

/-- Broadcast a halt from a subcore to every slice of the workgroup (R165): the own subcore in the next die cycle, the
core's others after 2 die cycles, the buddy core's after 150. -/
def State.broadcastHalt (s : State) (wg core sub : Nat) : State :=
  let d := (s.die (dieOf core)).dcyc
  let msg (p : Nat × Nat) : HaltMsg :=
    { wg := wg, core := p.1, sub := p.2,
      due := if p.1 = core then (if p.2 = sub then d + 1 else d + 2) else (s.die (dieOf p.1)).dcyc + 150 }
  { s.modWg wg (fun w => { w with halted := true }) with halts := s.halts ++ (s.subsOf wg).map msg }

/-- Lift the halt of a workgroup (R142, R167): every stopped slice resumes. -/
def State.liftHalt (s : State) (wg : Nat) : State :=
  let run (sl : Slice) : Slice := { sl with halt := .running }
  { s with
    wgs := s.wgs.map (fun w => if w.id = wg then { w with halted := false, handler := false } else w),
    groups := s.groups.map (fun g => if g.wg = wg then { g with x := run g.x, a := g.a.map run } else g),
    halts := s.halts.filter (fun h => h.wg != wg) }

/-! ### Taking a trap (R139 to R144) -/

/-- Resolution D of Table 5.4: breakpoint, single step, watchpoint. -/
def resolutionD (cause : BitVec 8) : Bool := [0x51, 0x52, 0x53].contains cause.toNat

/-- Does a debugger hold the region (R405)? -/
def State.attached (s : State) (region : Nat) : Bool := s.regions.any (fun r => r.num == region && r.attached)

/-- Is a workgroup on its way out by a request, a pre-emption or a debugger's stop, and not by a cause of its own? -/
def Wg.asked (w : Wg) : Bool :=
  match w.stop with
  | some i => (match i.reason with
    | .preempt => true
    | .debug c => c == 0
    | _ => false)
  | none => false

/-- Does a stop halt the slices at their next issue slot, with no skid: pre-emption's halt, by which a swap-out stops too (R167, R297)?
A cause of resolution D stops its workgroup through the trap halt (R406). -/
def Wg.atOnce (w : Wg) : Bool :=
  match w.stop with
  | none => false
  | some i => match i.reason with
    | .debug c => c == 0
    | _ => true

/-- Is a stop one that a cause or a refused request of the workgroup itself brings about, which its fault record reports? -/
def OutReason.reports : OutReason → Bool
  | .cause1 _ _ => true
  | .refusedRemote => true
  | _ => false

/-- Is a workgroup on its way out with no record of its own to come? -/
def Wg.unreported (w : Wg) : Bool :=
  w.phase == .draining && (match w.stop with | some i => i.reason == .preempt || i.reason == .member | none => false)

/-- Begin the stop of a running workgroup, halting it from a subcore (R165, R378); one that is already on its way out stays
as it is, but that a trap taken before a pre-emption's halt has reached its slice, and a refused request, are recorded as usual
(R378, R435). -/
def State.beginStop (s : State) (wg core sub : Nat) (info : StopInfo) : State :=
  match s.wg? wg with
  | some w => (match w.phase with
    | .running => (s.modWg wg (fun w => { w with phase := .draining, stop := some info })).broadcastHalt wg core sub
    | .draining => if info.reason.reports && w.unreported then s.modWg wg (fun w => { w with stop := some info }) else s
    | _ => s)
  | none => s

/-- The other members of a workgroup's cluster set go out with it (R297). -/
def State.stopMembers (s : State) (w : Wg) (info : StopInfo) : State :=
  (s.wgs.filter (fun v => v.setId == w.setId && v.id != w.id)).foldl (fun s v =>
    s.beginStop v.id v.core 0 { info with reason := .member, grp := 0, slice := false, epc := 0, aux0 := 0, aux1 := 0, corr := v.corr, pages := [] }) s

/-- Stop a workgroup for a swap-out, a debug stop or a refused request: the slice concerned stops where it stands, the
others by the halt broadcast (R165); the rest of its cluster set stops with it; the save follows when they have drained
(R297, R374, R378). -/
def State.stopSlice (s : State) (w : Wg) (g : Group) (a : Bool) (info : StopInfo) : State :=
  let s1 := s.modSlice g.id a (fun sl => { sl with halt := .stopped })
  (s1.beginStop w.id g.core g.sub info).stopMembers w info

/-- Stop the workgroup of the issuing slice. -/
def State.stopWg (s : State) (e : Env) (info : StopInfo) : State := s.stopSlice e.w e.g e.cur.a info

/-- What a fault record will say of a slice that stops for a cause. -/
def stopInfo (s : State) (e : Env) (reason : OutReason) (epc : Va) (aux0 aux1 : W64) (pages : List W64) : StopInfo :=
  { reason := reason, grp := e.g.num, slice := e.cur.a, epc := epc, aux0 := aux0, aux1 := aux1, corr := e.sl.corr,
    pages := pages, since := s.ptb (dieOf e.g.core), onReservedPath := false,
    record := none }

/-- Write the cause registers of a slice (R140): an auxiliary word the cause does not give is written 0. -/
def Slice.writeCause (sl : Slice) (t : TrapInfo) : Slice :=
  { sl with cause := t.cause, aux0 := t.aux0, aux1 := t.aux1, epc := t.epc, fpc := t.fpc.getD sl.fpc }

/-- Enter the region's handler in the trapping slice (R141). -/
def State.enterHandler (s : State) (e : Env) (hpc : Nat) : State :=
  let enter (sl : Slice) : Slice :=
    { (sl.setSlot e.cur.slot1 ((sl.slot e.cur.slot1).map (fun p => { p with pc := BitVec.ofNat 56 hpc }))) with
      emask := (BitVec.ofBool e.cur.slot1) ++ e.path.mask, hmode := true,
      frozen := some { slot1 := e.cur.slot1, mask := e.path.mask } }
  let s1 := s.modSlice e.cur.grp e.cur.a enter
  (s1.modWg e.w.id (fun w => { w with handler := true })).broadcastHalt e.w.id e.g.core e.g.sub

/-- Does the slice not raise its traps: it is a sibling of a halted workgroup (R166)? A halt of a pre-emption or of a debugger's
request that has not reached the slice leaves its traps as they are (R378, R406). -/
def Env.muted (e : Env) : Bool := e.w.halted && !e.sl.hmode && !(e.w.asked && e.sl.halt == .running)

/-- A slice under a halt stops before the instruction of the issuing slot, which writes nothing (R166). -/
def State.stopBefore (s : State) (e : Env) : State :=
  s.modSlice e.cur.grp e.cur.a (fun sl =>
    { sl.stopAt (match sl.halt with | .skid n => n | _ => 0) with epc := e.path.pc })

/-- Take a trap of the issuing slot (R139 to R143). A sibling of a halted workgroup does not raise it: it stops before
the instruction (R166). Otherwise the cause registers are written; a trap in handler mode is a double fault; a cause of
resolution D goes to an attached debugger; the region's handler takes the rest; without one the workgroup is swapped
out. -/
def State.takeTrap (s : State) (e : Env) (t : TrapInfo) : State :=
  if e.muted then s.stopBefore e
  else
    let s1 := s.modSlice e.cur.grp e.cur.a (fun sl =>
      (sl.writeCause t).setSlot e.cur.slot1 ((sl.slot e.cur.slot1).map (fun p => { p with pc := t.epc })))
    if e.sl.hmode then
      s1.stopWg e (stopInfo s e (.cause1 t.cause e.sl.cause) t.epc t.aux0 t.aux1 [])
    else if resolutionD t.cause && s.attached e.w.region then
      s1.stopWg e (stopInfo s e (.debug t.cause) t.epc t.aux0 t.aux1 [])
    else
      let hpc := s.hpc e.w.region
      if hpc = 0 then s1.stopWg e (stopInfo s e (.cause1 t.cause 0) t.epc t.aux0 t.aux1 [])
      else
        let s2 := s1.enterHandler e hpc
        if e.sl.corr.getLsbD 31 then
          s2.trace e.w.region { type := 0x08, detail := t.cause.toNat, engine := sliceIdent e.g.core, origin := e.g.origin e.cur.a, corr := e.sl.corr,
                                ptb := s.ptb (dieOf e.g.core), payload := t.epc.toNat }
        else s2

/-- Leave handler mode (R142): the frozen state is released and the halt is lifted. -/
def State.leaveHandler (s : State) (e : Env) : State :=
  (s.modSlice e.cur.grp e.cur.a (fun sl => { sl with hmode := false, frozen := none })).liftHalt e.w.id

/-! ### Issuing -/

/-- What every issue leaves behind: the slot it used is the last slot (R19), the slot's mark is cleared, a skid counts
it (R165: `State.capSkid` ends it), the subcore has issued (R147), the workgroup has made progress (R386), the lane-slots are counted (R401). -/
def State.afterIssue (s : State) (e : Env) (act : W32) : State :=
  let s1 := s.modSlice e.cur.grp e.cur.a (fun sl =>
    { sl.setHold e.cur.slot1 none with
      last1 := e.cur.slot1, stepped := true, bpSkip := sl.bpSkip.filter (fun x => x.1 != e.cur.slot1),
      halt := match sl.halt with | .skid n => .skid (n + 1) | h => h })
  let s2 := s1.modCore e.g.core (fun k =>
    { k with subs := k.subs.setIfInBounds e.g.sub { ((k.subs[e.g.sub]?).getD Subcore.reset) with issued := true } })
  let s3 := s2.modWg e.w.id (fun w => { w with progress := s.ptb (dieOf e.g.core) })
  s3.countIssue e act

/-- Take a miss into a die's walkers and their queue (R307): it joins a walk of the same page; else it takes one of the 32 walkers
or of the 256 places, and when all are taken it has to come again. -/
def Die.takeMiss (d : Die) (r : WalkReq) : Die :=
  let page (q : WalkReq) : BitVec 16 × Nat × Nat := (q.asn, q.root, q.va)
  let pages := (d.missq.map page).eraseDups
  if d.missq.contains r || !(pages.contains (page r) || decide (pages.length < 32 + 256)) then d
  else { d with missq := d.missq ++ [r] }

/-- Mark the slot as held and ask for the translations it waits for (R307). -/
def State.holdSlot (s : State) (e : Env) (h : Hold) (walks : List WalkReq) : State :=
  let s1 := s.modSlice e.cur.grp e.cur.a (fun sl => sl.setHold e.cur.slot1 (some h))
  s1.modDie (dieOf e.g.core) (fun d => walks.foldl Die.takeMiss d)

/-- A 0x48 that is due after an issue is taken at once (R89), also in handler mode (R143); under a halt it stays due, and the
slice stops before its next instruction (R90, R166). -/
def State.takeDue (s : State) (e : Env) : State :=
  match s.slice? e.cur.grp e.cur.a with
  | none => s
  | some sl =>
    match sl.due48, sl.slot e.cur.slot1 with
    | some d, some p =>
      let e1 : Env := { e with sl := sl, path := p }
      (if e1.muted then s else s.modSlice e.cur.grp e.cur.a (fun sl => { sl with due48 := none })).takeTrap e1
        { cause := 0x48, aux0 := d.aux0, aux1 := d.aux1, epc := p.pc, fpc := none }
    | _, _ => s

/-- Forget the finished walks of an address space that ended in an error: the instruction that waited for them has used
them, and its next issue walks anew. -/
def State.dropFaults (s : State) (core : Nat) (asn : BitVec 16) : State :=
  s.modCore core (fun k => { k with faults := k.faults.filter (fun f => f.asn != asn) })

/-- Enter an outstanding access in a core's table (R163); its id is the table's next number. -/
def State.addPend (s : State) (core : Nat) (p : Pending) : State :=
  s.modCore core (fun k => { k with pend := k.pend ++ [{ p with id := k.nextPend }], nextPend := k.nextPend + 1 })

/-- A slice that stops at its instruction without a cause: `sys.epc` stands there (R378, R391), unless it serves a handler. -/
def State.standAt (s : State) (e : Env) : State :=
  s.modSlice e.cur.grp e.cur.a (fun sl => if sl.hmode then sl else { sl with epc := e.path.pc, skid := 0 })

/-- Run a meaning for the issuing slot. `guards` are the guards of the frame (two for a pair frame): they decide which
lanes the lane-cycle records call active. -/
def issue (guards : List (BitVec 6)) (body : Env → Exec Unit) (s : State) : Host.Outcome State Fault Refusal :=
  match s.env? with
  | none => .fault .noIssuer
  | some e =>
    let act := guards.foldl (fun m g => m ||| e.active g) 0
    match body e s with
    | .ok (_, s') => .next ((s'.afterIssue e act).takeDue e)
    | .error (.trap t keep) =>
      if e.muted then .next (s.takeTrap e t)
      else .next ((((keep.getD s).dropFaults e.g.core e.w.asn).afterIssue e act).takeTrap e t)
    | .error (.hold h walks keep) => .next ((keep.getD s).holdSlot e h walks)
    | .error (.pages l) =>
      if e.w.halted && !e.sl.hmode then .next (s.stopBefore e)
      else .next ((s.dropFaults e.g.core e.w.asn).stopWg e (stopInfo s e .pages e.path.pc 0 0 l))
    | .error (.poison va) =>
      if e.w.halted && !e.sl.hmode then .next (s.stopBefore e)
      else .next ((s.standAt e).stopWg e (stopInfo s e .poison e.path.pc va 0 []))
    | .error (.refused va aux1) =>
      if e.w.halted && !e.sl.hmode then .next (s.stopBefore e)
      else .next ((s.standAt e).stopWg e (stopInfo s e .refusedRemote e.path.pc va aux1 []))
    | .error (.fault f) => .fault f

end Sys2Proof.Machine
end

