-- ==== Sys2Proof/Machine/Translate.lean ====
section
/-!
DEFINITION. Address translation (spec 13_die.md R302 to R308; 21_fabric.md R433): page tables, TLBs, permissions, and the
place where an access is performed.
-/
namespace Sys2Proof.Machine

/-- What an access does, for the permissions of R305: a program's load, a program's store or atomic, a fetch, the part's
own access to a frame area (R22). -/
inductive Access where
  | load | store | fetch | frame
  deriving DecidableEq, Repr

/-- What a walk of the tables ends in (R304): a leaf with log2 of its page size, or a cause with the entry's level. -/
inductive Walk where
  | leaf (entry : Nat) (bits : Nat)
  | bad (cause : BitVec 8) (level : Nat)
  deriving DecidableEq, Repr

/-- log2 of the range that an entry of a level covers (R309). -/
def levelBits (level : Nat) : Nat :=
  match level with
  | 1 => 46 | 2 => 36 | 3 => 26 | _ => 16

/-- The index of a level in a virtual address (Table 13.1). -/
def levelIndex (va level : Nat) : Nat := if level = 1 then bitsAt va 46 9 else bitsAt va (levelBits level) 10

/-- May a table lie at this physical address: device memory of R303 outside the reserved ranges (R304)? -/
def State.tableAt (s : State) (pa : Nat) : Bool := decide (pa < 2 ^ 51) && (s.canonPa pa).isSome

/-- Is the entry malformed at its level (R304)? -/
def State.malformed (s : State) (entry level : Nat) : Bool :=
  let leaf := bitAt entry 4
  let addr := bitsAt entry 13 39 * 2 ^ 13
  bitAt entry 12 || (leaf && level == 1) || (!leaf && level == 4) ||
  (leaf && addr % 2 ^ levelBits level != 0) || (!leaf && !s.tableAt addr) ||
  (leaf && decide (bitsAt entry 5 2 ≤ 1) && decide (addr < 0x8000000000) && bitsAt entry 8 3 != addr / 2 ^ 36)

/-- The entry of a table that covers an address: what a walk cache keeps of it, else what memory holds (R307). -/
def State.tableEntry (s : State) (kept : List WalkEntry) (va level table : Nat) : Nat :=
  match kept.find? (fun c => c.level == level && c.vbase == va / 2 ^ levelBits level * 2 ^ levelBits level) with
  | some c => c.entry.toNat
  | none => s.peek (table + 8 * levelIndex va level) 8

/-- Walk the four-level table from a level down (R302 to R304, R307) with the upper-level entries that are kept; `n` counts the
levels left. -/
def State.walk (s : State) (kept : List WalkEntry) (va : Nat) : Nat → Nat → Walk
  | 0, _ => .bad 0x11 4
  | n + 1, table =>
    let level := 4 - n
    let entry := s.tableEntry kept va level table
    if !bitAt entry 0 then .bad (if bitAt entry 1 then 0x10 else 0x11) level
    else if s.malformed entry level then .bad 0x11 level
    else if bitAt entry 4 then .leaf entry (levelBits level)
    else s.walk kept va n (bitsAt entry 13 39 * 2 ^ 13)

/-- The upper-level entries that a walk reads: present, well-formed and no leaf (R307). -/
def State.upperEntries (s : State) (kept : List WalkEntry) (asn : BitVec 16) (va : Nat) : Nat → Nat → List WalkEntry
  | 0, _ => []
  | n + 1, table =>
    let level := 4 - n
    let entry := s.tableEntry kept va level table
    if !bitAt entry 0 || s.malformed entry level || bitAt entry 4 then []
    else { asn := asn, level := level, vbase := va / 2 ^ levelBits level * 2 ^ levelBits level, entry := BitVec.ofNat 64 entry } ::
      s.upperEntries kept asn va n (bitsAt entry 13 39 * 2 ^ 13)

/-- The listed range of a not-present entry: its base with 4 - level in bits [1:0] (R309). -/
def rangeOf (va level : Nat) : W64 := BitVec.ofNat 64 (va / 2 ^ levelBits level * 2 ^ levelBits level + (4 - level))

/-- A translation in a TLB that covers an address under an ASN (R306). -/
def lookupTlb (l : List TlbEntry) (asn : BitVec 16) (va : Nat) : Option TlbEntry :=
  l.find? (fun t => t.asn == asn && va / 2 ^ t.bits == t.vbase / 2 ^ t.bits)

/-- What an address becomes for an access: a place, a walk to wait for, or a cause with its auxiliary word: for 0x10 the
listed range, for 0x13 the peer. -/
inductive Xlat where
  | place (p : Place)
  | miss (w : WalkReq)
  | bad (cause : BitVec 8) (aux : W64)
  deriving DecidableEq, Repr

/-- A page-table leaf's permissions for an access (R305, R22). -/
def permits (leaf : Nat) (acc : Access) : Bool :=
  match acc with
  | .load => true
  | .store => bitAt leaf 2 && !bitAt leaf 11
  | .fetch => bitAt leaf 3
  | .frame => bitAt leaf 2 && bitAt leaf 11

/-- The part's entry for a peer (`fab.part`, Table 21.1). -/
def Fabric.partOf (f : Fabric) (peer : Nat) : Nat :=
  match f.part.find? (fun p => p.1 == peer) with
  | some p => p.2.toNat
  | none => 0

/-- The checks of a fabric address (R433) and its place: of those that fail the lowest cause is raised. -/
def State.fabricPlace (s : State) (peer off : Nat) (acc : Access) : Xlat :=
  let e := s.fabric.partOf peer
  if bitsAt e 2 8 * 2 ^ 36 ≤ off then .bad 0x11 0
  else if acc = .store ∧ !bitAt e 1 then .bad 0x11 0
  else if !bitAt e 0 then .bad 0x13 (BitVec.ofNat 64 peer)
  else .place (.fabric (BitVec.ofNat 12 peer) off)

/-- The place of an address under a leaf (R304, R353, Table 13.2): a kind-3 leaf names an offset of the peer's window, a kind-2
leaf host memory, the other kinds device memory; an address that lies elsewhere is reached by none (DESIGN CHOICE,
notes/assumptions/122.md). -/
def State.leafPlace (s : State) (leaf bits va : Nat) (acc : Access) : Xlat :=
  if !permits leaf acc then .bad 0x11 0
  else
    let addr := bitsAt leaf 13 39 * 2 ^ 13 + va % 2 ^ bits
    match bitsAt leaf 5 2 with
    | 3 => s.fabricPlace (bitsAt leaf 52 12) addr acc
    | 2 => if 2 ^ 51 ≤ addr then .place (.host addr) else .bad 0x11 0
    | _ =>
      if 2 ^ 51 ≤ addr then .bad 0x11 0
      else match s.canonPa addr with
        | some a => .place (.mem a)
        | none => .bad 0x11 0

/-- The upper-level entries of an address space that a core's die keeps (R307). -/
def State.keptFor (s : State) (core : Nat) (asn : BitVec 16) : List WalkEntry :=
  (s.die (dieOf core)).wcache.filter (fun c => c.asn == asn)

/-- Translate an address for a core (R302, R305 to R307): an address beyond 56 bits has no translation (R169), a fabric
address is not translated, and a TLB miss asks for a walk; a walk that ended in an error is kept until it is used, and gives way
to a leaf that has been made present since. -/
def State.xlate (s : State) (core : Nat) (asn : BitVec 16) (root : Nat) (va : W64) (acc : Access) : Xlat :=
  let v := va.toNat
  if 2 ^ 56 ≤ v then .bad 0x11 0
  else if 2 ^ 55 ≤ v then
    if acc = .fetch then .bad 0x11 0 else s.fabricPlace (bitsAt v 43 12) (v % 2 ^ 43) acc
  else
    match (lookupTlb (s.core core).tlb asn v).or (lookupTlb (s.die (dieOf core)).tlb asn v) with
    | some t => s.leafPlace t.leaf.toNat t.bits v acc
    | none =>
      let again : Xlat := .miss { core := core, asn := asn, root := root, va := v / 2 ^ 16 * 2 ^ 16 }
      match (s.core core).faults.find? (fun f => f.asn == asn && f.page == v / 2 ^ 16) with
      | none => again
      | some f =>
        match s.walk (s.keptFor core asn) v 4 root with
        | .leaf _ _ => again
        | .bad _ _ => .bad f.cause f.entry

/-- The page-table root of a region (R302). -/
def State.rootOf (s : State) (r : Nat) : Nat := s.rcb r 512 39 * 2 ^ 13

/-- Translate an address for the part itself, through a page table, without a TLB. -/
def State.virtPlace (s : State) (root va : Nat) (acc : Access) : Xlat :=
  if 2 ^ 56 ≤ va then .bad 0x11 0
  else if 2 ^ 55 ≤ va then s.fabricPlace (bitsAt va 43 12) (va % 2 ^ 43) acc
  else match s.walk [] va 4 root with
    | .leaf e bits => s.leafPlace e bits va acc
    | .bad c level => .bad c (if c = 0x10 then rangeOf va level else 0)

/-- Translate for the issuing slice. -/
def Env.xlate (e : Env) (s : State) (va : W64) (acc : Access) : Xlat := s.xlate e.g.core e.w.asn e.w.root va acc

/-- The causes met among translations. -/
def Xlat.cause? : Xlat → Option (BitVec 8)
  | .bad c _ => some c
  | _ => none

/-- The walks that a list of translations waits for. -/
def missesOf (l : List Xlat) : List WalkReq :=
  l.foldl (fun acc x => match x with
    | .miss w => if acc.contains w then acc else acc ++ [w]
    | _ => acc) []

/-- The set of the shared TLB, of 2,048, in which a page's entry lies (R306; its place is the model's choice:
notes/assumptions/11.md). -/
def TlbEntry.set (t : TlbEntry) : Nat := t.vbase / 2 ^ t.bits % 2048

/-- Put an entry into the shared TLB (R306): its set keeps the 8 newest. -/
def sharedFill (l : List TlbEntry) (t : TlbEntry) : List TlbEntry :=
  if 8 ≤ (l.filter (fun x => x.set == t.set)).length then
    match l.reverse.find? (fun x => x.set == t.set) with
    | some old => t :: (l.reverse.erase old).reverse
    | none => t :: l
  else t :: l

/-- Serve the oldest waiting miss of a die (R307): walk the table with the upper-level entries that the die keeps, and install the
leaf for every core that waits for that page, or record the error for them. A core's TLB keeps its newest 64 entries. -/
def State.pageWalk (s : State) (die : Nat) : State :=
  match (s.die die).missq with
  | [] => s
  | r :: _ =>
    let same (q : WalkReq) : Bool := q.asn == r.asn && q.root == r.root && q.va == r.va
    let waiting := ((s.die die).missq.filter same).map (fun q => q.core)
    let kept := (s.die die).wcache.filter (fun c => c.asn == r.asn)
    let read := (s.upperEntries kept r.asn r.va 4 r.root).filter (fun c => !kept.contains c)
    let s1 := s.modDie die (fun d => { d with missq := d.missq.filter (fun q => !same q), wcache := d.wcache ++ read })
    match s.walk kept r.va 4 r.root with
    | .leaf entry bits =>
      let t : TlbEntry := { asn := r.asn, vbase := r.va / 2 ^ bits * 2 ^ bits, bits := bits, leaf := BitVec.ofNat 64 entry }
      let s2 := s1.modDie die (fun d => { d with tlb := sharedFill d.tlb t })
      waiting.foldl (fun s c => s.modCore c (fun k => { k with tlb := (t :: k.tlb).take 64 })) s2
    | .bad cause level =>
      let f : WalkFault := { asn := r.asn, page := r.va / 2 ^ 16, cause := cause,
                             entry := if cause = 0x10 then rangeOf r.va level else 0 }
      waiting.foldl (fun s c => s.modCore c (fun k => { k with faults := f :: k.faults })) s1

end Sys2Proof.Machine
end

