-- ==== Sys2Proof/Machine/Operands.lean ====
section
/-!
DEFINITION. Operand forms (spec 02_encoding.md R45, R54; 01_group.md R13, R23 to R28, R30 to R33): the decode conditions
that depend on the state (allocation, queue declarations), the scoreboard, queue pops and pushes, and reading and writing
vector, scalar and predicate operands.
-/
namespace Sys2Proof.Machine

/-! ### Conditions of a named register (R13, R25) -/

/-- A trap condition met at decode: cause and auxiliary words. -/
structure Cond where
  cause : BitVec 8
  aux0  : W64 := 0
  aux1  : W64 := 0
  deriving DecidableEq, Repr

/-- The condition of the lowest cause; among equal causes the first (R59, R139). -/
def lowest : List Cond → Option Cond
  | [] => none
  | c :: cs =>
    match lowest cs with
    | none => some c
    | some d => if d.cause < c.cause then some d else some c

/-- Raise the lowest of the conditions met. -/
def raiseLowest (e : Env) (cs : List Cond) : Exec Unit :=
  match lowest cs with
  | none => pure ()
  | some c => raise e c.cause c.aux0 c.aux1

/-- A queue register of the group. -/
def Group.queue (g : Group) (n : Nat) : Queue := (g.queues[n]?).getD Queue.reset

/-- The `sys.aux0` of a queue cause (R25). -/
def queueAux (n reason : Nat) : W64 := BitVec.ofNat 64 (n + 256 * reason)

/-- The conditions of R25 for a queue named by a position of the slice; `push` for a destination. -/
def queueConds (e : Env) (kind : QKind) (push : Bool) (n : Nat) : List Cond :=
  if n = 15 then [{ cause := 0x1A, aux0 := queueAux 15 0 }]
  else if 12 ≤ n then
    if push then [{ cause := 0x19, aux0 := queueAux n 3 }]
    else if kind = .vec then [{ cause := 0x19, aux0 := queueAux n 2 }] else []
  else if e.g.a.isNone then [{ cause := 0x06, aux0 := BitVec.ofNat 64 (0xA0 + n) }]
  else
    let q := e.g.queue n
    if q.depth = 0 then [{ cause := 0x1A, aux0 := queueAux n 0 }]
    else if (push == e.cur.a) == q.x2a then [{ cause := 0x19, aux0 := queueAux n 1 }]
    else if (kind = .vec ∧ q.scalar) ∨ (kind = .scalar ∧ !q.scalar) then [{ cause := 0x19, aux0 := queueAux n 2 }]
    else []

/-- The conditions of a register code in a position (R13, R25, R54). -/
def regConds (e : Env) (pos : Pos) (push : Bool) (code : BitVec 8) : List Cond :=
  if pos.raw then []
  else match RC.of code with
    | .v => if e.sl.vreg.length < regNo code + pos.regs then [{ cause := 0x06, aux0 := code.setWidth 64 }] else []
    | .q => queueConds e pos.kind push (regNo code)
    | .a => if e.g.acc.length ≤ regNo code then [{ cause := 0x06, aux0 := code.setWidth 64 }] else []
    | _ => []

/-! ### The scoreboard (R33, R157, R163) -/

/-- Does an outstanding access of this slice still write a register that the position names? Geometry registers and
format-block descriptors are the group's, so either slice's load of one counts. -/
def Pending.writes (p : Pending) (e : Env) (pos : Pos) (code : BitVec 8) : Bool :=
  p.grp == e.cur.grp &&
  (match p.dst, RC.of code with
    | .vec n k, .v => p.a == e.cur.a && decide (regNo code < n + k) && decide (n < regNo code + pos.regs)
    | .scalar n, .s => p.a == e.cur.a && n == regNo code
    | .geom n, .g => n == regNo code
    | .fblock n, .fb => n == regNo code
    | _, _ => false)

/-- The passes of a subcore. -/
def Subcore.passes (b : Subcore) : List Pass := (b.running.map (fun p => p.1)).toList ++ b.waiting

/-- A subcore of a core. -/
def Core.sub (k : Core) (i : Nat) : Subcore := (k.subs[i]?).getD Subcore.reset

/-- Does a queued accumulator move of the X-slice's read or write a vector register that the position names (R236, space 5)? -/
def State.moveNames (s : State) (e : Env) (pos : Pos) (code : BitVec 8) : Bool :=
  RC.of code == .v && !e.cur.a && ((s.core e.g.core).sub e.g.sub).passes.any (fun p =>
    p.grp == e.cur.grp && p.vregs.any (fun n => decide (regNo code ≤ n) && decide (n < regNo code + pos.regs)))

/-- Is a register that the position names still to be written by an outstanding access of this slice, or in use by a queued
accumulator move? -/
def State.busy (s : State) (e : Env) (pos : Pos) (code : BitVec 8) : Bool :=
  !pos.raw && ((s.core e.g.core).pend.any (fun p => p.writes e pos code) || s.moveNames e pos code)

/-- Is the register still to be written by a split-phase atomic, whose first use waits on a phase (R33, R183)? -/
def State.splitPhase (s : State) (e : Env) (pos : Pos) (code : BitVec 8) : Bool :=
  !pos.raw && (s.core e.g.core).pend.any (fun p => p.writes e pos code &&
    (match p.kind with | .atomic _ _ _ ret => ret | _ => false))

/-- A named operand: its position, its code, and whether it is a destination. -/
structure Named where
  pos  : Pos
  code : BitVec 8
  push : Bool := false
  deriving DecidableEq, Repr

/-- The decode conditions of every named operand that is in use, and the hold on the scoreboard. -/
def checkNamed (e : Env) (extra : List Cond) (l : List Named) : Exec Unit := do
  let used := l.filter (fun n => !n.pos.accepts.isEmpty)
  raiseLowest e (extra ++ (used.map (fun n => regConds e n.pos n.push n.code)).flatten)
  let s ← get
  holdIf (used.any (fun n => s.splitPhase e n.pos n.code)) .phase
  holdIf (used.any (fun n => s.busy e n.pos n.code)) .scoreboard

/-! ### Queues (R24 to R28, R31) -/

/-- Has the slice that pushes a queue ended (R36)? -/
def Group.pusherEnded (g : Group) (q : Queue) : Bool :=
  if q.x2a then g.x.ended else (match g.a with | some a => a.ended | none => true)

/-- Has the slice that pops a queue ended (R36)? -/
def Group.popperEnded (g : Group) (q : Queue) : Bool :=
  if q.x2a then (match g.a with | some a => a.ended | none => true) else g.x.ended

/-- Remove the head entry of a queue (R33): the next slot becomes the head. -/
def Queue.pop (q : Queue) : Queue := { q with entries := q.entries.drop 1, head := (q.head + 1) % q.depth }

/-- Append an entry, flipping the phase bit of the slot it fills (R33). -/
def Queue.push (q : Queue) (x : QEntry) : Queue :=
  { q with entries := q.entries ++ [x], phases := q.phases ^^^ (1#16 <<< ((q.head + q.entries.length) % q.depth)) }

/-- Replace queue n of a group. -/
def Group.setQueue (g : Group) (n : Nat) (q : Queue) : Group := { g with queues := g.queues.setIfInBounds n q }

/-- An engine queue of a slice (R27). -/
def Slice.engq (sl : Slice) (n : Nat) : List W64 := if n = 12 then sl.q12 else if n = 13 then sl.q13 else sl.q14
/-- Replace an engine queue. -/
def Slice.setEngq (sl : Slice) (n : Nat) (l : List W64) : Slice :=
  if n = 12 then { sl with q12 := l } else if n = 13 then { sl with q13 := l } else { sl with q14 := l }

/-- An entry arrives at an engine queue: at a full one the oldest is discarded and bit 63 of the arriving entry is set
(R28). -/
def Slice.arrive (sl : Slice) (n : Nat) (x : W64) : Slice :=
  let q := sl.engq n
  if 16 ≤ q.length then sl.setEngq n (q.drop 1 ++ [x ||| (1#64 <<< 63)]) else sl.setEngq n (q ++ [x])

/-- The group as it stands in the state (its queues change as an instruction pops). -/
def curGroup (e : Env) : Exec Group := do
  let s ← get
  pure ((s.group? e.cur.grp).getD e.g)

/-- The lowest lane of a mask; 32 when it is empty. -/
def lowLane (m : W32) : Nat := ((List.range 32).find? (fun l => m.getLsbD l)).getD 32

/-- The address of a token's lane: its base plus the lane's zero-extended offset; for a scalar entry the base (R30). -/
def tokenAddr (scalar : Bool) (x : QEntry) (t : Token) (l : Nat) : W64 :=
  if scalar then t.base else t.base + ((x.lanes[l]?).getD 0).setWidth 64

/-- The state before the instruction with an entry of queue n replaced: the one that is the head now, after what the
instruction has popped before it (R24: what does not complete pops nothing). -/
def Env.markHead (e : Env) (n : Nat) (q : Queue) (x : QEntry) : State :=
  let old := e.g.queue n
  e.before.modGroup e.cur.grp (fun g =>
    g.setQueue n { old with entries := old.entries.set (old.entries.length - q.entries.length) x })

/-- The trap of a consumed token (R31), which stays where it is, marked as raised. -/
def raiseToken {α : Type} (e : Env) (n : Nat) (q : Queue) (x : QEntry) (t : Token) : Exec α := fun _ =>
  .error (.trap { cause := 0x18, aux0 := BitVec.ofNat 64 (t.cause.toNat + t.lanes.toNat * 256),
                  aux1 := tokenAddr q.scalar x t (lowLane t.lanes), epc := e.path.pc, fpc := some t.pc }
    (some (e.markHead n q { x with token := some { t with raised := true } })))

/-- The size of a load of a type, and how it enters a register (Table 7.2). -/
def loadExt (ty : BitVec 4) : LoadExt :=
  match ty.toNat with
  | 1 => { size := 1, signed := true }
  | 2 => { size := 1, signed := false }
  | 3 => { size := 4, signed := true }
  | 5 => { size := 8, signed := true }
  | 6 => { size := 8, signed := false }
  | 7 => { size := 8, signed := false }
  | 9 => { size := 2, signed := false }
  | 10 => { size := 2, signed := false }
  | _ => { size := 4, signed := false }

/-- The lanes of a mask, ascending. -/
def lanesIn (m : W32) : List Nat := (List.range 32).filter (fun l => m.getLsbD l)

/-! ### The outstanding transaction table (R163) -/

/-- The line of a place for the transaction table (R163, R437): `none` for local store. -/
def Place.line? : Place → Option (Nat × Nat)
  | .mem pa => some (0, pa / 128)
  | .host pa => some (0, pa / 128)
  | .fabric p off => some (1 + p.toNat, off / 128)
  | .ls _ _ _ => none

/-- The transaction-table entries of a set of lane accesses: one per distinct line. -/
def entriesOf (l : List LaneAcc) : Nat := ((l.filterMap (fun a => a.place.line?)).eraseDups).length

/-- The entries that accesses need at once: at most 32 (R163). -/
def tableNeed (l : List LaneAcc) : Nat := min 32 (entriesOf l)

/-- The entries an outstanding access still holds. -/
def Pending.entries (p : Pending) : Nat := tableNeed (p.accs.filter (fun a => !a.done))

/-- The entries in use in a core's table. -/
def Core.used (k : Core) : Nat := k.pend.foldl (fun n p => n + p.entries) 0

/-- Does a slot still wait for entries of the transaction table? -/
def State.waitsEntries (s : State) (c : Cursor) : Bool :=
  match s.slice? c.grp c.a with
  | some sl => sl.hold c.slot1 == some .transTable
  | none => false

/-- Obtain n entries of the transaction table, or wait behind the older waiters (R163). -/
def tableRoom (e : Env) (n : Nat) : Exec Unit := fun s =>
  let k := s.core e.g.core
  let ahead := ((k.ttWait.takeWhile (fun w => w.1 != e.cur)).filter (fun w => s.waitsEntries w.1)).foldl (fun m w => m + w.2) 0
  if n = 0 then .ok ((), s)
  else if k.used + ahead + n ≤ 256 then
    .ok ((), s.modCore e.g.core (fun k => { k with ttWait := k.ttWait.filter (fun w => w.1 != e.cur) }))
  else if k.ttWait.any (fun w => w.1 == e.cur) then .error (.hold .transTable [] none)
  else .error (.hold .transTable [] (some (e.before.modCore e.g.core (fun k => { k with ttWait := k.ttWait ++ [(e.cur, n)] }))))

/-- A lane access to a peer has yet to be sent. One to the part's own window goes the same way and comes back as a request
to this part (R433). -/
def markPeers (l : List LaneAcc) : List LaneAcc :=
  l.map (fun a => match a.place with
    | .fabric _ _ => { a with arrived := false }
    | _ => a)

/-- A read of a poisoned line performs no lane's access (R391): the lowest such address. -/
def noPoison (ps : List (Nat × W64 × Place)) : Exec Unit := fun s =>
  let bad := (ps.filter (fun x => match x.2.2 with | .mem a => s.poisoned a | _ => false)).map (fun x => x.2.1)
  match bad.foldl (fun r v => match r with | none => some v | some u => some (if v < u then v else u)) none with
  | none => .ok ((), s)
  | some va => .error (.poison va)

/-- The scope of variant [2:0] (R53). -/
def Scope.ofCode (c : Nat) : Scope :=
  match c with
  | 0 => .grp | 1 => .wg | 2 => .clu | 3 => .die | 4 => .dev | _ => .sys

/-- Put a value into an ascending list, once. -/
def insertW64 : List W64 → W64 → List W64
  | [], x => [x]
  | y :: l, x => if x = y then y :: l else if x < y then x :: y :: l else y :: insertW64 l x

/-- The listed ranges of the translations that are not present, ascending and without repeats (R309, Table 17.1). -/
def pagesOf (l : List Xlat) : List W64 :=
  (l.filterMap (fun x => match x with | .bad c a => if c == 0x10 then some a else none | _ => none)).foldl insertW64 []

/-- The lowest cause among translations (R172, R305). -/
def lowestCause (l : List Xlat) : Option (BitVec 8) :=
  (l.filterMap Xlat.cause?).foldl (fun r c => match r with | none => some c | some d => some (if c < d then c else d)) none

/-- The replay of a pop whose head holds a token (R31, R32): the faulting lanes are translated again. A page that is still
not present goes to the part; another failure raises 0x18 again for the lanes that still fault; otherwise the core sends
the load again, with the scope and order of its `LDQ`, and the pop waits for its data. -/
def replayToken {α : Type} (e : Env) (n : Nat) (q : Queue) (x : QEntry) (t : Token) : Exec α := do
  let s ← get
  let xs := (lanesIn t.lanes).map (fun l => (l, tokenAddr q.scalar x t l, e.xlate s (tokenAddr q.scalar x t l) .load))
  let tr := xs.map (fun p => p.2.2)
  match missesOf tr with
  | w :: ws => hold .walk (w :: ws)
  | [] =>
    match lowestCause tr with
    | some c =>
      if c = 0x10 then fun _ => .error (.pages (pagesOf tr))
      else
        let bad := xs.foldl (fun m p => if p.2.2.cause?.isSome then m ||| (1#32 <<< p.1) else m) 0#32
        raiseToken e n q x { t with lanes := bad, cause := c }
    | none => do
      let ext := loadExt t.ty
      let ps := xs.filterMap (fun p => match p.2.2 with | .place pl => some (p.1, p.2.1, pl) | _ => none)
      noPoison ps
      let accs := markPeers (ps.map (fun p =>
        { lane := p.1, va := p.2.1, place := p.2.2, size := ext.size, data := [], cmp := [], bank := 0, arrived := true,
          done := false }))
      tableRoom e (tableNeed accs)
      let acq := t.variant.toNat / 8 % 4 == 1
      let id := (e.before.core e.g.core).nextPend
      let p : Pending :=
        { id := id, grp := e.cur.grp, a := true, pc := t.pc, kind := .reload, dst := .queue n q.scalar, ext := ext,
          accs := accs, scope := Scope.ofCode (t.variant.toNat % 8), acquire := acq, sync := acq, nc := false, deps := [],
          token := none, corr := e.sl.corr, refused := none }
      let waits (k : Core) : Core := { k with ttWait := k.ttWait.filter (fun w => w.1 != e.cur) }
      let s1 := ((e.markHead n q { x with token := none, fill := some id }).modCore e.g.core waits).addPend e.g.core p
      fun _ => .error (.hold .queueEmpty [] (some
        (if acq then s1.modSlice e.cur.grp true (fun sl => { sl with acqIds := sl.acqIds ++ [id] }) else s1)))

/-- Put ids of a list into another, once each. -/
def addIds (l m : List Nat) : List Nat := l ++ m.filter (fun i => !l.contains i)

/-- A pop of the slice is an acquire (R34): its later accesses come after the accesses that precede the push. -/
def acquireIds (e : Env) (ids : List Nat) : Exec Unit := modSl e (fun sl => { sl with acqIds := addIds sl.acqIds ids })

/-- A queue push or pop is a synchronising access: it waits until the slice's earlier ones are performed (R337). -/
def syncReady (e : Env) : Exec Unit := do
  let s ← get
  holdIf ((s.core e.g.core).pend.any (fun p => p.grp == e.cur.grp && p.a == e.cur.a && p.sync)) .fence

/-- Pop one entry of q0–q11 (R24, R26, R31): an empty queue holds the slot, or raises 0x19 when its pusher has ended; an
entry still in flight holds it; a fault token is raised the first time and replayed after. -/
def popEntry (e : Env) (n : Nat) : Exec QEntry := do
  let g ← curGroup e
  let q := g.queue n
  match q.entries with
  | [] => if g.pusherEnded q then raise e 0x19 (queueAux n 4) else hold .queueEmpty
  | x :: _ =>
    if x.fill.isSome then hold .queueEmpty
    else match x.token with
      | none => do
        syncReady e
        modGrp e (fun g => g.setQueue n q.pop)
        acquireIds e x.after
        pure x
      | some t => if t.raised || t.cause == 0x10 then replayToken e n q x t else raiseToken e n q x t

/-- Pop one entry of q12–q14; an empty queue holds the slot. -/
def popEngine (e : Env) (n : Nat) : Exec W64 := do
  let s ← get
  match ((s.slice? e.cur.grp e.cur.a).getD e.sl).engq n with
  | [] => hold .queueEmpty
  | x :: r => do
    syncReady e
    modSl e (fun sl => sl.setEngq n r)
    pure x

/-- The ids of a slice's outstanding accesses, without the reads that an instruction in its issue has asked for. -/
def State.pendingOf (s : State) (e : Env) : List Nat :=
  ((s.core e.g.core).pend.filter (fun p => p.grp == e.cur.grp && p.a == e.cur.a && p.kind != .stage)).map (fun p => p.id)

/-- What a push of the slice comes after (R34, R340): its outstanding accesses, and those that its acquires and pops have put
before what follows them. -/
def State.pushAfter (s : State) (e : Env) : List Nat :=
  let out := s.pendingOf e
  let acq := ((s.slice? e.cur.grp e.cur.a).getD e.sl).acqIds
  out ++ acq.filter (fun i => !out.contains i && (s.core e.g.core).pend.any (fun p => p.id == i))

/-- Push entries to q0–q11 (R24, R26): discarded when the popping slice has ended (R36), held while there is no room for
all of them. -/
def pushEntries (e : Env) (n : Nat) (xs : List QEntry) : Exec Unit := do
  let g ← curGroup e
  let q := g.queue n
  if g.popperEnded q then pure ()
  else if q.depth < q.entries.length + xs.length then hold .queueFull
  else do
    syncReady e
    let s ← get
    modGrp e (fun g => g.setQueue n ((xs.map (fun x => { x with after := s.pushAfter e })).foldl Queue.push q))

/-- A vector entry. -/
def QEntry.ofLanes (v : Lanes) : QEntry := { lanes := v, scalar := 0, token := none, fill := none, after := [] }
/-- A scalar entry. -/
def QEntry.ofScalar (x : W64) : QEntry := { lanes := Lanes.zero, scalar := x, token := none, fill := none, after := [] }

/-! ### Reading operands -/

/-- A vector register; zeros beyond the allocation. -/
def Slice.v (sl : Slice) (n : Nat) : Lanes := sl.vreg.getD n Lanes.zero
/-- A scalar register. -/
def Slice.s (sl : Slice) (n : Nat) : W64 := (sl.sreg[n]?).getD 0
/-- A predicate register. -/
def Slice.p (sl : Slice) (n : Nat) : W32 := (sl.pred[n]?).getD 0

/-- The same 64-bit value in every lane. -/
def splat (x : W64) : Lanes64 := Vector.replicate 32 x
/-- A vector of one 64-bit value per lane from the low and high halves (R54). -/
def joinLanes (lo hi : Lanes) : Lanes64 := tabulate 32 (fun l => hi[l] ++ lo[l])
/-- 32-bit lanes widened with zeros. -/
def widen (v : Lanes) : Lanes64 := tabulate 32 (fun l => v[l].setWidth 64)
/-- The low halves of the lanes. -/
def lowHalf (v : Lanes64) : Lanes := tabulate 32 (fun l => v[l].setWidth 32)
/-- The high halves of the lanes. -/
def highHalf (v : Lanes64) : Lanes := tabulate 32 (fun l => (v[l] >>> 32).setWidth 32)

/-- A constant code in a vector position of a type (Table 2.7). -/
def constLanes (t : Ty) (c : RC) : Lanes64 :=
  match c with
  | .one => splat (BitVec.ofNat 64 (t.ofNat 1))
  | .laneid => tabulate 32 (fun l => BitVec.ofNat 64 (t.ofNat l.val))
  | .ones => splat (BitVec.allOnes 64)
  | _ => splat 0

/-- The two entries of a 64-bit pop joined, or one entry (R24). -/
def popLanes (e : Env) (n : Nat) (wide : Bool) : Exec Lanes64 := do
  let lo ← popEntry e n
  if wide then do
    let hi ← popEntry e n
    pure (joinLanes lo.lanes hi.lanes)
  else pure (widen lo.lanes)

/-- A vector source: one value per lane, in its low w bits (R54, R110, R120). A scalar source gives its low w bits to
every lane; a literal is read in the default type, of 32 bits (R45). -/
def srcV (e : Env) (t : Ty) (code : BitVec 8) (lit : Option W32 := none) : Exec Lanes64 :=
  match lit with
  | some x => pure (splat (x.setWidth 64))
  | none =>
    match RC.of code with
    | .v =>
      let n := regNo code
      pure (if t.wide then joinLanes (e.sl.v n) (e.sl.v (n + 1)) else widen (e.sl.v n))
    | .s =>
      let x := e.sl.s (regNo code)
      pure (splat (if t.wide then x else (x.setWidth 32).setWidth 64))
    | .q => popLanes e (regNo code) t.wide
    | c => pure (constLanes t c)

/-- A scalar source (R107): an s register, a scalar queue or a constant; a literal is sign-extended (R45). -/
def srcS (e : Env) (code : BitVec 8) (lit : Option W32 := none) : Exec W64 :=
  match lit with
  | some x => pure (x.signExtend 64)
  | none =>
    match RC.of code with
    | .s => pure (e.sl.s (regNo code))
    | .q =>
      if 12 ≤ regNo code then popEngine e (regNo code)
      else do
        let x ← popEntry e (regNo code)
        pure x.scalar
    | .one => pure 1
    | .ones => pure (BitVec.allOnes 64)
    | _ => pure 0

/-- A predicate source (R117). -/
def srcP (e : Env) (code : BitVec 8) : W32 :=
  match RC.of code with
  | .p => e.sl.p (regNo code)
  | .ones => BitVec.allOnes 32
  | _ => 0

/-! ### Writing results -/

/-- Take the new value in the lanes of a mask and the old one elsewhere. -/
def merge (m : W32) (new old : Lanes) : Lanes := tabulate 32 (fun l => if m.getLsbD l then new[l] else old[l])

/-- Write a vector register in the lanes of a mask. -/
def Slice.setV (sl : Slice) (n : Nat) (m : W32) (x : Lanes) : Slice :=
  { sl with vreg := sl.vreg.set n (merge m x (sl.v n)) }
/-- Write a scalar register. -/
def Slice.setS (sl : Slice) (n : Nat) (x : W64) : Slice := { sl with sreg := sl.sreg.setIfInBounds n x }
/-- Write the bits of a predicate register under a mask (R91). -/
def Slice.setP (sl : Slice) (n : Nat) (m x : W32) : Slice :=
  { sl with pred := sl.pred.setIfInBounds n ((x &&& m) ||| (sl.p n &&& ~~~m)) }

/-- The lanes of a push: active lanes write their values, inactive lanes zero (R24). -/
def pushLanes (m : W32) (x : Lanes) : Lanes := merge m x Lanes.zero

/-- Write a vector destination (R91, R24): a register in the active lanes, or one push (two for a 64-bit type). -/
def dstV (e : Env) (wide : Bool) (m : W32) (code : BitVec 8) (x : Lanes64) : Exec Unit :=
  match RC.of code with
  | .v =>
    let n := regNo code
    modSl e (fun sl => if wide then (sl.setV n m (lowHalf x)).setV (n + 1) m (highHalf x) else sl.setV n m (lowHalf x))
  | .q =>
    let lo := QEntry.ofLanes (pushLanes m (lowHalf x))
    let hi := QEntry.ofLanes (pushLanes m (highHalf x))
    pushEntries e (regNo code) (if wide then [lo, hi] else [lo])
  | _ => pure ()

/-- Write a scalar destination once for the slice; with no active lane only a queue push happens, of a zero (R24, R53). -/
def dstS (e : Env) (m : W32) (code : BitVec 8) (x : W64) : Exec Unit :=
  match RC.of code with
  | .s => if m = 0 then pure () else modSl e (fun sl => sl.setS (regNo code) x)
  | .q => pushEntries e (regNo code) [QEntry.ofScalar (if m = 0 then 0 else x)]
  | _ => pure ()

/-- Write a predicate destination in the active lanes (R91). -/
def dstP (e : Env) (m : W32) (code : BitVec 8) (x : W32) : Exec Unit := modSl e (fun sl => sl.setP (regNo code) m x)

end Sys2Proof.Machine
end

