-- ==== Sys2Proof/Machine/Flags.lean ====
section
/-!
DEFINITION. Numeric events: the sticky bits of `sys.estat`, the class counters, their thresholds and actions
(spec 03_numbers.md R87 to R90), and raising a vector at a host port (19_host.md R416).
-/
namespace Sys2Proof.Machine

/-- Does a port's MSI-X table mask a vector: bit 0 of its fourth word (PRESUMED, notes/assumptions/54.md)? -/
def Port.masked (p : Port) (v : Nat) : Bool := bitAt (p.msix.read (16 * v + 12)).toNat 0

/-- Raise an MSI-X vector on a port (R416): it stays pending, and is sent when the port is up and its table does not mask it. -/
def Port.raiseVector (p : Port) (v : Nat) : Port :=
  if p.up && !p.failed && !p.masked v then { p with out := p.out ++ [.vector v] }
  else { p with vectors := if p.vectors.contains v then p.vectors else p.vectors ++ [v] }

/-- Change one host port. -/
def State.modPort (s : State) (port1 : Bool) (f : Port → Port) : State :=
  if port1 then { s with pkg := { s.pkg with port1 := f s.pkg.port1 } }
  else { s with pkg := { s.pkg with port0 := f s.pkg.port0 } }

/-- One host port. -/
def State.port (s : State) (port1 : Bool) : Port := if port1 then s.pkg.port1 else s.pkg.port0

/-- Is the port of a host address up (R413)? Bit 50 selects it. -/
def State.portUp (s : State) (pa : Nat) : Bool := (s.port (bitAt pa 50)).up

/-- Has a host address's port been down for 10 ms (R413)? -/
def State.hostRefused (s : State) (pa : Nat) : Bool :=
  let p := s.port (bitAt pa 50)
  !p.up && decide (p.downSince + 100000000 ≤ s.time)

/-- What an instruction does at a place at its issue waits while the place's port is down, and is refused with reason 3 when the
port has been down for 10 ms (R413, R435). -/
def hostReady (va : W64) (p : Place) : Exec Unit := fun s =>
  match p with
  | .host pa =>
    if s.portUp pa then .ok ((), s)
    else if s.hostRefused pa then .error (.refused va (BitVec.ofNat 64 ((bitAt pa 50).toNat + 3 * 2 ^ 12)))
    else .error (.hold .hostDown [] none)
  | _ => .ok ((), s)

/-- Raise a region vector (field group 10) on the port its host bit names (R416). `lo` is the vector's place in the
control block. -/
def State.raiseRegion (s : State) (region lo : Nat) : State :=
  let v := s.rcbOwned 10 region lo 16
  s.modPort (s.rcb region 92 1 == 1) (fun p => p.raiseVector v)

/-- The window number of a PTB instant (R89): one window when its length is 0. -/
def windowOf (win ptb : Nat) : Nat := if win = 0 then 0 else ptb / win

/-- Count one recording of a class at a PTB instant (R89): the counter, and whether the class's hit bit is to be cleared
because a later window has begun. -/
def EvCounter.add (c : EvCounter) (ptb : Nat) : EvCounter × Bool :=
  let later := decide (windowOf c.win.toNat c.last.toNat < windowOf c.win.toNat ptb)
  let n := if later then 0 else c.count.toNat
  ({ c with count := BitVec.ofNat 16 (min (n + 1) 0xFFFF), last := BitVec.ofNat 64 ptb }, later)

/-- The slice after one issue (or pass) that recorded class c, and whether the class's action is taken (R89). -/
def Slice.countClass (sl : Slice) (ptb c : Nat) : Slice × Bool :=
  let (k, later) := ((sl.evc[c]?).getD EvCounter.reset).add ptb
  let hit := sl.evctl.getLsbD (12 + c) && !later
  let act := sl.evctl.getLsbD c && !hit && decide (k.thr < k.count)
  let ctl := setBits sl.evctl.toNat (12 + c) 1 (if hit || act then 1 else 0)
  ({ sl with evc := sl.evc.setIfInBounds c k, evctl := BitVec.ofNat 18 ctl }, act)

/-- Count every class of an event set from class c upward; the classes whose action is taken, ascending. -/
def Slice.countClasses (ev : Events) (ptb : Nat) : Nat → Nat → Slice → Slice × List Nat
  | 0, _, sl => (sl, [])
  | n + 1, c, sl =>
    if ev.getLsbD c then
      let (sl1, act) := sl.countClass ptb c
      let (sl2, l) := Slice.countClasses ev ptb n (c + 1) sl1
      (sl2, if act then c :: l else l)
    else Slice.countClasses ev ptb n (c + 1) sl

/-- The due 0x48 of the lowest acting class of action 0 (R89): class and count, and the counting PC. One that comes before an
earlier one has been taken takes its place (DESIGN CHOICE, notes/assumptions/115.md). -/
def Slice.dueOf (sl : Slice) (acts : List Nat) (pc : Va) : Option Due48 :=
  match acts.filter (fun c => !sl.evctl.getLsbD (6 + c)) with
  | [] => sl.due48
  | c :: _ =>
    some { aux0 := BitVec.ofNat 64 (c + ((sl.evc[c]?).getD EvCounter.reset).count.toNat * 2 ^ 16),
           aux1 := pc.setWidth 64 }

/-- The slice after an issue at `pc` that recorded the events `ev`, with the class whose host interrupt is taken. Of several
classes that cross together one acts (R89): where one of them traps, one 0x48 is due, else the lowest class's interrupt is
taken (DESIGN CHOICE, notes/assumptions/114.md). -/
def Slice.record (sl : Slice) (ev : Events) (ptb : Nat) (pc : Va) : Slice × List Nat :=
  let (sl1, acts) := Slice.countClasses ev ptb 6 0 { sl with estat := sl.estat ||| ev }
  ({ sl1 with due48 := sl1.dueOf acts pc }, if acts.all (fun c => sl1.evctl.getLsbD (6 + c)) then acts.take 1 else [])

/-- The host interrupt of a class (R89): the region's vnum vector and a type-0x09 record. -/
def State.numericInterrupt (s : State) (g : Group) (a : Bool) (region : Nat) (corr : W32) (pc : Va) (c : Nat) : State :=
  (s.raiseRegion region 1536).trace region
    { type := 0x09, detail := c, engine := sliceIdent g.core, origin := g.origin a, corr := corr, ptb := s.ptb (dieOf g.core), payload := pc.toNat }

/-- Record the events of an issue or a pass in a slice (R87, R89). -/
def State.record (s : State) (g : Group) (a : Bool) (region : Nat) (ev : Events) (pc : Va) : State :=
  if ev = 0 then s
  else match s.slice? g.id a with
    | none => s
    | some sl =>
      let (sl', ints) := sl.record ev (s.ptb (dieOf g.core)) pc
      ints.foldl (fun t c => t.numericInterrupt g a region sl.corr pc c) (s.modSlice g.id a (fun _ => sl'))

/-- Record the events of the issuing instruction. -/
def recordEv (e : Env) (ev : Events) : Exec Unit :=
  modify (fun s => s.record e.g e.cur.a e.w.region ev e.path.pc)

/-- The union of the events of the lanes of a mask. -/
def unionEv (m : W32) (f : Nat → Events) : Events :=
  (List.range 32).foldl (fun ev l => if m.getLsbD l then ev ||| f l else ev) 0

end Sys2Proof.Machine
end

