-- ==== Sys2Proof/Machine/Frames.lean ====
section
/-!
DEFINITION. How the bodies of frames are put together (spec 02_encoding.md R42 to R53): the static check, the named
operands, one source read per operand in the order srcA, srcB, srcC (R24), one result. A body answers the numeric events
of its issue; the frame records them once (R89) and moves past itself (R38). Bodies read registers from the state before
the instruction (R7), so the halves of a pair frame may run one after the other (R48).
-/
namespace Sys2Proof.Machine

/-- What a frame, or a half of a pair frame, does; it answers the events it records. -/
abbrev Body := Env → Exec Events

/-- Run the body of an F frame and move on (R38). -/
def issueF (guard : BitVec 6) (body : Body) (s : State) : Host.Outcome State Fault Refusal :=
  issue [guard] (fun e => do
    let ev ← body e
    recordEv e ev
    advance e 8) s

/-- The static check (R59: 0x02), then the conditions of the named operands, of which `extra` come from the
instruction. -/
def begin_ (e : Env) (sp : FSpec) (f : FFrame) (lit : Option W32) (extra : List Cond := []) : Exec Unit := do
  trapIf e (!f.ok sp lit.isSome) 0x02
  checkNamed e extra
    [{ pos := sp.dst, code := f.dst, push := true }, { pos := sp.a, code := f.srcA },
     { pos := if lit.isSome then .unused else sp.b, code := f.srcB }, { pos := sp.c, code := f.srcC }]

/-- A scalar source that its spec may leave unused. -/
def srcS? (e : Env) (p : Pos) (code : BitVec 8) (lit : Option W32 := none) : Exec W64 :=
  if p.accepts.isEmpty then pure 0 else srcS e code lit

/-- A vector source that its spec may leave unused. -/
def srcV? (e : Env) (t : Ty) (p : Pos) (code : BitVec 8) (lit : Option W32 := none) : Exec Lanes64 :=
  if p.accepts.isEmpty then pure (splat 0) else srcV e t code lit

/-- Three source reads, in the order of R24; a trap of one yields to a lower cause that a later one meets (R139). -/
def sources {α β γ : Type} (a : Exec α) (b : Exec β) (c : Exec γ) : Exec (α × β × γ) := do
  let c1 : Exec Unit := do let _ ← c; pure ()
  let b1 : Exec Unit := do let _ ← orLower b c1; c1
  let x ← orLower a b1
  let y ← orLower b c1
  let z ← c
  pure (x, y, z)

/-- A scalar instruction (R91, R107): one value computed once for the slice. -/
def scalarBody (sp : FSpec) (f : FFrame) (lit : Option W32) (fn : W64 → W64 → W64 → W64 × Events) : Body := fun e => do
  begin_ e sp f lit
  let (a, b, c) ← sources (srcS? e sp.a f.srcA) (srcS? e sp.b f.srcB lit) (srcS? e sp.c f.srcC)
  let m := e.active f.guard
  let r := fn a b c
  dstS e m f.dst r.1
  pure (if m = 0 then 0 else r.2)

/-- The values and events of the lanes of a mask; 0 elsewhere. -/
def laneResults (m : W32) (fn : Nat → Nat × Events) : Vector (Nat × Events) 32 :=
  tabulate 32 (fun l => if m.getLsbD l then fn l else (0, 0))

/-- The values of lane results. -/
def laneValues (r : Vector (Nat × Events) 32) : Lanes64 := tabulate 32 (fun l => BitVec.ofNat 64 (r[l]).1)

/-- The union of the events of lane results. -/
def laneEvents (r : Vector (Nat × Events) 32) : Events := r.toList.foldl (fun ev x => ev ||| x.2) 0

/-- The bits of a 32-lane mask given lane by lane. -/
def maskOf (fn : Nat → Bool) : W32 :=
  (List.range 32).foldl (fun m l => if fn l then m ||| (1#32 <<< l) else m) 0

/-- A lane's value as a number. -/
def laneNat (v : Lanes64) (l : Nat) : Nat := ((v[l]?).getD 0).toNat

/-- The three vector sources of an F frame, each in its own type. -/
def vecSources (e : Env) (sp : FSpec) (f : FFrame) (lit : Option W32) (ta tb tc : Ty) :
    Exec (Lanes64 × Lanes64 × Lanes64) :=
  sources (srcV? e ta sp.a f.srcA) (srcV? e tb sp.b f.srcB lit) (srcV? e tc sp.c f.srcC)

/-- A vector instruction that writes one value per active lane (R91): the source types and the width of the result. -/
def vectorBody (sp : FSpec) (f : FFrame) (lit : Option W32) (ta tb tc : Ty) (wideDst : Bool)
    (fn : Nat → Nat → Nat → Nat → Nat × Events) : Body := fun e => do
  begin_ e sp f lit
  let (a, b, c) ← vecSources e sp f lit ta tb tc
  let m := e.active f.guard
  let r := laneResults m (fun l => fn l (laneNat a l) (laneNat b l) (laneNat c l))
  dstV e wideDst m f.dst (laneValues r)
  pure (laneEvents r)

/-- A vector instruction that writes one predicate bit per active lane (R91). -/
def predBody (sp : FSpec) (f : FFrame) (lit : Option W32) (ta tb : Ty) (fn : Nat → Nat → Nat × Events) : Body := fun e => do
  begin_ e sp f lit
  let (a, b, _) ← vecSources e sp f lit ta tb ta
  let m := e.active f.guard
  let r := laneResults m (fun l => fn (laneNat a l) (laneNat b l))
  dstP e m f.dst (maskOf (fun l => laneNat (laneValues r) l == 1))
  pure (laneEvents r)

/-- Run the body of a W frame and move on by its two words (R38). -/
def issueW (guard : BitVec 6) (body : Env → Exec Unit) (s : State) : Host.Outcome State Fault Refusal :=
  issue [guard] (fun e => do
    body e
    advance e 16) s

/-- The static check of a W frame (R59: 0x02; an instruction illegal in this slice: 0x04), then the conditions of its named
operands. -/
def beginW (e : Env) (sp : WSpec) (w : WFrame) (xOnly : Bool := false) (extra : List Cond := []) : Exec Unit := do
  raiseLowest e ((if w.ok sp then [] else [{ cause := 0x02 }]) ++ (if xOnly && e.cur.a then [{ cause := 0x04 }] else []))
  checkNamed e extra
    [{ pos := sp.f.dst, code := w.f.dst, push := true }, { pos := sp.f.a, code := w.f.srcA },
     { pos := if w.lit.isSome then .unused else sp.f.b, code := w.f.srcB }, { pos := sp.f.c, code := w.f.srcC },
     { pos := sp.d, code := w.srcD }, { pos := sp.e, code := w.srcE }, { pos := sp.s, code := w.srcF }]

end Sys2Proof.Machine
end

