-- ==== Sys2Proof/Machine/Scalar.lean ====
section
/-!
DEFINITION. The integer results of Tables 4.4 and 4.6 and the scalar integer instructions (spec
04_group_integer_control.md R92, R107 to R109). A result is exact, as an integer, and is written by R92.
-/
namespace Sys2Proof.Machine

/-- An exact integer result from the w-bit operands a, b and c of a signed or unsigned type. -/
abbrev IntFn := Bool → Nat → Nat → Nat → Nat → Int

/-- a + b. -/
def iAdd : IntFn := fun s w a b _ => readInt s w a + readInt s w b
/-- a - b. -/
def iSub : IntFn := fun s w a b _ => readInt s w a - readInt s w b
/-- a × b. -/
def iMul : IntFn := fun s w a b _ => readInt s w a * readInt s w b
/-- floor(a × b / 2^w). -/
def iMulh : IntFn := fun s w a b _ => readInt s w a * readInt s w b / (2 ^ w : Nat)
/-- a × b + c. -/
def iMad : IntFn := fun s w a b c => readInt s w a * readInt s w b + readInt s w c
/-- Bitwise and. -/
def iAnd : IntFn := fun _ w a b _ => ((a % 2 ^ w) &&& (b % 2 ^ w) : Nat)
/-- Bitwise or. -/
def iOr : IntFn := fun _ w a b _ => ((a % 2 ^ w) ||| (b % 2 ^ w) : Nat)
/-- Bitwise exclusive or. -/
def iXor : IntFn := fun _ w a b _ => ((a % 2 ^ w) ^^^ (b % 2 ^ w) : Nat)
/-- Bitwise complement of b. -/
def iNot : IntFn := fun _ w _ b _ => (2 ^ w - 1 - b % 2 ^ w : Nat)
/-- a << b, 0 from a shift of w on. -/
def iShl : IntFn := fun _ w a b _ => if w ≤ b % 2 ^ w then 0 else ((a % 2 ^ w) * 2 ^ (b % 2 ^ w) : Nat)
/-- a shifted right with zeros. -/
def iShr : IntFn := fun _ w a b _ => if w ≤ b % 2 ^ w then 0 else ((a % 2 ^ w) / 2 ^ (b % 2 ^ w) : Nat)
/-- a shifted right with its top bit. -/
def iSra : IntFn := fun _ w a b _ => readInt true w a / (2 ^ (min (b % 2 ^ w) w) : Nat)
/-- The smaller in the type's order. -/
def iMin : IntFn := fun s w a b _ => min (readInt s w a) (readInt s w b)
/-- The larger in the type's order. -/
def iMax : IntFn := fun s w a b _ => max (readInt s w a) (readInt s w b)
/-- b. -/
def iMov : IntFn := fun s w _ b _ => readInt s w b
/-- |b|. -/
def iAbs : IntFn := fun s w _ b _ => (readInt s w b).natAbs
/-- -b. -/
def iNeg : IntFn := fun s w _ b _ => -(readInt s w b)
/-- Leading zeros of b; w when b is 0. -/
def iClz : IntFn := fun _ w _ b _ => if b % 2 ^ w = 0 then (w : Int) else ((w - 1 - Nat.log2 (b % 2 ^ w) : Nat) : Int)
/-- Ones in b. -/
def iPopc : IntFn := fun _ w _ b _ => (popCount (b % 2 ^ w) w : Nat)
/-- The length of a bit field inside w bits (`field_len` of R108). -/
def fieldLen (pos len w : Nat) : Nat := if len = 0 ∨ w ≤ pos then 0 else min len (w - pos)
/-- B1: the field of a that b names, extended by the type. -/
def iBfx : IntFn := fun s w a b _ =>
  let pos := b % 256
  let n := fieldLen pos (b / 256 % 256) w
  if n = 0 then 0 else readInt s n (bitsAt (a % 2 ^ w) pos n)
/-- B2: c with the field that b names replaced by the low bits of a. -/
def iBfi : IntFn := fun _ w a b c =>
  let pos := b % 256
  let n := fieldLen pos (b / 256 % 256) w
  if n = 0 then (c % 2 ^ w : Nat) else (setBits (c % 2 ^ w) pos n a : Nat)
/-- b with its bits in the opposite order. -/
def iBrev : IntFn := fun _ w _ b _ =>
  ((List.range w).foldl (fun x i => if b.testBit i then x + 2 ^ (w - 1 - i) else x) 0 : Nat)
/-- c ≠ 0 ? a : b. -/
def iSel : IntFn := fun s w a b c => if c % 2 ^ w = 0 then readInt s w b else readInt s w a
/-- a[31:0] + 2^32 × b[31:0] (`SLI`, F form). -/
def iJoin : IntFn := fun _ _ a b _ => (a % 2 ^ 32 + 2 ^ 32 * (b % 2 ^ 32) : Nat)

/-- A condition of R109. -/
def condHolds (cond : Nat) (x y : Int) : Bool :=
  match cond with
  | 0 => x == y | 1 => x != y | 2 => decide (x < y) | 3 => decide (x ≤ y) | 4 => decide (y < x) | _ => decide (y ≤ x)

/-- 1 when a cond b holds, else 0. -/
def iCmp (cond : Nat) : IntFn := fun s w a b _ => if condHolds cond (readInt s w a) (readInt s w b) then 1 else 0

/-- The type of an integer instruction: its width and signedness (R107, R110). -/
def intTy (dflt : Ty) (ty : BitVec 4) : Ty := Ty.ofCode dflt ty

/-- A scalar instruction of Table 4.4: the result written by R92 and extended to 64 bits by its signedness (R107). -/
def scalarInt (sp : FSpec) (fn : IntFn) (lit : Option W32) (f : FFrame) : Body :=
  let t := Ty.ofCode .s64 f.ty
  scalarBody sp f lit (fun a b c =>
    let (x, ev) := writeInt t.signed t.width (f.flags.getLsbD 0) (fn t.signed t.width a.toNat b.toNat c.toNat)
    (if t.signed then BitVec.ofInt 64 (readInt true t.width x) else BitVec.ofNat 64 x, ev))

/-- The body of `SADD`. -/
def bodySadd (lit : Option W32) (f : FFrame) : Body := scalarInt (specS 2 true) iAdd lit f
/-- The body of `SSUB`. -/
def bodySsub (lit : Option W32) (f : FFrame) : Body := scalarInt (specS 2 true) iSub lit f
/-- The body of `SMUL`. -/
def bodySmul (lit : Option W32) (f : FFrame) : Body := scalarInt (specS 2 true) iMul lit f
/-- The body of `SMULH`. -/
def bodySmulh (lit : Option W32) (f : FFrame) : Body := scalarInt (specS 2 false) iMulh lit f
/-- The body of `SAND`. -/
def bodySand (lit : Option W32) (f : FFrame) : Body := scalarInt (specS 2 false) iAnd lit f
/-- The body of `SOR`. -/
def bodySor (lit : Option W32) (f : FFrame) : Body := scalarInt (specS 2 false) iOr lit f
/-- The body of `SXOR`. -/
def bodySxor (lit : Option W32) (f : FFrame) : Body := scalarInt (specS 2 false) iXor lit f
/-- The body of `SNOT`. -/
def bodySnot (lit : Option W32) (f : FFrame) : Body := scalarInt (specS 1 false) iNot lit f
/-- The body of `SSHL`. -/
def bodySshl (lit : Option W32) (f : FFrame) : Body := scalarInt (specS 2 false) iShl lit f
/-- The body of `SSHR`. -/
def bodySshr (lit : Option W32) (f : FFrame) : Body := scalarInt (specS 2 false) iShr lit f
/-- The body of `SSRA`. -/
def bodySsra (lit : Option W32) (f : FFrame) : Body := scalarInt (specS 2 false) iSra lit f
/-- The body of `SMIN`. -/
def bodySmin (lit : Option W32) (f : FFrame) : Body := scalarInt (specS 2 false) iMin lit f
/-- The body of `SMAX`. -/
def bodySmax (lit : Option W32) (f : FFrame) : Body := scalarInt (specS 2 false) iMax lit f
/-- The body of `SMOV`. -/
def bodySmov (lit : Option W32) (f : FFrame) : Body := scalarInt (specS 1 false) iMov lit f
/-- The body of `SLI`: the L form loads the literal, the F form joins two halves (R108). -/
def bodySli (lit : Option W32) (f : FFrame) : Body :=
  scalarInt (specSli lit.isSome) (if lit.isSome then iMov else iJoin) lit f
/-- The body of `SCMP`: the condition in variant [2:0] (R109). -/
def bodyScmp (lit : Option W32) (f : FFrame) : Body := scalarInt (specScmp f) (iCmp (f.variant.toNat % 8)) lit f
/-- The body of `SSEL`. -/
def bodySsel (lit : Option W32) (f : FFrame) : Body := scalarInt (specS 3 false) iSel lit f
/-- The body of `SCLZ`. -/
def bodySclz (lit : Option W32) (f : FFrame) : Body := scalarInt (specS 1 false) iClz lit f
/-- The body of `SPOPC`. -/
def bodySpopc (lit : Option W32) (f : FFrame) : Body := scalarInt (specS 1 false) iPopc lit f
/-- The body of `SBFX`. -/
def bodySbfx (lit : Option W32) (f : FFrame) : Body := scalarInt (specS 2 false) iBfx lit f
/-- The body of `SBFI`. -/
def bodySbfi (lit : Option W32) (f : FFrame) : Body := scalarInt (specS 3 false) iBfi lit f

/-- `SADD` in its F form. -/
def execSadd (f : FFrame) (s : State) : Host.Outcome State Fault Refusal := issueF f.guard (bodySadd none f) s
/-- `SSUB` in its F form. -/
def execSsub (f : FFrame) (s : State) : Host.Outcome State Fault Refusal := issueF f.guard (bodySsub none f) s
/-- `SMUL` in its F form. -/
def execSmul (f : FFrame) (s : State) : Host.Outcome State Fault Refusal := issueF f.guard (bodySmul none f) s
/-- `SMULH` in its F form. -/
def execSmulh (f : FFrame) (s : State) : Host.Outcome State Fault Refusal := issueF f.guard (bodySmulh none f) s
/-- `SAND` in its F form. -/
def execSand (f : FFrame) (s : State) : Host.Outcome State Fault Refusal := issueF f.guard (bodySand none f) s
/-- `SOR` in its F form. -/
def execSor (f : FFrame) (s : State) : Host.Outcome State Fault Refusal := issueF f.guard (bodySor none f) s
/-- `SXOR` in its F form. -/
def execSxor (f : FFrame) (s : State) : Host.Outcome State Fault Refusal := issueF f.guard (bodySxor none f) s
/-- `SNOT` in its F form. -/
def execSnot (f : FFrame) (s : State) : Host.Outcome State Fault Refusal := issueF f.guard (bodySnot none f) s
/-- `SSHL` in its F form. -/
def execSshl (f : FFrame) (s : State) : Host.Outcome State Fault Refusal := issueF f.guard (bodySshl none f) s
/-- `SSHR` in its F form. -/
def execSshr (f : FFrame) (s : State) : Host.Outcome State Fault Refusal := issueF f.guard (bodySshr none f) s
/-- `SSRA` in its F form. -/
def execSsra (f : FFrame) (s : State) : Host.Outcome State Fault Refusal := issueF f.guard (bodySsra none f) s
/-- `SMIN` in its F form. -/
def execSmin (f : FFrame) (s : State) : Host.Outcome State Fault Refusal := issueF f.guard (bodySmin none f) s
/-- `SMAX` in its F form. -/
def execSmax (f : FFrame) (s : State) : Host.Outcome State Fault Refusal := issueF f.guard (bodySmax none f) s
/-- `SMOV` in its F form. -/
def execSmov (f : FFrame) (s : State) : Host.Outcome State Fault Refusal := issueF f.guard (bodySmov none f) s
/-- `SLI` in its F form. -/
def execSli (f : FFrame) (s : State) : Host.Outcome State Fault Refusal := issueF f.guard (bodySli none f) s
/-- `SCMP` in its F form. -/
def execScmp (f : FFrame) (s : State) : Host.Outcome State Fault Refusal := issueF f.guard (bodyScmp none f) s
/-- `SSEL` in its F form. -/
def execSsel (f : FFrame) (s : State) : Host.Outcome State Fault Refusal := issueF f.guard (bodySsel none f) s
/-- `SCLZ` in its F form. -/
def execSclz (f : FFrame) (s : State) : Host.Outcome State Fault Refusal := issueF f.guard (bodySclz none f) s
/-- `SPOPC` in its F form. -/
def execSpopc (f : FFrame) (s : State) : Host.Outcome State Fault Refusal := issueF f.guard (bodySpopc none f) s
/-- `SBFX` in its F form. -/
def execSbfx (f : FFrame) (s : State) : Host.Outcome State Fault Refusal := issueF f.guard (bodySbfx none f) s
/-- `SBFI` in its F form. -/
def execSbfi (f : FFrame) (s : State) : Host.Outcome State Fault Refusal := issueF f.guard (bodySbfi none f) s

end Sys2Proof.Machine
end

