-- ==== Sys2Proof/Machine/VectorInt.lean ====
section
/-!
DEFINITION. The vector integer instructions (spec 04_group_integer_control.md R110 to R116).
-/
namespace Sys2Proof.Machine

/-- A vector integer instruction of Table 4.6: R108's result lane by lane, written by R92. -/
def vectorInt (sp : FSpec) (fn : IntFn) (lit : Option W32) (f : FFrame) : Body :=
  let t := Ty.ofCode .s32 f.ty
  vectorBody sp f lit t t t t.wide
    (fun _ a b c => writeInt t.signed t.width (f.flags.getLsbD 0) (fn t.signed t.width a b c))

/-- `VLI` (R113): srcB is a scalar or a constant, and each lane receives its low w bits. -/
def bodyVli (lit : Option W32) (f : FFrame) : Body :=
  let t := Ty.ofCode .s32 f.ty
  vectorBody (specVli f) f lit t t t t.wide (fun _ _ b _ => (b % 2 ^ t.width, 0))

/-- `VSEL` (R112): the condition is a predicate's bit or a nonzero lane. -/
def bodyVsel (lit : Option W32) (f : FFrame) : Body := fun e => do
  let sp := specVsel f
  let t := Ty.ofCode .s32 f.ty
  begin_ e sp f lit
  let (a, b, c) ← sources (srcV e t f.srcA) (srcV e t f.srcB lit)
    (if RC.of f.srcC = .p then pure (splat 0) else srcV e t f.srcC)
  let m := e.active f.guard
  let cond (l : Nat) : Bool :=
    if RC.of f.srcC = .p then (srcP e f.srcC).getLsbD l else laneNat c l % 2 ^ t.width != 0
  dstV e t.wide m f.dst (laneValues (laneResults m (fun l => (if cond l then laneNat a l else laneNat b l, 0))))
  pure 0

/-- One lane of `VADDC` or `VSUBB` (R114): the value modulo 2^w and the carry or borrow. -/
def carryLane (sub : Bool) (w a b ci : Nat) : Nat × Bool :=
  if sub then
    let x : Int := (a % 2 ^ w : Nat) - (b % 2 ^ w : Nat) - ci
    (wrapInt w x, decide (x < 0))
  else
    let x := a % 2 ^ w + b % 2 ^ w + ci
    (x % 2 ^ w, decide (2 ^ w ≤ x))

/-- `VADDC` and `VSUBB` (R114, R116): the carry predicate is named by variant [3:0] and written in the active lanes. -/
def vcarry (sub : Bool) (lit : Option W32) (f : FFrame) : Body := fun e => do
  let sp := specVcarry f
  let t := Ty.ofCode .s32 f.ty
  begin_ e sp f lit
  let (a, b, _) ← sources (srcV e t f.srcA) (srcV e t f.srcB lit) (pure ())
  let m := e.active f.guard
  let n := f.variant.toNat % 16
  let r := tabulate 32 (fun l =>
    carryLane sub t.width (laneNat a l) (laneNat b l) (if (e.sl.p n).getLsbD l then 1 else 0))
  dstV e t.wide m f.dst (tabulate 32 (fun l => BitVec.ofNat 64 (r[l]).1))
  modSl e (fun sl => sl.setP n m (maskOf (fun l => ((r[l]?).getD (0, false)).2)))
  pure 0

/-- `VCMP` (R109, R116). -/
def bodyVcmp (lit : Option W32) (f : FFrame) : Body :=
  let t := Ty.ofCode .s32 f.ty
  predBody (specVcmp f) f lit t t (fun a b =>
    (if condHolds (f.variant.toNat % 8) (readInt t.signed t.width a) (readInt t.signed t.width b) then 1 else 0, 0))

/-- The four-way byte dot product of R115. -/
def idot4 (signed : Bool) (a b c : Nat) : Int :=
  (List.range 4).foldl (fun x i => x + readInt signed 8 (bitsAt a (8 * i) 8) * readInt signed 8 (bitsAt b (8 * i) 8))
    (readInt signed 32 c)

/-- `VIDOT4` (R115). -/
def bodyVidot4 (lit : Option W32) (f : FFrame) : Body :=
  let signed := f.ty.toNat != 2
  vectorBody specVidot f lit .s32 .s32 .s32 false
    (fun _ a b c => writeInt signed 32 (f.flags.getLsbD 0) (idot4 signed a b c))

/-- The body of `VADD`. -/
def bodyVadd (lit : Option W32) (f : FFrame) : Body := vectorInt (specV f 2 true) iAdd lit f
/-- The body of `VSUB`. -/
def bodyVsub (lit : Option W32) (f : FFrame) : Body := vectorInt (specV f 2 true) iSub lit f
/-- The body of `VMUL`. -/
def bodyVmul (lit : Option W32) (f : FFrame) : Body := vectorInt (specV f 2 true) iMul lit f
/-- The body of `VMULH`. -/
def bodyVmulh (lit : Option W32) (f : FFrame) : Body := vectorInt (specV f 2 false) iMulh lit f
/-- The body of `VMAD`. -/
def bodyVmad (lit : Option W32) (f : FFrame) : Body := vectorInt (specV f 3 true) iMad lit f
/-- The body of `VAND`. -/
def bodyVand (lit : Option W32) (f : FFrame) : Body := vectorInt (specV f 2 false) iAnd lit f
/-- The body of `VOR`. -/
def bodyVor (lit : Option W32) (f : FFrame) : Body := vectorInt (specV f 2 false) iOr lit f
/-- The body of `VXOR`. -/
def bodyVxor (lit : Option W32) (f : FFrame) : Body := vectorInt (specV f 2 false) iXor lit f
/-- The body of `VNOT`. -/
def bodyVnot (lit : Option W32) (f : FFrame) : Body := vectorInt (specV f 1 false) iNot lit f
/-- The body of `VSHL`. -/
def bodyVshl (lit : Option W32) (f : FFrame) : Body := vectorInt (specV f 2 false) iShl lit f
/-- The body of `VSHR`. -/
def bodyVshr (lit : Option W32) (f : FFrame) : Body := vectorInt (specV f 2 false) iShr lit f
/-- The body of `VSRA`. -/
def bodyVsra (lit : Option W32) (f : FFrame) : Body := vectorInt (specV f 2 false) iSra lit f
/-- The body of `VMIN`. -/
def bodyVmin (lit : Option W32) (f : FFrame) : Body := vectorInt (specV f 2 false) iMin lit f
/-- The body of `VMAX`. -/
def bodyVmax (lit : Option W32) (f : FFrame) : Body := vectorInt (specV f 2 false) iMax lit f
/-- The body of `VABS`. -/
def bodyVabs (lit : Option W32) (f : FFrame) : Body := vectorInt (specV f 1 true) iAbs lit f
/-- The body of `VNEG`. -/
def bodyVneg (lit : Option W32) (f : FFrame) : Body := vectorInt (specV f 1 true) iNeg lit f
/-- The body of `VCLZ`. -/
def bodyVclz (lit : Option W32) (f : FFrame) : Body := vectorInt (specV f 1 false) iClz lit f
/-- The body of `VPOPC`. -/
def bodyVpopc (lit : Option W32) (f : FFrame) : Body := vectorInt (specV f 1 false) iPopc lit f
/-- The body of `VBFX`. -/
def bodyVbfx (lit : Option W32) (f : FFrame) : Body := vectorInt (specV f 2 false) iBfx lit f
/-- The body of `VBFI`. -/
def bodyVbfi (lit : Option W32) (f : FFrame) : Body := vectorInt (specV f 3 false) iBfi lit f
/-- The body of `VBREV`. -/
def bodyVbrev (lit : Option W32) (f : FFrame) : Body := vectorInt (specV f 1 false) iBrev lit f
/-- The body of `VMOV`. -/
def bodyVmov (lit : Option W32) (f : FFrame) : Body := vectorInt (specV f 1 false) iMov lit f
/-- The body of `VADDC`. -/
def bodyVaddc (lit : Option W32) (f : FFrame) : Body := vcarry false lit f
/-- The body of `VSUBB`. -/
def bodyVsubb (lit : Option W32) (f : FFrame) : Body := vcarry true lit f

/-- `VADD` in its F form. -/
def execVadd (f : FFrame) (s : State) : Host.Outcome State Fault Refusal := issueF f.guard (bodyVadd none f) s
/-- `VSUB` in its F form. -/
def execVsub (f : FFrame) (s : State) : Host.Outcome State Fault Refusal := issueF f.guard (bodyVsub none f) s
/-- `VMUL` in its F form. -/
def execVmul (f : FFrame) (s : State) : Host.Outcome State Fault Refusal := issueF f.guard (bodyVmul none f) s
/-- `VMULH` in its F form. -/
def execVmulh (f : FFrame) (s : State) : Host.Outcome State Fault Refusal := issueF f.guard (bodyVmulh none f) s
/-- `VMAD` in its F form. -/
def execVmad (f : FFrame) (s : State) : Host.Outcome State Fault Refusal := issueF f.guard (bodyVmad none f) s
/-- `VAND` in its F form. -/
def execVand (f : FFrame) (s : State) : Host.Outcome State Fault Refusal := issueF f.guard (bodyVand none f) s
/-- `VOR` in its F form. -/
def execVor (f : FFrame) (s : State) : Host.Outcome State Fault Refusal := issueF f.guard (bodyVor none f) s
/-- `VXOR` in its F form. -/
def execVxor (f : FFrame) (s : State) : Host.Outcome State Fault Refusal := issueF f.guard (bodyVxor none f) s
/-- `VNOT` in its F form. -/
def execVnot (f : FFrame) (s : State) : Host.Outcome State Fault Refusal := issueF f.guard (bodyVnot none f) s
/-- `VSHL` in its F form. -/
def execVshl (f : FFrame) (s : State) : Host.Outcome State Fault Refusal := issueF f.guard (bodyVshl none f) s
/-- `VSHR` in its F form. -/
def execVshr (f : FFrame) (s : State) : Host.Outcome State Fault Refusal := issueF f.guard (bodyVshr none f) s
/-- `VSRA` in its F form. -/
def execVsra (f : FFrame) (s : State) : Host.Outcome State Fault Refusal := issueF f.guard (bodyVsra none f) s
/-- `VMIN` in its F form. -/
def execVmin (f : FFrame) (s : State) : Host.Outcome State Fault Refusal := issueF f.guard (bodyVmin none f) s
/-- `VMAX` in its F form. -/
def execVmax (f : FFrame) (s : State) : Host.Outcome State Fault Refusal := issueF f.guard (bodyVmax none f) s
/-- `VABS` in its F form. -/
def execVabs (f : FFrame) (s : State) : Host.Outcome State Fault Refusal := issueF f.guard (bodyVabs none f) s
/-- `VNEG` in its F form. -/
def execVneg (f : FFrame) (s : State) : Host.Outcome State Fault Refusal := issueF f.guard (bodyVneg none f) s
/-- `VCLZ` in its F form. -/
def execVclz (f : FFrame) (s : State) : Host.Outcome State Fault Refusal := issueF f.guard (bodyVclz none f) s
/-- `VPOPC` in its F form. -/
def execVpopc (f : FFrame) (s : State) : Host.Outcome State Fault Refusal := issueF f.guard (bodyVpopc none f) s
/-- `VBFX` in its F form. -/
def execVbfx (f : FFrame) (s : State) : Host.Outcome State Fault Refusal := issueF f.guard (bodyVbfx none f) s
/-- `VBFI` in its F form. -/
def execVbfi (f : FFrame) (s : State) : Host.Outcome State Fault Refusal := issueF f.guard (bodyVbfi none f) s
/-- `VBREV` in its F form. -/
def execVbrev (f : FFrame) (s : State) : Host.Outcome State Fault Refusal := issueF f.guard (bodyVbrev none f) s
/-- `VSEL` in its F form. -/
def execVsel (f : FFrame) (s : State) : Host.Outcome State Fault Refusal := issueF f.guard (bodyVsel none f) s
/-- `VMOV` in its F form. -/
def execVmov (f : FFrame) (s : State) : Host.Outcome State Fault Refusal := issueF f.guard (bodyVmov none f) s
/-- `VLI` in its F form. -/
def execVli (f : FFrame) (s : State) : Host.Outcome State Fault Refusal := issueF f.guard (bodyVli none f) s
/-- `VADDC` in its F form. -/
def execVaddc (f : FFrame) (s : State) : Host.Outcome State Fault Refusal := issueF f.guard (bodyVaddc none f) s
/-- `VSUBB` in its F form. -/
def execVsubb (f : FFrame) (s : State) : Host.Outcome State Fault Refusal := issueF f.guard (bodyVsubb none f) s
/-- `VCMP` in its F form. -/
def execVcmp (f : FFrame) (s : State) : Host.Outcome State Fault Refusal := issueF f.guard (bodyVcmp none f) s
/-- `VIDOT4` in its F form. -/
def execVidot4 (f : FFrame) (s : State) : Host.Outcome State Fault Refusal := issueF f.guard (bodyVidot4 none f) s

end Sys2Proof.Machine
end

