-- ==== Sys2Proof/Machine/Float.lean ====
section
/-!
DEFINITION. The float basic instructions and the special functions (spec 05_group_float_lanes.md R120 to R126).
-/
namespace Sys2Proof.Machine

/-- The float format of a type; FP32 for a type that has none. -/
def Ty.fmt : Ty → Fmt
  | .fl f => f
  | _ => .f32

/-- An operand read exactly, with the invalid event of a signalling NaN (R69, R120). -/
def readF (f : Fmt) (c : Nat) : Num × Events :=
  let (v, sn) := f.decode (c % 2 ^ f.width)
  (v, Events.when sn Events.invalid)

/-- An exact float result from three operands of a format. -/
abbrev FloatFn := Num → Num → Num → Num × Events

/-- a + b. -/
def fAdd : FloatFn := fun a b _ => exactSum [a, b]
/-- a - b. -/
def fSub : FloatFn := fun a b _ => exactSum [a, b.neg]
/-- a × b. -/
def fMul : FloatFn := fun a b _ => let (p, inv) := mulNum a b; (p, Events.when inv Events.invalid)
/-- exact_sum(a × b, c). -/
def fFma : FloatFn := fun a b c =>
  let (p, inv) := mulNum a b
  let (s, ev) := exactSum [p, c]
  (s, ev ||| Events.when inv Events.invalid)

/-- A float instruction whose result is rounded once (Table 5.1). -/
def floatRounded (nsrc : Nat) (fn : FloatFn) (lit : Option W32) (f : FFrame) : Body :=
  let t := Ty.ofCode (.fl .f32) f.ty
  let fm := t.fmt
  vectorBody (specF f nsrc true) f lit t t t t.wide (fun _ a b c =>
    let (x, e1) := readF fm a
    let (y, e2) := readF fm b
    let (z, e3) := readF fm c
    let (v, e4) := fn x y z
    let (r, e5) := roundTo fm v (Mode.ofCode f.variant.toNat) (f.flags.getLsbD 0)
    (r, e1 ||| e2 ||| e3 ||| e4 ||| e5))

/-- Is x the one that `VFMIN` (or `VFMAX`) takes of two numbers: -0 lies below +0 (R122)? -/
def fBelow (x y : Num) : Bool :=
  match cmpNum x y with
  | .lt => true
  | .gt => false
  | .eq => x.sign && !y.sign

/-- `VFMIN` and `VFMAX` of two codes of a format (R122). -/
def fMinMax (isMax : Bool) (f : Fmt) (a b : Nat) : Nat :=
  let x := (f.decode (a % 2 ^ f.width)).1
  let y := (f.decode (b % 2 ^ f.width)).1
  if x.isNan && y.isNan then f.nanCode
  else if x.isNan then b % 2 ^ f.width
  else if y.isNan then a % 2 ^ f.width
  else if isMax then (if fBelow x y then b % 2 ^ f.width else a % 2 ^ f.width)
  else (if fBelow y x then b % 2 ^ f.width else a % 2 ^ f.width)

/-- `VFMIN` or `VFMAX` (R122). -/
def floatMinMax (isMax : Bool) (lit : Option W32) (f : FFrame) : Body :=
  let t := Ty.ofCode (.fl .f32) f.ty
  vectorBody (specFminmax f) f lit t t t t.wide (fun _ a b _ =>
    (fMinMax isMax t.fmt a b, (readF t.fmt a).2 ||| (readF t.fmt b).2))

/-- `VFABS` and `VFNEG` change only the sign of a number; a NaN gives the canonical NaN (R121). -/
def floatSign (neg : Bool) (lit : Option W32) (f : FFrame) : Body :=
  let t := Ty.ofCode (.fl .f32) f.ty
  let fm := t.fmt
  vectorBody (specF f 1 false) f lit t t t t.wide (fun _ _ b _ =>
    let (v, ev) := readF fm b
    let mag := b % 2 ^ (fm.width - 1)
    (if v.isNan then fm.nanCode
     else if neg then fm.signed (!b.testBit (fm.width - 1)) mag else mag, ev))

/-- A condition of `VFCMP` (R123). -/
def fCond (cond : Nat) (x y : Num) : Bool :=
  if x.isNan || y.isNan then cond == 1 || cond == 6
  else
    let c := cmpNum x y
    match cond with
    | 0 => c == .eq | 1 => c != .eq | 2 => c == .lt | 3 => c != .gt | 4 => c == .gt | 5 => c != .lt | _ => false

/-- `VFCMP` (R123). -/
def bodyVfcmp (lit : Option W32) (f : FFrame) : Body :=
  let t := Ty.ofCode (.fl .f32) f.ty
  predBody (specFcmp f) f lit t t (fun a b =>
    let (x, e1) := readF t.fmt a
    let (y, e2) := readF t.fmt b
    (if fCond (f.variant.toNat / 4 % 8) x y then 1 else 0, e1 ||| e2))

/-- The class of a code (R124). -/
def fClass (f : Fmt) (c : Nat) : Nat :=
  let x := c % 2 ^ f.width
  match f.decode x with
  | (.nan, sn) => if sn then 9 else 8
  | (.inf neg, _) => if neg then 0 else 7
  | (.fin neg man _, _) =>
    let sub := decide (x % 2 ^ (f.width - 1) < 2 ^ f.params.2.2)
    if man = 0 then (if neg then 3 else 4)
    else if sub then (if neg then 2 else 5)
    else (if neg then 1 else 6)

/-- `VFCLASS` (R124): it records no event. -/
def bodyVfclass (lit : Option W32) (f : FFrame) : Body :=
  let t := Ty.ofCode (.fl .f32) f.ty
  predBody (specFclass f) f lit t .u32 (fun a b => (if b.testBit (fClass t.fmt a) then 1 else 0, 0))

/-- A value rounded to an integral value by the mode; the sign of a zero result is the operand's (R121). -/
def fRoundInt (mode : Mode) : Num → Num
  | .fin neg man exp => .fin neg (roundMul mode neg man exp 0).1 0
  | v => v

/-- `VFROUND` (R121): no inexact event. -/
def bodyVfround (lit : Option W32) (f : FFrame) : Body :=
  let t := Ty.ofCode (.fl .f32) f.ty
  vectorBody (specF f 1 false) f lit t t t t.wide (fun _ _ b _ =>
    let (v, ev) := readF t.fmt b
    ((roundTo t.fmt (fRoundInt (Mode.ofCode f.variant.toNat) v) .rne false).1, ev))

/-- A constant of `VFDOT2`'s a and b (R125): `one` and `laneid` give both elements of the lane. -/
def dotSrc (e : Env) (ft : Fmt) (code : BitVec 8) (lit : Option W32) : Exec Lanes64 := do
  let v ← srcV e (.fl ft) code
  match lit with
  | some x => pure (splat (x.setWidth 64))
  | none =>
    if RC.of code = .one ∨ RC.of code = .laneid then
      pure (tabulate 32 (fun l => BitVec.ofNat 64 (laneNat v l % 2 ^ 16 * 65537)))
    else pure v

/-- `VFDOT2` (R125): one rounding of c + a0 × b0 + a1 × b1 in FP32. -/
def bodyVfdot2 (lit : Option W32) (f : FFrame) : Body := fun e => do
  let ft : Fmt := if f.ty.toNat = 10 then .f16 else .bf16
  begin_ e (specFdot f) f lit
  let (a, b, c) ← sources (dotSrc e ft f.srcA none)
    (match lit with
      | some x => pure (splat (x.setWidth 64))
      | none => dotSrc e ft f.srcB none)
    (srcV e (.fl .f32) f.srcC)
  let m := e.active f.guard
  let el (v : Lanes64) (l i : Nat) : Num × Events := readF ft (bitsAt (laneNat v l) (16 * i) 16)
  let r := laneResults m (fun l =>
    let (z, e0) := readF .f32 (laneNat c l)
    let (p0, i0) := mulNum (el a l 0).1 (el b l 0).1
    let (p1, i1) := mulNum (el a l 1).1 (el b l 1).1
    let (s, e1) := exactSum [z, p0, p1]
    let (x, e2) := roundTo .f32 s (Mode.ofCode f.variant.toNat) (f.flags.getLsbD 0)
    (x, e0 ||| e1 ||| e2 ||| (el a l 0).2 ||| (el a l 1).2 ||| (el b l 0).2 ||| (el b l 1).2 |||
      Events.when (i0 || i1) Events.invalid))
  dstV e false m f.dst (laneValues r)
  pure (laneEvents r)

/-- `VFSCALE` (R121): a × 2^n. The exponent is bounded where every value already overflows or vanishes. -/
def bodyVfscale (lit : Option W32) (f : FFrame) : Body :=
  let t := Ty.ofCode (.fl .f32) f.ty
  vectorBody (specFscale f) f lit t .s32 t t.wide (fun _ a b _ =>
    let (v, e1) := readF t.fmt a
    let n := max (-8192) (min 8192 (readInt true 32 b))
    let (r, e2) := roundTo t.fmt (v.scale n) (Mode.ofCode f.variant.toNat) (f.flags.getLsbD 0)
    (r, e1 ||| e2))

/-- The body of `VFADD`. -/
def bodyVfadd (lit : Option W32) (f : FFrame) : Body := floatRounded 2 fAdd lit f
/-- The body of `VFSUB`. -/
def bodyVfsub (lit : Option W32) (f : FFrame) : Body := floatRounded 2 fSub lit f
/-- The body of `VFMUL`. -/
def bodyVfmul (lit : Option W32) (f : FFrame) : Body := floatRounded 2 fMul lit f
/-- The body of `VFMA`. -/
def bodyVfma (lit : Option W32) (f : FFrame) : Body := floatRounded 3 fFma lit f
/-- The body of `VFMIN`. -/
def bodyVfmin (lit : Option W32) (f : FFrame) : Body := floatMinMax false lit f
/-- The body of `VFMAX`. -/
def bodyVfmax (lit : Option W32) (f : FFrame) : Body := floatMinMax true lit f
/-- The body of `VFABS`. -/
def bodyVfabs (lit : Option W32) (f : FFrame) : Body := floatSign false lit f
/-- The body of `VFNEG`. -/
def bodyVfneg (lit : Option W32) (f : FFrame) : Body := floatSign true lit f

/-! ### Special functions (R126, Table 5.2) -/

/-- A special function at FP32: the code and the events, for an operand that is no NaN. -/
abbrev SpecialFn := Num → Nat × Events

/-- Rounded to FP32 with `.rne`. -/
def r32 (v : Num) : Nat × Events := roundTo .f32 v .rne false
/-- NaN with the invalid event. -/
def invalid32 : Nat × Events := (Fmt.nanCode .f32, Events.invalid)

/-- 1/x. -/
def sfRcp : SpecialFn
  | .fin neg man exp => if man = 0 then r32 (.inf neg) else r32 (rcpNum neg man exp)
  | .inf neg => r32 (.zero neg)
  | .nan => r32 .nan

/-- 1/√x. -/
def sfRsq : SpecialFn
  | .fin neg man exp => if man = 0 then r32 (.inf neg) else if neg then invalid32 else r32 (rsqrtNum man exp)
  | .inf neg => if neg then invalid32 else r32 (.zero false)
  | .nan => r32 .nan

/-- √x. -/
def sfSqrt : SpecialFn
  | .fin neg man exp => if man = 0 then r32 (.zero neg) else if neg then invalid32 else r32 (sqrtNum man exp)
  | .inf neg => if neg then invalid32 else r32 (.inf false)
  | .nan => r32 .nan

/-- The result of a function at a finite operand where it is not exact: the free value of the operand when it keeps the bound of
R126, else the exact value rounded; with the events of a result that is not exact (R77, R87). -/
def freeSpecial (fn : Config.Special) (neg : Bool) (man : Nat) (exp : Int) : Nat × Events :=
  let x := exactSpecial fn neg man exp
  let b := boundOf fn man exp x
  let c := (Config.special fn (BitVec.ofNat 32 (r32 (.fin neg man exp)).1)).toNat
  let r := if within b.1 b.2 x c then c else (r32 x).1
  let mag := r % 2 ^ 31
  (r, Events.inexact ||| Events.when (mag == 0x7F800000) Events.overflow |||
    Events.when (decide (mag < 2 ^ 23)) Events.underflow)

/-- The integer that a finite value is, if it is one. -/
def wholeOf (neg : Bool) (man : Nat) (exp : Int) : Option Int :=
  let (i, exact) := roundInt .rtz neg man exp
  if exact then some i else none

/-- 2^x: exact at the integers whose power FP32 holds; beyond 2^128 every value overflows. -/
def sfExp2 : SpecialFn
  | .fin neg man exp =>
    if !neg && cmpMag man exp 128 0 != .lt then r32 (.fin false 1 128)
    else match wholeOf neg man exp with
      | some n => if -149 ≤ n then r32 (.fin false 1 n) else freeSpecial .exp2 neg man exp
      | none => freeSpecial .exp2 neg man exp
  | .inf neg => if neg then r32 (.zero false) else r32 (.inf false)
  | .nan => r32 .nan

/-- log2 x: exact at the powers of two. -/
def sfLog2 : SpecialFn
  | .fin neg man exp =>
    if man = 0 then r32 (.inf true)
    else if neg then invalid32
    else if man = 2 ^ Nat.log2 man then r32 (.ofInt ((Nat.log2 man : Int) + exp))
    else freeSpecial .log2 neg man exp
  | .inf neg => if neg then invalid32 else r32 (.inf false)
  | .nan => r32 .nan

/-- sin x. -/
def sfSin : SpecialFn
  | .fin neg man exp => if man = 0 then r32 (.zero neg) else freeSpecial .sin neg man exp
  | .inf _ => invalid32
  | .nan => r32 .nan

/-- cos x. -/
def sfCos : SpecialFn
  | .fin neg man exp => if man = 0 then r32 (.ofInt 1) else freeSpecial .cos neg man exp
  | .inf _ => invalid32
  | .nan => r32 .nan

/-- tanh x. -/
def sfTanh : SpecialFn
  | .fin neg man exp => if man = 0 then r32 (.zero neg) else freeSpecial .tanh neg man exp
  | .inf neg => r32 (.ofInt (if neg then -1 else 1))
  | .nan => r32 .nan

/-- A special function: computed at FP32, then converted to the type (R126). -/
def specialBody (fn : SpecialFn) (lit : Option W32) (f : FFrame) : Body :=
  let t := Ty.ofCode (.fl .f32) f.ty
  vectorBody specSpecial f lit t t t false (fun _ _ b _ =>
    let (v, e1) := readF t.fmt b
    let (r, e2) := fn v
    if t.fmt = .f32 then (r, e1 ||| e2)
    else
      let (x, e3) := roundTo t.fmt (Fmt.f32.decode r).1 .rne false
      (x, e1 ||| e2 ||| e3))

/-- The body of `VRCP`. -/
def bodyVrcp (lit : Option W32) (f : FFrame) : Body := specialBody sfRcp lit f
/-- The body of `VRSQ`. -/
def bodyVrsq (lit : Option W32) (f : FFrame) : Body := specialBody sfRsq lit f
/-- The body of `VSQRT`. -/
def bodyVsqrt (lit : Option W32) (f : FFrame) : Body := specialBody sfSqrt lit f
/-- The body of `VEXP2`. -/
def bodyVexp2 (lit : Option W32) (f : FFrame) : Body := specialBody sfExp2 lit f
/-- The body of `VLOG2`. -/
def bodyVlog2 (lit : Option W32) (f : FFrame) : Body := specialBody sfLog2 lit f
/-- The body of `VSIN`. -/
def bodyVsin (lit : Option W32) (f : FFrame) : Body := specialBody sfSin lit f
/-- The body of `VCOS`. -/
def bodyVcos (lit : Option W32) (f : FFrame) : Body := specialBody sfCos lit f
/-- The body of `VTANH`. -/
def bodyVtanh (lit : Option W32) (f : FFrame) : Body := specialBody sfTanh lit f

/-- `VFADD` in its F form. -/
def execVfadd (f : FFrame) (s : State) : Host.Outcome State Fault Refusal := issueF f.guard (bodyVfadd none f) s
/-- `VFSUB` in its F form. -/
def execVfsub (f : FFrame) (s : State) : Host.Outcome State Fault Refusal := issueF f.guard (bodyVfsub none f) s
/-- `VFMUL` in its F form. -/
def execVfmul (f : FFrame) (s : State) : Host.Outcome State Fault Refusal := issueF f.guard (bodyVfmul none f) s
/-- `VFMA` in its F form. -/
def execVfma (f : FFrame) (s : State) : Host.Outcome State Fault Refusal := issueF f.guard (bodyVfma none f) s
/-- `VFMIN` in its F form. -/
def execVfmin (f : FFrame) (s : State) : Host.Outcome State Fault Refusal := issueF f.guard (bodyVfmin none f) s
/-- `VFMAX` in its F form. -/
def execVfmax (f : FFrame) (s : State) : Host.Outcome State Fault Refusal := issueF f.guard (bodyVfmax none f) s
/-- `VFABS` in its F form. -/
def execVfabs (f : FFrame) (s : State) : Host.Outcome State Fault Refusal := issueF f.guard (bodyVfabs none f) s
/-- `VFNEG` in its F form. -/
def execVfneg (f : FFrame) (s : State) : Host.Outcome State Fault Refusal := issueF f.guard (bodyVfneg none f) s
/-- `VFCMP` in its F form. -/
def execVfcmp (f : FFrame) (s : State) : Host.Outcome State Fault Refusal := issueF f.guard (bodyVfcmp none f) s
/-- `VFCLASS` in its F form. -/
def execVfclass (f : FFrame) (s : State) : Host.Outcome State Fault Refusal := issueF f.guard (bodyVfclass none f) s
/-- `VFROUND` in its F form. -/
def execVfround (f : FFrame) (s : State) : Host.Outcome State Fault Refusal := issueF f.guard (bodyVfround none f) s
/-- `VFDOT2` in its F form. -/
def execVfdot2 (f : FFrame) (s : State) : Host.Outcome State Fault Refusal := issueF f.guard (bodyVfdot2 none f) s
/-- `VFSCALE` in its F form. -/
def execVfscale (f : FFrame) (s : State) : Host.Outcome State Fault Refusal := issueF f.guard (bodyVfscale none f) s
/-- `VRCP` in its F form. -/
def execVrcp (f : FFrame) (s : State) : Host.Outcome State Fault Refusal := issueF f.guard (bodyVrcp none f) s
/-- `VRSQ` in its F form. -/
def execVrsq (f : FFrame) (s : State) : Host.Outcome State Fault Refusal := issueF f.guard (bodyVrsq none f) s
/-- `VSQRT` in its F form. -/
def execVsqrt (f : FFrame) (s : State) : Host.Outcome State Fault Refusal := issueF f.guard (bodyVsqrt none f) s
/-- `VEXP2` in its F form. -/
def execVexp2 (f : FFrame) (s : State) : Host.Outcome State Fault Refusal := issueF f.guard (bodyVexp2 none f) s
/-- `VLOG2` in its F form. -/
def execVlog2 (f : FFrame) (s : State) : Host.Outcome State Fault Refusal := issueF f.guard (bodyVlog2 none f) s
/-- `VSIN` in its F form. -/
def execVsin (f : FFrame) (s : State) : Host.Outcome State Fault Refusal := issueF f.guard (bodyVsin none f) s
/-- `VCOS` in its F form. -/
def execVcos (f : FFrame) (s : State) : Host.Outcome State Fault Refusal := issueF f.guard (bodyVcos none f) s
/-- `VTANH` in its F form. -/
def execVtanh (f : FFrame) (s : State) : Host.Outcome State Fault Refusal := issueF f.guard (bodyVtanh none f) s

end Sys2Proof.Machine
end

