-- ==== Sys2Proof/Machine/Convert.lean ====
section
/-!
DEFINITION. Conversion, packing and unpacking (spec 05_group_float_lanes.md R127 to R130; 03_numbers.md R79 to R81).
-/
namespace Sys2Proof.Machine

/-- The conversion of a code of type S to type D (R128): the code and the events. The same format keeps an infinity, `.sat` or not
(notes/assumptions/108.md). -/
def convert (d s : Ty) (mode : Mode) (sat : Bool) (c : Nat) : Nat × Events :=
  match d, s with
  | .fl fd, .fl fs =>
    let (v, e1) := readF fs c
    let (r, e2) := roundTo fd v mode (sat && !(fd == fs && v.abs == .inf false))
    (r, e1 ||| e2)
  | .fl fd, s => roundTo fd (.ofInt (readInt s.signed s.width c)) mode sat
  | d, .fl fs =>
    let (v, e1) := readF fs c
    let (r, e2) := floatToInt d.signed d.width mode v
    (r, e1 ||| e2)
  | d, s => writeInt d.signed d.width sat (readInt s.signed s.width c)

/-- `VCVT` (R128). -/
def bodyVcvt (f : FFrame) : Body :=
  let d := Ty.ofCode (.fl .f32) f.ty
  let s := Ty.ofCode (.fl .f32) (ty2 f)
  vectorBody (specCvt f) f none s s s d.wide
    (fun _ _ b _ => convert d s (Mode.ofCode f.variant.toNat) (f.flags.getLsbD 0) b)

/-- One element of a block under a scale code (R81): the element divided exactly by 2^X, rounded with saturation. -/
def blockElem (f : Fmt) (scale : Nat) (mode : Mode) (v : Num) : Nat × Events :=
  roundTo f (v.scale (127 - (scale : Int))) mode true

/-- `VCVTB` (R129): the active lanes as one block with a shared scale. -/
def bodyVcvtb (f : FFrame) : Body := fun e => do
  let d := (Ty.ofCode (.fl .f32) f.ty).fmt
  let s := Ty.ofCode (.fl .f32) (ty2 f)
  begin_ e (specCvtb f) f none
  let b ← srcV e s f.srcB
  let m := e.active f.guard
  let val (l : Nat) : Num × Events := readF s.fmt (laneNat b l)
  let scale := blockScale d ((lanesIn m).map (fun l => (val l).1))
  let r := laneResults m (fun l =>
    let (c, ev) := blockElem d scale (Mode.ofCode f.variant.toNat) (val l).1
    (scale * 256 + c, ev ||| (val l).2))
  dstV e false m f.dst (laneValues r)
  pure (laneEvents r)

/-- The conversion of `VPACK` and `VUNPACK` (R130): a float value takes `round_to`, which under satflag 1 gives an infinity ±max
whatever its own format (R78). -/
def repack (d s : Ty) (mode : Mode) (sat : Bool) (c : Nat) : Nat × Events :=
  match d, s with
  | .fl fd, .fl fs =>
    let (v, e1) := readF fs c
    let (r, e2) := roundTo fd v mode sat
    (r, e1 ||| e2)
  | d, s => convert d s mode sat c

/-- The element type of a packed stream (R130). -/
def packTy (f : FFrame) : Ty := Ty.ofCode .s8 f.ty

/-- `VPACK` (R130): the element codes of the active lanes as a stream over lanes 0 to w - 1. -/
def bodyVpack (f : FFrame) : Body := fun e => do
  let t := packTy f
  let u := Ty.ofCode (.fl .f32) (ty2 f)
  let raw := ty2 f == 0
  begin_ e (specPack f false) f none
  let b ← srcV e .u32 f.srcB
  let m := e.active f.guard
  let r := laneResults m (fun l =>
    if raw then (laneNat b l % 2 ^ t.width, 0)
    else let (c, ev) := repack t u (Mode.ofCode f.variant.toNat) true (laneNat b l); (c % 2 ^ t.width, ev))
  let stream := (List.range 32).foldl (fun x i => x + laneNat (laneValues r) i * 2 ^ (t.width * i)) 0
  let m' := m &&& BitVec.ofNat 32 (2 ^ t.width - 1)
  dstV e false m' f.dst (tabulate 32 (fun j => BitVec.ofNat 64 (bitsAt stream (32 * j.val) 32)))
  pure (laneEvents r)

/-- `VUNPACK` (R130): lanes 0 to w - 1 of the source are read whether active or not. -/
def bodyVunpack (f : FFrame) : Body := fun e => do
  let t := packTy f
  let u := Ty.ofCode (.fl .f32) (ty2 f)
  let raw := ty2 f == 0
  begin_ e (specPack f true) f none
  let b ← srcV e .u32 f.srcB
  let m := e.active f.guard
  let stream := (List.range t.width).foldl (fun x j => x + laneNat b j % 2 ^ 32 * 2 ^ (32 * j)) 0
  let r := laneResults m (fun l =>
    let c := bitsAt stream (t.width * l) t.width
    if raw then (c, 0) else repack u t (Mode.ofCode f.variant.toNat) (f.flags.getLsbD 0) c)
  dstV e false m f.dst (laneValues r)
  pure (laneEvents r)

/-- `VCVT`. -/
def execVcvt (f : FFrame) (s : State) : Host.Outcome State Fault Refusal := issueF f.guard (bodyVcvt f) s
/-- `VCVTB`. -/
def execVcvtb (f : FFrame) (s : State) : Host.Outcome State Fault Refusal := issueF f.guard (bodyVcvtb f) s
/-- `VPACK`. -/
def execVpack (f : FFrame) (s : State) : Host.Outcome State Fault Refusal := issueF f.guard (bodyVpack f) s
/-- `VUNPACK`. -/
def execVunpack (f : FFrame) (s : State) : Host.Outcome State Fault Refusal := issueF f.guard (bodyVunpack f) s

end Sys2Proof.Machine
end

