-- ==== Sys2Proof/Machine/Geom.lean ====
section
/-!
DEFINITION. Geometry registers as layouts (spec 08_geometry.md R198 to R203, R207 to R220): reading a register's fields,
well-formedness, evaluation, the bank function, the acceptance tables of the engines, and the results of the geometry
instructions.
-/
namespace Sys2Proof.Machine

/-- A leaf: extent and stride in elements (R198). -/
structure Leaf where
  ext : Nat
  str : Int
  deriving DecidableEq, Repr

/-- The fields of a geometry register (Table 8.1). `leaves` are those before the first absent one; `gap` says that a leaf
stands after an absent one, which no well-formed geometry has. -/
structure Geom where
  leaves : List Leaf
  gap    : Bool
  rows   : List Nat
  bc     : Nat
  swz    : Bool
  mmask  : Nat
  fmt    : Nat
  space  : Nat
  dief   : Bool
  dleaf  : Nat
  deriving DecidableEq, Repr

/-- Where row i of the bank function stands in the register (Table 8.1). -/
def rowAt (i : Nat) : Nat := if i < 4 then 384 + 14 * i else 448 + 14 * (i - 4)

/-- Leaf n of a register. -/
def leafAt (x n : Nat) : Leaf := { ext := bitsAt x (16 * n) 16, str := sextNat 32 (bitsAt x (128 + 32 * n) 32) }

/-- The fields of a register. -/
def Geom.ofReg (g : BitVec 512) : Geom :=
  let x := g.toNat
  let all := (List.range 8).map (leafAt x)
  let front := all.takeWhile (fun l => l.ext != 0)
  { leaves := front, gap := (all.drop front.length).any (fun l => l.ext != 0),
    rows := (List.range 7).map (fun i => bitsAt x (rowAt i) 14), bc := bitsAt x 440 7, swz := bitAt x 447,
    mmask := bitsAt x 490 8, fmt := bitsAt x 498 6, space := bitsAt x 504 3, dief := bitAt x 507, dleaf := bitsAt x 508 3 }

/-- Put a list of fields (place, width, value) into a number. -/
def putFields (x : Nat) (l : List (Nat × Nat × Nat)) : Nat := l.foldl (fun x f => setBits x f.1 f.2.1 f.2.2) x

/-- The register of the fields (Table 8.1); absent leaves are written with stride 0. -/
def Geom.toReg (g : Geom) : BitVec 512 :=
  let leaf (n : Nat) : List (Nat × Nat × Nat) :=
    match g.leaves[n]? with
    | some l => [(16 * n, 16, l.ext), (128 + 32 * n, 32, wrapInt 32 l.str)]
    | none => []
  BitVec.ofNat 512 (putFields 0
    (((List.range 8).map leaf).flatten ++ (List.range 7).map (fun i => (rowAt i, 14, g.rows.getD i 0)) ++
      [(440, 7, g.bc), (447, 1, g.swz.toNat), (490, 8, g.mmask), (498, 6, g.fmt), (504, 3, g.space),
       (507, 1, g.dief.toNat), (508, 3, g.dleaf)]))

/-- The width of one value of a type code in bits (R199). -/
def valueWidth (code : Nat) : Nat :=
  match code % 16 with
  | 9 => 16 | 10 => 16 | 3 => 32 | 4 => 32 | 8 => 32 | 5 => 64 | 6 => 64 | 7 => 64 | 13 => 4 | 15 => 6 | _ => 8

/-- The element width eb in bits (R199). -/
def Geom.eb (g : Geom) : Nat := valueWidth g.fmt * 4 ^ (g.fmt / 16)

/-- Product of the extents of a list of leaves. -/
def extProd (l : List Leaf) : Nat := l.foldl (fun p x => p * x.ext) 1

/-- The size: the number of elements. -/
def Geom.size (g : Geom) : Nat := extProd g.leaves

/-- The number of leaves. -/
def Geom.nleaf (g : Geom) : Nat := g.leaves.length

/-- The extent of a leaf; 0 when it is absent. -/
def Geom.extOf (g : Geom) (n : Nat) : Nat := ((g.leaves[n]?).map (fun l => l.ext)).getD 0

/-- A geometry is well formed (R200). -/
def Geom.ok (g : Geom) : Bool :=
  decide (0 < g.nleaf) && !g.gap && g.mmask.testBit 0 && decide (g.mmask < 2 ^ g.nleaf) && decide (popCount g.mmask 8 ≤ 4) &&
  decide (g.size < 2 ^ 32) && decide (g.space ≤ 5) &&
  (!g.dief || (decide (g.dleaf < g.nleaf) &&
    (g.space == 0 || (g.space == 3 && decide (g.extOf g.dleaf ≤ 2))))) &&
  (decide (g.space < 4) || g.eb == 32)

/-- Is leaf n a die leaf in space 3, which has no stride (R201)? -/
def Geom.die3 (g : Geom) (n : Nat) : Bool := g.dief && g.space == 3 && n == g.dleaf

/-- The offset in elements and the die coordinate of index i over leaves numbered from n. -/
def Geom.offsetFrom (g : Geom) : Nat → List Leaf → Nat → Int × Nat
  | _, [], _ => (0, 0)
  | n, l :: r, i =>
    let x := i % l.ext
    let (off, d) := g.offsetFrom (n + 1) r (i / l.ext)
    if g.die3 n then (off, x) else (off + x * l.str, d)

/-- Offset and die coordinate of element i. -/
def Geom.offset (g : Geom) (i : Nat) : Int × Nat := g.offsetFrom 0 g.leaves i

/-- A place of R201: a byte and a bit in global memory or local store, an accumulator cell, a register lane; an offset
outside the range that R201 gives spaces 4 and 5 leads nowhere. -/
inductive GPlace where
  | global (va : W64) (bit : Nat)
  | ls (addr : W32) (bit : Nat)
  | tile (t row col : Nat)
  | reg (v lane : Nat)
  | nowhere (v : Int)
  deriving DecidableEq, Repr

/-- `geom_eval` (R201). -/
def Geom.eval (g : Geom) (h : W64) (i : Nat) : GPlace :=
  let (off, d) := g.offset i
  let b : Int := off * (g.eb : Int)
  let byte : Int := b / 8
  let bit := (b % 8).toNat
  match g.space with
  | 0 => .global (BitVec.ofInt 64 (h.toNat + byte)) bit
  | 3 => .ls (BitVec.ofNat 32 (wrapInt 31 ((h.toNat % 2 ^ 31 : Nat) + byte) + d * 2 ^ 31)) bit
  | 4 => if 0 ≤ off ∧ off < 1024 then .tile (h.toNat % 16) (off / 32).toNat (off % 32).toNat else .nowhere off
  | 5 =>
    let v : Int := (h.toNat % 128 : Nat) + off / 32
    if 0 ≤ v then .reg v.toNat (off % 32).toNat else .nowhere v
  | _ => .ls (BitVec.ofInt 32 ((h.toNat % 2 ^ 32 : Nat) + byte)) bit

/-- The local-store address of an element in space 1, 2 or 3. -/
def Geom.lsAddr (g : Geom) (h : W64) (i : Nat) : W32 :=
  match g.eval h i with
  | .ls a _ => a
  | _ => 0

/-- The plain bank of a local-store offset (R155). -/
def plainBank (a : Nat) : Nat := bitsAt a 4 7

/-- The bank of a local-store offset under a geometry (R203). -/
def Geom.bank (g : Geom) (a : Nat) : Nat :=
  if g.swz then
    let u := bitsAt a 4 14
    (List.range 7).foldl (fun b i => b + 2 ^ i * ((bitsAt g.bc i 1 + parity (g.rows.getD i 0 &&& u) 14) % 2)) 0
  else plainBank a

/-- The handle agrees with the space (R202). -/
def Geom.handleOk (g : Geom) (h : W64) : Bool :=
  match g.space with
  | 1 => !h.getLsbD 31 && !h.getLsbD 23
  | 2 => h.getLsbD 23
  | 3 => !h.getLsbD 31 && !h.getLsbD 23
  | _ => true

/-- The modes: lists of leaves with their numbers (R200). -/
def Geom.modes (g : Geom) : List (List (Nat × Leaf)) :=
  ((List.range g.nleaf).zip g.leaves).foldl (fun ms p =>
    if g.mmask.testBit p.1 || ms.isEmpty then ms ++ [[p]]
    else match ms.getLast? with
      | some m => ms.dropLast ++ [m ++ [p]]
      | none => [[p]]) []

/-- Product of the extents of a mode. -/
def modeExt (m : List (Nat × Leaf)) : Nat := extProd (m.map (fun p => p.2))

/-! ### Acceptance (R212 to R219) -/

/-- The result of an acceptance test. -/
inductive Accept where
  | ok
  | convert (c : Nat)
  | reject (reason : Nat)
  deriving DecidableEq, Repr

/-- Extend a run: the product so far, and the leaves outside it. -/
def Geom.runOn (g : Geom) (prev : Leaf) (r : Nat) : List (Nat × Leaf) → Nat × List (Nat × Leaf)
  | [] => (r, [])
  | p :: l =>
    if !g.die3 p.1 && p.2.str == prev.ext * prev.str then g.runOn p.2 (r * p.2.ext) l else (r, p :: l)

/-- The run of a list of leaves and the leaves outside it, extents of 1 left out (R213). -/
def Geom.run (g : Geom) (l : List (Nat × Leaf)) : Nat × List (Nat × Leaf) :=
  match l.filter (fun p => p.2.ext != 1) with
  | [] => (1, [])
  | p :: r => if p.2.str == 1 && !g.die3 p.1 then g.runOn p.2 p.2.ext r else (1, p :: r)

/-- A number of elements as bytes; `none` when it is not whole. -/
def Geom.bytesOf (g : Geom) (n : Int) : Option Nat :=
  let b := n.natAbs * g.eb
  if b % 8 = 0 then some (b / 8) else none

/-- All leaves with their numbers. -/
def Geom.numbered (g : Geom) : List (Nat × Leaf) := (List.range g.nleaf).zip g.leaves

/-- The measure qa (R213). -/
def Geom.qa (g : Geom) (h : W64) : Nat :=
  let (r, out) := g.run g.numbered
  let parts := (r : Int) :: (out.filter (fun p => !g.die3 p.1)).map (fun p => p.2.str)
  let bytes := parts.map g.bytesOf
  if bytes.any (fun b => b.isNone) then 0
  else bytes.foldl (fun q b => Nat.gcd q (b.getD 0)) (Nat.gcd 32 h.toNat)

/-- The copy engine's table (R214). -/
def Geom.acceptCopy (g : Geom) (h : W64) : Accept :=
  if !g.ok then .reject 1
  else if 4 ≤ g.space then .reject 2
  else if !g.handleOk h then .reject 4
  else match g.qa h with
    | 0 => .reject 5
    | 32 => .ok
    | q => .convert (128 / q - 4)

/-- Are these byte counts multiples of 16? -/
def mult16 (l : List (Option Nat)) : Bool := l.all (fun b => match b with | some x => x % 16 == 0 | none => false)

/-- The value types of the matrix gather (Table 8.6). -/
def gatherTypes : List Nat := [1, 2, 9, 10, 8, 7, 11, 12, 13, 14, 15]

/-- The chains into which mode 0's leaves of a transposed operand fall (R216). -/
def chainsOf : List Leaf → Nat
  | [] => 1
  | [_] => 1
  | a :: b :: l => (if b.str = a.ext * a.str then 0 else 1) + chainsOf (b :: l)

/-- The matrix gather's table (R215), or the B feeder's (R216). `span` is the mode-0 span in bits (1,024; tf6 takes
15/16 of it). A B operand that is transposed and split counts as transposed. -/
def Geom.acceptGather (g : Geom) (h : W64) (feeder : Bool) (span : Nat := 1024) : Accept :=
  if !g.ok then .reject 1
  else if g.space != 1 && g.space != 2 then .reject 2
  else if g.dief then .reject 3
  else if !g.handleOk h then .reject 4
  else
    let m0 := g.modes.getD 0 []
    let m1 := g.modes.getD 1 []
    let tf6 := g.fmt % 16 == 15
    let need := if tf6 then span * 15 / 16 else span
    if g.modes.length != 2 || modeExt m0 * g.eb != need || (feeder && modeExt m1 != 32) then .reject 6
    else if !gatherTypes.contains (g.fmt % 16) then .reject 7
    else
      let (r, out) := g.run m0
      let p := modeExt m0 / r
      let one := p == 1
      let (r1, rest1) := g.run m1
      let l0 := (m0.map (fun p => p.2)).filter (fun l => l.ext != 1)
      let turned := feeder && r1 == 32 && rest1.isEmpty && decide (8 ≤ g.eb) && h.toNat % 16 == 0 &&
        mult16 (l0.map (fun l => g.bytesOf l.str))
      let out1 := (m1.filter (fun p => p.2.ext != 1)).map (fun p => g.bytesOf p.2.str)
      let runOk := (tf6 && one) || mult16 [g.bytesOf r]
      let fits := decide (p ≤ 8) && runOk && h.toNat % 16 == 0 && mult16 (out.map (fun p => g.bytesOf p.2.str) ++ out1)
      if fits && one then .ok
      else if turned then (if chainsOf l0 ≤ 8 then .convert (8 + 8 * (chainsOf l0 - 1)) else .reject 5)
      else if fits then .convert (8 * (p - 1))
      else .reject 5

/-- The lane load unit (R217). -/
def Geom.acceptLane (g : Geom) (h : W64) : Accept :=
  if !g.ok then .reject 1
  else if g.space = 0 ∨ 4 ≤ g.space then .reject 2
  else if !g.handleOk h then .reject 4
  else if [8, 16, 32, 64, 128].contains g.eb then .ok else .reject 7

/-- The table of an engine code (R213, R219). -/
def Geom.accept (g : Geom) (h : W64) (engine : Nat) : Accept :=
  match engine with
  | 0 => g.acceptCopy h
  | 1 => g.acceptGather h false
  | 2 => g.acceptGather h true
  | _ => g.acceptLane h

/-- What `GCHK` writes (R219). -/
def Accept.word : Accept → W64
  | .ok => 0
  | .convert c => BitVec.ofNat 64 (1 + c % 2 ^ 16 * 2 ^ 32)
  | .reject r => BitVec.ofNat 64 (2 + r * 2 ^ 8)

/-! ### The results of the geometry instructions -/

/-- A fault of a geometry instruction (R205): cause, reason, mode concerned, and the second auxiliary word. -/
structure GErr where
  cause  : BitVec 8
  reason : Nat
  mode   : Nat
  aux1   : Nat
  deriving DecidableEq, Repr

/-- A leaf of a result; `die` marks the die leaf. -/
structure RLeaf where
  ext : Nat
  str : Int
  die : Bool
  deriving DecidableEq, Repr

/-- The modes of a geometry as result leaves. -/
def Geom.rmodes (g : Geom) : List (List RLeaf) :=
  g.modes.map (fun m => m.map (fun p => { ext := p.2.ext, str := p.2.str, die := g.dief && p.1 == g.dleaf }))

/-- The mode mask of modes of the given lengths. -/
def maskOfModes : List Nat → Nat → Nat
  | [], _ => 0
  | k :: l, at_ => 2 ^ at_ + maskOfModes l (at_ + k)

/-- The mode in which leaf n of a list of modes stands. -/
def modeAt : List (List RLeaf) → Nat → Nat
  | [], _ => 0
  | m :: l, n => if n < m.length then 0 else 1 + modeAt l (n - m.length)

/-- Is a stride outside the signed 32-bit range? -/
def RLeaf.far (l : RLeaf) : Bool := decide (l.str < -(2 ^ 31)) || decide (2 ^ 31 ≤ l.str)

/-- A geometry with new leaves and modes: more than 8 leaves or a stride beyond 32 bits fails (Table 8.3). A die leaf that
has gone clears dief. The mode concerned is that of the ninth leaf, or of the first leaf whose stride is too large (DEDUCED,
notes/assumptions/89.md). -/
def Geom.withModes (g : Geom) (ms : List (List RLeaf)) : Except GErr Geom :=
  let ls := ms.flatten
  if 8 < ls.length then .error { cause := 0x2A, reason := 1, mode := modeAt ms 8, aux1 := ls.length }
  else if ls.any RLeaf.far then
    .error { cause := 0x2A, reason := 2, mode := modeAt ms ((ls.findIdx? RLeaf.far).getD 0), aux1 := 0 }
  else
    let d := ls.findIdx? (fun l => l.die)
    .ok { g with leaves := ls.map (fun l => { ext := l.ext, str := l.str }), gap := false,
                 mmask := maskOfModes (ms.map (fun m => m.length)) 0, dief := d.isSome, dleaf := d.getD g.dleaf }

/-- A failure of `chain_leaf` for leaf n of B, whose mode `Geom.chain` adds. -/
def chainErr (reason n : Nat) : GErr := { cause := 0x2B, reason := reason, mode := 0, aux1 := n }

/-- The leaf of A that a step t lands in (R207): the leaves from there on, and what is left of t. -/
def Geom.chainFind (n : Nat) : List (Nat × Leaf) → Nat → Except GErr (List (Nat × Leaf) × Nat)
  | [], t => if t ≤ 1 then .ok ([], t) else .error (chainErr 4 n)
  | p :: l, t =>
    if t ≤ 1 then .ok (p :: l, t)
    else if t % p.2.ext = 0 then chainFind n l (t / p.2.ext)
    else if p.2.ext % t = 0 then .ok (p :: l, t)
    else .error (chainErr 3 n)

/-- Take r coordinates of step t from A's leaves (R207). -/
def Geom.chainTake (a : Geom) (n : Nat) : List (Nat × Leaf) → Nat → Nat → Except GErr (List RLeaf)
  | [], _, r => if r ≤ 1 then .ok [] else .error (chainErr 4 n)
  | p :: l, t, r =>
    if r ≤ 1 then .ok []
    else
      let avail := p.2.ext / t
      let isDie := a.dief && p.1 == a.dleaf
      if isDie && !(t == 1 && decide (avail ≤ r)) then .error (chainErr 3 n)
      else if r ≤ avail then .ok [{ ext := r, str := p.2.str * t, die := isDie }]
      else if r % avail = 0 then
        match a.chainTake n l 1 (r / avail) with
        | .ok out => .ok ({ ext := avail, str := p.2.str * t, die := isDie } :: out)
        | .error e => .error e
      else .error (chainErr 3 n)

/-- `chain_leaf` (R207) for leaf n of B. -/
def Geom.chainLeaf (a : Geom) (n : Nat) (l : Leaf) : Except GErr (List RLeaf) :=
  if l.str < 0 then .error (chainErr 3 n)
  else if l.ext = 1 then .ok [{ ext := 1, str := 0, die := false }]
  else if l.str = 0 then .ok [{ ext := l.ext, str := 0, die := false }]
  else
    match Geom.chainFind n a.numbered l.str.toNat with
    | .error e => .error e
    | .ok (rest, t) => a.chainTake n rest t l.ext

/-- Expand a list of B's leaves in order. -/
def Geom.chainMode (a : Geom) : List (Nat × Leaf) → Except GErr (List RLeaf)
  | [] => .ok []
  | p :: l =>
    match a.chainLeaf p.1 p.2 with
    | .error e => .error e
    | .ok x => match a.chainMode l with
      | .error e => .error e
      | .ok y => .ok (x ++ y)

/-- Expand B's modes in order. -/
def Geom.chainModes (a : Geom) : List (List (Nat × Leaf)) → Except GErr (List (List RLeaf))
  | [] => .ok []
  | m :: l =>
    match a.chainMode m with
    | .error e => .error e
    | .ok x => match a.chainModes l with
      | .error e => .error e
      | .ok y => .ok (x :: y)

/-- The mode of leaf n. -/
def Geom.modeOf (g : Geom) (n : Nat) : Nat := (g.modes.findIdx? (fun m => m.any (fun p => p.1 == n))).getD 0

/-- The second leaf of B that takes A's die leaf, when two do. -/
def Geom.secondDie (a b : Geom) : Option Nat :=
  (((b.numbered.filter (fun p => match a.chainLeaf p.1 p.2 with
    | .ok l => l.any (fun x => x.die)
    | .error _ => false)).map (fun p => p.1)).drop 1).head?

/-- `GCHAIN` (R207): a failure names the leaf of B that fails, and its mode (R205). -/
def Geom.chain (a b : Geom) : Except GErr Geom :=
  match a.chainModes b.modes with
  | .error e => .error { e with mode := b.modeOf e.aux1 }
  | .ok ms =>
    match a.secondDie b with
    | some n => .error { chainErr 3 n with mode := b.modeOf n }
    | none => a.withModes ms

/-- `GTRAN` (R208). -/
def Geom.tran (g : Geom) (order : Nat) : Except GErr Geom :=
  let ms := g.rmodes
  let m := ms.length
  let sel := (List.range 4).map (fun j => bitsAt order (2 * j) 2)
  let used := sel.take m
  if used.all (fun j => decide (j < m)) && decide used.Nodup && (sel.drop m).all (fun j => j == 0) then
    g.withModes (used.map (fun j => ms.getD j []))
  else .error { cause := 0x2A, reason := 4, mode := (used.find? (fun j => decide (m ≤ j))).getD 0, aux1 := 0 }

/-- The least leaf k of a mode with x at most the product of the extents up to it, and the product before it (R209). -/
def sliceLeaf (x : Nat) : List RLeaf → Nat → Nat → Nat × Nat
  | [], k, q => (k, q)
  | l :: r, k, q => if x ≤ q * l.ext then (k, q) else sliceLeaf x r (k + 1) (q * l.ext)

/-- The offset in elements and the die coordinate of coordinate o of a mode. -/
def modeOffset (space3 : Bool) : List RLeaf → Nat → Int × Nat
  | [], _ => (0, 0)
  | l :: r, o =>
    let (off, d) := modeOffset space3 r (o / l.ext)
    if l.die && space3 then (off, o % l.ext) else (off + (o % l.ext : Nat) * l.str, d)

/-- `GSLICE` (R209): the new geometry and what is added to the handle. -/
def Geom.slice (g : Geom) (o x m : Nat) : Except GErr (Geom × Int) :=
  let ms := g.rmodes
  match ms[m]? with
  | none => .error { cause := 0x2A, reason := 4, mode := m, aux1 := 0 }
  | some ml =>
    let e := ml.foldl (fun p l => p * l.ext) 1
    let (k, q) := sliceLeaf x ml 0 1
    let lk := ml.getD k { ext := 1, str := 0, die := false }
    let bad2 := decide (0 < x) && decide (x ≤ e) &&
      (x % q != 0 || o % q != 0 || decide (lk.ext < o / q % lk.ext + x / q))
    let (off, d) := modeOffset (g.space == 3) ml o
    let bits : Int := off * (g.eb : Int)
    if bad2 then .error { cause := 0x2B, reason := 2, mode := m, aux1 := 0 }
    else if o < e ∧ bits % 8 ≠ 0 then .error { cause := 0x2B, reason := 5, mode := m, aux1 := wrapInt 64 bits }
    else if x = 0 ∨ e < o + x then .error { cause := 0x2C, reason := 1, mode := m, aux1 := o + x }
    else
      let y := x / q
      let new := (ml.take k ++ [{ lk with ext := y }]).map (fun (l : RLeaf) => { l with die := l.die && decide (1 < l.ext) })
      match g.withModes (ms.set m new) with
      | .error err => .error err
      | .ok r => .ok (r, bits / 8 + (d : Int) * 2 ^ 31)

/-- `GPART` (R209). -/
def Geom.part (g : Geom) (i n m : Nat) : Except GErr (Geom × Int) :=
  match g.rmodes[m]? with
  | none => .error { cause := 0x2A, reason := 4, mode := m, aux1 := 0 }
  | some ml =>
    let e := ml.foldl (fun p l => p * l.ext) 1
    if n ≠ 0 ∧ e % n ≠ 0 then .error { cause := 0x2B, reason := 1, mode := m, aux1 := e }
    else if n = 0 ∨ n ≤ i then .error { cause := 0x2C, reason := 2, mode := m, aux1 := i }
    else g.slice (i * e / n) (e / n) m

/-- `GFLAT` (R211). -/
def Geom.flat (g : Geom) (m : Nat) : Except GErr Geom :=
  let ms := g.rmodes
  match (ms[m]?).bind (fun a => a.getLast?), (ms[m + 1]?).bind (fun b => b.head?) with
  | some x, some y =>
    let die3 := g.space == 3 && (x.die || y.die)
    let req : Int := (x.ext : Int) * x.str
    if die3 ∨ y.str ≠ req then
      .error { cause := 0x28, reason := 1, mode := m,
               aux1 := wrapInt 32 y.str + 2 ^ 32 * (if die3 then 0 else wrapInt 32 req) }
    else
      let a := ms.getD m []
      let b := ms.getD (m + 1) []
      let joined :=
        if x.ext * y.ext ≤ 65535 ∧ !(x.die || y.die) then
          a.dropLast ++ [{ x with ext := x.ext * y.ext }] ++ b.drop 1
        else a ++ b
      g.withModes (ms.take m ++ [joined] ++ ms.drop (m + 2))
  | _, _ => .error { cause := 0x2A, reason := 4, mode := m, aux1 := 0 }

/-- A register with its bank-function fields replaced (R210); every other field stays. -/
def swzFields (g : BitVec 512) (rows : List Nat) (bc : Nat) : BitVec 512 :=
  BitVec.ofNat 512 (putFields g.toNat
    ((List.range 7).map (fun i => (rowAt i, 14, rows.getD i 0)) ++ [(440, 7, bc), (447, 1, 1)]))

/-- A `GSWZ` preset (R210). -/
def swzPreset (g : BitVec 512) (imm : Nat) : BitVec 512 :=
  if imm.testBit 7 then BitVec.ofNat 512 (setBits g.toNat 447 1 0)
  else
    let bw := imm % 8
    let sh := bitsAt imm 3 4
    swzFields g ((List.range 7).map (fun i => if i < bw then 2 ^ i + 2 ^ (i + sh) else 2 ^ i)) 0

/-- `GSWZ.raw` (R210). -/
def swzRaw (g : BitVec 512) (b c : Nat) : BitVec 512 :=
  swzFields g ((List.range 7).map (fun i => if i < 4 then bitsAt b (14 * i) 14 else bitsAt c (14 * (i - 4)) 14))
    (bitsAt c 42 7)

/-! ### Conflict degree (R220) -/

/-- The bank words that element i touches, as word numbers of the 32-bit local-store address space. -/
def Geom.words (g : Geom) (h : W64) (i : Nat) : List Nat :=
  match g.eval h i with
  | .ls a bit =>
    let first := a.toNat / 16
    let last := (a.toNat + (bit + g.eb - 1) / 8) / 16
    (List.range (last + 1 - first)).map (fun k => first + k)
  | _ => []

/-- The largest number of equal entries among the banks of distinct words: the degree (R156, R220). -/
def degreeOf (banks : List (Nat × Nat)) : Nat := banks.foldl (fun m b => max m (banks.count b)) 0

/-- The degree of window w (R220): bank words of distinct halves fall on distinct banks. -/
def Geom.windowDegree (g : Geom) (h : W64) (wn w : Nat) : Nat :=
  let ix := (List.range (min ((w + 1) * wn) g.size - w * wn)).map (fun k => w * wn + k)
  let ws := ((ix.map (g.words h)).flatten).eraseDups
  degreeOf (ws.map (fun x => (x / 2 ^ 27, g.bank (16 * x))))

/-- What `GBANK` writes (R220). -/
def Geom.conflicts (g : Geom) (h : W64) : W64 :=
  if !g.ok || g.space = 0 || 4 ≤ g.space then 0
  else
    let wn := 16384 / g.eb
    let nwin := (g.size + wn - 1) / wn
    let n := min nwin 4096
    let deg := (List.range n).foldl (fun m w => max m (g.windowDegree h wn w)) 0
    BitVec.ofNat 64 (min deg 255 + n * 2 ^ 8 + (if 4096 < nwin then 2 ^ 40 else 0))

end Sys2Proof.Machine
end

