-- ==== Sys2Proof/Machine/Layout.lean ====
section
/-!
DEFINITION. The sizes of a context image (spec 17_package_faults.md R380, Tables 17.3 and 17.4), from the kernel descriptor's
fields (02_encoding.md R66), and the bytes of a saved workgroup's local store in its image.
-/
namespace Sys2Proof.Machine

/-- A field of a kernel descriptor (Table 2.15). -/
def descField (d : BitVec 1024) (lo w : Nat) : Nat := (d.extractLsb' lo w).toNat
/-- Entries of the divergence stack. -/
def dstackOf (d : BitVec 1024) : Nat := 16 * (descField d 56 4 + 1)
/-- Entries of the call stack. -/
def cstackOf (d : BitVec 1024) : Nat := 16 * (descField d 60 4 + 1)
/-- Queue n's declaration. -/
def queueDecl (d : BitVec 1024) (n : Nat) : Nat := descField d (256 + 16 * n) 16

/-- The sum of the declared depths of q0–q11. -/
def depthSum (d : BitVec 1024) : Nat := ((List.range 12).map (fun n => bitsAt (queueDecl d n) 0 5)).foldl (· + ·) 0

/-- The bytes of a group block. -/
def groupBytes (d : BitVec 1024) : Nat :=
  4608 + 128 * (descField d 32 8 + descField d 40 8) + 160 * depthSum d + 4096 * descField d 48 5

/-- The offset of the local-store image. -/
def lsImage (w : Wg) : Nat := 512 + w.groups * groupBytes w.desc

/-- The halves of a workgroup. -/
def halves (w : Wg) : Nat := if w.pair then 2 else 1

/-- The offset of the tag-table sets. -/
def tagImage (w : Wg) : Nat := lsImage w + halves w * (256 * w.lsize)

/-- The size of a workgroup's image. -/
def imageBytes (w : Wg) : Nat := roundUp (tagImage w + halves w * (128 * w.tags0.length)) 4096

/-- The pages of 4 KiB of an image. -/
def imagePages (w : Wg) : Nat := imageBytes w / 4096

/-- The saved context of a workgroup. -/
def State.ctxOf (s : State) (wg : Nat) : Option Ctx := s.ctxs.find? (fun c => c.shell.id == wg)

/-- The physical address of a byte of a saved workgroup's local store. -/
def Ctx.lsAddr (c : Ctx) (half1 : Bool) (off : Nat) : Nat :=
  c.addr + lsImage c.shell + (if half1 then 256 * c.shell.lsize else 0) + off

/-- Read the local store of a saved workgroup in its image. -/
def State.imageLs (s : State) (wg : Nat) (half1 : Bool) (off n : Nat) : List Byte :=
  match s.ctxOf wg with
  | some c => (List.range n).map (fun i => BitVec.ofNat 8 (s.peek (c.lsAddr half1 (off + i)) 1))
  | none => List.replicate n 0

/-- Write the local store of a saved workgroup in its image. -/
def State.imageLsWrite (s : State) (wg : Nat) (half1 : Bool) (off : Nat) (bs : List Byte) : State :=
  match s.ctxOf wg with
  | some c => ((List.range bs.length).zip bs).foldl (fun s x => s.poke (c.lsAddr half1 (off + x.1)) 1 x.2.toNat) s
  | none => s

/-- The physical address of a slice's block in the image of its saved workgroup (Table 17.4). -/
def State.imageSlice (s : State) (grp : Nat) (a : Bool) : Option Nat :=
  s.ctxs.findSome? (fun c => (c.shells.find? (fun g => g.id == grp)).map (fun g =>
    c.addr + 512 + g.num * groupBytes c.shell.desc + 256 + (if a then 1024 else 0)))

/-- An entry arrives at q13 or q14 of a saved slice (R28, Table 17.5). -/
def State.imageArrive (s : State) (at_ n : Nat) (x : W64) : State :=
  let lo := 8 * (n - 12)
  let q := at_ + 384 + 128 * (n - 12)
  let k := s.peekBits (at_ + 992) lo 5
  if k < 16 then (s.poke (q + 8 * k) 8 x.toNat).pokeBits (at_ + 992) lo 5 (k + 1)
  else
    let s1 := (List.range 15).foldl (fun t i => t.poke (q + 8 * i) 8 (s.peek (q + 8 * (i + 1)) 8)) s
    (s1.poke (q + 120) 8 (x.toNat ||| 2 ^ 63)).pokeBits (at_ + 992) (24 + (n - 12)) 1 1

/-- A command of a saved slice is over: its entries arrive, its copies counter falls, in the image. -/
def State.imageFinish (s : State) (grp : Nat) (a : Bool) (status : W64) (extra : Option W64) : State :=
  match s.imageSlice grp a with
  | none => s
  | some p =>
    let s1 := s.imageArrive p 13 status
    let s2 := match extra with | some x => s1.imageArrive p 14 x | none => s1
    s2.pokeBits (p + 960) 16 6 (s.peekBits (p + 960) 16 6 - 1)

/-- A workgroup, resident or saved. -/
def State.anyWg? (s : State) (id : Nat) : Option Wg :=
  (s.wgs.find? (fun w => w.id == id)).or ((s.ctxOf id).map (fun c => c.shell))

end Sys2Proof.Machine
end

