-- ==== Sys2Proof/Machine/Access.lean ====
section
/-!
DEFINITION. Performing accesses (spec 06_core.md R152 to R163; 07_core_memory.md R169 to R184; 13_die.md R300, R316;
15_memory_model.md R335 to R344; 21_fabric.md R433 to R438): local-store addresses, the L1, the place of performance, the
outstanding transaction table, atomics, and what happens when an access completes.
-/
namespace Sys2Proof.Machine

/-! ### Local store (R152, R153, R281, R315, R316) -/

/-- Where a local-store address leads: the workgroup whose allocation it is, the half, the offset, and whether it crosses
to the other half. -/
structure LsRef where
  wg     : Nat
  half1  : Bool
  off    : Nat
  remote : Bool
  deriving DecidableEq, Repr

/-- The member of a workgroup's cluster set with a number (R281). -/
def State.member? (s : State) (w : Wg) (j : Nat) : Option Wg :=
  (s.wgs ++ s.ctxs.map (fun c => c.shell)).find? (fun v => v.setId == w.setId && v.member == j)

/-- Check a local-store access of n bytes by a half of a workgroup (R153); `none` raises 0x20. -/
def State.lsRef (s : State) (w : Wg) (half1 : Bool) (addr : W32) (n : Nat) : Option LsRef :=
  let a := addr.toNat
  let off := a % 2 ^ 20
  let die := addr.getLsbD 31
  let clu := addr.getLsbD 23
  let j := bitsAt a 24 3
  if bitsAt a 27 4 ≠ 0 ∨ bitsAt a 20 3 ≠ 0 ∨ (j ≠ 0 ∧ !clu) ∨ (die && clu) ∨ (die && !w.pair) then none
  else if clu then
    match s.member? w j with
    | some v => if off + n ≤ 256 * v.lsize then some { wg := v.id, half1 := half1, off := off, remote := false } else none
    | none => none
  else if off + n ≤ 256 * w.lsize then some { wg := w.id, half1 := xor half1 die, off := off, remote := die }
  else none

/-- The place of a local-store reference. -/
def LsRef.place (r : LsRef) : Place := .ls r.wg r.half1 r.off

/-- The core that holds a half of a workgroup's allocation (R315). -/
def Wg.coreOf (w : Wg) (half1 : Bool) : Nat := if half1 then buddyOf w.core else w.core

/-- The local store of a half. -/
def Wg.ls (w : Wg) (half1 : Bool) : Memory := if half1 then w.ls1 else w.ls0

/-- Read a local-store allocation; that of a saved workgroup lies in its image (R378). -/
def State.lsRead (s : State) (wg : Nat) (half1 : Bool) (off n : Nat) : List Byte :=
  match s.wg? wg with
  | some w => (w.ls half1).readBytes off n
  | none => s.imageLs wg half1 off n

/-- Write a local-store allocation. -/
def State.lsWrite (s : State) (wg : Nat) (half1 : Bool) (off : Nat) (bs : List Byte) : State :=
  match s.wg? wg with
  | some _ => s.modWg wg (fun w =>
      if half1 then { w with ls1 := w.ls1.writeBytes off bs } else { w with ls0 := w.ls0.writeBytes off bs })
  | none => s.imageLsWrite wg half1 off bs

/-! ### Device memory and the L1 (R150, R162, R174) -/

/-- A write at a home L2 is a coherence event for the watches on its line (R196). -/
def State.coherence (s : State) (pa n : Nat) : State :=
  { s with watches := s.watches.map (fun w =>
      match w.place with
      | .mem q => if pa / 128 ≤ q / 128 ∧ q / 128 ≤ (pa + n - 1) / 128 then { w with event := true } else w
      | _ => w) }

/-- Write bytes at a storage address: at the home L2 (R300). -/
def State.homeWrite (s : State) (pa : Nat) (bs : List Byte) : State :=
  (({ s with mem := s.mem.writeBytes pa bs }).clearPoison (wholeLines pa bs.length)).coherence pa bs.length

/-- Replace bytes of a list from an index. -/
def patch (l : List Byte) (at_ : Nat) (bs : List Byte) : List Byte := l.take at_ ++ bs ++ l.drop (at_ + bs.length)

/-- A store updates any L1 line it hits (R162). -/
def Core.l1Store (k : Core) (pa : Nat) (bs : List Byte) : Core :=
  { k with l1 := k.l1.map (fun x => if x.1 = pa / 128 then (x.1, x.2.1, patch x.2.2 (pa % 128) bs) else x) }

/-- A miss of a line consults the victim array (R150): a matching entry is removed and credits its owner. -/
def Core.l1Miss (k : Core) (line : Nat) (resident : Nat → Bool) : Core :=
  match k.victims.find? (fun v => v.1 == line) with
  | none => k
  | some v =>
    let k1 := { k with victims := k.victims.erase v }
    if resident v.2 then
      let t := (k.slots[v.2]?).getD { score := 0, denied := 0, waited := false }
      { k1 with slots := k1.slots.setIfInBounds v.2 { t with score := BitVec.ofNat 16 (min (t.score.toNat + 1) 0xFFFF) } }
    else k1

/-- Bring a line into L1 for a group slot: 128 sets of 16 ways, of which the oldest line leaves and enters the victim
array (R145, R150). -/
def Core.l1Fill (k : Core) (line slot : Nat) (bs : List Byte) : Core :=
  let set := k.l1.filter (fun x => x.1 % 128 == line % 128)
  let l1 := (line, slot, bs) :: k.l1
  match set.getLast? with
  | some x =>
    if set.length < 16 then { k with l1 := l1 }
    else
      let vs := (k.victims ++ [(x.1, x.2.1)]).drop (k.victims.length + 1 - 1024)
      { k with l1 := l1.filter (fun y => y.1 != x.1), victims := vs }
  | none => { k with l1 := l1 }

/-- Is the group slot of a core occupied? -/
def State.slotTaken (s : State) (core slot : Nat) : Bool :=
  s.groups.any (fun g => g.core == core && 16 * g.sub + g.slot == slot)

/-- Read through a core's L1 (R174): a hit gives the L1 bytes, a miss fills the line unless the load is `.nc`. -/
def State.l1Read (s : State) (core slot : Nat) (nc : Bool) (pa n : Nat) : State × List Byte :=
  match (s.core core).l1.find? (fun x => x.1 == pa / 128) with
  | some x => (s, (x.2.2.drop (pa % 128)).take n)
  | none =>
    let s1 := s.modCore core (fun k => k.l1Miss (pa / 128) (s.slotTaken core))
    let bs := s.mem.readBytes (pa / 128 * 128) 128
    let s2 := if nc then s1 else s1.modCore core (fun k => k.l1Fill (pa / 128) slot bs)
    (s2, s.mem.readBytes pa n)

/-- Is a scope served by L1 for global memory (Table 7.4)? -/
def Scope.inL1 : Scope → Bool
  | .grp => true
  | .wg => true
  | _ => false

/-- Read at a place. -/
def State.readPlace (s : State) (core slot : Nat) (sc : Scope) (nc : Bool) (p : Place) (n : Nat) : State × List Byte :=
  match p with
  | .mem pa => if sc.inL1 then s.l1Read core slot nc pa n else (s, s.mem.readBytes pa n)
  | .host pa => (s, s.mem.readBytes pa n)
  | .ls w h off => (s, s.lsRead w h off n)
  | .fabric _ _ => (s, List.replicate n 0)

/-- Write at a place, from a core: device memory takes the write-through and updates the core's L1 on a hit. -/
def State.writePlace (s : State) (core : Nat) (p : Place) (bs : List Byte) : State :=
  match p with
  | .mem pa => (s.homeWrite pa bs).modCore core (fun k => k.l1Store pa bs)
  | .host pa => { s with mem := s.mem.writeBytes pa bs }
  | .ls w h off => s.lsWrite w h off bs
  | .fabric _ _ => s

/-- Invalidate every line of a core's L1 (R175, R179): the lines do not enter the victim array. -/
def State.l1Drop (s : State) (core : Nat) : State := s.modCore core (fun k => { k with l1 := [] })

/-- What an acquire at a scope does to the core's L1 (R175). -/
def State.acquireL1 (s : State) (core : Nat) (sc : Scope) : State := if sc.inL1 then s else s.l1Drop core

/-! ### The exported window (R433, R434) -/

/-- What the exporter finds for a request: a place, a page to wait for, a refusal. -/
inductive Export where
  | place (pa : Nat)
  | wait (entry : W64)
  | refuse
  deriving DecidableEq, Repr

/-- Translate an offset of the exported window through `fab.xroot` (R434). -/
def State.exportPlace (s : State) (off : Nat) (write : Bool) : Export :=
  match s.walk [] off 4 (bitsAt s.fabric.xroot.toNat 13 39 * 2 ^ 13) with
  | .bad c level => if c = 0x10 then .wait (rangeOf off level) else .refuse
  | .leaf e bits =>
    if 2 ≤ bitsAt e 5 2 ∨ bitAt e 11 ∨ (write && !bitAt e 2) then .refuse
    else match s.canonPa (bitsAt e 13 39 * 2 ^ 13 + off % 2 ^ bits) with
      | some a => .place a
      | none => .refuse

/-! ### Atomics (R181, R182, R86) -/

/-- One operation of Table 7.7 on codes of a type: the new value. Float `.add` is done by `floatAdds`. -/
def atomOp (t : Ty) (aop o x : Nat) : Nat :=
  let w := t.width
  match aop with
  | 0 => (o + x) % 2 ^ w
  | 1 => (match t with
    | .fl f => fMinMax false f o x
    | _ => wrapInt w (min (readInt t.signed w o) (readInt t.signed w x)))
  | 2 => (match t with
    | .fl f => fMinMax true f o x
    | _ => wrapInt w (max (readInt t.signed w o) (readInt t.signed w x)))
  | 3 => o &&& x
  | 4 => o ||| x
  | 5 => o ^^^ x
  | 6 => x
  | 7 => if x ≤ o then 0 else o + 1
  | _ => if o = 0 ∨ x < o then x else o - 1

/-- The old values and the final value of lanes that operate on one address in ascending order (R182). -/
def chainOps {α : Type} (fn : Nat → α → Nat) : Nat → List α → List Nat × Nat
  | o, [] => ([], o)
  | o, x :: l => let (olds, v) := chainOps fn (fn o x) l; (o :: olds, v)

/-- Aggregated float adds (R86): each lane's old value and the final value are one rounding each. -/
def floatAdds (f : Fmt) (o : Nat) (xs : List Nat) : List Nat × Nat × Events :=
  let val (c : Nat) : Num := (f.decode (c % 2 ^ f.width)).1
  let sn (c : Nat) : Events := Events.when (f.decode (c % 2 ^ f.width)).2 Events.invalid
  let sum (k : Nat) : Nat × Events :=
    let (v, e1) := exactSum ((o :: xs.take k).map val)
    let (r, e2) := roundTo f v .rne false
    (r, e1 ||| e2)
  let olds := (List.range xs.length).map (fun i => if i = 0 then o else (sum i).1)
  let ev := (List.range xs.length).foldl (fun ev i => ev ||| (if i = 0 then 0 else (sum i).2)) 0
  let (r, e) := sum xs.length
  (olds, r, (o :: xs).foldl (fun ev c => ev ||| sn c) (ev ||| e))

/-- Apply the lanes of one address (R182): old values in lane order, the final value, the events. -/
def applyLanes (t : Ty) (aop : Nat) (cas : Bool) (o : Nat) (xs : List (Nat × Nat)) : List Nat × Nat × Events :=
  if cas then
    let (olds, v) := chainOps (fun o (x : Nat × Nat) => if o = x.1 then x.2 else o) o xs
    (olds, v, 0)
  else match t, aop with
    | .fl f, 0 => floatAdds f o (xs.map (fun x => x.2))
    | _, _ => let (olds, v) := chainOps (fun o (x : Nat × Nat) => atomOp t aop o x.2) o xs; (olds, v, 0)

/-! ### Outstanding accesses (R163, R164) -/

/-- Does an outstanding access count as a load (Table 6.5)? -/
def PendKind.isLoad : PendKind → Bool
  | .load => true
  | .ldq => true
  | .expand => true
  | .reload => true
  | .atomic _ _ _ ret => ret
  | _ => false

/-- Does a wait counter count it (R164)? -/
def PendKind.counted : PendKind → Bool
  | .stage => false
  | .reload => false
  | _ => true

/-- Does it write memory? -/
def PendKind.writes : PendKind → Bool
  | .store => true
  | .expand => true
  | .atomic _ _ _ _ => true
  | _ => false

/-- Does a lane access still travel to the buddy core (R316)? -/
def LaneAcc.travels (a : LaneAcc) : Bool :=
  !a.arrived && (match a.place with | .ls _ _ _ => true | _ => false)

/-- Do two lane accesses touch a common byte? -/
def LaneAcc.overlaps (a b : LaneAcc) : Bool :=
  match a.place, b.place with
  | .mem x, .mem y => decide (x < y + b.size) && decide (y < x + a.size)
  | .host x, .host y => decide (x < y + b.size) && decide (y < x + a.size)
  | .fabric p x, .fabric q y => p == q && decide (x < y + b.size) && decide (y < x + a.size)
  | .ls w h x, .ls v g y => w == v && h == g && decide (x < y + b.size) && decide (y < x + a.size)
  | _, _ => false

/-- May a lane access be performed now: what it waits for is done (R175, R185), and no earlier access of the slice to its bytes
is outstanding, by whichever lane (R35 and its example 3). -/
def Core.mayPerform (k : Core) (p : Pending) (a : LaneAcc) : Bool :=
  p.deps.all (fun i => k.pend.all (fun q => q.id != i)) &&
  k.pend.all (fun q => decide (p.id ≤ q.id) || q.grp != p.grp || q.a != p.a ||
    q.accs.all (fun b => b.done || !a.overlaps b))

/-- The value of loaded bytes in a register: extended to 64 bits where the type is signed (Table 7.2). -/
def LoadExt.value (x : LoadExt) (bs : List Byte) : Nat :=
  if x.signed then wrapInt 64 (sextNat (8 * x.size) (ofBytes bs)) else ofBytes bs

/-- Word k of the value that a lane of an outstanding access loaded, if the lane takes part. -/
def Pending.word? (p : Pending) (l k : Nat) : Option W32 :=
  (p.accs.find? (fun a => a.lane == l)).map (fun a => BitVec.ofNat 32 (p.ext.value a.data / 2 ^ (32 * k)))

/-- The lanes that an outstanding access covers. -/
def Pending.mask (p : Pending) : W32 :=
  p.accs.foldl (fun m a => if a.lane < 32 then m ||| (1#32 <<< a.lane) else m) 0

/-- Word k of every lane. -/
def Pending.words (p : Pending) (k : Nat) : Lanes := tabulate 32 (fun l => (p.word? l.val k).getD 0)

/-- The value of an access made once for the slice. -/
def Pending.scalar (p : Pending) : W64 :=
  match p.accs with
  | a :: _ => BitVec.ofNat 64 (p.ext.value a.data)
  | [] => 0

/-- Fill a reserved queue entry: loaded lanes take their values, the others keep what the entry holds (R30, R31). -/
def Pending.fillEntry (p : Pending) (scalar : Bool) (k : Nat) (x : QEntry) : QEntry :=
  if scalar then { x with scalar := if p.accs.isEmpty then x.scalar else p.scalar, fill := none, token := p.token }
  else { x with lanes := merge p.mask (p.words k) x.lanes, fill := none, token := p.token }

/-- Fill the entries that an outstanding access reserved, in order: low halves, then high halves (R24). -/
def Pending.fillQueue (p : Pending) (scalar : Bool) : Nat → List QEntry → List QEntry
  | _, [] => []
  | k, x :: l => if x.fill = some p.id then p.fillEntry scalar k x :: p.fillQueue scalar (k + 1) l
                 else x :: p.fillQueue scalar k l

/-- Write the result of a completed access (R157, R206). -/
def State.deliver (s : State) (p : Pending) : State :=
  match p.dst with
  | .none => s
  | .vec n regs => s.modSlice p.grp p.a (fun sl =>
      (List.range regs).foldl (fun sl k => sl.setV (n + k) p.mask (p.words k)) sl)
  | .scalar n => s.modSlice p.grp p.a (fun sl => sl.setS n p.scalar)
  | .queue n sc => s.modGroup p.grp (fun g =>
      g.setQueue n { g.queue n with entries := p.fillQueue sc 0 (g.queue n).entries })
  | .geom n => s.modGroup p.grp (fun g =>
      { g with geom := g.geom.setIfInBounds n (BitVec.ofNat 512 (ofBytes ((p.accs.map (fun a => a.data)).flatten) % 2 ^ 511)) })
  | .fblock n => s.modGroup p.grp (fun g =>
      { g with fb := g.fb.setIfInBounds n (BitVec.ofNat 256 (ofBytes ((p.accs.map (fun a => a.data)).flatten))) })

/-- Lower the wait counter of a completed access (R164). -/
def Slice.lower (sl : Slice) (k : PendKind) : Slice :=
  if !k.counted then sl
  else if k.isLoad then { sl with loads := sl.loads - 1 } else { sl with stores := sl.stores - 1 }

/-- Does a byte range overlap an enabled watchpoint of a region under its rd and wr bits (R407)? -/
def Watchpoint.hits (w : Watchpoint) (region : Nat) (rd wr : Bool) (va : W64) (n : Nat) : Bool :=
  let size := 2 ^ w.sz.toNat
  let lo := w.addr.toNat / size * size
  w.en && w.region.toNat == region && ((rd && w.rd) || (wr && w.wr)) && decide (va.toNat < lo + size) &&
    decide (lo < va.toNat + n)

/-- Note the watchpoint that performed ranges of a slice hit (R407): the lowest watchpoint number, at its lowest lane's
address; it is raised before the slice issues again. A hit that comes while one is due is not kept: the model's choice
(notes/assumptions/126.md). -/
def State.watchHit (s : State) (grp : Nat) (a : Bool) (ranges : List (W64 × Nat)) (rd wr : Bool) : State :=
  let region := (((s.group? grp).bind (fun g => s.wg? g.wg)).map (fun w => w.region)).getD 0
  let hit (i : Nat) : Option Due48 := (s.pkg.wps[i]?).bind (fun w =>
    (ranges.find? (fun r => w.hits region rd wr r.1 r.2)).map (fun r => { aux0 := r.1, aux1 := BitVec.ofNat 64 i }))
  match (List.range 4).findSome? hit with
  | none => s
  | some d => s.modSlice grp a (fun sl => { sl with due53 := some (sl.due53.getD d) })

/-- The ranges of an outstanding access in global memory. -/
def Pending.ranges (p : Pending) : List (W64 × Nat) :=
  p.accs.filterMap (fun a => match a.place with | .ls _ _ _ => none | _ => some (a.va, a.size))

/-- Record the events of an atomic that has completed, counted once for its issue (R87, R89). -/
def State.recordAtomic (s : State) (p : Pending) : State :=
  match s.group? p.grp with
  | some g => s.record g p.a (((s.wg? g.wg).map (fun w => w.region)).getD 0) p.ev p.pc
  | none => s

/-- The scope at which an access acts: `.sys` on a fabric address, whatever it names (R184, R348, R436). -/
def Pending.actsAt (p : Pending) : Scope :=
  if p.accs.any (fun a => match a.place with | .fabric _ _ => true | _ => false) then .sys else p.scope

/-- Complete an outstanding access whose every part is done: it leaves the table, its result is written, its counter falls,
an acquire at `.clu` or wider empties the L1 (R175). A staged read stays for its instruction. -/
def State.completeIf (s : State) (core id : Nat) : State :=
  match (s.core core).pend.find? (fun p => p.id == id) with
  | none => s
  | some p =>
    if p.accs.any (fun a => !a.done) || p.kind == .stage then s
    else
      let s1 := (s.modCore core (fun k => { k with pend := k.pend.filter (fun q => q.id != id) })).deliver p
      let s2 := (s1.modSlice p.grp p.a (fun sl => sl.lower p.kind)).watchHit p.grp p.a p.ranges (p.kind != .store) p.kind.writes
      let s3 := s2.recordAtomic p
      if p.acquire then s3.acquireL1 core p.actsAt else s3

/-- Replace the lane accesses of an outstanding access. -/
def State.setAccs (s : State) (core id : Nat) (f : LaneAcc → LaneAcc) : State :=
  s.modCore core (fun k => { k with pend := k.pend.map (fun p => if p.id = id then { p with accs := p.accs.map f } else p) })

/-- Mark the lanes of an outstanding access as done, with the bytes they received. -/
def State.markDone (s : State) (core id : Nat) (got : List (Nat × List Byte)) : State :=
  s.setAccs core id (fun a => match got.find? (fun g => g.1 == a.lane) with
    | some g => { a with data := g.2, done := true }
    | none => a)

/-- The core group number of a group id (R145). -/
def State.slotOf (s : State) (grp : Nat) : Nat :=
  match s.group? grp with
  | some g => 16 * g.sub + g.slot
  | none => 64

/-- Perform load lanes one after another. -/
def State.doLoads (s : State) (core : Nat) (p : Pending) : List LaneAcc → State × List (Nat × List Byte)
  | [] => (s, [])
  | a :: l =>
    let (s1, bs) := s.readPlace core (s.slotOf p.grp) p.scope p.nc a.place a.size
    let (s2, r) := s1.doLoads core p l
    (s2, (a.lane, bs) :: r)

/-- Perform store lanes in ascending lane order: the highest lane's bytes win (R35). -/
def State.doStores (s : State) (core : Nat) (l : List LaneAcc) : State :=
  l.foldl (fun s a => s.writePlace core a.place a.data) s

/-- The bytes that a set of stores covers of a line, for R391. -/
def coveredLines (l : List LaneAcc) : List Nat :=
  let ps := l.filterMap (fun a => match a.place with | .mem pa => some (pa, a.size) | _ => none)
  ((ps.map (fun p => p.1 / 128)).eraseDups).filter (fun line =>
    (List.range 128).all (fun b => ps.any (fun p => decide (p.1 ≤ 128 * line + b) && decide (128 * line + b < p.1 + p.2))))

/-- Perform the atomic of the lanes that share a place (R182): the old values, and the events where the float add is
performed in L1 or local store (R87). -/
def State.doAtomic (s : State) (core : Nat) (p : Pending) (aop ty : BitVec 4) (cas : Bool) (ls : List LaneAcc) :
    State × List (Nat × List Byte) × Events :=
  match ls with
  | [] => (s, [], 0)
  | a :: _ =>
    let t := Ty.ofCode .u32 ty
    let (s1, bs) := s.readPlace core (s.slotOf p.grp) p.scope false a.place a.size
    let (olds, v, ev) := applyLanes t aop.toNat cas (ofBytes bs) (ls.map (fun x => (ofBytes x.cmp, ofBytes x.data)))
    let s2 := s1.writePlace core a.place (toBytes a.size v)
    let near := match a.place with
      | .ls _ _ _ => true
      | .mem _ => p.scope.inL1
      | _ => false
    (s2, (ls.zip olds).map (fun x => (x.1.lane, toBytes a.size x.2)), if near then ev else 0)

/-- Perform the atomics of a list of places in turn. -/
def State.doAtomics (s : State) (core : Nat) (p : Pending) (aop ty : BitVec 4) (cas : Bool) (ls : List LaneAcc) :
    List Place → State × List (Nat × List Byte) × Events
  | [] => (s, [], 0)
  | q :: l =>
    let (s1, r1, e1) := s.doAtomic core p aop ty cas (ls.filter (fun a => a.place == q))
    let (s2, r2, e2) := s1.doAtomics core p aop ty cas ls l
    (s2, r1 ++ r2, e1 ||| e2)

/-- Gather events of an outstanding access. -/
def State.addEvents (s : State) (core id : Nat) (ev : Events) : State :=
  if ev = 0 then s
  else s.modCore core (fun k => { k with pend := k.pend.map (fun p => if p.id = id then { p with ev := p.ev ||| ev } else p) })

/-- Perform a set of lane accesses of an outstanding access, all at places of this part, and complete it when it was the
last. -/
def State.perform (s : State) (core : Nat) (p : Pending) (ls : List LaneAcc) : State :=
  let (s1, got) : State × List (Nat × List Byte) := match p.kind with
    | .atomic aop ty cas _ =>
      let (t, got, ev) := s.doAtomics core p aop ty cas ls ((ls.map (fun a => a.place)).eraseDups)
      (t.addEvents core p.id ev, got)
    | .store => ((s.doStores core ls).clearPoison (coveredLines ls), ls.map (fun a => (a.lane, a.data)))
    | .expand => (s.doStores core ls, ls.map (fun a => (a.lane, a.data)))
    | _ => s.doLoads core p ls
  (s1.markDone core p.id got).completeIf core p.id

/-! ### Requests to peers (R437, R438) -/

/-- The bytes that a lane sends: offset and value; a compare-and-swap sends the compare value first. -/
def LaneAcc.payload (a : LaneAcc) (off : Nat) : List (Nat × Byte) :=
  let at_ (bs : List Byte) := ((List.range bs.length).zip bs).map (fun x => (off + x.1, x.2))
  if a.data.isEmpty then (List.range a.size).map (fun i => (off + i, 0)) else at_ a.cmp ++ at_ a.data

/-- Put a number into an ascending list, once. -/
def insertNat : List Nat → Nat → List Nat
  | [], x => [x]
  | y :: l, x => if x = y then y :: l else if x < y then x :: y :: l else y :: insertNat l x

/-- The distinct (peer, line) pairs of lane accesses, ascending (R437). -/
def peerLines (ls : List LaneAcc) : List (Nat × Nat) :=
  let all := ls.filterMap (fun a => match a.place with
    | .fabric p off => some (p.toNat * 2 ^ 36 + off / 128)
    | _ => none)
  (all.foldl insertNat []).map (fun x => (x / 2 ^ 36, x % 2 ^ 36))

/-- The request packet for one (peer, line) (R437, Table 21.2); its sequence number is set when it is sent. -/
def Pending.request (p : Pending) (dev : BitVec 12) (peer line : Nat) : FabReq × List Nat :=
  let ls := p.accs.filter (fun a => match a.place with
    | .fabric q off => q.toNat == peer && off / 128 == line
    | _ => false)
  let bytes := (ls.map (fun a => match a.place with
    | .fabric _ off => a.payload off
    | _ => [])).flatten
  let op := match p.kind with
    | .atomic _ _ _ _ => FabOp.atomic
    | .store => if bytes.length = 128 then .write else .maskedWrite
    | _ => .read
  let (aop, ty, cas) := match p.kind with
    | .atomic aop ty cas _ => (aop, ty, cas)
    | _ => (0, 0, false)
  ({ src := dev, op := op, seq := 0, off := BitVec.ofNat 43 (128 * line), len := bytes.length, aop := aop, ty := ty,
     cas := cas, cmp := 0, bytes := bytes }, ls.map (fun a => a.lane))

/-- The lowest port that is up; 48 when none is (R443: the source chooses a plane among those up). -/
def Fabric.plane (f : Fabric) : Nat :=
  ((List.range 48).find? (fun i => match f.ports[i]? with | some p => p.up | none => false)).getD 48

/-- The next sequence number for a destination (R438). -/
def Fabric.seqFor (f : Fabric) (peer : Nat) : BitVec 32 :=
  match f.seqOut.find? (fun p => p.1 == peer) with
  | some p => p.2
  | none => 0

/-- Send a request to a peer (R438): it takes the next sequence number of the ordered pair of parts and waits for its
answer. -/
def State.sendReq (s : State) (peer : BitVec 12) (r : FabReq) (o : FabOwner) : State :=
  let f := s.fabric
  let n := f.seqFor peer.toNat
  let r' := { r with seq := n }
  let plane := f.plane
  { s with fabric := { f with
      seqOut := (peer.toNat, n + 1) :: f.seqOut.filter (fun p => p.1 != peer.toNat),
      outs := f.outs ++ [{ id := f.nextId, peer := peer, seq := n, req := r', owner := o, sent := s.time, tries := 0,
                           plane := plane }],
      nextId := f.nextId + 1, sent := f.sent ++ [.request r' peer plane] } }

/-- Send the requests of an outstanding access to its peers, in ascending order of peer and line. -/
def State.sendPend (s : State) (core : Nat) (p : Pending) : State :=
  let s1 := (peerLines (p.accs.filter (fun a => !a.arrived))).foldl (fun s x =>
    let (r, lanes) := p.request s.fabric.dev x.1 x.2
    s.sendReq (BitVec.ofNat 12 x.1) r (.access core p.id lanes)) s
  s1.setAccs core p.id (fun a => match a.place with
    | .fabric _ _ => { a with arrived := true }
    | _ => a)

/-- The unanswered requests to a peer. -/
def Fabric.unanswered (f : Fabric) (peer : BitVec 12) : Nat := (f.outs.filter (fun o => o.peer == peer)).length

end Sys2Proof.Machine
end

