-- ==== Sys2Proof/Machine/Predicate.lean ====
section
/-!
DEFINITION. The predicate instructions (spec 04_group_integer_control.md R117).
-/
namespace Sys2Proof.Machine

/-- A predicate instruction on two masks (one-source forms read srcB alone). -/
def predOp (nsrc : Nat) (fn : W32 → W32 → W32) (f : FFrame) : Body := fun e => do
  begin_ e (specP nsrc) f none
  dstP e (e.active f.guard) f.dst (fn (srcP e f.srcA) (srcP e f.srcB))
  pure 0

/-- The body of `PAND`. -/
def bodyPand (f : FFrame) : Body := predOp 2 (fun a b => a &&& b) f
/-- The body of `POR`. -/
def bodyPor (f : FFrame) : Body := predOp 2 (fun a b => a ||| b) f
/-- The body of `PXOR`. -/
def bodyPxor (f : FFrame) : Body := predOp 2 (fun a b => a ^^^ b) f
/-- The body of `PNOT`. -/
def bodyPnot (f : FFrame) : Body := predOp 1 (fun _ b => ~~~b) f
/-- The body of `PMOV`. -/
def bodyPmov (f : FFrame) : Body := predOp 1 (fun _ b => b) f

/-- Is a queue code that of a scalar queue (q0–q11 by declaration; engine queues are scalar)? -/
def scalarQueue (e : Env) (code : BitVec 8) : Bool :=
  RC.of code == .q && (12 ≤ regNo code || (e.g.queue (regNo code)).scalar)

/-- The body of `PFROM`: a vector source gives b[l] ≠ 0, a scalar source its bit l. -/
def bodyPfrom (f : FFrame) : Body := fun e => do
  begin_ e specPfrom f none
  let m := e.active f.guard
  if RC.of f.srcB = .s ∨ scalarQueue e f.srcB then do
    let x ← srcS e f.srcB
    dstP e m f.dst (x.setWidth 32)
  else do
    let v ← srcV e .u32 f.srcB
    dstP e m f.dst (maskOf (fun l => laneNat v l != 0))
  pure 0

/-- The body of `PTO`: a vector destination takes b[l] as 0 or 1, a scalar one the whole mask. -/
def bodyPto (f : FFrame) : Body := fun e => do
  begin_ e specPto f none
  let m := e.active f.guard
  let b := srcP e f.srcB
  if RC.of f.dst = .s ∨ scalarQueue e f.dst then dstS e m f.dst (b.setWidth 64)
  else dstV e false m f.dst (tabulate 32 (fun l => if b.getLsbD l then 1 else 0))
  pure 0

/-- `PANY` and `PALL`: one bit over the active lanes. -/
def predFold (all : Bool) (f : FFrame) : Body := fun e => do
  begin_ e specPanyall f none
  let m := e.active f.guard
  let b := srcP e f.srcB
  let r := if all then decide (m &&& ~~~b = 0) else decide (m &&& b ≠ 0)
  dstS e m f.dst (if r then 1 else 0)
  pure 0

/-- The body of `PANY`. -/
def bodyPany (f : FFrame) : Body := predFold false f
/-- The body of `PALL`. -/
def bodyPall (f : FFrame) : Body := predFold true f

/-- `PAND`. -/
def execPand (f : FFrame) (s : State) : Host.Outcome State Fault Refusal := issueF f.guard (bodyPand f) s
/-- `POR`. -/
def execPor (f : FFrame) (s : State) : Host.Outcome State Fault Refusal := issueF f.guard (bodyPor f) s
/-- `PXOR`. -/
def execPxor (f : FFrame) (s : State) : Host.Outcome State Fault Refusal := issueF f.guard (bodyPxor f) s
/-- `PNOT`. -/
def execPnot (f : FFrame) (s : State) : Host.Outcome State Fault Refusal := issueF f.guard (bodyPnot f) s
/-- `PMOV`. -/
def execPmov (f : FFrame) (s : State) : Host.Outcome State Fault Refusal := issueF f.guard (bodyPmov f) s
/-- `PFROM`. -/
def execPfrom (f : FFrame) (s : State) : Host.Outcome State Fault Refusal := issueF f.guard (bodyPfrom f) s
/-- `PTO`. -/
def execPto (f : FFrame) (s : State) : Host.Outcome State Fault Refusal := issueF f.guard (bodyPto f) s
/-- `PANY`. -/
def execPany (f : FFrame) (s : State) : Host.Outcome State Fault Refusal := issueF f.guard (bodyPany f) s
/-- `PALL`. -/
def execPall (f : FFrame) (s : State) : Host.Outcome State Fault Refusal := issueF f.guard (bodyPall f) s

end Sys2Proof.Machine
end

