-- ==== Sys2Proof/Machine/Lsu.lean ====
section
/-!
DEFINITION. Loads, stores and atomics (spec 07_core_memory.md R168 to R184; 01_group.md R30; 06_core.md R149 to R164;
08_geometry.md R218): addresses, checks, and the outstanding accesses that they enter in the core's table.
-/
namespace Sys2Proof.Machine

/-! ### What every access does at issue -/

/-- Note that a slot of a group has waited on R149 in the window (R150). -/
def Core.waits (k : Core) (n : Nat) : Core :=
  let t : ThrottleSlot := (k.slots[n]?).getD { score := 0, denied := 0, waited := false }
  { k with slots := k.slots.setIfInBounds n { t with waited := true } }

/-- A group outside the allowed set does not issue a throttled instruction (R149, R150); that it waited is noted for the
window. -/
def throttle (e : Env) : Exec Unit := fun s =>
  let n := 16 * e.g.sub + e.g.slot
  if (s.core e.g.core).allowed.contains n then .ok ((), s)
  else
    .error (.hold .throttled [] (some (e.before.modCore e.g.core (fun k => k.waits n))))

/-- The issuing slice as it stands in the state. -/
def curSlice (e : Env) : Exec Slice := do
  let s ← get
  pure ((s.slice? e.cur.grp e.cur.a).getD e.sl)

/-- The outstanding accesses that a new access of the slice waits for: an acquire before it (R175), for a write a release
fence before it (R185), for a synchronising access the earlier ones, the pushes of loads among them (R337), for a release every
earlier access (R175). -/
def depsFor (e : Env) (write : Bool) (order : Nat) : Exec (List Nat) := do
  let s ← get
  let sl ← curSlice e
  let k := s.core e.g.core
  let mine := k.pend.filter (fun p => p.grp == e.cur.grp && p.a == e.cur.a)
  let out := mine.map (fun p => p.id)
  if 2 ≤ order then pure (out ++ sl.acqIds.filter (fun i => !out.contains i && k.pend.any (fun p => p.id == i)))
  else
    let isSync (p : Pending) : Bool := p.sync || (match p.dst with | .queue _ _ => true | _ => false)
    let sync := if order = 0 then [] else (mine.filter isSync).map (fun p => p.id)
    let ids := sl.acqIds ++ (if write then sl.relIds else []) ++ sync
    pure (ids.eraseDups.filter (fun i => k.pend.any (fun p => p.id == i)))

/-- Hold while one of a list of accesses is outstanding. -/
def holdDeps (e : Env) (l : List Nat) : Exec Unit := do
  let s ← get
  holdIf ((s.core e.g.core).pend.any (fun p => l.contains p.id)) .fence

/-- Hold while the wait counter that a kind of access raises stands at 63 (R164). -/
def counterRoom (e : Env) (k : PendKind) : Exec Unit := do
  let sl ← curSlice e
  holdIf (decide (63 ≤ (if k.isLoad then sl.loads else sl.stores))) .counterFull

/-- Hold while a peer's window of 4,096 unanswered requests has no room (R438). -/
def windowRoom (accs : List LaneAcc) : Exec Unit := do
  let s ← get
  let peers := (accs.filterMap (fun a => match a.place with | .fabric p _ => some p | _ => none)).eraseDups
  holdIf (peers.any (fun p => decide (4096 <
    s.fabric.unanswered p + entriesOf (accs.filter (fun a => match a.place with | .fabric q _ => q == p | _ => false))))) .requestWindow

/-- What an instruction enters in the table: see `Pending`. -/
structure NewPend where
  kind  : PendKind
  dst   : PendDst
  ext   : LoadExt
  accs  : List LaneAcc
  scope : Scope
  order : Nat
  nc    : Bool := false
  token : Option Token := none
  deriving DecidableEq, Repr

/-- Enter an outstanding access (R163, R164): room in its counter, in the table and in the peers' windows, then the entry
with what it waits for. -/
def enter (e : Env) (x : NewPend) : Exec Unit := do
  counterRoom e x.kind
  tableRoom e (tableNeed x.accs)
  windowRoom x.accs
  let deps ← depsFor e x.kind.writes x.order
  let s ← get
  let id := (s.core e.g.core).nextPend
  let p : Pending :=
    { id := id, grp := e.cur.grp, a := e.cur.a, pc := e.path.pc, kind := x.kind, dst := x.dst, ext := x.ext, accs := x.accs,
      scope := x.scope, acquire := x.order % 2 == 1, sync := x.order != 0, nc := x.nc, deps := deps, token := x.token,
      corr := e.sl.corr, refused := none }
  modify (fun s => s.addPend e.g.core p)
  modSl e (fun sl =>
    let sl1 := if !x.kind.counted then sl
               else if x.kind.isLoad then { sl with loads := sl.loads + 1 } else { sl with stores := sl.stores + 1 }
    if x.order % 2 == 1 then { sl1 with acqIds := sl1.acqIds ++ [id] } else sl1)

/-- Reserve k entries of a queue for a load in flight (R24, R36): discarded when the popping slice has ended, held while
there is no room. -/
def reserve (e : Env) (n : Nat) (scalar : Bool) (xs : List QEntry) : Exec PendDst := do
  let g ← curGroup e
  let q := g.queue n
  if g.popperEnded q then pure .none
  else do
    let s ← get
    let id := (s.core e.g.core).nextPend
    pushEntries e n (xs.map (fun x => { x with fill := some id }))
    pure (.queue n scalar)

/-! ### Global addresses (R169, R172, R305) -/

/-- The displacement of srcC in units of the access size (R168). -/
def dispOf (f : FFrame) (size : Nat) : Int := f.srcC.toInt * (size : Int)

/-- The addresses of the active lanes in the global forms of R169. -/
def laneVas (e : Env) (f : FFrame) (d : Int) (m : W32) : Exec (List (Nat × W64)) := do
  let base : Lanes64 ← if RC.of f.srcA = .v then srcV e .u64 f.srcA else srcV e .u64 f.srcA
  let off : Lanes64 ← srcV e .u32 f.srcB
  pure ((lanesIn m).map (fun l =>
    (l, BitVec.ofNat 64 (laneNat base l) + BitVec.ofNat 64 (laneNat off l) + BitVec.ofInt 64 d)))

/-- Raise a cause met by lanes (R172, Table 5.4). -/
def raiseLanes {α : Type} (e : Env) (c : BitVec 8) (va : W64) (mask : W32) (peer : W64) : Exec α :=
  if c = 0x13 then raise e c va peer else raise e c va (mask.setWidth 64)

/-- The mask of a list of lanes. -/
def maskOfLanes (l : List Nat) : W32 := l.foldl (fun m i => if i < 32 then m ||| (1#32 <<< i) else m) 0

/-- The checks of a global access over all its lanes (R172, R305, R433): walks to wait for, pages to fill, the lowest
cause. `all` stands for the lanes of an access made once for the slice. -/
def placesOf (e : Env) (vas : List (Nat × W64)) (size : Nat) (acc : Access) (all : Option W32 := none) :
    Exec (List (Nat × W64 × Place)) := do
  let s ← get
  let xs := vas.map (fun p => (p.1, p.2, e.xlate s p.2 acc))
  let tr := xs.map (fun x => x.2.2)
  match missesOf tr with
  | w :: ws => hold .walk (w :: ws)
  | [] =>
    let cause (x : Nat × W64 × Xlat) : Option (BitVec 8) :=
      match x.2.2.cause? with
      | some c => if c = 0x13 ∧ x.2.1.toNat % size ≠ 0 then some 0x12 else some c
      | none => if x.2.1.toNat % size = 0 then none else some 0x12
    let causes := xs.filterMap cause
    match causes.foldl (fun r c => match r with | none => some c | some d => some (if c < d then c else d)) none with
    | some c =>
      if c = 0x10 then fun _ => .error (.pages (pagesOf tr))
      else
        let bad := xs.filter (fun x => cause x == some c)
        let va := (bad.head?.map (fun x => x.2.1)).getD 0
        let peer := match bad.head?.map (fun x => x.2.2) with
          | some (.bad _ a) => a
          | _ => 0
        raiseLanes e c va (all.getD (maskOfLanes (bad.map (fun x => x.1)))) peer
    | none => pure (xs.filterMap (fun x => match x.2.2 with | .place p => some (x.1, x.2.1, p) | _ => none))

/-- A lane access at a place, with its data. -/
def laneAcc (size : Nat) (data cmp : Nat → List Byte) (x : Nat × W64 × Place) : LaneAcc :=
  { lane := x.1, va := x.2.1, place := x.2.2, size := size, data := data x.1, cmp := cmp x.1, bank := 0, arrived := true,
    done := false }

/-! ### Local-store addresses (R153, R169, R218) -/

/-- A lane's local-store access before it is checked: the address, and the bank function of its offset. -/
structure LsLane where
  lane : Nat
  addr : W32
  deriving DecidableEq, Repr

/-- The lane addresses of a local-store access without a lane geometry (R169). -/
def plainLs (e : Env) (f : FFrame) (d : Int) (m : W32) : Exec (List LsLane) := do
  let h ← srcS e f.srcA
  let off ← srcV e .u32 f.srcB
  pure ((lanesIn m).map (fun l =>
    { lane := l, addr := h.setWidth 32 + BitVec.ofNat 32 (laneNat off l) + BitVec.ofInt 32 d }))

/-- The 0x29 of the lane load unit (R213, R218). -/
def laneReject {α : Type} (e : Env) (gcode reason : Nat) (mask : W32) : Exec α :=
  raise e 0x29 (BitVec.ofNat 64 (3 + reason * 2 ^ 8 + gcode * 2 ^ 16)) (if reason = 8 then mask.setWidth 64 else 0)

/-- The geometry that `sys.lgeom` names when it is enabled (R218). -/
def Env.lgeom? (e : Env) : Option (Nat × Geom) :=
  if e.sl.lgeom.getLsbD 5 then
    let n := e.sl.lgeom.toNat % 32
    some (n, Geom.ofReg ((e.g.geom[n]?).getD 0))
  else none

/-- The address of the first reference of a list. -/
def firstAddr (l : List (Nat × W32 × Option LsRef)) : W64 :=
  match l with
  | [] => 0
  | x :: _ => x.2.1.setWidth 64

/-- The mask of a list of references. -/
def maskOfRefs (l : List (Nat × W32 × Option LsRef)) : W64 := (maskOfLanes (l.map (fun x => x.1))).setWidth 64

/-- Raise 0x20 for the lanes that lead nowhere, then 0x12 for the misaligned ones. -/
def checkLs (e : Env) (size : Nat) (xs : List (Nat × W32 × Option LsRef)) : Exec Unit := do
  let bad := xs.filter (fun x => x.2.2.isNone)
  trapIf e (!bad.isEmpty) 0x20 (maskOfRefs bad) (firstAddr bad)
  let mis := xs.filter (fun x => x.2.1.toNat % size != 0)
  trapIf e (!mis.isEmpty) 0x12 (firstAddr mis) (maskOfRefs mis)

/-- The checked local-store references of the active lanes (R153, R172, R218): 0x20 before alignment, and of 0x12 and
0x29 the lower. -/
def lsRefs (e : Env) (f : FFrame) (size : Nat) (disp : Bool) (m : W32) : Exec (List (Nat × W32 × LsRef) × Option Geom) := do
  let s ← get
  let dz : Int := if disp then f.srcC.toInt else 0
  match e.lgeom? with
  | none => do
    let ls ← plainLs e f (dz * (size : Int)) m
    let xs := ls.map (fun x => (x.lane, x.addr, s.lsRef e.w e.g.half1 x.addr size))
    checkLs e size xs
    pure (xs.filterMap (fun x => x.2.2.map (fun r => (x.1, x.2.1, r))), none)
  | some (n, g) => do
    let h ← srcS e f.srcA
    let off ← srcV e .u32 f.srcB
    match g.acceptLane h with
    | .reject r => laneReject e (0xC0 + n) r 0
    | _ => do
      if g.eb ≠ 8 * size then laneReject e (0xC0 + n) 7 0
      let ix := (lanesIn m).map (fun l => (l, (laneNat off l : Int) + dz))
      let out := ix.filter (fun p => decide (p.2 < 0) || decide ((g.size : Int) ≤ p.2))
      let ins := (ix.filter (fun p => decide (0 ≤ p.2) && decide (p.2 < (g.size : Int)))).map (fun p =>
        (p.1, g.lsAddr h p.2.toNat))
      let xs := ins.map (fun p => (p.1, p.2, s.lsRef e.w e.g.half1 p.2 size))
      checkLs e size xs
      if !out.isEmpty then laneReject e (0xC0 + n) 8 (maskOfLanes (out.map (fun p => p.1)))
      pure (xs.filterMap (fun x => x.2.2.map (fun r => (x.1, x.2.1, r))), some g)

/-- The bank of an offset, plain or through a geometry (R155, R203). -/
def bankOf (g : Option Geom) (off : Nat) : Nat :=
  match g with
  | some x => x.bank off
  | none => plainBank off

/-- The lane accesses of local-store references. -/
def lsAccs (g : Option Geom) (size : Nat) (data cmp : Nat → List Byte) (refs : List (Nat × W32 × LsRef)) : List LaneAcc :=
  refs.map (fun x =>
    { lane := x.1, va := x.2.1.setWidth 64, place := x.2.2.place, size := size, data := data x.1, cmp := cmp x.1,
      bank := bankOf g x.2.2.off, arrived := !x.2.2.remote, done := false })

/-- The bank word of a local-store place (R155). -/
def Place.word : Place → Place
  | .ls w h off => .ls w h (off / 16 * 16)
  | p => p

/-- The core whose banks serve a local-store place. -/
def State.bankCore (s : State) (p : Place) : Nat :=
  match p with
  | .ls w h _ => ((s.wg? w).map (fun x => x.coreOf h)).getD 0
  | _ => 0

/-- The requests of a local-store instruction (R156): the distinct bank words, in ascending lane order, with their banks. -/
def bankRequests (l : List LaneAcc) : List (Place × Nat) := (l.map (fun a => (a.place.word, a.bank))).eraseDups

/-- The conflict degree of an instruction's requests (R156, R316). -/
def State.degree (s : State) (l : List LaneAcc) : Nat :=
  degreeOf ((bankRequests l).map (fun x => (s.bankCore x.1, x.2)))

/-- The subcore of an outstanding access of a core. -/
def State.pendSub (s : State) (core pend : Nat) : Nat :=
  (((s.core core).pend.find? (fun p => p.id == pend)).bind (fun p => (s.group? p.grp).map (fun g => g.sub))).getD 0

/-- Offer requests to the banks of the cores that serve them (R156); those of another core come from the buddy (R316). -/
def State.enqueueBanks (s : State) (core pend : Nat) (l : List LaneAcc) : State :=
  (bankRequests l).foldl (fun s x => s.modCore (s.bankCore x.1) (fun k =>
    { k with bankq := k.bankq ++ [{ bank := x.2, core := core, pend := pend, word := x.1,
                                    source := if s.bankCore x.1 = core then s.pendSub core pend else 10, entered := false }] })) s

/-- Is a request of the subcore still outside its bank's queue (R156): waiting at a bank, or on its way to the buddy core? -/
def State.banksWait (s : State) (core sub : Nat) : Bool :=
  let mine (r : BankReq) : Bool := r.core == core && !r.entered && s.pendSub core r.pend == sub
  [core, buddyOf core].any (fun c => (s.core c).bankq.any mine) ||
  (s.core core).pend.any (fun p => s.pendSub core p.id == sub && p.accs.any LaneAcc.travels)

/-- Does a bank word stand behind requests that have entered a queue: of its bank, or for the same word through another bank
function? What reads or writes it without a request of its own waits for them, so that queue order is the coherence order of the
word (R158). -/
def State.wordBehind (s : State) (word : Place) (bank : Nat) : Bool :=
  (s.core (s.bankCore word)).bankq.any (fun r => r.entered && (r.bank == bank || r.word == word))

/-- The bank words of a local-store range. -/
def lsWords (wg : Nat) (half1 : Bool) (off n : Nat) : List Place :=
  (List.range ((off + n + 15) / 16 - off / 16)).map (fun i => .ls wg half1 (16 * (off / 16 + i)))

/-- Do places that are read or written without a request of their own stand behind requests in their banks? -/
def State.placesBehind (s : State) (ps : List Place) : Bool :=
  ((ps.map Place.word).eraseDups).any (fun w => match w with
    | .ls _ _ o => s.wordBehind w (plainBank o)
    | _ => false)

/-- Does a local-store range that an instruction of a core reads or updates at issue stand behind requests in its banks, or behind
requests of the core that still travel to the other half (R316)? -/
def State.rangeBehind (s : State) (core wg : Nat) (half1 : Bool) (off n : Nat) : Bool :=
  (lsWords wg half1 off n).any (fun w => s.wordBehind w (match w with | .ls _ _ o => plainBank o | _ => 0) ||
    (s.core core).pend.any (fun p => p.accs.any (fun a => a.travels && a.place.word == w)))

/-- Enter a local-store access: `sys.gbank`, the outstanding access, its bank requests (R156, R157). A request for the
buddy core travels first (R316). -/
def enterLs (e : Env) (x : NewPend) : Exec Unit := do
  let s ← get
  let id := (s.core e.g.core).nextPend
  enter e x
  modSl e (fun sl => { sl with gbank := BitVec.ofNat 8 (s.degree x.accs) })
  modify (fun s => s.enqueueBanks e.g.core id (x.accs.filter (fun a => a.arrived)))

/-- A local-store instruction of a subcore waits until the requests of the one before have entered their queues. -/
def lsReady (e : Env) : Exec Unit := do
  let s ← get
  holdIf (s.banksWait e.g.core e.g.sub) .bankQueue

/-- The scoreboard also holds an instruction whose lane geometry is still being loaded. -/
def lgeomReady (e : Env) : Exec Unit :=
  match e.lgeom? with
  | some (n, _) => checkNamed e [] [{ pos := .geom, code := BitVec.ofNat 8 (0xC0 + n) }]
  | none => pure ()

/-! ### Loads and stores (Table 7.3) -/

/-- The conditions of a queue named with `.v4` (R170): a vector queue that the position could take raises 0x19 with reason 2; any
other queue raises what R25 says of it. -/
def v4Conds (e : Env) (f : FFrame) (push : Bool) (code : BitVec 8) : List Cond :=
  if bit5 f && RC.of code == .q && (queueConds e .vec push (regNo code)).isEmpty then
    [{ cause := 0x19, aux0 := queueAux (regNo code) 2 }]
  else []

/-- The named operands of a load: its data is a destination. -/
def loadNamed (sp : FSpec) (f : FFrame) : List Named :=
  [{ pos := sp.dst, code := f.dst, push := true }, { pos := sp.a, code := f.srcA }, { pos := sp.b, code := f.srcB }]

/-- The named operands of a store: its data is a source. -/
def storeNamed (sp : FSpec) (f : FFrame) : List Named :=
  [{ pos := sp.dst, code := f.dst }, { pos := sp.a, code := f.srcA }, { pos := sp.b, code := f.srcB }]

/-- No bytes. -/
def noBytes (_ : Nat) : List Byte := []

/-- Where a vector load's value goes. -/
def loadDst (e : Env) (f : FFrame) : Exec PendDst :=
  if RC.of f.dst = .q then
    reserve e (regNo f.dst) false (List.replicate (memRegs f) (QEntry.ofLanes Lanes.zero))
  else pure (.vec (regNo f.dst) (memRegs f))

/-- A queue destination is pushed once even when no lane is active (R24). -/
def pushZeros (e : Env) (f : FFrame) : Exec Unit :=
  if RC.of f.dst = .q then pushEntries e (regNo f.dst) (List.replicate (memRegs f) (QEntry.ofLanes Lanes.zero)) else pure ()

/-- How a vector load extends its bytes; `.v4` moves 16 bytes. -/
def vecExt (f : FFrame) : LoadExt := if bit5 f then { size := 16, signed := false } else loadExt f.ty

/-- The data bytes of a vector store, by lane. -/
def storeData (e : Env) (f : FFrame) : Exec (Nat → List Byte) := do
  let t := Ty.ofCode .u32 f.ty
  if bit5 f then
    if RC.of f.dst = .v then
      pure (fun l => ((List.range 4).map (fun k => toBytes 4 (((e.sl.v (regNo f.dst + k))[l]?).getD 0).toNat)).flatten)
    else
      let c := constLanes t (RC.of f.dst)
      pure (fun l => ((List.range 4).map (fun _ => toBytes 4 (laneNat c l))).flatten)
  else do
    let v ← srcV e t f.dst
    pure (fun l => toBytes (loadExt f.ty).size (laneNat v l))

/-- The body of `LD`. -/
def bodyLd (f : FFrame) : Body := fun e => do
  throttle e
  trapIf e (!f.ok (specLd f) false) 0x02
  checkNamed e (v4Conds e f true f.dst) (loadNamed (specLd f) f)
  let m := e.active f.guard
  let x := vecExt f
  if m = 0 then do
    pushZeros e f
    pure 0
  else do
    let vas ← laneVas e f (dispOf f x.size) m
    let ps ← placesOf e vas x.size .load
    noPoison ps
    let dst ← loadDst e f
    enter e { kind := .load, dst := dst, ext := x, accs := markPeers (ps.map (laneAcc x.size noBytes noBytes)),
              scope := Scope.ofCode (f.variant.toNat % 8), order := orderOf f, nc := f.flags.getLsbD 1 }
    pure 0

/-- The body of `ST`. -/
def bodySt (f : FFrame) : Body := fun e => do
  throttle e
  trapIf e (!f.ok (specSt f) false) 0x02
  checkNamed e (v4Conds e f false f.dst) (storeNamed (specSt f) f)
  let m := e.active f.guard
  let x := vecExt f
  let places : Exec (List (Nat × W64 × Place)) := do
    let vas ← laneVas e f (dispOf f x.size) m
    placesOf e vas x.size .store
  let data ← orLower (storeData e f) (do let _ ← places; pure ())
  if m = 0 then pure 0
  else do
    let ps ← places
    enter e { kind := .store, dst := .none, ext := x, accs := markPeers (ps.map (laneAcc x.size data noBytes)),
              scope := Scope.ofCode (f.variant.toNat % 8), order := orderOf f }
    pure 0

/-- The address of a slice-wide access: the scalar base plus the displacement (R169). -/
def scalarVa (e : Env) (f : FFrame) (size : Nat) : Exec W64 := do
  let b ← srcS e f.srcA
  pure (b + BitVec.ofInt 64 (dispOf f size))

/-- The body of `LDS`: once for the slice; a narrower value is extended to 64 bits (R170). -/
def bodyLds (f : FFrame) : Body := fun e => do
  throttle e
  trapIf e (!f.ok (specLds f) false) 0x02
  checkNamed e [] (loadNamed (specLds f) f)
  let m := e.active f.guard
  let x := loadExt f.ty
  if m = 0 then do
    dstS e 0 f.dst 0
    pure 0
  else do
    let va ← scalarVa e f x.size
    let ps ← placesOf e [(32, va)] x.size .load (some m)
    noPoison ps
    let dst ← if RC.of f.dst = .q then reserve e (regNo f.dst) true [QEntry.ofScalar 0] else pure (.scalar (regNo f.dst))
    enter e { kind := .load, dst := dst, ext := x, accs := markPeers (ps.map (laneAcc x.size noBytes noBytes)),
              scope := Scope.ofCode (f.variant.toNat % 8), order := orderOf f, nc := f.flags.getLsbD 1 }
    pure 0

/-- The data of `STS`: a register, a queue, or a constant in the access type; `laneid` gives a free value. -/
def stsData (e : Env) (f : FFrame) : Exec W64 := do
  let t := Ty.ofCode .u32 f.ty
  match RC.of f.dst with
  | .one => pure (BitVec.ofNat 64 (t.ofNat 1))
  | .laneid => do
    let s ← get
    set { s with fresh := s.fresh + 1 }
    pure (Config.stsLaneid s.fresh)
  | _ => srcS e f.dst

/-- The body of `STS`: once for the slice. -/
def bodySts (f : FFrame) : Body := fun e => do
  throttle e
  trapIf e (!f.ok (specSts f) false) 0x02
  checkNamed e [] (storeNamed (specSts f) f)
  let m := e.active f.guard
  let x := loadExt f.ty
  let places : Exec (List (Nat × W64 × Place)) := do
    let va ← scalarVa e f x.size
    placesOf e (if m = 0 then [] else [(32, va)]) x.size .store (some m)
  let v ← orLower (stsData e f) (do let _ ← places; pure ())
  if m = 0 then pure 0
  else do
    let ps ← places
    enter e { kind := .store, dst := .none, ext := x,
              accs := markPeers (ps.map (laneAcc x.size (fun _ => toBytes x.size v.toNat) noBytes)),
              scope := Scope.ofCode (f.variant.toNat % 8), order := orderOf f }
    pure 0

/-- An instruction with no active lane writes 0 to `sys.gbank` (R156). -/
def noLanes (e : Env) : Exec Unit := modSl e (fun sl => { sl with gbank := 0 })

/-- The body of `LDL`. -/
def bodyLdl (f : FFrame) : Body := fun e => do
  trapIf e (!f.ok (specLdl f) false) 0x02
  checkNamed e (v4Conds e f true f.dst) (loadNamed (specLdl f) f)
  lgeomReady e
  lsReady e
  let m := e.active f.guard
  let x := vecExt f
  if m = 0 then do
    noLanes e
    pushZeros e f
    pure 0
  else do
    let (refs, g) ← lsRefs e f x.size true m
    let dst ← loadDst e f
    enterLs e { kind := .load, dst := dst, ext := x, accs := lsAccs g x.size noBytes noBytes refs,
                scope := Scope.ofCode (f.variant.toNat % 8), order := orderOf f }
    pure 0

/-- The body of `STL`. -/
def bodyStl (f : FFrame) : Body := fun e => do
  trapIf e (!f.ok (specStl f) false) 0x02
  checkNamed e (v4Conds e f false f.dst) (storeNamed (specStl f) f)
  lgeomReady e
  lsReady e
  let m := e.active f.guard
  let x := vecExt f
  let data ← orLower (storeData e f) (do let _ ← lsRefs e f x.size true m; pure ())
  if m = 0 then do
    noLanes e
    pure 0
  else do
    let (refs, g) ← lsRefs e f x.size true m
    enterLs e { kind := .store, dst := .none, ext := x, accs := lsAccs g x.size data noBytes refs,
                scope := Scope.ofCode (f.variant.toNat % 8), order := orderOf f }
    pure 0

/-! ### LDQ (R30) -/

/-- The conditions of `LDQ`'s queue (R25, R65, R173): the address form must suit the queue's kind, and a vector entry takes
no 64-bit type. -/
def ldqConds (e : Env) (f : FFrame) : List Cond :=
  let n := regNo f.dst
  let q := e.g.queue n
  if 12 ≤ n ∨ e.g.a.isNone ∨ q.depth = 0 ∨ q.x2a then []
  else if q.scalar == (RC.of f.srcB == .zero) && (q.scalar || !wideMem f) then []
  else [{ cause := 0x19, aux0 := queueAux n 2 }]

/-- The token of an `LDQ` whose lanes met causes (R30). -/
def ldqToken (e : Env) (f : FFrame) (base : W64) (xs : List (Nat × W64 × Xlat)) (scalar : Bool) : Option Token :=
  match lowestCause (xs.map (fun x => x.2.2)) with
  | none => none
  | some c => some { base := base,
                     lanes := if scalar then 1 else maskOfLanes ((xs.filter (fun x => x.2.2.cause?.isSome)).map (fun x => x.1)),
                     cause := c, pc := e.path.pc, ty := f.ty, variant := f.variant, raised := false }

/-- A translation of an `LDQ` as a stop at once finds it: one that has not finished leaves a token of cause 0x10 (R378). -/
def Env.unfinished (e : Env) (x : Xlat) : Xlat :=
  match x with
  | .miss _ => if e.w.atOnce then .bad 0x10 0 else x
  | _ => x

/-- The body of `LDQ`: loads and pushes one entry; lanes whose translation fails leave a token. -/
def bodyLdq (f : FFrame) : Body := fun e => do
  throttle e
  raiseLowest e ((if f.ok (specLdq f) false then [] else [{ cause := 0x02 }]) ++ (if e.cur.a then [] else [{ cause := 0x04 }]))
  checkNamed e (ldqConds e f) (loadNamed (specLdq f) f)
  let n := regNo f.dst
  let scalar := (e.g.queue n).scalar
  let m := e.active f.guard
  let x := loadExt f.ty
  if m = 0 then do
    pushEntries e n [QEntry.ofLanes Lanes.zero]
    pure 0
  else do
    let base ← scalarVa e f x.size
    let off ← srcV e .u32 f.srcB
    let vas := if scalar then [(32, base)] else (lanesIn m).map (fun l => (l, base + BitVec.ofNat 64 (laneNat off l)))
    let mis := vas.filter (fun v => v.2.toNat % x.size != 0)
    if !mis.isEmpty then
      raise e 0x12 ((mis.head?.map (fun v => v.2)).getD 0)
        ((if scalar then m else maskOfLanes (mis.map (fun v => v.1))).setWidth 64)
    let s ← get
    let xs := vas.map (fun v => (v.1, v.2, e.unfinished (e.xlate s v.2 .load)))
    match missesOf (xs.map (fun x => x.2.2)) with
    | w :: ws => hold .walk (w :: ws)
    | [] => do
      let ps := xs.filterMap (fun x => match x.2.2 with | .place p => some (x.1, x.2.1, p) | _ => none)
      noPoison ps
      modify (fun s => s.dropFaults e.g.core e.w.asn)
      let tok := ldqToken e f base xs scalar
      let faulted := (xs.filter (fun x => x.2.2.cause?.isSome)).map (fun x => x.1)
      let pre : QEntry :=
        { QEntry.ofLanes (tabulate 32 (fun l => if faulted.contains l.val then BitVec.ofNat 32 (laneNat off l.val) else 0)) with
          token := if ps.isEmpty then tok else none }
      if ps.isEmpty then do
        pushEntries e n [pre]
        pure 0
      else do
        let dst ← reserve e n scalar [pre]
        enter e { kind := .ldq, dst := dst, ext := x, accs := markPeers (ps.map (laneAcc x.size noBytes noBytes)),
                  scope := Scope.ofCode (f.variant.toNat % 8), order := orderOf f, token := tok }
        pure 0

/-! ### Prefetch and cache control (R179) -/

/-- The device-memory lines that the active lanes name; a lane whose translation fails is dropped. A translation that
misses is waited for. -/
def namedLines (e : Env) (f : FFrame) : Exec (List Nat) := do
  let vas ← laneVas e f (dispOf f 4) (e.active f.guard)
  let s ← get
  let xs := vas.map (fun v => e.xlate s v.2 .load)
  match missesOf xs with
  | w :: ws => hold .walk (w :: ws)
  | [] => do
    modify (fun s => s.dropFaults e.g.core e.w.asn)
    pure ((xs.filterMap (fun x => match x with | .place (.mem a) => some (a / 128) | _ => none)).eraseDups)

/-- The body of `PREF`: bring lines into L1; into L2 alone, which shows only in timing, with `.l2`. -/
def bodyPref (f : FFrame) : Body := fun e => do
  throttle e
  begin_ e (specPref f) f none
  let ls ← namedLines e f
  if bit5 f then pure 0
  else do
    modify (fun s => ls.foldl (fun s line =>
      if s.poisoned (128 * line) then s else (s.l1Read e.g.core (16 * e.g.sub + e.g.slot) false (128 * line) 1).1) s)
    pure 0

/-- The body of `CCTL`: invalidate the lines that the lanes name, or the whole L1. -/
def bodyCctl (f : FFrame) : Body := fun e => do
  begin_ e (specCctl f) f none
  if e.active f.guard = 0 then pure 0
  else if bit5 f then do
    modify (fun s => s.l1Drop e.g.core)
    pure 0
  else do
    let ls ← namedLines e f
    modify (fun s => s.modCore e.g.core (fun k => { k with l1 := k.l1.filter (fun x => !ls.contains x.1) }))
    pure 0

/-! ### Atomics (R180 to R184) -/

/-- A split-phase atomic needs one of the slice's 16 scoreboard slots (R183). -/
def atomicRoom (e : Env) : Exec Unit := do
  let s ← get
  let n := ((s.core e.g.core).pend.filter (fun p => p.grp == e.cur.grp && p.a == e.cur.a &&
    (match p.kind with | .atomic _ _ _ ret => ret | _ => false))).length
  holdIf (decide (16 ≤ n)) .atomicSlot

/-- Enter an atomic on global memory or local store. -/
def enterAtomic (e : Env) (f : FFrame) (cas ret : Bool) (data cmp : Nat → List Byte) : Exec Unit := do
  let m := e.active f.guard
  let x := loadExt f.ty
  let pushes := ret && RC.of f.dst == .q
  if m = 0 then do
    if bit5 f then noLanes e
    if pushes then pushEntries e (regNo f.dst) (List.replicate (if wideMem f then 2 else 1) (QEntry.ofLanes Lanes.zero))
  else do
    let kind : PendKind := .atomic f.flags f.ty cas ret
    let zext : LoadExt := { x with signed := false }
    let wait : Exec PendDst := do
      if ret then atomicRoom e
      if pushes then reserve e (regNo f.dst) false (List.replicate (if wideMem f then 2 else 1) (QEntry.ofLanes Lanes.zero))
      else if ret then pure (.vec (regNo f.dst) (if wideMem f then 2 else 1))
      else pure .none
    if bit5 f then do
      lgeomReady e
      lsReady e
      let (refs, g) ← lsRefs e f x.size false m
      let dst ← wait
      enterLs e { kind := kind, dst := dst, ext := zext, accs := lsAccs g x.size data cmp refs,
                  scope := Scope.ofCode (f.variant.toNat % 8), order := orderOf f }
    else do
      let vas ← laneVas e f 0 m
      let ps ← placesOf e vas x.size .store
      noPoison ps
      let dst ← wait
      enter e { kind := kind, dst := dst, ext := zext, accs := markPeers (ps.map (laneAcc x.size data cmp)),
                scope := Scope.ofCode (f.variant.toNat % 8), order := orderOf f }

/-- The decode conditions of an atomic, and the throttle of one that lies in global memory (R149). -/
def beginAtomic (e : Env) (sp : FSpec) (f : FFrame) : Exec Unit := do
  if bit5 f then pure () else throttle e
  begin_ e sp f none

/-- The checks of an atomic's addresses over its active lanes. -/
def atomChecks (e : Env) (f : FFrame) : Exec Unit := do
  let m := e.active f.guard
  let size := (loadExt f.ty).size
  if m = 0 then pure ()
  else if bit5 f then do
    let _ ← lsRefs e f size false m
    pure ()
  else do
    let vas ← laneVas e f 0 m
    let _ ← placesOf e vas size .store
    pure ()

/-- The operand bytes of `ATOM` and `RED`, by lane: a scalar queue gives every lane its value. -/
def atomData (e : Env) (f : FFrame) : Exec (Nat → List Byte) := do
  let t := Ty.ofCode .u32 f.ty
  let size := (loadExt f.ty).size
  if scalarQueue e f.srcC then do
    let x ← srcS e f.srcC
    pure (fun _ => toBytes size x.toNat)
  else do
    let v ← srcV e t f.srcC
    pure (fun l => toBytes size (laneNat v l))

/-- The body of `ATOM`. -/
def bodyAtom (f : FFrame) : Body := fun e => do
  beginAtomic e (specAtom f true) f
  let data ← orLower (atomData e f) (atomChecks e f)
  enterAtomic e f false true data noBytes
  pure 0

/-- The body of `RED`. -/
def bodyRed (f : FFrame) : Body := fun e => do
  beginAtomic e (specAtom f false) f
  let data ← orLower (atomData e f) (atomChecks e f)
  enterAtomic e f false false data noBytes
  pure 0

/-- The body of `CAS`: compare in srcC, new in the register or pair after it. -/
def bodyCas (f : FFrame) : Body := fun e => do
  beginAtomic e (specCas f) f
  let n := regNo f.srcC
  let size := (loadExt f.ty).size
  let reg (k l : Nat) : Nat := (((e.sl.v (n + k))[l]?).getD 0).toNat
  let val (k l : Nat) : Nat := if wideMem f then reg k l + 2 ^ 32 * reg (k + 1) l else reg k l
  enterAtomic e f true true (fun l => toBytes size (val (if wideMem f then 2 else 1) l)) (fun l => toBytes size (val 0 l))
  pure 0

/-! ### Whole forms: staged reads, STC and LDX (R176 to R178) -/

/-- A range of memory in pieces of at most 8 bytes, each with a number from 32 up. -/
def piecesOf (va : W64) (n : Nat) : List (Nat × W64 × Nat) :=
  (List.range ((n + 7) / 8)).map (fun i => (32 + i, va + BitVec.ofNat 64 (8 * i), min 8 (n - 8 * i)))

/-- Hold while an access of the slice that a read made at issue must follow is outstanding: an acquire, for a synchronising read an
earlier synchronising access (R337), and an access to the same bytes where the read keeps that order (`own`). -/
def readReady (e : Env) (ps : List (Nat × W64 × Place)) (size : Nat) (own : Bool := true) (sync : Bool := false) : Exec Unit := do
  let s ← get
  let sl ← curSlice e
  let k := s.core e.g.core
  let probe := ps.map (laneAcc size noBytes noBytes)
  let mine (p : Pending) : Bool := p.grp == e.cur.grp && p.a == e.cur.a
  holdIf (k.pend.any (fun p => sl.acqIds.contains p.id || (sync && mine p && p.sync) ||
    (own && mine p && p.accs.any (fun b => !b.done && probe.any (fun a => a.overlaps b))))) .fence

/-- Read 8 bytes at each of a list of places. -/
def readPieces (e : Env) (sc : Scope) : List Place → Exec (List Byte)
  | [] => pure []
  | p :: l => do
    let s ← get
    let (s', bs) := s.readPlace e.g.core (16 * e.g.sub + e.g.slot) sc false p 8
    set s'
    let r ← readPieces e sc l
    pure (bs ++ r)

/-- Can a place be read at once: not with a peer, and not behind a port that is down? -/
def State.atHand (s : State) (p : Place) : Bool :=
  match p with
  | .fabric _ _ => false
  | .host pa => s.portUp pa
  | _ => true

/-- Read n bytes from an 8-byte aligned address now, as one load of the slice (R178, R289, R294): at the place of Table
7.4; a part that lies with a peer, or behind a port that is down, is asked for first, and the instruction issues again when
it has come (R413, R436). `own` and `sync` are those of `readReady`. -/
def readNow (e : Env) (va : W64) (n : Nat) (sc : Scope) (mask : W32) (own : Bool := true) (sync : Bool := false) :
    Exec (List Byte) := do
  let pcs := piecesOf va n
  let ps ← placesOf e (pcs.map (fun p => (p.1, p.2.1))) 1 .load (some mask)
  noPoison ps
  let s ← get
  let accs := markPeers (ps.map (laneAcc 8 noBytes noBytes))
  if accs.all (fun a => s.atHand a.place) then do
    readReady e ps 8 own sync
    let out ← readPieces e sc (ps.map (fun a => a.2.2))
    pure (out.take n)
  else
    match (s.core e.g.core).pend.find? (fun p => p.kind == .stage && p.grp == e.cur.grp && p.a == e.cur.a &&
        p.pc == e.path.pc && p.accs.map (fun a => a.va) == accs.map (fun a => a.va)) with
    | some p => if p.accs.all (fun a => a.done) then pure (((p.accs.map (fun a => a.data)).flatten).take n) else hold .reply
    | none => do
      windowRoom accs
      let p : Pending :=
        { id := 0, grp := e.cur.grp, a := e.cur.a, pc := e.path.pc, kind := .stage, dst := .none,
          ext := { size := 8, signed := false }, accs := accs, scope := sc, acquire := false, sync := false, nc := false,
          deps := (← depsFor e false 0), token := none, corr := e.sl.corr, refused := none }
      fun _ => .error (.hold .reply [] (some (e.before.addPend e.g.core p)))

/-- Read as `readNow` does, as an access of the LSU path that a watchpoint sees (R407). -/
def readSeen (e : Env) (va : W64) (n : Nat) (sc : Scope) (mask : W32) (own : Bool := true) (sync : Bool := false) :
    Exec (List Byte) := do
  let bs ← readNow e va n sc mask own sync
  modify (fun s => s.watchHit e.cur.grp e.cur.a [(va, n)] true false)
  pure bs

/-- Forget the staged reads of the issuing instruction. -/
def State.dropStages (s : State) (e : Env) : State :=
  s.modCore e.g.core (fun k => { k with pend := k.pend.filter (fun p =>
    !(p.kind == .stage && p.grp == e.cur.grp && p.a == e.cur.a && p.pc == e.path.pc)) })

/-- Trap after staged reads, which are forgotten. -/
def raiseDrop {α : Type} (e : Env) (cause : BitVec 8) (aux0 aux1 : W64 := 0) : Exec α := fun _ =>
  .error (.trap { cause := cause, aux0 := aux0, aux1 := aux1, epc := e.path.pc, fpc := none } (some (e.before.dropStages e)))

/-- The flat bitmap form of dense elements (R176). -/
def flatForm (vb fmt : Nat) (xs : List Nat) : List Byte :=
  let n := xs.length
  let nz := xs.filter (fun x => x != 0)
  let masks := (List.range ((n + 63) / 64)).map (fun j =>
    (List.range 64).foldl (fun m i => if xs.getD (64 * j + i) 0 = 0 then m else m + 2 ^ i) 0)
  toBytes 8 (n + vb * 2 ^ 24 + fmt * 2 ^ 28 + nz.length * 2 ^ 32) ++ (masks.map (toBytes 8)).flatten ++
    (nz.map (toBytes vb)).flatten

/-- Cut bytes into elements of w bytes, as numbers; the fuel is the number of elements. -/
def elementsOf (w : Nat) : Nat → List Byte → List Nat
  | 0, _ => []
  | k + 1, bs => ofBytes (bs.take w) :: elementsOf w k (bs.drop w)

/-- The width in bytes of a type code as a compressed form counts it (R176): 0 for other widths. -/
def formBytes (code : Nat) : Nat := if valueWidth code % 8 = 0 then valueWidth code / 8 else 0

/-- The body of `STC` (R177). -/
def bodyStc (f : FFrame) : Body := fun e => do
  throttle e
  begin_ e (specStc f) f none
  let m := e.active f.guard
  if m = 0 then pure 0
  else do
    let dst := e.sl.s (regNo f.dst)
    let src := (e.sl.s (regNo f.srcA)).setWidth 32
    let n := (e.sl.s (regNo f.srcB)).toNat
    let cap := (e.sl.s (regNo f.srcC)).toNat
    let code := if f.ty = 0 then 4 else f.ty.toNat
    let vb := formBytes code
    let s ← get
    let bad := decide (n = 0) || decide (16777215 < n)
    let mis : List Cond := if dst.toNat % 8 = 0 then [] else [{ cause := 0x12, aux0 := dst, aux1 := m.setWidth 64 }]
    let places (len : Nat) : Exec (List (Nat × W64 × Place)) :=
      placesOf e ((piecesOf dst len).map (fun p => (p.1, p.2.1))) 1 .store (some m)
    let header : Exec Unit := do let _ ← places 8; pure ()
    if bad then orLower (raiseLowest e (mis ++ [{ cause := 0x23 }])) header
    match s.lsRef e.w e.g.half1 src (n * vb) with
    | none => do
      orLower (raise e 0x20 (m.setWidth 64) (src.setWidth 64)) header
      pure 0
    | some r => do
      readReady e [(32, src.setWidth 64, r.place)] (n * vb)
      holdIf (s.rangeBehind e.g.core r.wg r.half1 r.off (n * vb)) .bankQueue
      let form := flatForm vb code (elementsOf vb n (s.lsRead r.wg r.half1 r.off (n * vb)))
      let tooLong : List Cond := if form.length ≤ cap then [] else
        [{ cause := 0x23, aux0 := BitVec.ofNat 64 form.length, aux1 := BitVec.ofNat 64 cap }]
      orLower (raiseLowest e (mis ++ tooLong)) (do let _ ← places form.length; pure ())
      let ps ← places form.length
      let sizeOf (lane : Nat) : Nat := min 8 (form.length - 8 * (lane - 32))
      let accs := ps.map (fun x => { laneAcc (sizeOf x.1) (fun l => (form.drop (8 * (l - 32))).take 8) noBytes x with lane := x.1 })
      enter e { kind := .store, dst := .none, ext := { size := 8, signed := false }, accs := markPeers accs,
                scope := Scope.ofCode (f.variant.toNat % 8), order := orderOf f }
      pure 0

/-- A parsed flat header (Table 7.5). -/
structure FlatHeader where
  n   : Nat
  vb  : Nat
  fmt : Nat
  m   : Nat
  deriving DecidableEq, Repr

/-- Read a header; `none` when R178 rejects it for a capacity in elements. -/
def flatHeader (h : Nat) (cap : Nat) : Option FlatHeader :=
  let x : FlatHeader := { n := bitsAt h 0 24, vb := bitsAt h 24 4, fmt := bitsAt h 28 4, m := bitsAt h 32 24 }
  if bitsAt h 56 8 ≠ 0 ∨ x.n = 0 ∨ !([1, 2, 4].contains x.vb) ∨ formBytes x.fmt ≠ x.vb ∨ x.n < x.m ∨ cap < x.n then none
  else some x

/-- The dense elements of a form whose masks and values are given; `none` when the masks are malformed. -/
def flatExpand (x : FlatHeader) (masks : List Nat) (vals : List Nat) : Option (List Nat) :=
  let bit (i : Nat) : Bool := (masks.getD (i / 64) 0).testBit (i % 64)
  let ones := masks.foldl (fun c w => c + popCount w 64) 0
  if (List.range (64 * masks.length - x.n)).any (fun k => bit (x.n + k)) ∨ ones ≠ x.m then none
  else
    some (((List.range x.n).foldl (fun (acc : List Nat × List Nat) i =>
      if bit i then (acc.1 ++ [acc.2.headD 0], acc.2.drop 1) else (acc.1 ++ [0], acc.2)) ([], vals)).1)

/-- The pieces of a local-store range, one per bank word (R156). -/
def lsPieces (off n : Nat) : List (Nat × Nat) :=
  (List.range ((off + n + 15) / 16 - off / 16)).map (fun i =>
    let a := max off (16 * (off / 16 + i))
    (a, min (off + n) (16 * (off / 16 + i) + 16) - a))

/-- The lane accesses of a local-store range, one per bank word. -/
def lsRange (addr : W32) (r : LsRef) (bs : List Byte) (n : Nat) : List LaneAcc :=
  ((List.range (lsPieces r.off n).length).zip (lsPieces r.off n)).map (fun x =>
    { lane := 32 + x.1, va := addr.setWidth 64 + BitVec.ofNat 64 (x.2.1 - r.off), place := .ls r.wg r.half1 x.2.1,
      size := x.2.2, data := (bs.drop (x.2.1 - r.off)).take x.2.2, cmp := [], bank := plainBank x.2.1,
      arrived := !r.remote, done := false })

/-- The body of `LDX` (R178). -/
def bodyLdx (f : FFrame) : Body := fun e => do
  throttle e
  begin_ e (specLdx f) f none
  let m := e.active f.guard
  if m = 0 then pure 0
  else do
    let dst := (e.sl.s (regNo f.dst)).setWidth 32
    let src := e.sl.s (regNo f.srcA)
    let cap := (e.sl.s (regNo f.srcB)).toNat
    let sc := Scope.ofCode (f.variant.toNat % 8)
    let acq := orderOf f == 1
    lsReady e
    let ps ← placesOf e [(32, src)] 8 .load (some m)
    let hb ← readSeen e src 8 sc m false acq
    match flatHeader (ofBytes hb) cap with
    | none => raiseDrop e 0x24 src
    | some x => do
      let nm := (x.n + 63) / 64
      let len := 8 * nm + x.vb * x.m
      let rest ← readSeen e (src + 8) len sc m false acq
      match flatExpand x (elementsOf 8 nm rest) (elementsOf x.vb x.m (rest.drop (8 * nm))) with
      | none => raiseDrop e 0x24 src
      | some xs => do
        let s ← get
        match s.lsRef e.w e.g.half1 dst (x.n * x.vb) with
        | none => raiseDrop e 0x20 (m.setWidth 64) (dst.setWidth 64)
        | some r => do
          tableRoom e (min 32 ((src.toNat + 8 + len + 127) / 128 - src.toNat / 128))
          let bs := (xs.map (toBytes x.vb)).flatten
          modify (fun s => s.dropStages e)
          enterLs e { kind := .expand, dst := .none, ext := { size := 16, signed := false },
                      accs := lsRange dst r bs (x.n * x.vb), scope := sc, order := orderOf f }
          let far := ps.any (fun q => match q.2.2 with | .fabric _ _ => true | _ => false)
          if acq then modify (fun s => s.acquireL1 e.g.core (if far then .sys else sc))
          pure 0

/-- `LDS`. -/
def execLds (f : FFrame) (s : State) : Host.Outcome State Fault Refusal := issueF f.guard (bodyLds f) s
/-- `STS`. -/
def execSts (f : FFrame) (s : State) : Host.Outcome State Fault Refusal := issueF f.guard (bodySts f) s
/-- `LD`. -/
def execLd (f : FFrame) (s : State) : Host.Outcome State Fault Refusal := issueF f.guard (bodyLd f) s
/-- `ST`. -/
def execSt (f : FFrame) (s : State) : Host.Outcome State Fault Refusal := issueF f.guard (bodySt f) s
/-- `LDL`. -/
def execLdl (f : FFrame) (s : State) : Host.Outcome State Fault Refusal := issueF f.guard (bodyLdl f) s
/-- `STL`. -/
def execStl (f : FFrame) (s : State) : Host.Outcome State Fault Refusal := issueF f.guard (bodyStl f) s
/-- `LDQ`. -/
def execLdq (f : FFrame) (s : State) : Host.Outcome State Fault Refusal := issueF f.guard (bodyLdq f) s
/-- `STC`. -/
def execStc (f : FFrame) (s : State) : Host.Outcome State Fault Refusal := issueF f.guard (bodyStc f) s
/-- `LDX`. -/
def execLdx (f : FFrame) (s : State) : Host.Outcome State Fault Refusal := issueF f.guard (bodyLdx f) s
/-- `PREF`. -/
def execPref (f : FFrame) (s : State) : Host.Outcome State Fault Refusal := issueF f.guard (bodyPref f) s
/-- `CCTL`. -/
def execCctl (f : FFrame) (s : State) : Host.Outcome State Fault Refusal := issueF f.guard (bodyCctl f) s
/-- `ATOM`. -/
def execAtom (f : FFrame) (s : State) : Host.Outcome State Fault Refusal := issueF f.guard (bodyAtom f) s
/-- `RED`. -/
def execRed (f : FFrame) (s : State) : Host.Outcome State Fault Refusal := issueF f.guard (bodyRed f) s
/-- `CAS`. -/
def execCas (f : FFrame) (s : State) : Host.Outcome State Fault Refusal := issueF f.guard (bodyCas f) s

end Sys2Proof.Machine
end

