-- ==== Sys2Proof/Machine/Geometry.lean ====
section
/-!
DEFINITION. The geometry instructions (spec 08_geometry.md R204 to R211, R219, R220).
-/
namespace Sys2Proof.Machine

/-- A geometry source: a register, or the all-zero geometry of `zero`. -/
def Env.geomReg (e : Env) (code : BitVec 8) : BitVec 512 :=
  if RC.of code = .g then (e.g.geom[regNo code]?).getD 0 else 0

/-- Write a geometry register. -/
def setGeom (e : Env) (code : BitVec 8) (x : BitVec 512) : Exec Unit :=
  modGrp e (fun g => { g with geom := g.geom.setIfInBounds (regNo code) x })

/-- Raise a geometry fault about a source register (R205). -/
def raiseGeom {α : Type} (e : Env) (code : BitVec 8) (x : GErr) : Exec α :=
  raise e x.cause (BitVec.ofNat 64 (code.toNat + x.reason * 2 ^ 8 + x.mode % 4 * 2 ^ 16)) (BitVec.ofNat 64 x.aux1)

/-- A source that must be well formed (0x2A, reason 3). -/
def wellFormed (e : Env) (code : BitVec 8) : Exec Geom :=
  let g := Geom.ofReg (e.geomReg code)
  if g.ok then pure g else raiseGeom e code { cause := 0x2A, reason := 3, mode := 0, aux1 := 0 }

/-- Run a W instruction that acts once for the slice when a lane is active (R53). -/
def onceW (sp : WSpec) (w : WFrame) (act : Env → Exec Unit) (s : State) : Host.Outcome State Fault Refusal :=
  issueW w.f.guard (fun e => do
    beginW e sp w
    if e.active w.f.guard = 0 then pure () else act e) s

/-- A register with one field replaced by `GDEF` (R206). -/
def gdefField (x : BitVec 512) (sel : Nat) (v : W64) : BitVec 512 :=
  if sel < 8 then
    BitVec.ofNat 512 (putFields x.toNat [(16 * sel, 16, bitsAt v.toNat 0 16), (128 + 32 * sel, 32, bitsAt v.toNat 16 32)])
  else
    BitVec.ofNat 512 (putFields x.toNat [(490, 8, bitsAt v.toNat 0 8), (498, 6, bitsAt v.toNat 8 6),
      (504, 3, bitsAt v.toNat 14 3), (507, 1, bitsAt v.toNat 17 1), (508, 3, bitsAt v.toNat 18 3)])

/-- `GDEF`: a literal is sign-extended, so a literal leaf has a 16-bit stride. -/
def execGdef (w : WFrame) (s : State) : Host.Outcome State Fault Refusal :=
  onceW (specGdef w) w (fun e => do
    let v ← srcS e w.f.srcB w.lit
    setGeom e w.f.dst (gdefField (e.geomReg w.f.srcA) w.wflags.toNat v)) s

/-- `GMOV`. -/
def execGmov (w : WFrame) (s : State) : Host.Outcome State Fault Refusal :=
  onceW specGmov w (fun e => setGeom e w.f.dst (e.geomReg w.f.srcB)) s

/-- Where the image of `GLD` or `GST` lies in memory: one 64-byte aligned access in 8-byte parts. -/
def imageParts (e : Env) (va : W64) (acc : Access) (m : W32) : Exec (List (Nat × W64 × Place)) := do
  let _ ← placesOf e [(32, va)] 64 acc (some m)
  let ps ← placesOf e ((piecesOf va 64).map (fun p => (p.1, p.2.1))) 1 acc (some m)
  pure ps

/-- The local-store reference of an image. -/
def imageLs (e : Env) (va : W64) (m : W32) : Exec (W32 × LsRef) := do
  let s ← get
  let addr : W32 := va.setWidth 32
  match s.lsRef e.w e.g.half1 addr 64 with
  | none => raise e 0x20 (m.setWidth 64) (addr.setWidth 64)
  | some r => if addr.toNat % 64 ≠ 0 then raise e 0x12 (addr.setWidth 64) (m.setWidth 64) else pure (addr, r)

/-- Move the image of a geometry register (R206): `data` is empty for a load. -/
def moveImage (w : WFrame) (kind : PendKind) (dst : PendDst) (data : List Byte) (acc : Access) (e : Env) : Exec Unit := do
  let m := e.active w.f.guard
  let va := e.sl.s (regNo w.f.srcA) + w.imm.signExtend 64
  let sc := Scope.ofCode (w.f.variant.toNat % 8)
  if bit5 w.f then do
    lsReady e
    let (addr, r) ← imageLs e va m
    enterLs e { kind := kind, dst := dst, ext := { size := 16, signed := false }, accs := lsRange addr r data 64,
                scope := sc, order := orderOf w.f }
  else do
    let ps ← imageParts e va acc m
    if acc = .load then noPoison ps
    let part (l : Nat) : List Byte := (data.drop (8 * (l - 32))).take 8
    enter e { kind := kind, dst := dst, ext := { size := 8, signed := false },
              accs := markPeers (ps.map (laneAcc 8 part noBytes)), scope := sc, order := orderOf w.f }

/-- `GLD`. -/
def execGld (w : WFrame) (s : State) : Host.Outcome State Fault Refusal :=
  onceW (specGldst w false) w (fun e => moveImage w .load (.geom (regNo w.f.dst)) [] .load e) s

/-- `GST`: bit 511 is written as 0. -/
def execGst (w : WFrame) (s : State) : Host.Outcome State Fault Refusal :=
  onceW (specGldst w true) w (fun e =>
    moveImage w .store .none (toBytes 64 ((e.geomReg w.f.dst).toNat % 2 ^ 511)) .store e) s

/-- Write a result, or raise its failure about a source. -/
def putGeom (e : Env) (dst src : BitVec 8) (r : Except GErr Geom) : Exec Unit :=
  match r with
  | .ok g => setGeom e dst g.toReg
  | .error x => raiseGeom e src x

/-- `GCHAIN`: a failure names B, whose leaves are expanded. -/
def execGchain (w : WFrame) (s : State) : Host.Outcome State Fault Refusal :=
  onceW specGchain w (fun e => do
    let a ← wellFormed e w.f.srcA
    let b ← wellFormed e w.f.srcB
    putGeom e w.f.dst w.f.srcB (a.chain b)) s

/-- `GTRAN`. -/
def execGtran (w : WFrame) (s : State) : Host.Outcome State Fault Refusal :=
  onceW (specGtran w) w (fun e => do
    let a ← wellFormed e w.f.srcA
    putGeom e w.f.dst w.f.srcA (a.tran w.imm.toNat)) s

/-- `GFLAT`. -/
def execGflat (w : WFrame) (s : State) : Host.Outcome State Fault Refusal :=
  onceW specGflat w (fun e => do
    let a ← wellFormed e w.f.srcA
    putGeom e w.f.dst w.f.srcA (a.flat w.wflags.toNat)) s

/-- `GSLICE` and `GPART`: the geometry, and what is added to the handle in srcE. -/
def restrict (w : WFrame) (fn : Geom → Nat → Nat → Nat → Except GErr (Geom × Int)) (e : Env) : Exec Unit := do
  let a ← wellFormed e w.f.srcA
  let o ← srcS e w.f.srcB w.lit
  let x ← srcS e w.f.srcC
  match fn a o.toNat x.toNat w.wflags.toNat with
  | .error err => raiseGeom e w.f.srcA err
  | .ok (g, d) => do
    setGeom e w.f.dst g.toReg
    modSl e (fun sl => sl.setS (regNo w.srcE) (e.sl.s (regNo w.srcE) + BitVec.ofInt 64 d))

/-- `GSLICE`. -/
def execGslice (w : WFrame) (s : State) : Host.Outcome State Fault Refusal := onceW specGpart w (restrict w Geom.slice) s
/-- `GPART`. -/
def execGpart (w : WFrame) (s : State) : Host.Outcome State Fault Refusal := onceW specGpart w (restrict w Geom.part) s

/-- `GSWZ`. -/
def execGswz (w : WFrame) (s : State) : Host.Outcome State Fault Refusal :=
  onceW (specGswz w) w (fun e =>
    let x := e.geomReg w.f.srcA
    setGeom e w.f.dst (if w.f.variant.getLsbD 0 then
        swzRaw x (e.sl.s (regNo w.f.srcB)).toNat (e.sl.s (regNo w.f.srcC)).toNat
      else swzPreset x w.imm.toNat)) s

/-- `GCHK`. -/
def execGchk (w : WFrame) (s : State) : Host.Outcome State Fault Refusal :=
  onceW specGchk w (fun e => do
    let h ← srcS e w.f.srcB w.lit
    dstS e (e.active w.f.guard) w.f.dst ((Geom.ofReg (e.geomReg w.f.srcA)).accept h w.wflags.toNat).word) s

/-- `GBANK`. -/
def execGbank (w : WFrame) (s : State) : Host.Outcome State Fault Refusal :=
  onceW specGbank w (fun e => do
    let h ← srcS e w.f.srcB w.lit
    dstS e (e.active w.f.guard) w.f.dst ((Geom.ofReg (e.geomReg w.f.srcA)).conflicts h)) s

end Sys2Proof.Machine
end

