-- ==== Sys2Proof/Machine/Control.lean ====
section
/-!
DEFINITION. Control flow (spec 04_group_integer_control.md R93 to R106; 01_group.md R18 to R22): the divergence and call
stacks in the group's frame area, splitting and joining paths, calls, and the instructions of Table 4.1.
-/
namespace Sys2Proof.Machine

/-! ### Stacks in the frame area (R21, R22, R99) -/

/-- The virtual address of entry i (0 at the bottom) of a slice's divergence or call stack (R22). -/
def Env.stackAddr (e : Env) (call : Bool) (i : Nat) : W64 :=
  let d := dstackOf e.w.desc
  let c := cstackOf e.w.desc
  e.g.frameBase + BitVec.ofNat 64 ((if e.cur.a then 16 * (d + c) else 0) + (if call then 16 * d else 0) + 16 * i)

/-- The storage address of a stack entry: a pool page that is not a present, writable system page raises 0x11 (R22). -/
def stackCell (e : Env) (call : Bool) (i : Nat) : Exec Nat := fun s =>
  let va := e.stackAddr call i
  match e.xlate s va .frame with
  | .place (.mem a) => .ok (a, s)
  | .miss w => .error (.hold .walk [w] none)
  | _ => raise e 0x11 va 0 s

/-- Read one stack entry as 128 bits; a poisoned line stops the workgroup (R391). -/
def readEntry (e : Env) (call : Bool) (i : Nat) : Exec Nat := do
  let a ← stackCell e call i
  noPoison [(0, e.stackAddr call i, .mem a)]
  let s ← get
  pure (s.mem.readNat a 16)

/-- Write one stack entry. -/
def writeEntry (e : Env) (call : Bool) (i : Nat) (v : Nat) : Exec Unit := do
  let a ← stackCell e call i
  modify (fun s => { s with mem := s.mem.writeNat a 16 v })

/-- A path as a divergence-stack entry (Table 1.3). -/
def Path.entry (p : Path) : Nat :=
  p.pc.toNat + p.mask.toNat * 2 ^ 64 + p.depth.toNat * 2 ^ 96 + (if p.parked then 2 ^ 112 else 0)

/-- A divergence-stack entry as a path, with the age the slice keeps for it. -/
def Path.ofEntry (v age : Nat) : Path :=
  { pc := BitVec.ofNat 56 v, mask := BitVec.ofNat 32 (v / 2 ^ 64), age := age, depth := BitVec.ofNat 16 (v / 2 ^ 96),
    parked := v.testBit 112 }

/-- The paths of a slice: the two slots and the divergence stack, top first. -/
structure Paths where
  slot0 : Option Path
  slot1 : Option Path
  stack : List Path
  deriving DecidableEq, Repr

/-- Read the divergence stack, top first. -/
def readStack (e : Env) : Nat → Exec (List Path)
  | 0 => pure []
  | n + 1 => do
    let v ← readEntry e false n
    let r ← readStack e n
    pure (Path.ofEntry v (e.sl.dages.getD (e.sl.dstackN - (n + 1)) 0) :: r)

/-- The paths of the issuing slice. -/
def readPaths (e : Env) : Exec Paths := do
  let st ← readStack e e.sl.dstackN
  pure { slot0 := e.sl.slot0, slot1 := e.sl.slot1, stack := st }

/-- Write a divergence stack, top first. -/
def writeStack (e : Env) : List Path → Exec Unit
  | [] => pure ()
  | p :: r => do
    writeEntry e false r.length p.entry
    writeStack e r

/-- Put the paths back into the slice; a slice with no path left has ended (R36). -/
def writePaths (e : Env) (ps : Paths) : Exec Unit := do
  writeStack e ps.stack
  modSl e (fun sl => { sl with
    slot0 := ps.slot0, slot1 := ps.slot1, dstackN := ps.stack.length, dages := ps.stack.map (fun p => p.age),
    ended := ps.slot0.isNone && ps.slot1.isNone && ps.stack.isEmpty })

/-! ### Joining and restoring (R97, R98) -/

/-- Every path other than the one at a place: `none` places name slots by false and true, a number names a stack
position. -/
def Paths.all (ps : Paths) : List Path := ps.slot0.toList ++ ps.slot1.toList ++ ps.stack

/-- May a parked path be released: every other path of depth at least its own is parked at its PC with its depth
(R97)? The path itself meets the condition. -/
def releasable (ps : Paths) (p : Path) : Bool :=
  decide (0 < p.depth.toNat) &&
  ps.all.all (fun q => decide (q.depth < p.depth) || (q.parked && q.pc == p.pc && q.depth == p.depth))

/-- The paths that merge with a released path: parked at its PC with its depth. -/
def mergesWith (p q : Path) : Bool := q.parked && q.pc == p.pc && q.depth == p.depth

/-- The merged path (R97). -/
def mergedPath (ps : Paths) (p : Path) : Path :=
  let ms := ps.all.filter (mergesWith p)
  { pc := p.pc + 8, mask := ms.foldl (fun m q => m ||| q.mask) p.mask,
    age := ms.foldl (fun a q => min a q.age) p.age, depth := p.depth - 1, parked := false }

/-- Drop the merged paths from an optional slot. -/
def dropMerged (p : Path) (o : Option Path) : Option Path := o.filter (fun q => !mergesWith p q)

/-- Replace the first merging stack entry by the merged path and remove the others. -/
def replaceFirst (p m : Path) : List Path → List Path
  | [] => []
  | q :: r => if mergesWith p q then m :: r.filter (fun x => !mergesWith p x) else q :: replaceFirst p m r

/-- Release a parked path: the merged path takes its slot, or its place on the stack. -/
def release (ps : Paths) (p : Path) : Paths :=
  let m := mergedPath ps p
  let st := ps.stack.filter (fun q => !mergesWith p q)
  if ps.slot0 == some p then
    { slot0 := some m, slot1 := dropMerged p ps.slot1, stack := st }
  else if ps.slot1 == some p then { slot0 := dropMerged p ps.slot0, slot1 := some m, stack := st }
  else { slot0 := dropMerged p ps.slot0, slot1 := dropMerged p ps.slot1, stack := replaceFirst p m ps.stack }

/-- Take the topmost unparked entry out of a stack. -/
def takeUnparked : List Path → Option (Path × List Path)
  | [] => none
  | p :: r =>
    if !p.parked then some (p, r)
    else match takeUnparked r with
      | some (q, r') => some (q, p :: r')
      | none => none

/-- Put a path in the place of the topmost unparked entry, which is taken out. -/
def swapUnparked (x : Path) : List Path → Option (Path × List Path)
  | [] => none
  | p :: r =>
    if !p.parked then some (p, x :: r)
    else match swapUnparked x r with
      | some (q, r') => some (q, p :: r')
      | none => none

/-- One step of R98, if one applies: fill a free slot, or exchange a parked path for an unparked entry. Which of two slots
comes first, where both are free or both hold parked paths, is the model's choice: slot 0 (notes/assumptions/116.md). -/
def restoreStep (ps : Paths) : Option Paths :=
  match takeUnparked ps.stack with
  | none => none
  | some (p, r) =>
    if ps.slot0.isNone then some { ps with slot0 := some p, stack := r }
    else if ps.slot1.isNone then some { ps with slot1 := some p, stack := r }
    else match ps.slot0, ps.slot1 with
      | some x, some y =>
        if x.parked then (swapUnparked x ps.stack).map (fun q => { ps with slot0 := some q.1, stack := q.2 })
        else if y.parked then (swapUnparked y ps.stack).map (fun q => { ps with slot1 := some q.1, stack := q.2 })
        else none
      | _, _ => none

/-- R97's re-test and R98's restoring, repeated until neither applies; the fuel covers every path. Where a re-test finds several
paths of one set releasable, the model takes slot 0, then slot 1, then the stack from its top as P; a merged path whose P lies on
the stack takes the topmost place among the merging entries (notes/assumptions/117.md). -/
def settle : Nat → Paths → Paths
  | 0, ps => ps
  | n + 1, ps =>
    match ps.all.find? (fun p => p.parked && releasable ps p) with
    | some p => settle n (release ps p)
    | none =>
      match restoreStep ps with
      | some qs => settle n qs
      | none => ps

/-- Settle with enough fuel for the paths there are. -/
def Paths.settled (ps : Paths) : Paths := settle (2 * ps.all.length + 2) ps

/-- Replace the path of a slot. -/
def Paths.setSlot (ps : Paths) (one : Bool) (p : Option Path) : Paths :=
  if one then { ps with slot1 := p } else { ps with slot0 := p }

/-! ### The call stack (R99 to R102) -/

/-- A call-stack entry (Table 4.2). -/
def callEntry (ret : Va) (mask : W32) : Nat := ret.toNat + mask.toNat * 2 ^ 64

/-- Read the call stack, top first, as (ret, mask). -/
def readCalls (e : Env) : Nat → Exec (List (Va × W32))
  | 0 => pure []
  | n + 1 => do
    let v ← readEntry e true n
    let r ← readCalls e n
    pure ((BitVec.ofNat 56 v, BitVec.ofNat 32 (v / 2 ^ 64)) :: r)

/-- Write a call stack, top first. -/
def writeCalls (e : Env) : List (Va × W32) → Exec Unit
  | [] => pure ()
  | p :: r => do
    writeEntry e true r.length (callEntry p.1 p.2)
    writeCalls e r

/-- Put the call stack back. -/
def setCalls (e : Env) (l : List (Va × W32)) : Exec Unit := do
  writeCalls e l
  modSl e (fun sl => { sl with cstackN := l.length })

/-- Remove lanes from every call-stack entry; empty entries are removed (R102). -/
def endLanes (e : Env) (m : W32) : Exec Unit := do
  if e.sl.cstackN = 0 then pure ()
  else do
    let l ← readCalls e e.sl.cstackN
    setCalls e ((l.map (fun p => (p.1, p.2 &&& ~~~m))).filter (fun p => p.2 != 0))

/-! ### The instructions of Table 4.1 -/

/-- Run a control instruction: static check (R56), then the body, which moves the PC itself. -/
def issueC (c : CFrame) (form : CForm) (guardable : Bool) (body : Env → Exec Unit) (s : State) :
    Host.Outcome State Fault Refusal :=
  issue [c.guard] (fun e => do
    trapIf e (!c.ok form guardable) 0x02
    body e) s

/-- Set the PC of the issuing path. -/
def jump (e : Env) (pc : Va) : Exec Unit :=
  modSl e (fun sl => sl.setSlot e.cur.slot1 ((sl.slot e.cur.slot1).map (fun p => { p with pc := pc })))

/-- The target of an offset in words of n bits, from the instruction's own PC (R56, R93). -/
def offsetTarget {n : Nat} (e : Env) (off : BitVec n) : Va := e.path.pc + BitVec.ofInt 56 (8 * off.toInt)

/-- A register-indirect target, or the 0x07 of a misaligned one (R39). -/
def checkTarget (e : Env) (t : W64) : Exec Va := do
  trapIf e (t.toNat % 8 != 0) 0x07 t
  pure (t.setWidth 56)

/-- In handler mode `BRD`, `JOIN`, `CALL`, `CALLX` and `RET` raise 0x04 (R141). -/
def notInHandler (e : Env) : Exec Unit := trapIf e e.sl.hmode 0x04

/-- A scalar named by a control frame, with the scoreboard hold. -/
def controlScalar (e : Env) (c : CFrame) : Exec W64 := do
  checkNamed e [] [{ pos := .sreg, code := c.reg }]
  srcS e c.reg

/-- Does the instruction execute: is a lane active (R53)? -/
def Env.some_ (e : Env) (guard : BitVec 6) : Bool := e.active guard != 0

/-- `NOP`. -/
def execNop (c : CFrame) (s : State) : Host.Outcome State Fault Refusal :=
  issueC c .none true (fun e => advance e 8) s

/-- `BRA` (R94). -/
def execBra (c : CFrame) (s : State) : Host.Outcome State Fault Refusal :=
  issueC c .long true (fun e => if e.some_ c.guard then jump e (offsetTarget e c.body) else advance e 8) s

/-- `BRZ` and `BRNZ` (R94). -/
def branchTest (nonzero : Bool) (c : CFrame) (e : Env) : Exec Unit := do
  let v ← controlScalar e c
  if e.some_ c.guard && ((v == 0) != nonzero) then jump e (offsetTarget e c.low) else advance e 8

/-- `BRZ`. -/
def execBrz (c : CFrame) (s : State) : Host.Outcome State Fault Refusal :=
  issueC c (.test .s) true (branchTest false c) s
/-- `BRNZ`. -/
def execBrnz (c : CFrame) (s : State) : Host.Outcome State Fault Refusal :=
  issueC c (.test .s) true (branchTest true c) s

/-- `BRX` (R94). -/
def execBrx (c : CFrame) (s : State) : Host.Outcome State Fault Refusal :=
  issueC c .indirect true (fun e => do
    let v ← controlScalar e c
    if e.some_ c.guard then do
      let t ← checkTarget e v
      jump e t
    else advance e 8) s

/-- The split of R96. -/
def split (e : Env) (c : CFrame) : Exec Unit := do
  let t := e.active c.guard &&& srcP e c.reg
  let f := e.path.mask &&& ~~~t
  let target := offsetTarget e c.low
  let next := e.path.pc + 8
  if t = 0 then advance e 8
  else if f = 0 then jump e target
  else do
    trapIf e (e.path.depth == 0xFFFF#16) 0x43 2
    let one := e.cur.slot1
    let age := e.sl.ageCtr
    let keepF : Path := { e.path with pc := next, mask := f, depth := e.path.depth + 1 }
    let newT : Path := { pc := target, mask := t, age := age, depth := e.path.depth + 1, parked := false }
    let ps ← readPaths e
    let qs ← match e.sl.slot (!one) with
      | none => pure ((ps.setSlot one (some keepF)).setSlot (!one) (some newT))
      | some o => do
        trapIf e (decide (dstackOf e.w.desc ≤ e.sl.dstackN)) 0x43 1
        if e.path.age < o.age then
          pure { (ps.setSlot one (some newT)) with stack := keepF :: ps.stack }
        else
          pure { ((ps.setSlot one (some keepF)).setSlot (!one) (some newT)) with stack := o :: ps.stack }
    writePaths e qs.settled
    modSl e (fun sl => { sl with ageCtr := age + 1 })

/-- `BRD` (R96). -/
def execBrd (c : CFrame) (s : State) : Host.Outcome State Fault Refusal :=
  issueC c (.test .p) true (fun e => do
    notInHandler e
    split e c) s

/-- `JOIN` (R97): at depth 0 it moves on; otherwise the path parks, and is released at once when it may be. -/
def joinPath (e : Env) : Exec Unit := do
  if e.path.depth = 0 then advance e 8
  else do
    let ps ← readPaths e
    let p : Path := { e.path with parked := true }
    let qs := ps.setSlot e.cur.slot1 (some p)
    writePaths e (if releasable qs p then (release qs p).settled else qs.settled)

/-- `JOIN`. -/
def execJoin (c : CFrame) (s : State) : Host.Outcome State Fault Refusal :=
  issueC c .none false (fun e => do
    notInHandler e
    joinPath e) s

/-- The conditions of `BRQ`'s operand (R95). -/
def brqConds (e : Env) (n : Nat) : List Cond :=
  if 12 ≤ n ∧ n < 15 then [{ cause := 0x19, aux0 := queueAux n 3 }] else queueConds e .scalar false n

/-- `BRQ` (R94, R95, R119): A-slice only; it pops whatever its lane mask, and each issue counts as a loss of decoupling. -/
def brq (c : CFrame) (e : Env) : Exec Unit := do
  trapIf e (!e.cur.a) 0x04
  raiseLowest e (brqConds e (regNo c.reg))
  let v ← match e.sl.heldPop with
    | some (.brq, x) => pure x
    | _ => do
      let x ← popEntry e (regNo c.reg)
      pure x.scalar
  modSl e (fun sl => { sl with heldPop := sl.heldPop.filter (fun h => h.1 != .brq) })
  modify (fun s => s.modCore e.g.core (fun k => k.count 9 1 (some (e.path.pc, e.w.asn))))
  if e.some_ c.guard && v != 0 then jump e (offsetTarget e c.low) else advance e 8

/-- `BRQ`. -/
def execBrq (c : CFrame) (s : State) : Host.Outcome State Fault Refusal := issueC c (.test .q) true (brq c) s

/-- Push a call-stack entry and transfer (R100). -/
def callTo (e : Env) (target : Va) : Exec Unit := do
  trapIf e (decide (cstackOf e.w.desc ≤ e.sl.cstackN)) 0x44 1
  writeEntry e true e.sl.cstackN (callEntry (e.path.pc + 8) e.path.mask)
  modSl e (fun sl => { sl with cstackN := e.sl.cstackN + 1 })
  jump e target

/-- `CALL` (R100). -/
def execCall (c : CFrame) (s : State) : Host.Outcome State Fault Refusal :=
  issueC c .long true (fun e => do
    notInHandler e
    if e.some_ c.guard then callTo e (offsetTarget e c.body) else advance e 8) s

/-- `CALLX` (R100): the target is tested before the push. -/
def execCallx (c : CFrame) (s : State) : Host.Outcome State Fault Refusal :=
  issueC c .indirect true (fun e => do
    notInHandler e
    let v ← controlScalar e c
    if e.some_ c.guard then do
      let t ← checkTarget e v
      callTo e t
    else advance e 8) s

/-- Take a path's lanes out of the topmost entry that shares one with it: the return PC and the new stack (R101). -/
def matchReturn (m : W32) : List (Va × W32) → Option (Va × List (Va × W32))
  | [] => none
  | p :: r =>
    if p.2 &&& m = 0 then (matchReturn m r).map (fun q => (q.1, p :: q.2))
    else
      let rest := p.2 &&& ~~~m
      some (p.1, if rest = 0 then r else (p.1, rest) :: r)

/-- `RET` (R101). -/
def ret (e : Env) : Exec Unit := do
  let l ← readCalls e e.sl.cstackN
  match matchReturn e.path.mask l with
  | none => raise e 0x44 2
  | some (pc, l') => do
    let t ← checkTarget e (pc.setWidth 64)
    setCalls e l'
    jump e t

/-- `RET`. -/
def execRet (c : CFrame) (s : State) : Host.Outcome State Fault Refusal :=
  issueC c .none true (fun e => do
    notInHandler e
    if e.some_ c.guard then ret e else advance e 8) s

/-- End lanes of the issuing path (R102): they leave the slot and the call stack; an empty path ends. -/
def exitLanes (e : Env) (m : W32) : Exec Unit := do
  endLanes e m
  let rest := e.path.mask &&& ~~~m
  if rest != 0 then
    modSl e (fun sl => sl.setSlot e.cur.slot1 (some { e.path with mask := rest, pc := e.path.pc + 8 }))
  else do
    let ps ← readPaths e
    writePaths e (ps.setSlot e.cur.slot1 none).settled

/-- `EXIT` (R102); in handler mode every lane of the path ends and handler mode is left (R142). -/
def execExit (c : CFrame) (s : State) : Host.Outcome State Fault Refusal :=
  issueC c .none true (fun e => do
    if !e.some_ c.guard then advance e 8
    else if e.sl.hmode then do
      exitLanes e e.path.mask
      modify (fun s => s.leaveHandler e)
    else exitLanes e (e.active c.guard)) s

/-- `YIELD` (R104): the slice is passed over during the next 32 die cycles while another is ready. -/
def execYield (c : CFrame) (s : State) : Host.Outcome State Fault Refusal :=
  issueC c .none true (fun e => do
    let s ← get
    if e.some_ c.guard then
      modSl e (fun sl => { sl with yieldEnd := some ((s.die (dieOf e.g.core)).dcyc + 33) })
    advance e 8) s

/-- `SLEEP` (R103): with the instant ahead the slice sleeps with its PC at the `SLEEP`. -/
def execSleep (c : CFrame) (s : State) : Host.Outcome State Fault Refusal :=
  issueC c .indirect true (fun e => do
    let t ← controlScalar e c
    let s ← get
    if e.some_ c.guard && decide (s.ptb (dieOf e.g.core) < t.toNat) then
      modSl e (fun sl => { sl with sleep := some t })
    else advance e 8) s

/-- `TRAP` (R105): 0x50 with its number; `sys.epc` is the next PC. -/
def execTrap (c : CFrame) (s : State) : Host.Outcome State Fault Refusal :=
  issueC c .code true (fun e =>
    if e.some_ c.guard then
      fun _ => .error (.trap { cause := 0x50, aux0 := c.low.setWidth 64, aux1 := 0, epc := e.path.pc + 8, fpc := none }
        none)
    else advance e 8) s

/-- `BKPT` (R105): 0x51 with `sys.aux0` = 0. -/
def execBkpt (c : CFrame) (s : State) : Host.Outcome State Fault Refusal :=
  issueC c .none true (fun e => if e.some_ c.guard then raise e 0x51 else advance e 8) s

/-- Return from handler mode (R106, R142): the path resumes at `sys.epc` in the slot it held at entry, with the mask of
`sys.emask` ANDed with the mask held at entry; the lanes removed end as through `EXIT`. -/
def eret (e : Env) : Exec Unit := do
  let t ← checkTarget e (e.sl.epc.setWidth 64)
  let held := match e.sl.frozen with
    | some f => f.mask
    | none => e.path.mask
  let mask := e.sl.emask.extractLsb' 0 32 &&& held
  endLanes e (held &&& ~~~mask)
  if mask = 0 then do
    let ps ← readPaths e
    writePaths e (ps.setSlot e.cur.slot1 none).settled
  else modSl e (fun sl => sl.setSlot e.cur.slot1 (some { e.path with mask := mask, pc := t }))
  modify (fun s => s.leaveHandler e)

/-- `ERET`: privileged (0x05 in user mode). -/
def execEret (c : CFrame) (s : State) : Host.Outcome State Fault Refusal :=
  issueC c .none true (fun e => do
    trapIf e (!e.sl.hmode) 0x05
    if e.some_ c.guard then eret e else advance e 8) s

end Sys2Proof.Machine
end

