-- ==== Sys2Proof/Machine/Sync.lean ====
section
/-!
DEFINITION. Fences, wait counters, tag-table instructions and barrier objects (spec 07_core_memory.md R185 to R196;
06_core.md R160, R161; 13_die.md R317 to R319).
-/
namespace Sys2Proof.Machine

/-! ### Engines and their commands (R242) -/

/-- An engine of the package. -/
def State.engine (s : State) (i : EngineId) : Engine :=
  match i with
  | .copy c u => ((s.core c).eng[u]?).getD Engine.reset
  | .psel c => (s.cluster c).psel
  | .egress d => (s.die d).egress

/-- Change one engine. -/
def State.modEngine (s : State) (i : EngineId) (f : Engine → Engine) : State :=
  match i with
  | .copy c u => s.modCore c (fun k => { k with eng := k.eng.setIfInBounds u (f ((k.eng[u]?).getD Engine.reset)) })
  | .psel c => s.modCluster c (fun k => { k with psel := f k.psel })
  | .egress d => s.modDie d (fun k => { k with egress := f k.egress })

/-- The commands an engine has: running, waiting in the priority queue, waiting in the normal queue. -/
def Engine.commands (e : Engine) : List Command := e.running.toList ++ e.prio ++ e.normal

/-- The engines that the slices of a core can reach. -/
def enginesOf (core : Nat) : List EngineId :=
  [.copy core 0, .copy core 1, .psel (clusterOf core), .egress (dieOf core)]

/-- The engines of a path code (R186, R239, R447). -/
def pathEngines (core : Nat) : PathCode → List EngineId
  | .copy => [.copy core 0, .copy core 1]
  | .psel => [.psel (clusterOf core)]
  | .coll => [.egress (dieOf core)]
  | _ => []

/-- The access path of an engine. -/
def enginePath : EngineId → PathCode
  | .copy _ _ => .copy
  | .psel _ => .psel
  | .egress _ => .coll

/-- Every command that waits, runs or is held and belongs to a slice. -/
def State.commandsOf (s : State) (grp : Nat) (a : Bool) (core : Nat) : List Command :=
  (((enginesOf core).map (fun i => (s.engine i).commands)).flatten ++ s.pkg.heldCmds.map (fun c => c.2)).filter
    (fun c => c.grp == grp && c.a == a)

/-- Is a command still incomplete? -/
def State.cmdOpen (s : State) (core serial : Nat) : Bool :=
  (((enginesOf core).map (fun i => (s.engine i).commands)).flatten ++ s.pkg.heldCmds.map (fun c => c.2)).any
    (fun c => c.serial == serial)

/-- Change one subcore. -/
def Core.modSub (k : Core) (i : Nat) (f : Subcore → Subcore) : Core := { k with subs := k.subs.setIfInBounds i (f (k.sub i)) }

/-- Is something that a fence point covers still open (R186)? -/
def State.pointOpen (s : State) (core sub : Nat) (p : FencePoint) : Bool :=
  let k := s.core core
  k.pend.any (fun q => p.pend.contains q.id) || p.cmds.any (fun c => s.cmdOpen core c) ||
  (k.sub sub).passes.any (fun q => p.passes.contains q.serial)

/-! ### FENCE, FENCEX, WAITCNT (R185 to R187) -/

/-- The body of `FENCE` (R185). An acquire at `.clu` or wider waits for what it covers and empties the L1. -/
def bodyFence (f : FFrame) : Body := fun e => do
  begin_ e (specFence f) f none
  if e.active f.guard = 0 then pure 0
  else do
    let s ← get
    let mine := (s.core e.g.core).pend.filter (fun p => p.grp == e.cur.grp && p.a == e.cur.a)
    let all := mine.map (fun p => p.id)
    let loads := (mine.filter (fun p => p.kind.isLoad)).map (fun p => p.id)
    let order := orderOf f
    let sc := Scope.ofCode (f.variant.toNat % 8)
    let covered := if order = 1 then loads else all
    if order != 2 && !sc.inL1 then holdDeps e covered
    if order != 1 then modSl e (fun sl => { sl with relIds := all })
    if order != 2 then do
      acquireIds e covered
      modify (fun s => s.acquireL1 e.g.core sc)
    pure 0

/-- A path code's name (R186). -/
def PathCode.of (c : Nat) : PathCode :=
  match c with
  | 0 => .lsu | 1 => .copy | 2 => .matrix | 3 => .psel | _ => .coll

/-- What a fence point of an earlier path covers: of the LSU path also the accesses that the slice's acquires and pops have put
before what follows them (R340, R341). -/
def State.covers (s : State) (e : Env) (earlier later : PathCode) : FencePoint :=
  let k := s.core e.g.core
  let mine := k.pend.filter (fun p => p.grp == e.cur.grp && p.a == e.cur.a)
  let engs := pathEngines e.g.core earlier
  let cmds := (s.commandsOf e.cur.grp e.cur.a e.g.core).filter (fun c => engs.contains c.engine)
  let isBlock (p : Pending) : Bool := match p.dst with | .fblock _ => true | _ => false
  { later := later,
    pend := match earlier with
      | .lsu => s.pushAfter e
      | .matrix => (mine.filter isBlock).map (fun (p : Pending) => p.id)
      | _ => [],
    cmds := cmds.map (fun c => c.serial),
    passes := if earlier = .matrix && !e.cur.a then
        ((k.sub e.g.sub).passes.filter (fun p => p.grp == e.cur.grp)).map (fun p => p.serial) else [],
    promise := cmds.foldl (fun m c => if m < c.promise then c.promise else m) 0 }

/-- The body of `FENCEX` (R186): towards the LSU it holds its slot; towards an engine path it marks a fence point. -/
def bodyFencex (f : FFrame) : Body := fun e => do
  begin_ e (specFencex f) f none
  if e.active f.guard = 0 then pure 0
  else do
    let s ← get
    let sc := Scope.ofCode (f.variant.toNat % 8)
    let later := PathCode.of f.srcB.toNat
    let p := s.covers e (PathCode.of f.srcA.toNat) later
    if later = .lsu then do
      holdIf (s.pointOpen e.g.core e.g.sub p) .fence
      modify (fun s => s.acquireL1 e.g.core sc)
    else
      modSl e (fun sl => { sl with fences := sl.fences.filter (fun q => s.pointOpen e.g.core e.g.sub q) ++ [p] })
    pure 0

/-- The body of `WAITCNT` (R187). -/
def bodyWaitcnt (f : FFrame) : Body := fun e => do
  begin_ e (specWaitcnt f) f none
  if e.active f.guard = 0 then pure 0
  else do
    let sl ← curSlice e
    holdIf (decide (f.dst.toNat < sl.loads) || decide (f.srcA.toNat < sl.stores) || decide (f.srcB.toNat < sl.copies) ||
      decide (f.srcC.toNat < sl.passes)) .waitCounter
    pure 0

/-! ### The tag table (R160, R161, R188) -/

/-- `tag_hash` (R161): with no sets the mask is all ones. -/
def tagHash (k : BitVec 48) (n : Nat) : Nat :=
  let h := (List.range 6).foldl (fun h i => h ^^^ bitsAt k.toNat (8 * i) 8) 0
  if n = 0 then h else h % n

/-- The tag-table sets of the half that a group lies on. -/
def Env.tags (e : Env) (w : Wg) : List (List TagEntry) := if e.g.half1 then w.tags1 else w.tags0

/-- The tag-table sets as they stand, once what comes before the access is performed: an earlier acquire, for a write a release
fence before it (R185, R188). -/
def curTags (e : Env) (write : Bool) : Exec (List (List TagEntry)) := do
  let sl ← curSlice e
  holdDeps e (sl.acqIds ++ (if write then sl.relIds else []))
  let s ← get
  pure (e.tags ((s.wg? e.w.id).getD e.w))

/-- Replace the tag-table sets. -/
def setTags (e : Env) (t : List (List TagEntry)) : Exec Unit :=
  modify (fun s => s.modWg e.w.id (fun w => if e.g.half1 then { w with tags1 := t } else { w with tags0 := t }))

/-- The key operand, by lane: the low 48 bits of a pair, or of an s register. -/
def keyOf (e : Env) (code : BitVec 8) : Nat → BitVec 48 :=
  match RC.of code with
  | .s => fun _ => (e.sl.s (regNo code)).setWidth 48
  | .v => fun l =>
    let v := joinLanes (e.sl.v (regNo code)) (e.sl.v (regNo code + 1))
    ((v[l]?).getD 0).setWidth 48
  | _ => fun _ => 0

/-- Raise 0x22 for the lanes that offend (R188). -/
def raiseTag (e : Env) (n : Nat) (key : Nat → BitVec 48) (way : Nat → Nat) (bad : W32) : Exec Unit :=
  let l := lowLane bad
  trapIf e (bad != 0) 0x22 (bad.setWidth 64) (BitVec.ofNat 64 (tagHash (key l) n + way l % 8 * 2 ^ 16))

/-- The body of `TLOOK`. -/
def bodyTlook (f : FFrame) : Body := fun e => do
  begin_ e specTlook f none
  let t ← curTags e false
  let m := e.active f.guard
  let key := keyOf e f.srcA
  raiseTag e t.length key (fun _ => 0) (if t.isEmpty then m else 0)
  let find (l : Nat) : Nat :=
    match (t.getD (tagHash (key l) t.length) []).find? (fun x => x.valid && x.key == key l) with
    | some x => x.slot.toNat
    | none => 0xFFFFFFFF
  dstV e false m f.dst (tabulate 32 (fun l => BitVec.ofNat 64 (find l.val)))
  pure 0

/-- Write one entry of a set. -/
def setEntry (t : List (List TagEntry)) (set way : Nat) (x : TagEntry) : List (List TagEntry) :=
  t.set set ((t.getD set []).set way x)

/-- The body of `TSET`: where lanes name one entry the lowest wins, so the lanes are written from the highest down. -/
def bodyTset (f : FFrame) : Body := fun e => do
  begin_ e specTset f none
  let t ← curTags e true
  let m := e.active f.guard
  let key := keyOf e f.srcA
  let slot ← srcV e .u32 f.srcB
  let way ← srcV e .u32 f.srcC
  raiseTag e t.length key (laneNat way)
    (maskOf (fun l => m.getLsbD l && (t.isEmpty || decide (7 < laneNat way l))))
  setTags e ((lanesIn m).reverse.foldl (fun t l =>
    setEntry t (tagHash (key l) t.length) (laneNat way l) { key := key l, slot := BitVec.ofNat 32 (laneNat slot l), valid := true }) t)
  pure 0

/-- The body of `TCLR`. -/
def bodyTclr (f : FFrame) : Body := fun e => do
  begin_ e (specTclr f) f none
  let t ← curTags e true
  let m := e.active f.guard
  let all := f.variant.getLsbD 0
  let key := keyOf e (if all then 0xF8 else f.srcA)
  raiseTag e t.length key (fun _ => 0) (if t.isEmpty then m else 0)
  let keys := (lanesIn m).map key
  if m = 0 then pure 0
  else do
    setTags e (t.map (fun set => set.map (fun x => if all || keys.contains x.key then { x with valid := false } else x)))
    pure 0

/-! ### Barrier objects (R189 to R192, R318) -/

/-- The 256 bits of a barrier object. -/
def State.objRead (s : State) (o : ObjRef) : Nat :=
  match o with
  | .ls w h off => ofBytes (s.lsRead w h off 32)
  | .mem pa => s.mem.readNat pa 32

/-- Write a barrier object: in memory at its home L2. -/
def State.objWrite (s : State) (o : ObjRef) (x : Nat) : State :=
  match o with
  | .ls w h off => s.lsWrite w h off (toBytes 32 x)
  | .mem pa => s.homeWrite pa (toBytes 32 x)

/-- Bytes still expected, as a signed number. -/
def objPending (x : Nat) : Int := sextNat 24 (bitsAt x 32 24)

/-- Is a watch armed on an object? -/
def Watch.of (o : ObjRef) (w : Watch) : Bool :=
  match o with
  | .ls wg h off => w.wg == wg && w.half1 == h && w.off == off
  | .mem _ => false

/-- The watched word meets the threshold (R192). One behind a port that is down cannot be read (R413). -/
def State.watchMet (s : State) (o : ObjRef) (x : Nat) : Bool :=
  match s.watches.find? (Watch.of o) with
  | some w => (match w.place with
    | .mem pa => decide (bitsAt x 192 64 ≤ s.mem.readNat pa 8)
    | .host pa => s.portUp pa && decide (bitsAt x 192 64 ≤ s.mem.readNat pa 8)
    | _ => false)
  | none => false

/-- Complete a phase (R192). -/
def flipPhase (x : Nat) : Nat :=
  setBits (setBits (setBits (setBits x 56 1 (1 - bitsAt x 56 1)) 64 32 (bitsAt x 64 32 + 1)) 16 16 0) 57 1 0

/-- The core on which an object's watch unit works. -/
def State.objCore (s : State) (wg : Nat) (half1 : Bool) : Nat := ((s.wg? wg).map (fun w => w.coreOf half1)).getD 0

/-- A read of a watched word is an acquire at `.dev` or wider for the object's core (R196, R340). -/
def State.watchAcquire (s : State) (o : ObjRef) : State :=
  match o with
  | .ls w h _ => s.l1Drop (s.objCore w h)
  | .mem _ => s

/-- The test of R192 after an update of an object that is no pair object; in watch mode it reads the watched word. -/
def State.testPlain (s : State) (o : ObjRef) (x : Nat) : State × Nat :=
  let watch := bitAt x 57
  let done := if watch then objPending x == 0 && s.watchMet o x
              else bitsAt x 16 16 == bitsAt x 0 16 && objPending x == 0
  let s1 := if watch then s.watchAcquire o else s
  if done then ({ s1 with watches := s1.watches.filter (fun w => !Watch.of o w) }, flipPhase x) else (s1, x)

/-- The test of R318 after an update of this half of a pair object. -/
def State.testPair (s : State) (wg : Nat) (half1 : Bool) (off x : Nat) : State × Nat :=
  let ready := !bitAt x 96 && bitsAt x 16 16 == bitsAt x 0 16 && objPending x == 0
  let (s1, x1) := if ready then
      ({ s with pairMsgs := s.pairMsgs ++ [{ wg := wg, half1 := !half1, off := off, count := BitVec.ofNat 16 (bitsAt x 64 32) }] },
        setBits x 96 1 1)
    else (s, x)
  if bitAt x1 96 && bitAt x1 97 then (s1, setBits (flipPhase x1) 96 2 0) else (s1, x1)

/-- Write an updated object and run its test. -/
def State.objUpdate (s : State) (o : ObjRef) (x : Nat) : State :=
  let (s1, x1) : State × Nat := match o with
    | .ls w h off => if bitAt x 58 then s.testPair w h off x else s.testPlain o x
    | .mem _ => s.testPlain o x
  s1.objWrite o x1

/-- Change an object and run its test. -/
def State.objModify (s : State) (o : ObjRef) (f : Nat → Nat) : State := s.objUpdate o (f (s.objRead o))

/-- Arrive on an object. -/
def objArrive (x : Nat) : Nat := setBits x 16 16 (bitsAt x 16 16 + 1)
/-- Add to pending. -/
def objAdd (n : Int) (x : Nat) : Nat := setBits x 32 24 (wrapInt 24 (objPending x + n))
/-- Would adding leave pending outside its range? -/
def objOver (n : Int) (x : Nat) : Bool := decide (objPending x + n < -8388608) || decide (8388607 < objPending x + n)

/-- Subtract landed bytes (R192): an overflow sets fault and changes nothing else. -/
def State.objSubtract (s : State) (o : ObjRef) (n : Nat) : State :=
  let x := s.objRead o
  if objOver (-(n : Int)) x then s.objWrite o (setBits x 60 1 1) else s.objUpdate o (objAdd (-(n : Int)) x)

/-! ### Reaching an object (R190) -/

/-- The kinds of use that the check of R190 tells apart. -/
inductive BarOp where
  | init | arrive | addOnly (n : Nat) | arriveAdd (n : Nat) | look | watch
  deriving DecidableEq, Repr

/-- The reason of R190 for an object's contents. The fault bit of an object gives 4 to every barrier instruction (R318), before the
other reasons, the lowest of which is given else; what carries no marker is no object, and its bits give no 4 (DESIGN CHOICE,
notes/assumptions/123.md). -/
def objReason (x : Nat) (op : BarOp) : Option Nat :=
  let mark := bitsAt x 61 3 != 5
  let watch := bitAt x 57
  let full := decide (bitsAt x 0 16 ≤ bitsAt x 16 16)
  if !mark && bitAt x 60 then some 4
  else match op with
    | .init => none
    | .arrive => if mark then some 2 else if full then some 3 else if watch then some 6 else none
    | .addOnly n => if mark then some 2 else if objOver n x then some 4 else none
    | .arriveAdd n => if mark then some 2 else if full then some 3 else if objOver n x then some 4 else if watch then some 6 else none
    | .look => if mark then some 2 else none
    | .watch => if mark then some 2
                else if bitsAt x 16 16 != 0 || objPending x != 0 || watch || bitAt x 58 then some 5 else none

/-- Raise 0x21 at an address with a reason. -/
def raiseBar {α : Type} (e : Env) (va : W64) (reason : Nat) : Exec α := raise e 0x21 va (BitVec.ofNat 64 reason)

/-- Does an access of the slice stand between it and its own use of these bytes now (R35, R175, R185)? A barrier instruction is a
synchronising access (R337). -/
def barReady (e : Env) (probe : List LaneAcc) (write : Bool) : Exec Unit := do
  syncReady e
  let s ← get
  let sl ← curSlice e
  holdIf ((s.core e.g.core).pend.any (fun p => sl.acqIds.contains p.id || (write && sl.relIds.contains p.id) ||
    (p.grp == e.cur.grp && p.a == e.cur.a && p.accs.any (fun b => !b.done && probe.any (fun a => a.overlaps b))))) .fence

/-- A local-store object: 0x20 (R153), then alignment. -/
def lsObj (e : Env) (addr : W32) (m : W32) : Exec LsRef := do
  let s ← get
  match s.lsRef e.w e.g.half1 addr 32 with
  | none => raise e 0x20 (m.setWidth 64) (addr.setWidth 64)
  | some r => if addr.toNat % 32 ≠ 0 then raiseBar e (addr.setWidth 64) 1 else pure r

/-- A global object: its translation, then alignment. One that lies with a peer raises 0x11. -/
def globalObj (e : Env) (va : W64) (acc : Access) (m : W32) : Exec Place := do
  let ps ← placesOf e [(32, va)] 1 acc (some m)
  noPoison ps
  if va.toNat % 32 ≠ 0 then raiseBar e va 1
  match ps with
  | x :: _ => (match x.2.2 with
    | .fabric _ _ => raise e 0x11 va (m.setWidth 64)
    | p => pure p)
  | [] => raise e 0x11 va (m.setWidth 64)

/-- An object named by a barrier instruction: where it lies, its address, and whether its natural scope is wider than
`.wg` (R190). -/
structure BarObj where
  ref  : ObjRef
  va   : W64
  wide : Bool
  grid : Bool
  deriving DecidableEq, Repr

/-- Find the object of srcA, ready to be used (R190). -/
def findObj (e : Env) (f : FFrame) (write : Bool) (m : W32) : Exec BarObj := do
  let h := e.sl.s (regNo f.srcA)
  if gFlag f then do
    let p ← globalObj e h (if write then .store else .load) m
    hostReady h p
    let pa := match p with | .mem a => a | .host a => a | _ => 0
    barReady e [laneAcc 32 noBytes noBytes (32, h, p)] write
    pure { ref := .mem pa, va := h, wide := true, grid := true }
  else do
    let r ← lsObj e (h.setWidth 32) m
    barReady e [laneAcc 32 noBytes noBytes (32, h, r.place)] write
    let s ← get
    holdIf (s.rangeBehind e.g.core r.wg r.half1 r.off 32) .bankQueue
    let x := s.objRead (.ls r.wg r.half1 r.off)
    pure { ref := .ls r.wg r.half1 r.off, va := (h.setWidth 32).setWidth 64,
           wide := h.getLsbD 31 || h.getLsbD 23 || bitAt x 58 || !(Scope.ofCode (f.variant.toNat % 8)).inL1, grid := false }

/-- Raise the reason that an object's contents give. -/
def checkObj (e : Env) (o : BarObj) (op : BarOp) : Exec Unit := do
  let s ← get
  match objReason (s.objRead o.ref) op with
  | some r => raiseBar e o.va r
  | none => pure ()

/-- An arrival is a release (R192): it waits until the slice's earlier LSU accesses are performed, and those that its acquires and
pops have put before it (R340). That it waits at its issue, and updates the object there, is the model's choice
(notes/assumptions/118.md). -/
def releaseReady (e : Env) : Exec Unit := do
  let s ← get
  holdIf (!(s.pushAfter e).isEmpty) .fence

/-- A write of an object in memory. -/
def noteStore (e : Env) (o : BarObj) (rd wr : Bool) : Exec Unit :=
  if o.grid then modify (fun s => s.watchHit e.cur.grp e.cur.a [(o.va, 32)] rd wr) else pure ()

/-- The body of `BINIT` (R191, R317): of a pair object the issuing half takes sE[15:0], the other half sE[31:16]. -/
def bodyBinit (f : FFrame) : Body := fun e => do
  begin_ e (specBinit f) f none
  let m := e.active f.guard
  if m = 0 then pure 0
  else do
    let pair := f.flags.getLsbD 2
    let v := (e.sl.s (regNo f.srcB)).toNat
    let o ← findObj e f true m
    checkObj e o .init
    if pair && !e.w.pair then raiseBar e o.va 2
    if v % 2 ^ 16 = 0 || (pair && bitsAt v 16 16 == 0) then raiseBar e o.va 7
    let obj (x : Nat) : Nat := x + 5 * 2 ^ 61 + (if pair then 2 ^ 58 else 0)
    modify (fun s => { s with watches := s.watches.filter (fun w => !Watch.of o.ref w) })
    (match o.ref, pair with
      | .ls w _ off, true => do
        let s ← get
        holdIf (s.rangeBehind e.g.core w e.g.half1 off 32 || s.rangeBehind e.g.core w (!e.g.half1) off 32) .bankQueue
        modify (fun s => (s.objWrite (.ls w e.g.half1 off) (obj (v % 2 ^ 16))).objWrite (.ls w (!e.g.half1) off) (obj (bitsAt v 16 16)))
      | _, _ => modify (fun s => s.objWrite o.ref (obj (v % 2 ^ 16))))
    noteStore e o false true
    pure 0

/-- An arrival, an addition of bytes, or both (R192, R193). -/
def arrive (f : FFrame) (op : BarOp) (fn : Nat → Nat) (release : Bool) (e : Env) : Exec Unit := do
  let m := e.active f.guard
  if m = 0 then pure ()
  else do
    if release then releaseReady e
    let o ← findObj e f true m
    checkObj e o op
    trapIf e (o.grid && descField e.w.desc 26 1 == 0) 0x40
    modify (fun s => s.objModify o.ref fn)
    noteStore e o true true

/-- The body of `BARR`. -/
def bodyBarr (f : FFrame) : Body := fun e => do
  begin_ e (specBarr f) f none
  arrive f .arrive objArrive true e
  pure 0

/-- The body of `BARRX`: with `.add` it adds the bytes without arriving. -/
def bodyBarrx (f : FFrame) : Body := fun e => do
  begin_ e (specBarrx f) f none
  let n := (e.sl.s (regNo f.srcB)).toNat
  if bit5 f then arrive f (.addOnly n) (objAdd n) false e
  else arrive f (.arriveAdd n) (fun x => objArrive (objAdd n x)) true e
  pure 0

/-- An acquire of the issuing slice at a barrier's scope (R194). -/
def State.barAcquire (s : State) (core : Nat) (wide : Bool) : State := if wide then s.l1Drop core else s

/-- The phase of an object. -/
def State.phaseOf (s : State) (o : ObjRef) : Bool := bitAt (s.objRead o) 56

/-- The instant that a slot holds from a `BWAIT.prom` that has not completed, with whether its miss has been counted (R194). -/
def Slice.heldInstant (sl : Slice) (one : Bool) : Option (W64 × Bool) :=
  match sl.wait one with
  | some w => w.held.map (fun t => (t, w.missed))
  | none => match sl.heldPop with
    | some (.bwaitProm, t) => some (t, false)
    | some (.bwaitMissed, t) => some (t, true)
    | _ => none

/-- The instant of a `.prom` form: the one the slice holds from a stopped `BWAIT.prom`, or srcC (R194). -/
def promInstant (e : Env) (f : FFrame) : Exec (Option (W64 × Bool)) := do
  let sl ← curSlice e
  if !bit5 f then pure none
  else match sl.heldInstant e.cur.slot1 with
    | some x => pure (some x)
    | none => do
      let t ← srcS e f.srcC
      pure (some (t, false))

/-- The object's prom bit, set while a `BWAIT.prom` sleeps on it (Table 7.8). -/
def State.setProm (s : State) (o : ObjRef) (b : Bool) : State := s.objWrite o (setBits (s.objRead o) 59 1 b.toNat)

/-- Which slot's `BWAIT.prom` sleeps. -/
def Slice.promSlot (sl : Slice) : Option (Bool × BWaitRec) :=
  match sl.wait0.filter (fun w => w.asleep), sl.wait1.filter (fun w => w.asleep) with
  | some w, _ => some (false, w)
  | none, some w => some (true, w)
  | none, none => none

/-- Does some slice's `BWAIT.prom` sleep on an object? -/
def State.promOn (s : State) (o : ObjRef) : Bool :=
  let on (sl : Slice) : Bool := match sl.promSlot with | some (_, w) => w.obj == o | none => false
  s.groups.any (fun g => on g.x || (match g.a with | some a => on a | none => false))

/-- Change a slice whose sleep at a `BWAIT.prom` may end with it: the object's prom bit follows. -/
def State.modSleeper (s : State) (grp : Nat) (a : Bool) (f : Slice → Slice) : State :=
  let s1 := s.modSlice grp a f
  match (s.slice? grp a).bind Slice.promSlot with
  | some (_, w) => s1.setProm w.obj (s1.promOn w.obj)
  | none => s1

/-- Change the slices of the groups that a test selects, as `State.modSleeper` changes one. -/
def State.modSleepers (s : State) (sel : Group → Bool) (f : Slice → Slice) : State :=
  let prom (sl : Slice) : List ObjRef := (sl.promSlot.map (fun x => x.2.obj)).toList
  let objs := (s.groups.filter sel).flatMap (fun g => prom g.x ++ (g.a.map prom).getD [])
  let s1 := { s with groups := s.groups.map (fun g => if sel g then { g with x := f g.x, a := g.a.map f } else g) }
  objs.foldl (fun s o => s.setProm o (s1.promOn o)) s1

/-- Count a promise that the part resolves itself (R194), and record it (Table 18.2, type 0x04). -/
def State.missPromise (s : State) (e : Env) (t : W64) : State :=
  let s1 := s.modCore e.g.core (fun k => k.count 10 1 (some (e.path.pc, e.w.asn)))
  if e.sl.corr.getLsbD 31 then
    s1.trace e.w.region { type := 0x04, engine := sliceIdent e.g.core, origin := e.g.origin e.cur.a, corr := e.sl.corr,
                          ptb := s.ptb (dieOf e.g.core), payload := t.toNat }
  else s1

/-- Raise 0x38 with the popped instant kept for the replay (R194). -/
def raisePromise (e : Env) (t : W64) (ptb : Nat) : Exec Unit := fun s =>
  .error (.trap { cause := 0x38, aux0 := t, aux1 := BitVec.ofNat 64 ptb, epc := e.path.pc, fpc := none }
    (some (s.modSlice e.cur.grp e.cur.a (fun sl => { sl with heldPop := some (.bwaitProm, t) }))))

/-- The body of `BWAIT` (R194): with the phase open it leaves a wait on its slot, which holds; with `.prom` the slice sleeps
first. The frame advances when the wait completes. -/
def bwait (f : FFrame) (e : Env) : Exec Unit := do
  trapIf e (!f.ok (specBwait f) false) 0x02
  let m := e.active f.guard
  let heldT := bit5 f && (e.sl.heldInstant e.cur.slot1).isSome
  checkNamed e [] ([{ pos := (specBwait f).a, code := f.srcA }, { pos := (specBwait f).b, code := f.srcB }] ++
    (if heldT then [] else [{ pos := (specBwait f).c, code := f.srcC }]))
  if m = 0 then do
    let _ ← if bit5 f && !heldT then srcS e f.srcC else pure 0
    advance e 8
  else do
    let b ← srcS e f.srcB
    let found : Exec BarObj := do
      let o ← findObj e f false m
      checkObj e o .look
      pure o
    let o ← orLower found (do let _ ← promInstant e f; pure ())
    let t ← promInstant e f
    let s ← get
    let ptb := s.ptb (dieOf e.g.core)
    let w : BWaitRec := { obj := o.ref, va := o.va, bit := b.getLsbD 0, wide := o.wide, held := t.map (fun x => x.1), asleep := false,
                          missed := (match t with | some x => x.2 | none => false) }
    let asleep := match t with | some (i, missed) => !missed && decide (ptb < i.toNat) | none => false
    modSl e (fun sl => { sl with heldPop := sl.heldPop.filter (fun h => h.1 == .brq) })
    if asleep then do
      modify (fun s => s.setProm o.ref true)
      modSl e (fun sl => { (sl.setWait e.cur.slot1 (some { w with asleep := true })) with sleep := w.held })
    else if s.phaseOf o.ref != w.bit then do
      modSl e (fun sl => sl.setWait e.cur.slot1 none)
      modify (fun s => s.barAcquire e.g.core o.wide)
      noteStore e o true false
      advance e 8
    else match t with
      | some (i, false) =>
        if s.rcbOwned 6 e.w.region 93 1 = 1 then raisePromise e i ptb
        else do
          modify (fun s => s.missPromise e i)
          modSl e (fun sl => sl.setWait e.cur.slot1 (some { w with missed := true }))
      | _ => modSl e (fun sl => sl.setWait e.cur.slot1 (some w))

/-- The body of `BTEST` (R195). -/
def bodyBtest (f : FFrame) : Body := fun e => do
  begin_ e (specBtest f) f none
  let m := e.active f.guard
  if m = 0 then pure 0
  else do
    let o ← findObj e f false m
    checkObj e o .look
    let s ← get
    let x := s.objRead o.ref
    dstS e m f.dst (BitVec.ofNat 64 (bitsAt x 64 32 * 2 ^ 32 + bitsAt x 56 1))
    if orderOf f = 1 then modify (fun s => s.barAcquire e.g.core o.wide)
    noteStore e o true false
    pure 0

/-- Ask a peer for a watched word (R436). -/
def State.askWatch (s : State) (w : Watch) : State :=
  match w.place with
  | .fabric p off =>
    s.sendReq p { src := s.fabric.dev, op := .read, seq := 0, off := BitVec.ofNat 43 off, len := 8, aop := 0, ty := 0,
                  cas := false, cmp := 0, bytes := (List.range 8).map (fun i => (off + i, 0)) } (.watch w.wg w.half1 w.off)
  | _ => s

/-- The body of `BWATCH` (R196): the watched word is translated at arming as for a load, and read at once. -/
def bodyBwatch (f : FFrame) : Body := fun e => do
  begin_ e (specBwatch f) f none
  let m := e.active f.guard
  if m = 0 then pure 0
  else do
    let va := e.sl.s (regNo f.srcB)
    let thr := (e.sl.s (regNo f.srcC)).toNat
    let ps ← placesOf e [(32, va)] 8 .load (some m)
    noPoison ps
    let o ← findObj e f true m
    checkObj e o .watch
    let s ← get
    (match o.ref, ps with
      | .ls w h off, x :: _ => do
        let armed : Watch := { wg := w, half1 := h, off := off, va := x.2.1, place := x.2.2, next := s.ptb (dieOf e.g.core) + 1000,
                               event := false }
        set { s with watches := s.watches.filter (fun v => !Watch.of o.ref v) ++ [armed] }
        modify (fun s => (s.objModify o.ref (fun y => setBits (setBits (setBits y 57 1 1) 128 64 va.toNat) 192 64 thr)).askWatch armed)
      | _, _ => pure ())
    pure 0

/-! ### Events (R194, R196, R318) -/

/-- WATCH_READ (R196): the watch unit of a resident workgroup reads the watched word, an acquire at `.dev`, and the phase may complete. A word that
lies with a peer is asked for (R436). -/
def execWatchRead (index : Nat) (s : State) : Host.Outcome State Fault Refusal :=
  match s.watches[index]?.filter (fun w => (s.wg? w.wg).isSome) with
  | none => .next s
  | some w =>
    let core := s.objCore w.wg w.half1
    let o : ObjRef := .ls w.wg w.half1 w.off
    let again : Watch := { w with next := s.ptb (dieOf core) + 1000, event := false }
    let s1 := { s with watches := s.watches.set index again }
    match w.place with
    | .fabric _ _ => .next (s1.askWatch again)
    | _ => .next (s1.objModify o (fun x => x))

/-- PAIR_MESSAGE_ARRIVE (R318): a message to an object that is no pair object sets its fault bit. -/
def execPairMessageArrive (index : Nat) (s : State) : Host.Outcome State Fault Refusal :=
  match s.pairMsgs[index]? with
  | none => .next s
  | some m =>
    if (s.pairMsgs.take index).any (fun n => n.wg == m.wg && n.half1 == m.half1 && n.off == m.off) then .next s
    else
      let s1 := { s with pairMsgs := s.pairMsgs.eraseIdx index }
      let o : ObjRef := .ls m.wg m.half1 m.off
      let x := s.objRead o
      if bitsAt x 61 3 ≠ 5 ∨ !bitAt x 58 then .next (s1.objWrite o (setBits x 60 1 1))
      else .next (s1.objUpdate o (setBits (setBits x 97 1 1) 112 16 m.count.toNat))

/-- May a waiting slot go on: its slice is not stopped, and in handler mode it is the slot that trapped (R141)? -/
def Slice.runs (sl : Slice) (one : Bool) : Bool :=
  match sl.halt with
  | .stopped => false
  | _ => match sl.frozen with
    | some f => f.slot1 == one
    | none => true

/-- Complete the wait of a slot: an acquire, the frame moves on, and a popped instant is no longer held. -/
def State.endWait (s : State) (g : Group) (a one : Bool) (w : BWaitRec) : State :=
  (s.modSlice g.id a (fun sl =>
    let sl1 := (sl.setWait one none).setHold one none
    sl1.setSlot one ((sl1.slot one).map (fun p => { p with pc := p.pc + 8 })))).barAcquire g.core w.wide

/-- BWAIT_COMPLETE (R194). -/
def execBwaitComplete (grp : Nat) (a one : Bool) (s : State) : Host.Outcome State Fault Refusal :=
  match s.group? grp, s.slice? grp a with
  | some g, some sl =>
    match sl.wait one with
    | some w => if sl.runs one && !w.asleep && s.phaseOf w.obj != w.bit then .next (s.endWait g a one w) else .next s
    | none => .next s
  | _, _ => .next s

/-- BWAIT_PROM_WAKE (R194): the instant is reached; the phase is tested. Still open, 0x38 is raised: a region that takes it
sees it in its handler, and else the part counts a promise miss and the wait goes on without a limit. -/
def execBwaitPromWake (grp : Nat) (a : Bool) (s : State) : Host.Outcome State Fault Refusal :=
  match s.group? grp, s.slice? grp a with
  | some g, some sl =>
    match sl.promSlot, sl.sleep with
    | some (one, w), some t =>
      let ptb := s.ptb (dieOf g.core)
      if !sl.runs one || ptb < t.toNat then .next s
      else
        let s1 := s.modSleeper grp a (fun sl => { (sl.setWait one (some { w with asleep := false })) with sleep := none })
        if s1.phaseOf w.obj != w.bit then .next (s1.endWait g a one w)
        else
          match { s1 with cur := some { grp := grp, a := a, slot1 := one } }.env? with
          | none => .next s1
          | some e =>
            if s.rcbOwned 6 e.w.region 93 1 = 1 then
              .next (((s1.modSlice grp a (fun sl => { (sl.setWait one none) with heldPop := some (.bwaitProm, t) })).takeTrap e
                { cause := 0x38, aux0 := t, aux1 := BitVec.ofNat 64 ptb, epc := e.path.pc, fpc := none }))
            else .next ((s1.missPromise e t).modSlice grp a (fun sl => sl.setWait one (some { w with asleep := false, missed := true })))
    | _, _ => .next s
  | _, _ => .next s

/-- SLEEP_WAKE (R103): the PTB has reached a sleeping slice's instant; the `SLEEP` is over. -/
def execSleepWake (grp : Nat) (a : Bool) (s : State) : Host.Outcome State Fault Refusal :=
  match s.group? grp, s.slice? grp a with
  | some g, some sl =>
    match sl.sleep with
    | some t =>
      if sl.promSlot.isSome || !sl.runs sl.last1 || s.ptb (dieOf g.core) < t.toNat then .next s
      else .next (s.modSlice grp a (fun sl =>
        { (sl.setSlot sl.last1 ((sl.slot sl.last1).map (fun p => { p with pc := p.pc + 8 }))) with sleep := none }))
    | none => .next s
  | _, _ => .next s

/-- YIELD_WINDOW_END (R104). -/
def execYieldWindowEnd (grp : Nat) (a : Bool) (s : State) : Host.Outcome State Fault Refusal :=
  match s.group? grp, s.slice? grp a with
  | some g, some sl =>
    match sl.yieldEnd with
    | some d => if d ≤ (s.die (dieOf g.core)).dcyc then .next (s.modSlice grp a (fun sl => { sl with yieldEnd := none }))
                else .next s
    | none => .next s
  | _, _ => .next s

/-- `FENCE`. -/
def execFence (f : FFrame) (s : State) : Host.Outcome State Fault Refusal := issueF f.guard (bodyFence f) s
/-- `FENCEX`. -/
def execFencex (f : FFrame) (s : State) : Host.Outcome State Fault Refusal := issueF f.guard (bodyFencex f) s
/-- `WAITCNT`. -/
def execWaitcnt (f : FFrame) (s : State) : Host.Outcome State Fault Refusal := issueF f.guard (bodyWaitcnt f) s
/-- `TLOOK`. -/
def execTlook (f : FFrame) (s : State) : Host.Outcome State Fault Refusal := issueF f.guard (bodyTlook f) s
/-- `TSET`. -/
def execTset (f : FFrame) (s : State) : Host.Outcome State Fault Refusal := issueF f.guard (bodyTset f) s
/-- `TCLR`. -/
def execTclr (f : FFrame) (s : State) : Host.Outcome State Fault Refusal := issueF f.guard (bodyTclr f) s
/-- `BINIT`. -/
def execBinit (f : FFrame) (s : State) : Host.Outcome State Fault Refusal := issueF f.guard (bodyBinit f) s
/-- `BARR`. -/
def execBarr (f : FFrame) (s : State) : Host.Outcome State Fault Refusal := issueF f.guard (bodyBarr f) s
/-- `BARRX`. -/
def execBarrx (f : FFrame) (s : State) : Host.Outcome State Fault Refusal := issueF f.guard (bodyBarrx f) s
/-- `BWAIT`. -/
def execBwait (f : FFrame) (s : State) : Host.Outcome State Fault Refusal := issue [f.guard] (bwait f) s
/-- `BTEST`. -/
def execBtest (f : FFrame) (s : State) : Host.Outcome State Fault Refusal := issueF f.guard (bodyBtest f) s
/-- `BWATCH`. -/
def execBwatch (f : FFrame) (s : State) : Host.Outcome State Fault Refusal := issueF f.guard (bodyBwatch f) s

end Sys2Proof.Machine
end

