-- ==== Sys2Proof/Machine/Matrix.lean ====
section
/-!
DEFINITION. The matrix unit (spec 09_matrix.md R221 to R241): the multiply instructions, their passes, format-block
descriptors and the accumulator instructions.
-/
namespace Sys2Proof.Machine

/-! ### Formats and descriptors (R221, R222, R229 to R231) -/

/-- The dense K of an operand format (Table 9.1). -/
def kOf (fmt : Nat) : Nat := if fmt = 15 then 160 else 1024 / valueWidth fmt

/-- The formats of Table 9.1. -/
def mmFormats : List Nat := [1, 2, 7, 8, 9, 10, 11, 12, 13, 14, 15]

/-- A legal pair of formats (R222). -/
def legalPair (a b : Nat) : Bool :=
  ([11, 12, 14].contains a && [11, 12, 14].contains b) || ([1, 2].contains a && [1, 2].contains b) || a == b

/-- The cell type of a format: `.s32`, `.f64` or `.f32` (Table 9.1). -/
def cellOf (fmt : Nat) : Ty := if fmt = 1 ∨ fmt = 2 then .s32 else if fmt = 7 then .fl .f64 else .fl .f32

/-- The die cycles of a pass (Table 9.1). -/
def passCycles (fmt : Nat) : Nat := if fmt = 7 then 256 else if fmt = 8 then 32 else 8

/-- A block length of a descriptor (Table 9.3): 0 for none. -/
def blockLen (code : Nat) : Nat := if code = 0 then 0 else 8 * 2 ^ code

/-- A format-block descriptor (Table 9.3). -/
structure FBlock where
  afmt : Nat
  ablk : Nat
  bfmt : Nat
  bblk : Nat
  asc  : W32
  bsc  : W32
  deriving DecidableEq, Repr

/-- The fields of a descriptor. -/
def FBlock.of (x : BitVec 256) : FBlock :=
  let n := x.toNat
  { afmt := bitsAt n 0 4, ablk := blockLen (bitsAt n 4 2), bfmt := bitsAt n 8 4, bblk := blockLen (bitsAt n 12 2),
    asc := x.extractLsb' 64 32, bsc := x.extractLsb' 128 32 }

/-- The lowest reason of Table 9.4 for a descriptor; `mul` is 2 for a sparse A operand. -/
def fblockReason (x : BitVec 256) (mul : Nat) : Option Nat :=
  let n := x.toNat
  let d := FBlock.of x
  let blocked (fmt blk : Nat) : Bool :=
    if fmt = 13 then blk == 32 else blk == 0 || [11, 12, 14, 15].contains fmt
  if bitsAt n 6 2 ≠ 0 ∨ bitsAt n 14 50 ≠ 0 ∨ bitsAt n 96 32 ≠ 0 ∨ bitsAt n 160 96 ≠ 0 then some 1
  else if !mmFormats.contains d.afmt || !mmFormats.contains d.bfmt then some 2
  else if !legalPair d.afmt d.bfmt then some 3
  else if !blocked d.afmt d.ablk || !blocked d.bfmt d.bblk then some 4
  else if kOf d.afmt % d.ablk ≠ 0 ∧ d.ablk ≠ 0 ∨ (mul * kOf d.bfmt) % d.bblk ≠ 0 ∧ d.bblk ≠ 0 then some 5
  else none

/-! ### Operand rows (R224, R231) -/

/-- The element of a tile operand in local store at a place of a geometry: the bytes it lies in. -/
def elemBytes (bit eb : Nat) : Nat := (bit + eb + 7) / 8

/-- The reference of element i of a local-store geometry for a group (R153). -/
def State.elemRef (s : State) (w : Wg) (half1 : Bool) (g : Geom) (h : W64) (i : Nat) : Option (LsRef × Nat) :=
  match g.eval h i with
  | .ls a bit => (s.lsRef w half1 a (elemBytes bit g.eb)).map (fun r => (r, bit))
  | _ => none

/-- The bits of element i. -/
def State.elemRead (s : State) (w : Wg) (half1 : Bool) (g : Geom) (h : W64) (i : Nat) : Nat :=
  match s.elemRef w half1 g h i with
  | some (r, bit) => bitsAt (ofBytes (s.lsRead r.wg r.half1 r.off (elemBytes bit g.eb))) bit g.eb
  | none => 0

/-- The extent of mode 0 of a two-mode operand. -/
def Geom.rowLen (g : Geom) : Nat := modeExt (g.modes.getD 0 [])
/-- The extent of mode 1. -/
def Geom.rowCount (g : Geom) : Nat := modeExt (g.modes.getD 1 [])

/-- The element numbers of row r: mode 0 in linear order. -/
def Geom.rowElems (g : Geom) (r : Nat) : List Nat := (List.range g.rowLen).map (fun k => r * g.rowLen + k)

/-- The first address of row r that leads nowhere. -/
def State.rowBad (s : State) (w : Wg) (half1 : Bool) (g : Geom) (h : W64) (r : Nat) : Option W32 :=
  ((g.rowElems r).find? (fun i => (s.elemRef w half1 g h i).isNone)).map (g.lsAddr h)

/-- The bit string of row r. -/
def State.rowBits (s : State) (w : Wg) (half1 : Bool) (g : Geom) (h : W64) (r : Nat) : Nat :=
  (g.rowElems r).foldr (fun i x => s.elemRead w half1 g h i + 2 ^ g.eb * x) 0

/-- The address of the scale bytes of row r of a table: k values in blocks of n. -/
def scaleAddr (base : W32) (r k n : Nat) : W32 := base + BitVec.ofNat 32 (r * (k / n))

/-- The scale bytes of a row: none without blocks. -/
def State.scaleBytes (s : State) (w : Wg) (half1 : Bool) (base : W32) (r k n : Nat) : List Byte :=
  if n = 0 then []
  else match s.lsRef w half1 (scaleAddr base r k n) (k / n) with
    | some ref => s.lsRead ref.wg ref.half1 ref.off (k / n)
    | none => []

/-- The k values of row r, under their block scales, each with the mark of a signalling NaN. -/
def State.rowValues (s : State) (w : Wg) (half1 : Bool) (g : Geom) (h : W64) (r k : Nat) (base : W32) (n : Nat) :
    List (Num × Bool) :=
  let x := s.rowBits w half1 g h r
  let sc := s.scaleBytes w half1 base r k n
  let t := Ty.ofCode .u32 (BitVec.ofNat 4 g.fmt)
  (List.range k).map (fun i =>
    let (v, sn) := t.value (x / 2 ^ (i * valueWidth g.fmt))
    (if n = 0 then v else scaled (sc.getD (i / n) 0).toNat v, sn))

/-! ### Cells (R233) -/

/-- The zero tile. -/
def Tile.zero : Tile := Vector.replicate 32 (Vector.replicate 32 0)

/-- Row i of a tile. -/
def Group.tileRow (g : Group) (t i : Nat) : Lanes := (((g.acc.getD t Tile.zero)[i]?).getD Lanes.zero)

/-- The bits of cell (i, j): 64 bits of a tile pair for a wide type. -/
def Group.cell (g : Group) (t : Nat) (wide : Bool) (i j : Nat) : Nat :=
  let word (t : Nat) : Nat := (((g.tileRow t i)[j]?).getD 0).toNat
  word t + (if wide then 2 ^ 32 * word (t + 1) else 0)

/-- Replace row i of a tile. -/
def Group.setTileRow (g : Group) (t i : Nat) (row : Lanes) : Group :=
  { g with acc := g.acc.set t ((g.acc.getD t Tile.zero).setIfInBounds i row) }

/-- Replace row i of a tile, or of a pair, by the cells' bits. -/
def Group.setCells (g : Group) (t : Nat) (wide : Bool) (i : Nat) (xs : List Nat) : Group :=
  let row (hi : Nat) : Lanes := tabulate 32 (fun j => BitVec.ofNat 32 (xs.getD j.val 0 / hi))
  let g1 := g.setTileRow t i (row 1)
  if wide then g1.setTileRow (t + 1) i (row (2 ^ 32)) else g1

/-- The row as it stands. -/
def Group.cells (g : Group) (t : Nat) (wide : Bool) (i : Nat) : List Nat := (List.range 32).map (g.cell t wide i)

/-! ### A pass (R83, R224) -/

/-- `write_cell`: the bits of a cell for an exact sum (R224). -/
def writeCell (cell : Ty) (sat : Bool) (v : Num) : Nat × Events :=
  match cell with
  | .fl f => roundTo f v .rne false
  | _ => writeInt true 32 sat (match v with
    | .fin neg man exp => (roundInt .rtz neg man exp).1
    | _ => 0)

/-- One cell of a pass: the sum of the old cell and the products, written once. -/
def passCell (cell : Ty) (sat : Bool) (c : Num × Bool) (as_ bs : List (Num × Bool)) : Nat × Events :=
  let ps := List.zipWith (fun a b => (mulNum a.1 b.1, a.2 || b.2)) as_ bs
  let inv := c.2 || ps.any (fun p => p.1.2 || p.2)
  let (v, e1) := exactSum (c.1 :: ps.map (fun p => p.1.1))
  let (x, e2) := writeCell cell sat v
  (x, Events.when inv Events.invalid ||| e1 ||| e2)

/-- The values of B at the positions that a sparse A row keeps (R228); all of them for a dense one. -/
def keptValues (sparse : Option (List (Nat × List (BitVec 2)))) (lane : Nat) (bs : List (Num × Bool)) : List (Num × Bool) :=
  match sparse with
  | none => bs
  | some l =>
    let ps := ((l.find? (fun x => x.1 == lane)).map (fun x => x.2)).getD []
    ((List.range ps.length).zip ps).map (fun x => bs.getD (x.1 / 2 * 4 + x.2.toNat) (.zero false, false))

/-- The block length and table of an operand under a descriptor. -/
def blocksOf (desc : Option (BitVec 256)) (b : Bool) (hB : W64) : W32 × Nat :=
  match desc with
  | none => (0, 0)
  | some x => let d := FBlock.of x
    if b then (hB.setWidth 32 + d.bsc, d.bblk) else (d.asc, d.ablk)

/-- Run a multiply pass (R224): rows are computed from the cells before the pass and written together. -/
def State.runMma (s : State) (w : Wg) (g : Group) (tile : Nat) (rows : List (Nat × W64)) (gA gB : BitVec 512) (hA hB : W64)
    (fmtA : BitVec 4) (desc : Option (BitVec 256)) (ow sat : Bool) (sparse : Option (List (Nat × List (BitVec 2)))) :
    Group × Events :=
  let a := Geom.ofReg gA
  let b := Geom.ofReg gB
  let cell := cellOf fmtA.toNat
  let k := kOf fmtA.toNat
  let kB := if sparse.isSome then 2 * k else k
  let (asc, an) := blocksOf desc false hB
  let (bsc, bn) := blocksOf desc true hB
  let cols := (List.range 32).map (fun j => s.rowValues w g.half1 b hB j kB bsc bn)
  rows.foldl (fun (acc : Group × Events) x =>
    let av := s.rowValues w g.half1 a hA x.2.toNat k asc an
    let old (j : Nat) : Num × Bool := if ow then (.zero false, false) else cell.value (g.cell tile cell.wide x.1 j)
    let out := ((List.range 32).zip cols).map (fun p => passCell cell sat (old p.1) av (keptValues sparse x.1 p.2))
    (acc.1.setCells tile cell.wide x.1 (out.map (fun o => o.1)), out.foldl (fun ev o => ev ||| o.2) acc.2)) (g, 0)

/-! ### Accumulator moves (R236) -/

/-- A conversion of R236: the value times 2^n, rounded into the target type. -/
def convertScaled (d s : Ty) (n : Int) (mode : Mode) (sat : Bool) (c : Nat) : Nat × Events :=
  match d, s with
  | .fl fd, .fl fs =>
    let (v, e1) := readF fs c
    let (r, e2) := roundTo fd (v.scale n) mode sat
    (r, e1 ||| e2)
  | .fl fd, s => roundTo fd ((Num.ofInt (readInt s.signed s.width c)).scale n) mode sat
  | d, .fl fs =>
    let (v, e1) := readF fs c
    let (r, e2) := floatToInt d.signed d.width mode (v.scale n)
    (r, e1 ||| e2)
  | d, s => writeInt d.signed d.width sat (readInt s.signed s.width c)

/-- The type of a geometry's elements. -/
def Geom.elemTy (g : Geom) : Ty := Ty.ofCode .u32 (BitVec.ofNat 4 g.fmt)

/-- The elements that move for a mask of rows, ascending. -/
def rowsElems (m : W32) : List Nat := ((lanesIn m).map (fun l => (List.range 32).map (fun j => 32 * l + j))).flatten

/-- Read an element of the tile operand of an accumulator move. An offset outside tile space reads a free value. -/
def State.moveRead (s : State) (w : Wg) (g : Group) (geo : Geom) (h : W64) (i : Nat) : Nat :=
  match geo.eval h i with
  | .ls _ _ => s.elemRead w g.half1 geo h i
  | .tile t r c => g.cell t false r c
  | .reg v l => (((g.x.v v)[l]?).getD 0).toNat
  | .nowhere _ => (Config.strayCell (s.fresh + i)).toNat % 2 ^ geo.eb
  | .global _ _ => 0

/-- Write an element of the tile operand of an accumulator move. -/
def State.moveWrite (s : State) (w : Wg) (grp : Nat) (geo : Geom) (h : W64) (i x : Nat) : State :=
  match geo.eval h i with
  | .ls _ _ =>
    (match s.group? grp with
      | some g => (match s.elemRef w g.half1 geo h i with
        | some (r, bit) =>
          let n := elemBytes bit geo.eb
          s.lsWrite r.wg r.half1 r.off (toBytes n (setBits (ofBytes (s.lsRead r.wg r.half1 r.off n)) bit geo.eb x))
        | none => s)
      | none => s)
  | .tile t r c => s.modGroup grp (fun g => g.setTileRow t r ((g.tileRow t r).setIfInBounds c (BitVec.ofNat 32 x)))
  | .reg v l => s.modSlice grp false (fun sl => sl.setV v (1#32 <<< l) (Vector.replicate 32 (BitVec.ofNat 32 x)))
  | _ => s

/-- Run `ACLD`: every element is read before a cell is written. -/
def State.runAcld (s : State) (w : Wg) (g : Group) (tile : Nat) (mask : W32) (reg : BitVec 512) (h : W64) (cell : BitVec 4)
    (n : Int) (mode : Mode) (sat : Bool) : State × Events :=
  let geo := Geom.ofReg reg
  let t := Ty.ofCode (.fl .f32) cell
  let row (l : Nat) : List (Nat × Events) :=
    (List.range 32).map (fun j => convertScaled t geo.elemTy n mode sat (s.moveRead w g geo h (32 * l + j)))
  let (g1, ev) := (lanesIn mask).foldl (fun (acc : Group × Events) l =>
    let r := row l
    (acc.1.setCells tile t.wide l (r.map (fun x => x.1)), r.foldl (fun e x => e ||| x.2) acc.2)) (g, 0)
  ({ s.modGroup g.id (fun _ => g1) with fresh := s.fresh + 1024 }, ev)

/-- Run `ACST`: elements are written in linear order. -/
def State.runAcst (s : State) (w : Wg) (g : Group) (tile : Nat) (mask : W32) (reg : BitVec 512) (h : W64) (cell : BitVec 4)
    (n : Int) (mode : Mode) (sat : Bool) : State × Events :=
  let geo := Geom.ofReg reg
  let t := Ty.ofCode (.fl .f32) cell
  (rowsElems mask).foldl (fun (acc : State × Events) i =>
    let (x, ev) := convertScaled geo.elemTy t n mode sat (g.cell tile t.wide (i / 32) (i % 32))
    (acc.1.moveWrite w g.id geo h i x, acc.2 ||| ev)) (s, 0)

/-! ### The pass queue (R226, R238) -/

/-- Is a fence point of a slice towards a path open? -/
def State.fencesTo (s : State) (e : Env) (p : PathCode) : Exec (List FencePoint) := do
  let sl ← curSlice e
  pure (sl.fences.filter (fun f => f.later == p && s.pointOpen e.g.core e.g.sub f))

/-- Room for n passes in the queue and in the passes counter (R226, R164). -/
def passRoom (e : Env) (n : Nat) : Exec Unit := do
  let s ← get
  let sl ← curSlice e
  holdIf (decide (8 < ((s.core e.g.core).sub e.g.sub).passes.length + n)) .passFull
  holdIf (decide (63 < sl.passes + n)) .counterFull

/-- Queue one pass: it waits for the open fence points towards the matrix path. -/
def addPass (e : Env) (op : PassOp) (cycles : Nat) (tiles vregs : List Nat) : Exec Unit := do
  let s ← get
  let fences ← s.fencesTo e .matrix
  let p : Pass := { serial := s.nextId, grp := e.cur.grp, pc := e.path.pc, op := op, cycles := cycles, fences := fences,
                    tiles := tiles, vregs := vregs }
  modify (fun s => { s.modCore e.g.core (fun k => k.modSub e.g.sub (fun b => { b with waiting := b.waiting ++ [p] })) with
    nextId := s.nextId + 1 })
  modSl e (fun sl => { sl with passes := sl.passes + 1 })

/-- Hold while a pass or move of the slice that names one of the tiles is queued (R238). -/
def tilesReady (e : Env) (tiles : List Nat) : Exec Unit := do
  let s ← get
  holdIf (((s.core e.g.core).sub e.g.sub).passes.any (fun p => p.grp == e.cur.grp && p.tiles.any tiles.contains)) .tileBusy

/-- The tiles that a code names in a cell type. -/
def tilesOf (code : BitVec 8) (wide : Bool) : List Nat := if wide then [regNo code, regNo code + 1] else [regNo code]

/-- The odd tile of a pair beyond the allocation (R223, R233). -/
def pairCond (e : Env) (code : BitVec 8) (wide : Bool) : List Cond :=
  if wide && decide (e.g.acc.length = regNo code + 1) then [{ cause := 0x06, aux0 := BitVec.ofNat 64 (code.toNat + 1) }] else []

/-! ### The multiply instructions (R223 to R228) -/

/-- What a multiply instruction reads at issue. -/
structure MulIn where
  rows   : List (Nat × W64)
  classes : List (W64 × List Nat)
  hA     : W64
  desc   : Option (BitVec 256)
  fmtA   : Nat
  fmtB   : Nat
  sparse : Bool
  deriving DecidableEq, Repr

/-- The classes of quarters with equal B handles, by their lowest quarter (R224). -/
def classesOf (handle : Nat → W64) : List Nat → List (W64 × List Nat)
  | [] => []
  | q :: l =>
    let rest := classesOf handle l
    match rest.find? (fun c => c.1 == handle q) with
    | some c => (handle q, q :: c.2) :: rest.filter (fun c => c.1 != handle q)
    | none => (handle q, [q]) :: rest

/-- The quarters with an active lane. -/
def quartersOf (m : W32) : List Nat := (List.range 4).filter (fun q => (m >>> (8 * q)) &&& 0xFF != 0)

/-- A 0x29 of a multiply operand (R213). -/
def mulReject (engine operand reason : Nat) (code : BitVec 8) : Cond :=
  { cause := 0x29, aux0 := BitVec.ofNat 64 (engine + operand * 2 ^ 4 + reason * 2 ^ 8 + code.toNat * 2 ^ 16) }

/-- The result of an acceptance test under the agreement of formats (R222): a mismatch has reason 7, behind the conditions
that Table 8.6 tests before the value type. -/
def agree (r : Accept) (ok : Bool) : Accept :=
  if ok then r else match r with
    | .reject 5 => .reject 7
    | .reject n => .reject n
    | _ => .reject 7

/-- The rejection of an acceptance result. -/
def Accept.reason? : Accept → Option Nat
  | .reject r => some r
  | _ => none
/-- The permute cost of an acceptance result (R212). -/
def Accept.cost : Accept → Nat
  | .convert c => c
  | _ => 0

/-- The acceptance of A (R215). -/
def MulIn.acceptA (x : MulIn) (a : Geom) (ok : Bool) : Accept := agree (a.acceptGather x.hA false) (!ok || a.fmt % 16 == x.fmtA)
/-- The acceptance of B under a handle (R216, R228). -/
def MulIn.acceptB (x : MulIn) (b : Geom) (h : W64) (ok : Bool) : Accept :=
  agree (b.acceptGather h true (if x.sparse then 2048 else 1024)) (!ok || b.fmt % 16 == x.fmtB)

/-- The lanes of some quarters. -/
def lanesOfQuarters (m : W32) (qs : List Nat) : List Nat := (lanesIn m).filter (fun l => qs.contains (l / 8))

/-- The places outside local store that the passes would read (R153, R225, R230): lane and address, by lane. -/
def MulIn.stray (x : MulIn) (s : State) (e : Env) (m : W32) (a b : Geom) (okA okB : Bool) : List (Nat × W32) :=
  let k := kOf x.fmtA
  let (asc, an) := blocksOf x.desc false 0
  let bad (addr : W32) (n : Nat) : Option W32 := if (s.lsRef e.w e.g.half1 addr n).isNone then some addr else none
  let rowsA := if !okA then [] else x.rows.filterMap (fun p =>
    if a.rowCount ≤ p.2.toNat then none
    else ((s.rowBad e.w e.g.half1 a x.hA p.2.toNat).or
      (if an = 0 then none else bad (scaleAddr asc p.2.toNat k an) (k / an))).map (fun v => (p.1, v)))
  let kB := if x.sparse then 2 * k else k
  let colsB := if !okB then [] else (x.classes.map (fun c =>
    let (bsc, bn) := blocksOf x.desc true c.1
    let r := (List.range 32).findSome? (fun j => (s.rowBad e.w e.g.half1 b c.1 j).or
      (if bn = 0 then none else bad (scaleAddr bsc j kB bn) (kB / bn)))
    match r with
    | some v => (lanesOfQuarters m c.2).map (fun l => (l, v))
    | none => [])).flatten
  (lanesIn m).filterMap (fun l => (rowsA ++ colsB).find? (fun p => p.1 == l))

/-- The 0x20 of a multiply instruction. -/
def strayCond (l : List (Nat × W32)) : List Cond :=
  match l with
  | [] => []
  | p :: _ => [{ cause := 0x20, aux0 := (maskOfLanes (l.map (fun x => x.1))).setWidth 64, aux1 := p.2.setWidth 64 }]

/-- The positions that the metadata of row r keeps (R228). -/
def State.metadata (s : State) (w : Wg) (half1 : Bool) (base : W32) (r k : Nat) : Option (List (BitVec 2)) :=
  (s.lsRef w half1 (base + BitVec.ofNat 32 (r * (k / 4))) (k / 4)).map (fun ref =>
    let x := ofBytes (s.lsRead ref.wg ref.half1 ref.off (k / 4))
    (List.range k).map (fun i => BitVec.ofNat 2 (x / 4 ^ i)))

/-- The first group of a row whose positions do not rise. -/
def badGroup (ps : List (BitVec 2)) : Option Nat :=
  (List.range (ps.length / 2)).find? (fun g => decide ((ps.getD (2 * g + 1) 0) ≤ (ps.getD (2 * g) 0)))

/-- The sparse conditions of `MMSP`: 0x12 and 0x30, the lanes whose metadata lies outside local store, and the positions by lane. -/
def MulIn.sparseMeta (x : MulIn) (s : State) (e : Env) (m : W32) (a : Geom) (imm : W32) :
    List Cond × List (Nat × W32) × List (Nat × List (BitVec 2)) :=
  let base := x.hA.setWidth 32 + imm
  let k := kOf x.fmtA
  let live := x.rows.filter (fun p => decide (p.2.toNat < a.rowCount))
  let rd := live.map (fun p => (p, s.metadata e.w e.g.half1 base p.2.toNat k))
  let stray := rd.filterMap (fun q => if q.2.isNone then
    some (q.1.1, base + BitVec.ofNat 32 (q.1.2.toNat * (k / 4))) else none)
  let got := rd.filterMap (fun q => q.2.map (fun ps => (q.1, ps)))
  let bad := got.filterMap (fun q => (badGroup q.2).map (fun n => (q.1, n)))
  ((if base.toNat % 16 = 0 then [] else [{ cause := 0x12, aux0 := base.setWidth 64, aux1 := m.setWidth 64 }]) ++
    (match bad with
      | [] => []
      | p :: _ => [{ cause := 0x30, aux0 := BitVec.ofNat 64 (p.1.1 + p.2 * 2 ^ 8), aux1 := p.1.2 }]),
   stray, got.map (fun q => (q.1.1, q.2)))

/-- The bank words of the metadata of the rows that a sparse multiply names. -/
def MulIn.metaWords (x : MulIn) (s : State) (e : Env) (imm : W32) : List Place :=
  let n := kOf x.fmtA / 4
  (x.rows.map (fun p =>
    match s.lsRef e.w e.g.half1 (x.hA.setWidth 32 + imm + BitVec.ofNat 32 (p.2.toNat * n)) n with
    | some r => lsWords r.wg r.half1 r.off n
    | none => [])).flatten

/-- The format-block descriptor that a multiply names. -/
def Env.descOf (e : Env) (code : BitVec 8) : Option (BitVec 256) :=
  if RC.of code = .fb then some ((e.g.fb[regNo code]?).getD 0) else none

/-- The lowest index of the lanes at or beyond the extent, and their mask (R225). -/
def chkCond (rows : List (Nat × W64)) (ext : Nat) : List Cond :=
  match rows.filter (fun p => decide (ext ≤ p.2.toNat)) with
  | [] => []
  | p :: l => [{ cause := 0x33, aux0 := (maskOfLanes ((p :: l).map (fun x => x.1))).setWidth 64,
                 aux1 := l.foldl (fun m x => if x.2 < m then x.2 else m) p.2 }]

/-- The extra die cycles of an operand of some bits that is convertible at cost c (R212). -/
def permuteCycles (c bits : Nat) : Nat := (c * (bits / 8) + 1023) / 1024

/-- Issue a multiply instruction whose rows and classes are known (R224 to R230). -/
def issueMul (w : WFrame) (x : MulIn) (e : Env) : Exec Unit := do
  let m := e.active w.f.guard
  if x.sparse then do
    let s ← get
    let open_ ← s.fencesTo e .matrix
    holdIf (!open_.isEmpty) .fence
    holdIf (s.placesBehind (x.metaWords s e w.imm)) .bankQueue
  passRoom e x.classes.length
  let s ← get
  let wide := x.fmtA == 7
  let reason := x.desc.bind (fun d => fblockReason d (if x.sparse then 2 else 1))
  let valid := reason.isNone
  let a := Geom.ofReg (e.geomReg w.srcE)
  let b := Geom.ofReg (e.geomReg w.srcD)
  let ra := x.acceptA a valid
  let rbs := x.classes.map (fun c => x.acceptB b c.1 valid)
  let rejects := (ra.reason?.map (fun r => mulReject 1 0 r w.srcE)).toList ++
    (rbs.filterMap (fun r => r.reason?)).map (fun r => mulReject 2 1 r w.srcD)
  let okA := ra.reason?.isNone
  let okB := rbs.all (fun r => r.reason?.isNone)
  let (mc, mstray, kept) := if x.sparse && okA && valid then x.sparseMeta s e m a w.imm else ([], [], [])
  let stray := if valid then x.stray s e m a b okA okB else []
  let allStray := (lanesIn m).filterMap (fun l => (stray ++ mstray).find? (fun p => p.1 == l))
  raiseLowest e (mc.filter (fun c => c.cause != 0x12 || allStray.isEmpty) ++ strayCond allStray ++ rejects ++
    (match reason with
      | some r => [{ cause := 0x31, aux0 := BitVec.ofNat 64 (r + w.f.srcC.toNat * 2 ^ 8) }]
      | none => []) ++
    (if w.f.variant.getLsbD 0 && okA then chkCond x.rows a.rowCount else []))
  let ext := a.rowCount
  let live := x.rows.filter (fun p => decide (p.2.toNat < ext))
  (x.classes.zip rbs).forM (fun c => do
    let rows := live.filter (fun p => c.1.2.contains (p.1 / 8))
    let cycles := passCycles x.fmtA + permuteCycles ra.cost (rows.length * a.rowLen * a.eb) +
      permuteCycles c.2.cost (32 * b.rowLen * b.eb)
    addPass e (.mma (regNo w.f.dst) rows (e.geomReg w.srcE) (e.geomReg w.srcD) x.hA c.1.1 (BitVec.ofNat 4 x.fmtA)
      (BitVec.ofNat 4 x.fmtB) x.desc (w.f.variant.getLsbD 1) (w.f.variant.getLsbD 2) (if x.sparse then some kept else none))
      cycles (tilesOf w.f.dst wide) [])

/-- The operand formats: the frame's type, or the descriptor's. -/
def mulFormats (w : WFrame) (desc : Option (BitVec 256)) : Nat × Nat :=
  match desc with
  | some d => ((FBlock.of d).afmt, (FBlock.of d).bfmt)
  | none => let t := (mmType w).getD 9; (t, t)

/-- The A handle of srcF. -/
def srcSz (e : Env) (code : BitVec 8) : W64 := if RC.of code = .s then e.sl.s (regNo code) else 0

/-- What a multiply whose formats come from a descriptor asks of its modifiers and its tile (R222, R223): `.sat` on integers alone,
the even tile of a pair, both tiles allocated. -/
def descConds (e : Env) (w : WFrame) (sparse : Bool) (d : BitVec 256) : List Cond :=
  let b := FBlock.of d
  let ints := [1, 2].contains b.afmt && [1, 2].contains b.bfmt
  let wide := (fblockReason d (if sparse then 2 else 1)).isNone && b.afmt == 7
  (if (w.f.variant.getLsbD 2 && !ints) || (wide && w.f.dst.toNat % 2 == 1) then [{ cause := 0x02 }] else []) ++
  pairCond e w.f.dst wide

/-- The decode conditions of a multiply (R13, R59, R223): its pair of tiles follows from the type, or from the descriptor. -/
def beginMul (e : Env) (sp : WSpec) (w : WFrame) (sparse : Bool) : Exec Unit := do
  beginW e sp w true (pairCond e w.f.dst (mmType w == some 7))
  raiseLowest e (((e.descOf w.f.srcC).map (descConds e w sparse)).getD [])

/-- `MMA` and `MMSP`: row indices and B handles come from vectors (R224). -/
def mulVec (w : WFrame) (sparse : Bool) (e : Env) : Exec Unit := do
  beginMul e (specMma w sparse) w sparse
  let m := e.active w.f.guard
  if m = 0 then pure ()
  else do
    let va := e.sl.v (regNo w.f.srcA)
    let vb := e.sl.v (regNo w.f.srcB)
    let desc := e.descOf w.f.srcC
    let (fa, fb) := mulFormats w desc
    issueMul w { rows := (lanesIn m).map (fun l => (l, ((va[l]?).getD 0).setWidth 64)),
                 classes := classesOf (fun q => ((vb[8 * q]?).getD 0).setWidth 64) (quartersOf m),
                 hA := srcSz e w.srcF, desc := desc, fmtA := fa, fmtB := fb, sparse := sparse } e

/-- `MMA`. -/
def execMma (w : WFrame) (s : State) : Host.Outcome State Fault Refusal := issueW w.f.guard (mulVec w false) s
/-- `MMSP`. -/
def execMmsp (w : WFrame) (s : State) : Host.Outcome State Fault Refusal := issueW w.f.guard (mulVec w true) s

/-- `MMAD` (R227): rows r0 + l, one B handle. -/
def execMmad (w : WFrame) (s : State) : Host.Outcome State Fault Refusal :=
  issueW w.f.guard (fun e => do
    beginMul e (specMmad w) w false
    let m := e.active w.f.guard
    if m = 0 then pure ()
    else do
      let r0 ← srcS e w.f.srcA
      let hB ← srcS e w.f.srcB w.lit
      let desc := e.descOf w.f.srcC
      let (fa, fb) := mulFormats w desc
      issueMul w { rows := (lanesIn m).map (fun l => (l, r0 + BitVec.ofNat 64 l)), classes := [(hB, quartersOf m)],
                   hA := srcSz e w.srcF, desc := desc, fmtA := fa, fmtB := fb, sparse := false } e) s

/-! ### FBSET (R232) -/

/-- Write a descriptor. -/
def setFblock (e : Env) (code : BitVec 8) (x : BitVec 256) : Exec Unit :=
  modGrp e (fun g => { g with fb := g.fb.setIfInBounds (regNo code) x })

/-- The load form: a 32-byte image from memory or local store. -/
def fblockLoad (w : WFrame) (e : Env) : Exec Unit := do
  let m := e.active w.f.guard
  let va := e.sl.s (regNo w.f.srcA) + w.imm.signExtend 64
  let sc := Scope.ofCode (w.f.variant.toNat % 8)
  let s ← get
  if w.wflags.getLsbD 0 then do
    let open_ ← s.fencesTo e .matrix
    holdIf (!open_.isEmpty) .fence
    lsReady e
    let addr : W32 := va.setWidth 32
    match s.lsRef e.w e.g.half1 addr 32 with
    | none => raise e 0x20 (m.setWidth 64) (addr.setWidth 64)
    | some r => do
      trapIf e (addr.toNat % 32 != 0) 0x12 (addr.setWidth 64) (m.setWidth 64)
      enterLs e { kind := .load, dst := .fblock (regNo w.f.dst), ext := { size := 16, signed := false },
                  accs := lsRange addr r [] 32, scope := sc, order := orderOf w.f }
  else do
    let _ ← placesOf e [(32, va)] 32 .load (some m)
    let ps ← placesOf e ((piecesOf va 32).map (fun p => (p.1, p.2.1))) 1 .load (some m)
    noPoison ps
    enter e { kind := .load, dst := .fblock (regNo w.f.dst), ext := { size := 8, signed := false },
              accs := markPeers (ps.map (laneAcc 8 noBytes noBytes)), scope := sc, order := orderOf w.f }

/-- `FBSET`: legal in the X-slice alone (R229). -/
def execFbset (w : WFrame) (s : State) : Host.Outcome State Fault Refusal :=
  issueW w.f.guard (fun e => do
    beginW e (specFbset w) w true
    if e.active w.f.guard = 0 then pure ()
    else if bit5 w.f then fblockLoad w e
    else do
      let lo := e.sl.s (regNo w.f.srcA)
      let mid ← srcS e w.f.srcB w.lit
      setFblock e w.f.dst (0#64 ++ srcSz e w.f.srcC ++ mid ++ lo)) s

/-! ### The accumulator instructions (R233 to R237) -/

/-- The cell type of an accumulator instruction. -/
def cellTyOf (w : WFrame) : Ty := Ty.ofCode (.fl .f32) w.f.ty

/-- `ACZERO`. -/
def execAczero (w : WFrame) (s : State) : Host.Outcome State Fault Refusal :=
  issueW w.f.guard (fun e => do
    let wide := (cellTyOf w).wide
    beginW e (specAczero w) w true (pairCond e w.f.dst wide)
    let m := e.active w.f.guard
    if m = 0 then pure ()
    else do
      tilesReady e (tilesOf w.f.dst wide)
      modGrp e (fun g => (lanesIn m).foldl (fun g l => g.setCells (regNo w.f.dst) wide l []) g)) s

/-- The reason for which a tile operand of `ACLD` or `ACST` is rejected (R236). -/
def moveReason (g : Geom) (h : W64) (cell : Ty) : Option Nat :=
  if !g.ok then some 1
  else if g.space = 0 then some 2
  else if !g.handleOk h then some 4
  else if g.size ≠ 1024 then some 6
  else if g.fmt % 16 = 0 ∨ 16 ≤ g.fmt ∨ (4 ≤ g.space ∧ cell.wide) then some 7
  else none

/-- The conditions of a tile operand: 0x06 for a register of the elements that move, 0x20 over the whole operand (R202), whose lanes
are the rows with an element outside, and 0x32 with the number of the tile, as R236 says (DEDUCED, notes/assumptions/92.md). -/
def moveConds (s : State) (e : Env) (g : Geom) (h : W64) (m : W32) : List Cond :=
  let es := rowsElems m
  let tile : List Cond := if g.space = 4 ∧ e.g.acc.length ≤ h.toNat % 16 then
    [{ cause := 0x32, aux0 := BitVec.ofNat 64 (h.toNat % 16) }] else []
  let regs : List Cond := if g.space = 5 then
    (match es.findSome? (fun i => match g.eval h i with
      | .reg v _ => if v < e.g.x.vreg.length then none else some (v : Int)
      | .nowhere v => some v
      | _ => none) with
      | some v => [{ cause := 0x06, aux0 := BitVec.ofInt 64 v }]
      | none => [])
    else []
  let stray := if g.space = 4 ∨ g.space = 5 then [] else
    (List.range g.size).filterMap (fun i => if (s.elemRef e.w e.g.half1 g h i).isNone then some (i / 32, g.lsAddr h i) else none)
  regs ++ strayCond stray ++ tile

/-- Issue an accumulator move (R236). -/
def issueMove (w : WFrame) (load : Bool) (e : Env) : Exec Unit := do
  let cell := (cellTyOf w)
  beginW e (specAcmove w) w true (pairCond e w.f.dst cell.wide)
  let m := e.active w.f.guard
  if m = 0 then pure ()
  else do
    passRoom e 1
    let s ← get
    let reg := e.geomReg w.srcD
    let g := Geom.ofReg reg
    let h := srcSz e w.f.srcA
    match moveReason g h cell with
    | some r => raise e 0x29 (BitVec.ofNat 64 (1 + r * 2 ^ 8 + w.srcD.toNat * 2 ^ 16))
    | none => do
      raiseLowest e (moveConds s e g h m)
      let vregs := if g.space = 5 then ((rowsElems m).filterMap (fun i => match g.eval h i with
        | .reg v _ => some v
        | _ => none)).eraseDups else []
      holdIf (vregs.any (fun v => s.busy e (.vreg false) (BitVec.ofNat 8 v))) .scoreboard
      let code : BitVec 4 := if w.f.ty = 0 then 8 else w.f.ty
      let n := (w.imm.setWidth 8).toInt
      let mode := w.f.variant.extractLsb' 0 2
      let sat := w.f.variant.getLsbD 2
      let op : PassOp := if load then .acld (regNo w.f.dst) m reg h code n mode sat
                         else .acst (regNo w.f.dst) m reg h code n mode sat
      addPass e op (if cell.wide then 32 else 16)
        (tilesOf w.f.dst cell.wide ++ (if g.space = 4 then [h.toNat % 16] else [])) vregs

/-- `ACLD`. -/
def execAcld (w : WFrame) (s : State) : Host.Outcome State Fault Refusal := issueW w.f.guard (issueMove w true) s
/-- `ACST`. -/
def execAcst (w : WFrame) (s : State) : Host.Outcome State Fault Refusal := issueW w.f.guard (issueMove w false) s

/-- `ACRD` (R235). -/
def execAcrd (w : WFrame) (s : State) : Host.Outcome State Fault Refusal :=
  issueW w.f.guard (fun e => do
    let wide := (cellTyOf w).wide
    beginW e (specAcrd w) w true (pairCond e w.f.srcA wide)
    let m := e.active w.f.guard
    if m ≠ 0 then tilesReady e (tilesOf w.f.srcA wide)
    let r := (← srcS e w.f.srcB w.lit).toNat % 32
    let col := w.f.variant.getLsbD 3
    let t := regNo w.f.srcA
    dstV e wide m w.f.dst (tabulate 32 (fun l =>
      BitVec.ofNat 64 (if col then e.g.cell t wide l.val r else e.g.cell t wide r l.val)))) s

/-- `ACWR` (R235). -/
def execAcwr (w : WFrame) (s : State) : Host.Outcome State Fault Refusal :=
  issueW w.f.guard (fun e => do
    let wide := (cellTyOf w).wide
    beginW e (specAcwr w) w true (pairCond e w.f.dst wide)
    let m := e.active w.f.guard
    if m ≠ 0 then tilesReady e (tilesOf w.f.dst wide)
    let v ← srcV e (cellTyOf w) w.f.srcA
    let r := (← srcS e w.f.srcB w.lit).toNat % 32
    let t := regNo w.f.dst
    modGrp e (fun g =>
      if w.f.variant.getLsbD 3 then
        (lanesIn m).foldl (fun g l => g.setCells t wide l ((g.cells t wide l).set r (laneNat v l))) g
      else
        g.setCells t wide r ((List.range 32).map (fun l => if m.getLsbD l then laneNat v l else g.cell t wide r l)))) s

/-- The largest magnitude among values of a float format; a NaN wins. -/
def maxMagnitude (f : Fmt) (xs : List Nat) : Nat :=
  let n := f.width - 1
  if xs.any (fun x => (f.decode x).1.isNan) then f.nanCode else xs.foldl (fun m x => max m (x % 2 ^ n)) 0

/-- `ACMAX` (R237). -/
def execAcmax (w : WFrame) (s : State) : Host.Outcome State Fault Refusal :=
  issueW w.f.guard (fun e => do
    let wide := (cellTyOf w).wide
    beginW e (specAcmax w) w true (pairCond e w.f.srcB wide)
    let m := e.active w.f.guard
    if m = 0 then pure ()
    else do
      tilesReady e (tilesOf w.f.srcB wide)
      let xs := ((List.range 32).map (e.g.cells (regNo w.f.srcB) wide)).flatten
      let r := match (cellTyOf w) with
        | .fl f => maxMagnitude f xs
        | _ => xs.foldl (fun a x => max a (readInt true 32 x).natAbs) 0
      dstS e m w.f.dst (BitVec.ofNat 64 r)) s

/-! ### Events (R226, R241) -/

/-- MATRIX_PASS_START: the unit is free and the first waiting pass's fence points are closed (R186). -/
def execMatrixPassStart (core sub : Nat) (s : State) : Host.Outcome State Fault Refusal :=
  let b := (s.core core).sub sub
  match b.running, b.waiting with
  | none, p :: l =>
    if p.fences.any (s.pointOpen core sub) then .next s
    else .next (s.modCore core (fun k => k.modSub sub (fun b =>
      { b with running := some (p, (s.die (dieOf core)).dcyc + p.cycles), waiting := l })))
  | _, _ => .next s

/-- What a pass or move does when it completes: its results and its events. -/
def State.runPass (s : State) (w : Wg) (g : Group) (op : PassOp) : State × Events :=
  match op with
  | .mma tile rows gA gB hA hB fmtA _ desc ow sat sparse =>
    let (g', ev) := s.runMma w g tile rows gA gB hA hB fmtA desc ow sat sparse
    (s.modGroup g.id (fun _ => g'), ev)
  | .acld tile mask reg h cell n mode sat => s.runAcld w g tile mask reg h cell n (Mode.ofCode mode.toNat) sat
  | .acst tile mask reg h cell n mode sat => s.runAcst w g tile mask reg h cell n (Mode.ofCode mode.toNat) sat

/-- The bank words of an element of a local-store geometry. -/
def State.elemWords (s : State) (w : Wg) (half1 : Bool) (g : Geom) (h : W64) (i : Nat) : List Place :=
  match s.elemRef w half1 g h i with
  | some (r, bit) => lsWords r.wg r.half1 r.off (elemBytes bit g.eb)
  | none => []

/-- The bank words of the scale bytes of a row. -/
def State.scaleWords (s : State) (w : Wg) (half1 : Bool) (base : W32) (r k n : Nat) : List Place :=
  if n = 0 then []
  else match s.lsRef w half1 (scaleAddr base r k n) (k / n) with
    | some ref => lsWords ref.wg ref.half1 ref.off (k / n)
    | none => []

/-- The bank words that a pass or move reads or writes. -/
def State.passWords (s : State) (w : Wg) (g : Group) (op : PassOp) : List Place :=
  match op with
  | .mma _ rows gA gB hA hB fmtA _ desc _ _ sparse =>
    let a := Geom.ofReg gA
    let b := Geom.ofReg gB
    let k := kOf fmtA.toNat
    let kB := if sparse.isSome then 2 * k else k
    let (asc, an) := blocksOf desc false hB
    let (bsc, bn) := blocksOf desc true hB
    (rows.map (fun x => ((a.rowElems x.2.toNat).map (s.elemWords w g.half1 a hA)).flatten ++
      s.scaleWords w g.half1 asc x.2.toNat k an)).flatten ++
    ((List.range 32).map (fun j => ((b.rowElems j).map (s.elemWords w g.half1 b hB)).flatten ++
      s.scaleWords w g.half1 bsc j kB bn)).flatten
  | .acld _ mask reg h _ _ _ _ => ((rowsElems mask).map (s.elemWords w g.half1 (Geom.ofReg reg) h)).flatten
  | .acst _ mask reg h _ _ _ _ => ((rowsElems mask).map (s.elemWords w g.half1 (Geom.ofReg reg) h)).flatten

/-- Does a pass stand behind requests in the banks that it reads or writes (R158)? -/
def State.passBehind (s : State) (p : Pass) : Bool :=
  match s.group? p.grp with
  | none => false
  | some g => match s.wg? g.wg with
    | none => false
    | some w => s.placesBehind (s.passWords w g p.op)

/-- MATRIX_PASS_COMPLETE: the cells are written, the passes counter falls, the events are recorded (R241). -/
def execMatrixPassComplete (core sub : Nat) (s : State) : Host.Outcome State Fault Refusal :=
  match ((s.core core).sub sub).running with
  | none => .next s
  | some (p, due) =>
    if (s.die (dieOf core)).dcyc < due || s.passBehind p then .next s
    else
      let s1 := s.modCore core (fun k => k.modSub sub (fun b => { b with running := none }))
      match s.group? p.grp with
      | none => .next s1
      | some g =>
        match s.wg? g.wg with
        | none => .next s1
        | some w =>
          let (s2, ev) := s1.runPass w g p.op
          let s3 := s2.modSlice g.id false (fun sl => { sl with passes := sl.passes - 1 })
          .next (s3.record g false w.region ev p.pc)

end Sys2Proof.Machine
end

