-- ==== Sys2Proof/Machine/Engine.lean ====
section
/-!
DEFINITION. What every engine command shares (spec 10_copy.md R242 to R253, R262 to R265; 13_die.md R321;
21_fabric.md R446 to R450): engine identity, room, promises, the checks and translations at issue, reading and writing
operands while the command runs, requests to peers, status entries and completion.
-/
namespace Sys2Proof.Machine

/-! ### Engines -/

/-- The places of an engine's queue (R242, R321, R447). -/
def engineLen : EngineId → Nat
  | .copy _ _ => 32
  | _ => 64

/-- The die an engine stands on. -/
def engineDie : EngineId → Nat
  | .copy c _ => dieOf c
  | .psel c => c / 8
  | .egress d => d

/-- The 16-bit identity of a tile task (R396). -/
def engineIdent : EngineId → Nat
  | .copy c u => 2 ^ 12 + dieOf c * 2 ^ 9 + clusterOf c % 8 * 2 ^ 6 + c % 8 * 2 ^ 3 + u
  | .psel c => 2 * 2 ^ 12 + c / 8 * 2 ^ 9 + c % 8 * 2 ^ 6
  | .egress d => 3 * 2 ^ 12 + d * 2 ^ 9

/-- The kind code of a command (Table 10.4). -/
def CmdKind.code : CmdKind → Nat
  | .cpy => 0
  | .cpyg => 1
  | .cpys => 2
  | .cpyz _ _ => 3
  | .cpym => 4
  | .psel => 8
  | .cpyr => 9
  | .strep => 10
  | .fcoll _ _ => 11

/-- The queue of a tile task in a record (Table 18.1): the page-selection engine has one. -/
def Command.queueCode (c : Command) : Nat :=
  match c.engine with
  | .psel _ => 2
  | _ => if c.prio then 1 else 0

/-- The last command of a queue: of the queue itself, or the running one when it came from there. -/
def Engine.tail? (e : Engine) (prio : Bool) : Option Command :=
  ((if prio then e.prio else e.normal).getLast?).or (e.running.filter (fun c => c.prio == prio))

/-- The promise at the tail of a queue (R243). -/
def Engine.tail (e : Engine) (prio : Bool) : Nat := ((e.tail? prio).map (fun c => c.promise.toNat)).getD 0

/-- A trace record of a command (R394, R398). -/
def State.traceCmd (s : State) (c : Command) (type payload : Nat) : State :=
  s.trace c.region { type := type, detail := c.kind.code, queue := c.queueCode, engine := engineIdent c.engine,
                     origin := originOf c.core c.grpNum c.a, seq := c.seq.toNat, corr := c.corr,
                     ptb := s.ptb (engineDie c.engine), payload := payload }

/-- A trace record that is written when the trace bit of the command's number is set. -/
def State.traceCmdIf (s : State) (c : Command) (type payload : Nat) : State :=
  if c.corr.getLsbD 31 then s.traceCmd c type payload else s

/-! ### Operands at issue (R247, R248, R249) -/

/-- What resolving operands gives: translations, failed conditions, walks to wait for, pages to fill, the farthest row of
Table 10.3. -/
structure Resolve where
  xlat  : List (Nat × Place) := []
  conds : List Cond := []
  walks : List WalkReq := []
  pages : List W64 := []
  rank  : Nat := 0
  deriving DecidableEq, Repr

/-- Join two results. -/
def Resolve.and (a b : Resolve) : Resolve :=
  { xlat := a.xlat ++ b.xlat.filter (fun x => a.xlat.all (fun y => y.1 != x.1)), conds := a.conds ++ b.conds,
    walks := a.walks ++ b.walks.filter (fun w => !a.walks.contains w), pages := b.pages.foldl insertW64 a.pages,
    rank := max a.rank b.rank }

/-- The row of Table 10.3 for a place in memory. -/
def memRank (die : Nat) (p : Place) : Nat :=
  match p with
  | .mem pa => if homeDie pa = some die then 2 else 3
  | _ => 3

/-- lat and w of a row of Table 10.3. -/
def latW (rank : Nat) : Nat × Nat :=
  match rank with
  | 0 => (32, 256)
  | 1 => (400, 128)
  | 2 => (800, 64)
  | _ => (1600, 32)

/-- The 64 KiB pages of byte ranges, each with the first address that touches it. -/
def pagesTouched (l : List (W64 × Nat)) : List (Nat × W64) :=
  let ps := (l.map (fun r =>
    let first := r.1.toNat / 2 ^ 16
    let last := (r.1.toNat + (r.2 - 1)) / 2 ^ 16
    (List.range (last + 1 - first)).map (fun i =>
      let p := (first + i) % 2 ^ 48
      (p * 2 ^ 16, if i = 0 then r.1 else BitVec.ofNat 64 (p * 2 ^ 16))))).flatten
  ps.foldl (fun acc p => if acc.any (fun q => q.1 == p.1) then acc else acc ++ [p]) []

/-- Translate the pages of byte ranges (R247): a failure gives its cause with `sys.aux1` 0. -/
def State.resolvePages (s : State) (e : Env) (acc : Access) (l : List (W64 × Nat)) : Resolve :=
  (pagesTouched l).foldl (fun r p =>
    match e.xlate s (BitVec.ofNat 64 p.1) acc with
    | .place pl => r.and { xlat := [(p.1, pl)], rank := memRank (dieOf e.g.core) pl }
    | .miss w => r.and { walks := [w] }
    | .bad c a => if c = 0x10 then r.and { pages := [a] } else r.and { conds := [{ cause := c, aux0 := p.2 }] }) {}

/-- The 0x20 of a command: the issuing lanes and the address (R153). -/
def rangeCond (m : W32) (addr : W32) : Cond := { cause := 0x20, aux0 := m.setWidth 64, aux1 := addr.setWidth 64 }

/-- Can the elements of a tile operand be evaluated: well formed, in memory or local store, with a handle that agrees (R202)? -/
def Geom.reaches (g : Geom) (h : W64) : Bool := g.ok && decide (g.space < 4) && g.handleOk h

/-- The row of Table 10.3 of a global operand of which a command touches nothing: that of the page of its first element, the farthest
row when that page does not translate (DESIGN CHOICE, notes/assumptions/125.md). -/
def State.idleRank (s : State) (e : Env) (g : Geom) (h : W64) (acc : Access) : Nat :=
  match g.eval h 0 with
  | .global va _ => (match e.xlate s va acc with
    | .place pl => memRank (dieOf e.g.core) pl
    | _ => 3)
  | _ => 0

/-- Resolve a tile operand (R202, R247, R249): the global pages of the elements that the command touches are translated, a
local-store operand is checked as a whole; the operand's row of Table 10.3. An operand that cannot be evaluated gives nothing. -/
def State.resolveTile (s : State) (e : Env) (m : W32) (g : Geom) (h : W64) (acc : Access) (ix : List Nat) : Resolve :=
  if !g.reaches h then {}
  else
    let globals := (ix.map (g.eval h)).filterMap (fun p => match p with
      | .global va bit => some (va, elemBytes bit g.eb)
      | _ => none)
    let locals := ((List.range g.size).map (g.eval h)).filterMap (fun p => match p with
      | .ls a bit => some (a, elemBytes bit g.eb)
      | _ => none)
    let far := if locals.any (fun p => p.1.getLsbD 31 || p.1.getLsbD 23) then 1
      else if ix.isEmpty then s.idleRank e g h acc else 0
    let bad := (locals.find? (fun p => (s.lsRef e.w e.g.half1 p.1 p.2).isNone)).map (fun p => rangeCond m p.1)
    (s.resolvePages e acc globals).and { conds := bad.toList, rank := far }

/-- Raise or wait for what resolving found (R139, R247): a walk is waited for; the lowest cause is raised; a page that is
not present is filled, when no lower cause stands before it. -/
def settleOperands (e : Env) (r : Resolve) (cs : List Cond) : Exec Unit := do
  if !r.walks.isEmpty then hold .walk r.walks
  match lowest (r.conds ++ cs) with
  | some c => if c.cause < 0x10 || r.pages.isEmpty then raise e c.cause c.aux0 c.aux1 else fun _ => .error (.pages r.pages)
  | none => if r.pages.isEmpty then pure () else fun _ => .error (.pages r.pages)

/-- The conditions of a barrier operand (R190 reasons 1 and 2, R247): an s register with a local-store address, or none. -/
def barrierConds (s : State) (e : Env) (m : W32) (addr : Option W64) : List Cond :=
  match addr with
  | none => []
  | some a =>
    let addr : W32 := a.setWidth 32
    match s.lsRef e.w e.g.half1 addr 32 with
    | none => [rangeCond m addr]
    | some r =>
      if addr.toNat % 32 ≠ 0 then [{ cause := 0x21, aux0 := addr.setWidth 64, aux1 := 1 }]
      else if bitsAt (s.objRead (.ls r.wg r.half1 r.off)) 61 3 ≠ 5 then
        [{ cause := 0x21, aux0 := addr.setWidth 64, aux1 := 2 }]
      else []

/-- The options of a command's srcF (R245): the start instant, and the release address. -/
def optionsOf (e : Env) (w : WFrame) : Option W64 × Option W64 :=
  let n := regNo w.srcF
  let at_ := w.wflags.getLsbD 0
  let rel := w.wflags.getLsbD 1
  (if at_ then some (e.sl.s n) else none, if rel then some (e.sl.s (if at_ then n + 1 else n)) else none)

/-- Hold while the second register of an option pair is still to be written. -/
def optionReady (e : Env) (w : WFrame) : Exec Unit :=
  if w.wflags.extractLsb' 0 2 = 3 then checkNamed e [] [{ pos := .sreg, code := w.srcF + 1 }] else pure ()

/-- Resolve a release address (R247): global and 8-byte aligned. -/
def State.resolveRelease (s : State) (e : Env) (m : W32) (addr : Option W64) : Resolve :=
  match addr with
  | none => {}
  | some va => { s.resolvePages e .store [(va, 8)] with rank := 0 }.and
      { conds := if va.toNat % 8 = 0 then [] else [{ cause := 0x12, aux0 := va, aux1 := m.setWidth 64 }] }

/-! ### Queueing a command (R242, R243, R249) -/

/-- Room in an engine's queue, and in the copies counter (R243, R164). -/
def engineRoom (e : Env) (i : EngineId) (prio : Bool) : Exec Unit := do
  let s ← get
  let q := s.engine i
  holdIf (decide (engineLen i ≤ (if prio then q.prio else q.normal).length)) .engineFull
  let sl ← curSlice e
  holdIf (decide (63 ≤ sl.copies)) .counterFull

/-- The S of R249: no earlier than the issue, the start instant, the command ahead, for `.prio` the running command, and
the promises of the commands that a fence point covers (R186). -/
def Engine.startAfter (q : Engine) (prio : Bool) (ptb : Nat) (startAt : Option W64) (fences : List FencePoint) : Nat :=
  let base := max (max ptb ((startAt.map (fun t => t.toNat)).getD 0)) (q.tail prio)
  let run := if prio then ((q.running.map (fun c => c.promise.toNat)).getD 0) else 0
  fences.foldl (fun m f => max m f.promise.toNat) (max base run)

/-- What the issuing slice gives a command (R248, R394). -/
def blankCommand (e : Env) (i : EngineId) (kind : CmdKind) (prio : Bool) : Command :=
  { serial := 0, kind := kind, seq := 0, prio := prio, engine := i, grp := e.cur.grp, a := e.cur.a, wg := e.w.id,
    launch := e.w.launch, region := e.w.region, core := e.g.core, grpNum := e.g.num, asn := e.w.asn, corr := e.sl.corr,
    dstG := 0, srcG := 0, dstH := 0, srcH := 0, rounding := 0, sat := false, idx := [], form := [], option := 0, listN := 0,
    peers := [], each := false, barrier := none, startAt := none, release := none, sysScope := false, promise := 0,
    bytes := 0, xlat := [], fences := [], query := [], fetched := [], asked := 0, badPeers := [], moved := 0, landed := 0,
    result := { ev := 0, cnt := 0, val := 0, out := 0 }, ready := false, lines := [], relDone := [], started := false,
    waiting := 0, arrived := false }

/-- Append a command to its queue. -/
def Engine.append (q : Engine) (c : Command) : Engine :=
  if c.prio then { q with prio := q.prio ++ [c] } else { q with normal := q.normal ++ [c] }

/-- Take the next sequence number of a queue. -/
def Engine.advanceSeq (q : Engine) (prio : Bool) : Engine :=
  if prio then { q with seqP := q.seqP + 1 } else { q with seqN := q.seqN + 1 }

/-- Queue a command (R242, R249): its sequence number, its promise P = S + `cost`, its trace record, the push to q12, the copies
counter. A
command of a stepped instruction is held in its group's header (R408), one of a region whose tile tasks are held joins them
(R409). -/
def submit (e : Env) (c : Command) (cost : Nat) : Exec Unit := do
  let s ← get
  let q := s.engine c.engine
  let fences ← s.fencesTo e (enginePath c.engine)
  let p : W64 := BitVec.ofNat 64 (q.startAfter c.prio (s.ptb (dieOf e.g.core)) c.startAt fences + cost)
  let c' := { c with serial := s.nextId, seq := if c.prio then q.seqP else q.seqN, promise := p, fences := fences }
  modify (fun s => { s.modEngine c.engine (fun q => q.advanceSeq c.prio) with nextId := s.nextId + 1 })
  modify (fun s => s.traceCmdIf c' 0x01 p.toNat)
  if e.w.stepping then modify (fun s => { s with pkg := { s.pkg with heldCmds := s.pkg.heldCmds ++ [(CmdHold.step, c')] } })
  else if s.regions.any (fun r => r.num == c.region && r.holdTasks) then
    modify (fun s => ({ s with pkg := { s.pkg with heldCmds := s.pkg.heldCmds ++ [(CmdHold.task, c')] } }).traceCmd c' 0x12 0)
  else modify (fun s => s.modEngine c.engine (fun q => q.append c'))
  modSl e (fun sl => { sl.arrive 12 p with copies := sl.copies + 1 })

/-! ### Bytes of operands while a command runs (R248, R250) -/

/-- The place of a global byte under the translations made at issue (R248). -/
def Command.placeAt (c : Command) (va : W64) : Option Place :=
  let page := va.toNat / 2 ^ 16 * 2 ^ 16
  let off := va.toNat % 2 ^ 16
  (c.xlat.find? (fun x => x.1 == page)).map (fun x => match x.2 with
    | .mem pa => .mem (pa + off)
    | .host pa => .host (pa + off)
    | .fabric p o => .fabric p (o + off)
    | p => p)

/-- Is the command's group on the odd half of its pair (R315)? -/
def State.cmdHalf (s : State) (c : Command) : Bool :=
  match s.anyWg? c.wg with
  | some w => w.core != c.core
  | none => false

/-- The places of n bytes from a local-store address of the command's workgroup; none once it has gone. -/
def State.cmdLs (s : State) (c : Command) (addr : W32) (n : Nat) : List Place :=
  match (s.anyWg? c.wg).bind (fun w => s.lsRef w (s.cmdHalf c) addr n) with
  | some r => (List.range n).map (fun i => .ls r.wg r.half1 (r.off + i))
  | none => []

/-- The places of the bytes of element i of an operand, and its bit within the first. `peer` stands for a destination in a
peer's window (R448). -/
def State.elemPlaces (s : State) (c : Command) (g : Geom) (h : W64) (peer : Option (BitVec 12)) (i : Nat) :
    List Place × Nat :=
  match g.eval h i with
  | .global va bit =>
    let n := elemBytes bit g.eb
    ((List.range n).filterMap (fun k => match peer with
      | some p => some (.fabric p ((va.toNat + k) % 2 ^ 43))
      | none => c.placeAt (va + BitVec.ofNat 64 k)), bit)
  | .ls a bit => (s.cmdLs c a (elemBytes bit g.eb), bit)
  | _ => ([], 0)

/-- The key of a peer's byte among the fetched ones. -/
def peerKey (p : BitVec 12) (off : Nat) : Nat := p.toNat * 2 ^ 43 + off

/-- A byte that a command reads: a byte that a peer or a dead port would not give is zero (R450). -/
def State.cmdByte (s : State) (c : Command) (p : Place) : Byte :=
  match p with
  | .mem pa => s.mem.read pa
  | .host pa => if s.hostRefused pa then 0 else s.mem.read pa
  | .fabric q off => c.fetched.read (peerKey q off)
  | .ls w h off => (s.lsRead w h off 1).headD 0

/-- The value of element i of an operand. -/
def State.cmdElem (s : State) (c : Command) (g : Geom) (h : W64) (i : Nat) : Nat :=
  let (ps, bit) := s.elemPlaces c g h none i
  bitsAt (ofBytes (ps.map (s.cmdByte c))) bit g.eb

/-- Write one byte of a command at home; a byte for a peer is put aside. -/
def State.cmdPut (s : State) (c : Command) (p : Place) (b : Byte) : State :=
  match p with
  | .fabric _ _ => s
  | .host pa => if s.hostRefused pa then s else s.writePlace c.core p [b]
  | _ => s.writePlace c.core p [b]

/-- Write element i of a destination: the state, and the bytes for peers. Bits around a narrow element keep their value. -/
def State.cmdStore (s : State) (c : Command) (g : Geom) (h : W64) (peer : Option (BitVec 12)) (i x : Nat) :
    State × List (BitVec 12 × Nat × Byte) :=
  let (ps, bit) := s.elemPlaces c g h peer i
  let bs := toBytes ps.length (setBits (ofBytes (ps.map (s.cmdByte c))) bit g.eb x)
  let out := (ps.zip bs).filterMap (fun y => match y.1 with
    | .fabric p off => some (p, off, y.2)
    | _ => none)
  ((ps.zip bs).foldl (fun s y => s.cmdPut c y.1 y.2) s, out)

/-! ### Requests to peers (R437, R438, R448) -/

/-- Change the running command of an engine. -/
def State.modRunning (s : State) (i : EngineId) (f : Command → Command) : State :=
  s.modEngine i (fun q => { q with running := q.running.map f })

/-- Group bytes by peer and line: later bytes replace earlier ones at the same offset. -/
def groupLines (l : List (BitVec 12 × Nat × Byte)) : List (BitVec 12 × Nat × List (Nat × Byte)) :=
  let keys := (l.map (fun x => (x.1, x.2.1 / 128))).eraseDups
  keys.map (fun k =>
    let mine := (l.filter (fun x => x.1 == k.1 && x.2.1 / 128 == k.2)).map (fun x => (x.2.1, x.2.2))
    let offs := (mine.map (fun x => x.1)).foldl insertNat []
    (k.1, k.2, offs.map (fun o => (o, ((mine.reverse.find? (fun x => x.1 == o)).map (fun x => x.2)).getD 0))))

/-- The request packet of a command to a line of a peer. -/
def cmdRequest (dev : BitVec 12) (read : Bool) (line : Nat) (bytes : List (Nat × Byte)) : FabReq :=
  { src := dev, op := if read then .read else if bytes.length = 128 then .write else .maskedWrite, seq := 0,
    off := BitVec.ofNat 43 (128 * line), len := bytes.length, aop := 0, ty := 0, cas := false, cmp := 0, bytes := bytes }

/-- Send the lines that a command reads or writes; `bytes` of each write count as landed when it is answered. -/
def State.cmdSend (s : State) (i : EngineId) (read : Bool) (l : List (BitVec 12 × Nat × Byte)) : State :=
  (groupLines l).foldl (fun s x =>
    (s.sendReq x.1 (cmdRequest s.fabric.dev read x.2.1 x.2.2) (.command i x.1 (if read then 0 else x.2.2.length))).modRunning i
      (fun c => { c with waiting := c.waiting + 1 })) s

/-- Would sending to these peers pass a window of 4,096 unanswered requests (R438)? -/
def State.windowFull (s : State) (l : List (BitVec 12 × Nat × Byte)) : Bool :=
  let lines := groupLines l
  ((lines.map (fun x => x.1)).eraseDups).any (fun p =>
    decide (0 < s.fabric.unanswered p) && decide (4096 < s.fabric.unanswered p + (lines.filter (fun x => x.1 == p)).length))

/-! ### Barrier, result, status (R251 to R253, R450) -/

/-- Subtract landed bytes from a command's barrier (R251). -/
def State.cmdLand (s : State) (c : Command) (n : Nat) : State :=
  if n = 0 then s
  else
    let s1 := s.modRunning c.engine (fun c => { c with landed := c.landed + n })
    match c.barrier with
    | none => s1
    | some a =>
      match (s.cmdLs c (a.setWidth 32) 32).head? with
      | some (.ls w h off) => s1.objSubtract (.ls w h off) n
      | _ => s1

/-- Note a refused or failed request (R450): `who` is the peer or port. -/
def CmdResult.refuse (r : CmdResult) (failed : Bool) (who : W32) : CmdResult :=
  let first := r.out != 5 && r.out != 6
  { r with out := if failed || r.out == 5 then 5 else 6, cnt := if first then 1 else r.cnt + 1,
           val := if first then who else r.val }

/-- The status entry of a command (Table 10.4). -/
def Command.status (c : Command) (late : Bool) : W64 :=
  let unit := match c.engine with | .copy _ u => u | _ => 0
  BitVec.ofNat 64 (c.seq.toNat % 2 ^ 12 + c.kind.code * 2 ^ 12 + unit * 2 ^ 16 + late.toNat * 2 ^ 17 +
    c.result.ev.toNat * 2 ^ 18 + min c.result.cnt 15 * 2 ^ 24 + c.result.val.toNat * 2 ^ 28 + c.result.out.toNat * 2 ^ 60)

/-- The region that incoming requests are traced and charged to, when it is active (R434, Table 21.1). -/
def State.exportRegion (s : State) : Option Nat :=
  let x := s.fabric.xreg.toNat
  if x ≠ 0 ∧ s.regions.any (fun r => r.num == x) then some x else none

/-- A record in the trace of the region that owns the part's own exported window, of a command that reaches that window (R399,
R440). -/
def State.corrRecord (s : State) (c : Command) (type payload : Nat) : State :=
  match s.exportRegion with
  | some x => s.trace x { type := type, detail := c.kind.code, queue := c.queueCode, engine := engineIdent c.engine,
                          seq := c.seq.toNat, corr := c.corr, ptb := s.ptb (engineDie c.engine), payload := payload }
  | none => s

/-- A command is over (R252): its status entry goes to q13 (for `PSEL` a completion entry to q14), the copies counter falls,
its workgroup has made progress (R386), and the engine is free. For a saved slice the image takes them. -/
def State.finishCmd (s : State) (c : Command) (extra : Option W64) : State :=
  let ptb := s.ptb (engineDie c.engine)
  let late := decide (c.promise.toNat < ptb)
  let st := c.status late
  let s0 := if c.arrived then s.corrRecord c 0x03 st.toNat else s
  let s1 := s0.modEngine c.engine (fun q => { q with running := none })
  let s2 := s1.modSlice c.grp c.a (fun sl =>
    let sl1 := sl.arrive 13 st
    let sl2 := match extra with | some x => sl1.arrive 14 x | none => sl1
    { sl2 with copies := sl2.copies - 1 })
  let s3 := (s2.imageFinish c.grp c.a st extra).modWg c.wg (fun w => { w with progress := ptb })
  s3.traceCmdIf c 0x03 st.toNat

end Sys2Proof.Machine
end

