-- ==== Sys2Proof/Machine/Forms.lean ====
section
/-!
DEFINITION. The compressed forms and element conversion of the copy engines (spec 10_copy.md R254, R257 to R261).
-/
namespace Sys2Proof.Machine

/-! ### Element conversion (R254) -/

/-- May elements of one fmt code be converted into another? Equal codes are copied; otherwise the value counts agree and
neither is raw. -/
def convOk (df sf : Nat) : Bool := df == sf || (df / 16 == sf / 16 && df % 16 != 0 && sf % 16 != 0)

/-- Convert the values of an element one by one from the lowest. -/
def convValues (d s : Ty) (mode : Mode) (sat : Bool) : Nat → Nat → Nat × Events
  | 0, _ => (0, 0)
  | n + 1, x =>
    let (r, e1) := convert d s mode sat (x % 2 ^ s.width)
    let (hi, e2) := convValues d s mode sat n (x / 2 ^ s.width)
    (r + 2 ^ d.width * hi, e1 ||| e2)

/-- Convert an element of fmt `sf` into fmt `df`. -/
def convElem (df sf : Nat) (mode : Mode) (sat : Bool) (x : Nat) : Nat × Events :=
  if df = sf then (x, 0)
  else convValues (Ty.ofCode .u8 (BitVec.ofNat 4 df)) (Ty.ofCode .u8 (BitVec.ofNat 4 sf)) mode sat (4 ^ (df / 16)) x

/-! ### `.hbm` (R259) -/

/-- The levels of n elements: the least of 2, 3 and 4 that covers them. -/
def hbmLevels (n : Nat) : Nat := if n ≤ 64 ^ 2 then 2 else if n ≤ 64 ^ 3 then 3 else 4

/-- The set bits of a 64-bit word, ascending. -/
def setBitsOf (w : Nat) : List Nat := (List.range 64).filter (fun b => w.testBit b)

/-- One level of the encoder: the word of each block of the list, blocks being `size` elements per bit, and the blocks of
its set bits. -/
def hbmEncLevel (nz : List Nat) (size : Nat) (blocks : List Nat) : List Nat × List Nat :=
  let kids (b : Nat) : List Nat := (List.range 64).filter (fun k => nz.any (fun i => i / size == 64 * b + k))
  (blocks.map (fun b => (kids b).foldl (fun w k => w + 2 ^ k) 0), (blocks.map (fun b => (kids b).map (fun k => 64 * b + k))).flatten)

/-- The words of all levels; `left` counts the levels below. -/
def hbmEncWords (nz : List Nat) : Nat → List Nat → List Nat
  | 0, _ => []
  | left + 1, blocks =>
    let (ws, next) := hbmEncLevel nz (64 ^ left) blocks
    ws ++ hbmEncWords nz left next

/-- Pad bytes to a multiple of 8 with zeros. -/
def pad8 (bs : List Byte) : List Byte := bs ++ List.replicate (roundUp bs.length 8 - bs.length) 0

/-- The form of dense elements. -/
def hbmForm (vb fmt : Nat) (xs : List Nat) : List Byte :=
  let n := xs.length
  let v := hbmLevels n
  let nz := (List.range n).filter (fun i => xs.getD i 0 != 0)
  let ws := hbmEncWords nz v [0]
  pad8 (toBytes 8 (n + vb * 2 ^ 32 + fmt * 2 ^ 36 + v * 2 ^ 40) ++ toBytes 8 (ws.length + nz.length * 2 ^ 32) ++
    (ws.map (toBytes 8)).flatten ++ (nz.map (fun i => toBytes vb (xs.getD i 0))).flatten)

/-- The header fields of a form (Table 10.5). -/
structure HbmHeader where
  n  : Nat
  v  : Nat
  nw : Nat
  m  : Nat
  deriving DecidableEq, Repr

/-- Read a header for a dense operand of `size` elements of `vb` bytes and a capacity; `none` when it is malformed. That n
is the dense size is deduced from R258 (notes/assumptions/6.md). -/
def hbmHeader (h size vb fmt cap : Nat) : Option HbmHeader :=
  let x : HbmHeader := { n := bitsAt h 0 32, v := bitsAt h 40 3, nw := bitsAt h 64 32, m := bitsAt h 96 32 }
  if bitsAt h 43 21 ≠ 0 ∨ x.v < 2 ∨ 4 < x.v ∨ x.n = 0 ∨ 64 ^ x.v < x.n ∨ bitsAt h 32 4 ≠ vb ∨ bitsAt h 36 4 ≠ fmt ∨
      x.n ≠ size ∨ cap < roundUp (16 + 8 * x.nw + vb * x.m) 8 then none
  else some x

/-- One level of the decoder: the blocks below the set bits of each block's word, and the words left. -/
def hbmDecLevel : List Nat → List Nat → Option (List Nat × List Nat)
  | [], ws => some ([], ws)
  | _ :: _, [] => none
  | b :: bs, w :: ws =>
    match hbmDecLevel bs ws with
    | some (kids, rest) => some ((setBitsOf w).map (fun k => 64 * b + k) ++ kids, rest)
    | none => none

/-- The positions that the words of all levels name; `left` counts the levels to read. -/
def hbmPositions (n : Nat) : Nat → List Nat → List Nat → Option (List Nat)
  | 0, blocks, ws => if ws.isEmpty then some blocks else none
  | left + 1, blocks, ws =>
    match hbmDecLevel blocks ws with
    | none => none
    | some (kids, rest) => if kids.any (fun k => decide (n ≤ k * 64 ^ left)) then none else hbmPositions n left kids rest

/-- The positions of a form's values; `none` when its words are malformed. -/
def HbmHeader.positions (x : HbmHeader) (ws : List Nat) : Option (List Nat) :=
  match hbmPositions x.n x.v [0] ws with
  | some ps => if ps.length = x.m then some ps else none
  | none => none

/-! ### `.kvp` (R260) -/

/-- One block of 32 BF16 values as tf8 codes under a scale (R80, R81): scale code, codes, events. -/
def kvpBlock (mode : Mode) (xs : List Nat) : Nat × List Nat × Events :=
  let vs := xs.map (readF .bf16)
  let sc := blockScale .tf8 (vs.map (fun v => v.1))
  let rs := vs.map (fun v => blockElem .tf8 sc mode v.1)
  (sc, rs.map (fun r => r.1), (vs.map (fun v => v.2) ++ rs.map (fun r => r.2)).foldl (fun a b => a ||| b) 0)

/-- The four blocks of a vector of 128 values. -/
def kvpVector (mode : Mode) (xs : List Nat) : List Nat × List Nat × Events :=
  (List.range 4).foldl (fun acc k =>
    let (sc, cs, ev) := kvpBlock mode ((xs.drop (32 * k)).take 32)
    (acc.1 ++ [sc], acc.2.1 ++ cs, acc.2.2 ||| ev)) ([], [], 0)

/-- The extreme of the BF16 keys of a dimension, NaN keys ignored (R122), and the invalid event of a signalling NaN. -/
def kvpExtreme (isMax : Bool) (xs : List Nat) : Nat :=
  match xs.filter (fun x => !(Fmt.decode .bf16 x).1.isNan) with
  | [] => Fmt.nanCode .bf16
  | x :: l => l.foldl (fMinMax isMax .bf16) x

/-- Fill a list of rows of bytes up to n rows with zero rows. -/
def padRows (n w : Nat) (rows : List (List Byte)) : List Byte := rows.flatten ++ List.replicate ((n - rows.length) * w) 0

/-- The 65,536 bytes of a page of tokens (Table 10.6): K and V rows of 128 BF16 codes. -/
def kvpPage (mode : Mode) (layer head : Nat) (ks vs : List (List Nat)) : List Byte × Events :=
  let kE := ks.map (kvpVector mode)
  let vE := vs.map (kvpVector mode)
  let bytes (l : List Nat) : List Byte := l.map (BitVec.ofNat 8)
  let dim (isMax : Bool) : List Byte :=
    ((List.range 128).map (fun d => toBytes 2 (kvpExtreme isMax (ks.map (fun k => k.getD d 0))))).flatten
  let sn := ks.any (fun k => k.any (fun x => (Fmt.decode .bf16 x).2))
  let page := toBytes 4 0x3150564B ++ toBytes 2 1 ++ toBytes 2 ks.length ++ toBytes 4 layer ++ toBytes 2 head ++
    List.replicate 242 0 ++ dim false ++ dim true ++ List.replicate 256 0 ++
    padRows 240 128 (kE.map (fun x => bytes x.2.1)) ++ padRows 240 128 (vE.map (fun x => bytes x.2.1)) ++
    padRows 240 4 (kE.map (fun x => bytes x.1)) ++ padRows 240 4 (vE.map (fun x => bytes x.1)) ++ List.replicate 1152 0
  (page, (kE ++ vE).foldl (fun ev x => ev ||| x.2.2) (Events.when sn Events.invalid))

/-- Is the first KiB of a page legal for a `.dec`? -/
def kvpHeaderOk (h : List Byte) : Bool :=
  let at_ (lo n : Nat) : Nat := ofBytes ((h.drop lo).take n)
  let tc := at_ 6 2
  at_ 0 4 == 0x3150564B && at_ 4 2 == 1 && decide (1 ≤ tc) && decide (tc ≤ 240) &&
    ((h.drop 0x0E).take 0xF2).all (fun b => b == 0) && ((h.drop 0x300).take 0x100).all (fun b => b == 0)

/-- The BF16 value of dimension d of slot s of K (`v` false) or V in a page whose bytes are read by `rd`. -/
def kvpValue (mode : Mode) (sat : Bool) (rd : Nat → Byte) (v : Bool) (slot d : Nat) : Nat × Events :=
  let code := (rd ((if v then 0x7C00 else 0x400) + 128 * slot + d)).toNat
  let sc := (rd ((if v then 0xF7C0 else 0xF400) + 4 * slot + d / 32)).toNat
  roundTo .bf16 (scaled sc (Fmt.decode .tf8 code).1) mode sat

/-! ### Morton COO (R261) -/

/-- The header of the Morton COO form (Table 10.7). -/
structure CooHeader where
  nr : Nat
  nc : Nat
  te : Nat
  vb : Nat
  fmt : Nat
  ne : Nat
  co : Nat
  vo : Nat
  deriving DecidableEq, Repr

/-- The number of tiles across and down. -/
def CooHeader.tilesAcross (x : CooHeader) : Nat := (x.nc + x.te - 1) / x.te
/-- The number of tiles. -/
def CooHeader.tiles (x : CooHeader) : Nat := ((x.nr + x.te - 1) / x.te) * x.tilesAcross

/-- Read a header under a capacity; `none` when it is malformed. -/
def cooHeader (h cap : Nat) : Option CooHeader :=
  let lt := bitsAt h 64 3
  let x : CooHeader := { nr := bitsAt h 0 32, nc := bitsAt h 32 32, te := 2 ^ (lt + 3), vb := bitsAt h 72 4, fmt := bitsAt h 76 4,
                         ne := bitsAt h 96 32, co := bitsAt h 128 64, vo := bitsAt h 192 64 }
  if bitsAt h 67 5 ≠ 0 ∨ bitsAt h 80 16 ≠ 0 ∨ 5 < lt ∨ !([1, 2, 4].contains x.vb) ∨ formBytes x.fmt ≠ x.vb ∨
      cap < 32 + 8 * x.tiles ∨ cap < x.co + 2 * x.ne ∨ cap < x.vo + x.vb * x.ne then none
  else some x

/-- The running sums of the directory, up to ne (R261). -/
def cooDirOk (ne : Nat) : Nat → List Nat → Bool
  | sum, [] => sum == ne
  | sum, w :: l => bitsAt w 0 32 == sum && cooDirOk ne (sum + bitsAt w 32 32) l

/-- The bits of a Morton code at even or odd places. -/
def mortonHalf (code odd : Nat) : Nat := (List.range 8).foldl (fun x k => x + 2 ^ k * bitsAt code (2 * k + odd) 1) 0

/-- The entries of one tile from entry number `first`: destination elements with their values, and how many are skipped.
`prev` is the code before. -/
def cooTile (x : CooHeader) (tile : Nat) (rd : Nat → Nat → Nat) : Nat → Nat → Option Nat → List (Nat × Nat) × Nat
  | 0, _, _ => ([], 0)
  | k + 1, e, prev =>
    let code := rd (x.co + 2 * e) 2
    let (l, sk) := cooTile x tile rd k (e + 1) (some code)
    let row := tile / x.tilesAcross * x.te + mortonHalf code 1
    let col := tile % x.tilesAcross * x.te + mortonHalf code 0
    let rising := match prev with | some p => decide (p < code) | none => true
    if !rising || decide (x.nr ≤ row) || decide (x.nc ≤ col) then (l, sk + 1)
    else ((col + x.nc * row, rd (x.vo + x.vb * e) x.vb) :: l, sk)

/-- All the entries. -/
def cooEntries (x : CooHeader) (rd : Nat → Nat → Nat) (dir : List Nat) : List (Nat × Nat) × Nat :=
  ((List.range dir.length).zip dir).foldl (fun acc p =>
    let (l, sk) := cooTile x p.1 rd (bitsAt p.2 32 32) (bitsAt p.2 0 32) none
    (acc.1 ++ l, acc.2 + sk)) ([], 0)

end Sys2Proof.Machine
end

