-- ==== Sys2Proof/Machine/Copy.lean ====
section
/-!
DEFINITION. The copy commands at issue (spec 10_copy.md R243 to R261): `CPY`, `CPYG`, `CPYS`, `CPYZ`, `CPYM`.
-/
namespace Sys2Proof.Machine

/-- What a copy command's issue has read (R248). -/
structure CopyIn where
  kind : CmdKind
  w    : WFrame
  dst  : Geom
  src  : Geom
  dstH : W64
  srcH : W64
  m    : W32
  deriving DecidableEq, Repr

/-- A rejection of the copy engine (R213). -/
def copyReject (w : WFrame) (operand reason : Nat) : Cond :=
  mulReject 0 operand reason (if operand = 0 then w.f.srcA else w.f.srcC)

/-- What the shape rules of a command find: conditions, the byte count B, and the bytes that a class 1 operand pays for (R212). -/
structure Shape where
  conds : List Cond := []
  bytes : Nat := 0
  dstB  : Nat := 0
  srcB  : Nat := 0
  deriving DecidableEq, Repr

/-- The bytes of n elements of a geometry. -/
def Geom.bytesFor (g : Geom) (n : Nat) : Nat := (n * g.eb + 7) / 8
/-- The byte size of a tile operand. -/
def Geom.byteSize (g : Geom) : Nat := g.bytesFor g.size

/-- A shape that is rejected. -/
def CopyIn.reject (x : CopyIn) (operand reason : Nat) : Shape := { conds := [copyReject x.w operand reason] }

/-- All of both operands. -/
def CopyIn.whole (x : CopyIn) : Shape := { bytes := x.dst.byteSize, dstB := x.dst.byteSize, srcB := x.src.byteSize }

/-- `CPY` (R254). -/
def CopyIn.shapeCpy (x : CopyIn) : Shape :=
  if x.dst.size ≠ x.src.size then x.reject 1 9
  else if !convOk x.dst.fmt x.src.fmt then x.reject 1 7
  else x.whole

/-- The list length of `CPYG` and `CPYS` (Table 10.2). -/
def listLen (w : WFrame) : Nat := (w.f.variant.extractLsb' 3 3).toNat + 1

/-- The out-of-range positions of an index list, and the 0x39 that `.trap` makes of them (R255). -/
def indexConds (w : WFrame) (ne : Nat) (idx : List W32) : List Cond :=
  match idx.find? (fun i => decide (ne ≤ i.toNat)) with
  | some i => if w.wflags.getLsbD 3 then [{ cause := 0x39, aux0 := i.setWidth 64 }] else []
  | none => []

/-- The result that out-of-range positions leave in the status entry (R255, R256). -/
def indexResult (ne : Nat) (idx : List W32) : CmdResult :=
  match idx.filter (fun i => decide (ne ≤ i.toNat)) with
  | [] => { ev := 0, cnt := 0, val := 0, out := 0 }
  | i :: l => { ev := 0, cnt := l.length + 1, val := i, out := 1 }

/-- The elements of the rows of a table that a list names, each once. -/
def rowIx (rl ne : Nat) (idx : List W32) : List Nat :=
  (((idx.filter (fun i => decide (i.toNat < ne))).eraseDups).map (fun i =>
    (List.range rl).map (fun k => k + rl * i.toNat))).flatten

/-- `CPYG` (R255). -/
def CopyIn.shapeCpyg (x : CopyIn) (idx : List W32) : Shape :=
  if x.src.modes.length ≠ 2 then x.reject 1 6
  else
    let rl := x.src.rowLen
    let ne := x.src.rowCount
    let n := idx.length
    if x.dst.size ≠ n * rl then x.reject 0 9
    else if !convOk x.dst.fmt x.src.fmt then x.reject 1 7
    else { conds := indexConds x.w ne idx, bytes := x.dst.byteSize, dstB := x.dst.byteSize, srcB := x.src.bytesFor (n * rl) }

/-- `CPYS` (R256): B is the bytes of n × rl destination elements. -/
def CopyIn.shapeCpys (x : CopyIn) (idx : List W32) : Shape :=
  if x.dst.modes.length ≠ 2 then x.reject 0 6
  else
    let rl := x.dst.rowLen
    let ne := x.dst.rowCount
    let n := idx.length
    if x.src.size ≠ n * rl then x.reject 1 9
    else if !convOk x.dst.fmt x.src.fmt then x.reject 1 7
    else { conds := indexConds x.w ne idx, bytes := x.dst.bytesFor (n * rl), dstB := x.dst.bytesFor (n * rl),
           srcB := x.src.byteSize }

/-- The elements of a table that a list of rows touches; all of an operand that is no table. -/
def Geom.tableIx (g : Geom) (idx : List W32) : List Nat :=
  if g.modes.length = 2 then rowIx g.rowLen g.rowCount idx else List.range g.size

/-- The elements of the destination that a command touches. -/
def CopyIn.dstIx (x : CopyIn) (idx : List W32) : List Nat :=
  if x.kind = .cpys then x.dst.tableIx idx else List.range x.dst.size

/-- The elements of the source that a command touches. -/
def CopyIn.srcIx (x : CopyIn) (idx : List W32) : List Nat :=
  if x.kind = .cpyg then x.src.tableIx idx else List.range x.src.size

/-- The reason for which a compressed operand is rejected (R257). -/
def formReason (g : Geom) (h : W64) (align : Nat) : Option Nat :=
  if g.fmt ≠ 0 then some 7
  else if g.modes.length ≠ 1 ∨ (g.run g.numbered).1 ≠ g.size then some 6
  else if h.toNat % align ≠ 0 then some 5
  else none

/-- The pages of a dense K/V operand of t tokens (R260). -/
def kvpPages (t : Nat) : Nat := (t + 239) / 240

/-- The reason for which the dense operand of a `CPYZ` is rejected; reason 6 for a capacity that does not fit is the
compressed operand's. -/
def denseReason (form : BitVec 2) (g : Geom) : Option Nat :=
  if form = 2 then
    if g.modes.length ≠ 3 ∨ modeExt (g.modes.getD 0 []) ≠ 128 ∨ modeExt (g.modes.getD 2 []) ≠ 2 ∨
        2 ^ 24 < modeExt (g.modes.getD 1 []) then some 6
    else if g.fmt ≠ 9 then some 7
    else none
  else if 16 ≤ g.fmt ∨ !([8, 16, 32].contains g.eb) then some 7
  else if form = 1 ∧ 64 ^ 4 < g.size then some 6
  else none

/-- `CPYZ` (R257 to R260). -/
def CopyIn.shapeCpyz (x : CopyIn) (form : BitVec 2) (dec : Bool) : Shape :=
  let (c, hc, oc, g) := if dec then (x.src, x.srcH, 1, x.dst) else (x.dst, x.dstH, 0, x.src)
  match formReason c hc (if form = 2 then 256 else 8) with
  | some r => x.reject oc r
  | none =>
    match denseReason form g with
    | some r => x.reject (1 - oc) r
    | none =>
      if form = 2 ∧ c.size ≠ 65536 * kvpPages (modeExt (g.modes.getD 1 [])) then x.reject oc 6
      else x.whole

/-- `CPYM` (R261): the form's operand obeys the conditions of a compressed operand (deduced: notes/assumptions/7.md). -/
def CopyIn.shapeCpym (x : CopyIn) : Shape :=
  match formReason x.src x.srcH 8 with
  | some r => x.reject 1 r
  | none => x.whole

/-- The shape rules of a command. -/
def CopyIn.shape (x : CopyIn) (idx : List W32) : Shape :=
  match x.kind with
  | .cpyg => x.shapeCpyg idx
  | .cpys => x.shapeCpys idx
  | .cpyz form dec => x.shapeCpyz form dec
  | .cpym => x.shapeCpym
  | _ => x.shapeCpy

/-! ### Headers read at issue (R257 to R261) -/

/-- Read bytes of a form at an offset of its operand: global memory through the LSU's rules for one read of the slice, local
store directly. -/
def readForm (e : Env) (x : CopyIn) (off n : Nat) : Exec (List Byte) := do
  match x.src.eval x.srcH 0 with
  | .global va _ => readNow e (va + BitVec.ofNat 64 off) n .dev x.m
  | .ls a _ => do
    let s ← get
    match s.lsRef e.w e.g.half1 (a + BitVec.ofNat 32 off) n with
    | some r => do
      holdIf (s.rangeBehind e.g.core r.wg r.half1 r.off n) .bankQueue
      pure (s.lsRead r.wg r.half1 r.off n)
    | none => pure (List.replicate n 0)
  | _ => pure []

/-- Read n words of 8 bytes of a form. -/
def readWords (e : Env) (x : CopyIn) (off n : Nat) : Exec (List Nat) := do
  let bs ← readForm e x off (8 * n)
  pure (elementsOf 8 n bs)

/-- Raise 0x24 for a failing header at an offset. -/
def badForm {α : Type} (e : Env) (x : CopyIn) (off : Nat) : Exec α :=
  let a : W64 := if x.src.space = 0 then x.srcH + BitVec.ofNat 64 off else (x.srcH.setWidth 32 + BitVec.ofNat 32 off).setWidth 64
  raiseDrop e 0x24 a

/-- The header and bitmaps of a flat form (R258): the capacity stands for sN in the checks of R178, and the form must fit in it. -/
def flatIssue (e : Env) (x : CopyIn) : Exec (List Nat) := do
  let cap := x.src.size
  if cap < 8 then badForm e x 0
  let h := (← readWords e x 0 1).headD 0
  let vb := x.dst.eb / 8
  match flatHeader h cap with
  | none => badForm e x 0
  | some hd => do
    let nm := (hd.n + 63) / 64
    if hd.n ≠ x.dst.size || hd.vb ≠ vb || hd.fmt ≠ x.dst.fmt || cap < 8 + 8 * nm + vb * hd.m then badForm e x 0
    let ms ← readWords e x 8 nm
    match flatExpand hd ms (List.replicate hd.m 0) with
    | none => badForm e x 0
    | some _ => pure (h :: ms)

/-- The header and bitmaps of a hierarchical form (R259). -/
def hbmIssue (e : Env) (x : CopyIn) : Exec (List Nat) := do
  let cap := x.src.size
  if cap < 16 then badForm e x 0
  let h ← readWords e x 0 2
  match hbmHeader (h.getD 0 0 + 2 ^ 64 * h.getD 1 0) x.dst.size (x.dst.eb / 8) x.dst.fmt cap with
  | none => badForm e x 0
  | some hd => do
    let ws ← readWords e x 16 hd.nw
    match hd.positions ws with
    | none => badForm e x 0
    | some _ => pure (h ++ ws)

/-- The headers of KVP pages from page p on (R260): the token count of each. -/
def kvpIssue (e : Env) (x : CopyIn) : Nat → Nat → Exec (List Nat)
  | 0, _ => pure []
  | k + 1, p => do
    let h ← readForm e x (65536 * p) 1024
    if !kvpHeaderOk h then badForm e x (65536 * p)
    let r ← kvpIssue e x k (p + 1)
    pure (ofBytes ((h.drop 6).take 2) :: r)

/-- The header and directory of a Morton COO form, with the rules on the destination (R261). -/
def cooIssue (e : Env) (x : CopyIn) : Exec (List Nat) := do
  let cap := x.src.size
  if cap < 32 then badForm e x 0
  let h ← readWords e x 0 4
  match cooHeader (h.foldr (fun w n => w + 2 ^ 64 * n) 0) cap with
  | none => badForm e x 0
  | some hd => do
    let dir ← readWords e x 32 hd.tiles
    if !cooDirOk hd.ne 0 dir then badForm e x 0
    let reject (operand reason : Nat) : Exec Unit :=
      let c := copyReject x.w operand reason
      raiseDrop e c.cause c.aux0 c.aux1
    if x.dst.size ≠ hd.nr * hd.nc then reject 0 9
    if x.dst.modes.length ≠ 2 || x.dst.rowLen ≠ hd.nc || x.dst.rowCount ≠ hd.nr then reject 0 6
    if !convOk x.dst.fmt hd.fmt then reject 1 7
    pure (h ++ dir)

/-- Does a command read its source's form at issue? -/
def CmdKind.readsForm : CmdKind → Bool
  | .cpyz _ dec => dec
  | .cpym => true
  | _ => false

/-- Is there a form to read: the source is a compressed operand, and what its header is compared with stands? -/
def CopyIn.formStands (x : CopyIn) : Bool :=
  x.src.reaches x.srcH &&
  (match x.kind with
    | .cpyz form true => (formReason x.src x.srcH (if form = 2 then 256 else 8)).isNone && x.dst.ok && (denseReason form x.dst).isNone
    | .cpym => (formReason x.src x.srcH 8).isNone
    | _ => false)

/-- What a command reads of its form at issue: nothing where no form stands. -/
def formIssue (e : Env) (x : CopyIn) : Exec (List Nat) :=
  if !x.formStands then pure []
  else match x.kind with
    | .cpyz 0 true => flatIssue e x
    | .cpyz 1 true => hbmIssue e x
    | .cpyz _ true => kvpIssue e x (x.src.size / 65536) 0
    | .cpym => cooIssue e x
    | _ => pure []

/-! ### Issue -/

/-- The engine of a copy command (R243). -/
def pickEngine (s : State) (core : Nat) (sel : Nat) (prio : Bool) : EngineId :=
  let tail (u : Nat) : Nat := (s.engine (.copy core u)).tail prio
  if sel = 1 then .copy core 0
  else if sel = 2 then .copy core 1
  else if tail 0 ≤ tail 1 then .copy core 0 else .copy core 1

/-- The index list of a gather or scatter: lanes 0 to n - 1 of srcE, active or not; a queue pops once. -/
def indexList (e : Env) (kind : CmdKind) (w : WFrame) : Exec (List W32) :=
  if kind = .cpyg ∨ kind = .cpys then do
    let v ← srcV e .u32 w.srcE
    pure ((List.range (listLen w)).map (fun l => BitVec.ofNat 32 (laneNat v l)))
  else pure []

/-- An s register that a position may leave as `zero`. -/
def sOrNone (e : Env) (code : BitVec 8) : Option W64 := if RC.of code = .s then some (e.sl.s (regNo code)) else none

/-- The places of an operand of a command. -/
def State.operandPlaces (s : State) (c : Command) (g : Geom) (h : W64) : List Place :=
  ((List.range g.size).map (fun i => (s.elemPlaces c g h none i).1)).flatten

/-- Does an earlier command of the queue that a command joins still write bytes of the command's source (R262)? -/
def State.writtenAhead (s : State) (c : Command) : Bool :=
  let mine := s.operandPlaces c (Geom.ofReg c.srcG) c.srcH
  let q := s.engine c.engine
  let ahead := (q.running.filter (fun d => d.prio == c.prio)).toList ++ (if c.prio then q.prio else q.normal)
  ahead.any (fun d => (s.operandPlaces d (Geom.ofReg d.dstG) d.dstH).any mine.contains)

/-- Raise the lowest of the conditions that are left when the form has been read. -/
def raiseAfterForm (e : Env) (cs : List Cond) : Exec Unit :=
  match lowest cs with
  | some c => raiseDrop e c.cause c.aux0 c.aux1
  | none => pure ()

/-- Issue a copy command (R247 to R249): of several failing checks the lowest cause is raised, so those below 0x24 come before the
form is read, the others after it. -/
def issueCopy (kind : CmdKind) (sp : WSpec) (w : WFrame) (e : Env) : Exec Unit := do
  beginW e sp w
  optionReady e w
  let m := e.active w.f.guard
  let idx ← indexList e kind w
  if m = 0 then pure ()
  else do
    let prio := w.wflags.getLsbD 2
    let s ← get
    let eng := pickEngine s e.g.core (w.wflags.extractLsb' 5 2).toNat prio
    engineRoom e eng prio
    let dstG := e.geomReg w.f.srcA
    let srcG := e.geomReg w.f.srcC
    let x : CopyIn := { kind := kind, w := w, dst := Geom.ofReg dstG, src := Geom.ofReg srcG, dstH := e.sl.s (regNo w.f.dst),
                        srcH := srcSz e w.f.srcB, m := m }
    let (startAt, rel) := optionsOf e w
    let bar := sOrNone e w.srcD
    let ad := x.dst.acceptCopy x.dstH
    let as_ := x.src.acceptCopy x.srcH
    let rejects := (ad.reason?.map (copyReject w 0)).toList ++ (as_.reason?.map (copyReject w 1)).toList
    let sh := if rejects.isEmpty then x.shape idx else {}
    let rd := s.resolveTile e m x.dst x.dstH .store (x.dstIx idx)
    let rs := s.resolveTile e m x.src x.srcH .load (x.srcIx idx)
    let rr := s.resolveRelease e m rel
    let r := (rd.and rs).and rr
    let conds := rejects ++ sh.conds ++ barrierConds s e m bar
    settleOperands e r (conds.filter (fun c => decide (c.cause < 0x24)))
    let b := blankCommand e eng kind prio
    if kind.readsForm then do
      let open_ ← s.fencesTo e .copy
      holdIf (!open_.isEmpty || s.writtenAhead { b with srcG := srcG, srcH := x.srcH, xlat := r.xlat }) .fence
    let form ← formIssue e x
    raiseAfterForm e conds
    modify (fun s => s.dropStages e)
    let (lat, wd) := latW (max rd.rank rs.rank)
    let cost := lat + permuteCycles ad.cost (8 * sh.dstB) + permuteCycles as_.cost (8 * sh.srcB) +
      (max x.dst.byteSize x.src.byteSize + wd - 1) / wd
    submit e { b with
      dstG := dstG, srcG := srcG, dstH := x.dstH, srcH := x.srcH, rounding := w.f.variant.extractLsb' 0 2,
      sat := w.f.variant.getLsbD 2, idx := idx, form := form.map (BitVec.ofNat 64),
      option := srcSz e w.srcE, listN := idx.length, barrier := bar, startAt := startAt,
      release := rel.map (fun a => (a, w.imm)), sysScope := w.wflags.getLsbD 4, bytes := sh.bytes, xlat := r.xlat,
      result := (match kind with
        | .cpyg => indexResult x.src.rowCount idx
        | .cpys => indexResult x.dst.rowCount idx
        | _ => b.result) } cost

/-- `CPY`. -/
def execCpy (w : WFrame) (s : State) : Host.Outcome State Fault Refusal :=
  issueW w.f.guard (issueCopy .cpy (specCpy w) w) s
/-- `CPYG`. -/
def execCpyg (w : WFrame) (s : State) : Host.Outcome State Fault Refusal :=
  issueW w.f.guard (issueCopy .cpyg (specCpyg w) w) s
/-- `CPYS`. -/
def execCpys (w : WFrame) (s : State) : Host.Outcome State Fault Refusal :=
  issueW w.f.guard (issueCopy .cpys (specCpyg w) w) s
/-- `CPYZ`. -/
def execCpyz (w : WFrame) (s : State) : Host.Outcome State Fault Refusal :=
  issueW w.f.guard (issueCopy (.cpyz (cpyzForm w) (bit5 w.f)) (specCpyz w) w) s
/-- `CPYM`. -/
def execCpym (w : WFrame) (s : State) : Host.Outcome State Fault Refusal :=
  issueW w.f.guard (issueCopy .cpym (specCpy w) w) s

end Sys2Proof.Machine
end

