-- ==== Sys2Proof/Machine/Psel.lean ====
section
/-!
DEFINITION. Page selection (spec 13_die.md R320 to R324): `PSEL` at issue, and the scores and output of its engine.
-/
namespace Sys2Proof.Machine

/-- Is a core on a G-cluster (R279)? -/
def onGCluster (core : Nat) : Bool := decide (6 ≤ dieOf core)

/-- A misaligned operand of a command. -/
def misaligned (m : W32) (a : W64) (n : Nat) : List Cond :=
  if a.toNat % n = 0 then [] else [{ cause := 0x12, aux0 := a, aux1 := m.setWidth 64 }]

/-- The conditions of local-store operands: alignment counts only when every range lies within the allocation (R153). -/
def lsOperands (ranges mis : List Cond) : List Cond := ranges ++ (if ranges.isEmpty then mis else [])

/-- A local-store range of n bytes (R153). -/
def rangeConds (s : State) (e : Env) (m : W32) (addr : W32) (n : Nat) : List Cond :=
  if (s.lsRef e.w e.g.half1 addr n).isNone then [rangeCond m addr] else []

/-- `PSEL` (R320, R321). -/
def execPsel (w : WFrame) (s : State) : Host.Outcome State Fault Refusal :=
  issueW w.f.guard (fun e => do
    beginW e (specPsel w) w false (if onGCluster e.g.core then [] else [{ cause := 0x04 }])
    let m := e.active w.f.guard
    if m = 0 then pure ()
    else do
      let eng : EngineId := .psel (clusterOf e.g.core)
      engineRoom e eng false
      let s ← get
      let out := (e.sl.s (regNo w.f.dst)).setWidth 32
      let q : W32 := (e.sl.s (regNo w.f.srcA)).setWidth 32
      let tab := e.sl.s (regNo w.f.srcB)
      let np := e.sl.s (regNo w.f.srcC)
      let k := e.sl.s (regNo w.srcD)
      let bar := sOrNone e w.srcE
      let startAt := if w.wflags.getLsbD 0 then some (e.sl.s (regNo w.srcF)) else none
      let bad := decide (k.toNat = 0) || decide (1024 < k.toNat) || decide (np.toNat = 0) || decide (65536 < np.toNat)
      let ls := lsOperands (rangeConds s e m out (8 * k.toNat) ++ rangeConds s e m q 256)
        (misaligned m (out.setWidth 64) 8 ++ misaligned m (q.setWidth 64) 16)
      let r := s.resolvePages e .load ((List.range np.toNat).map (fun i => (tab + BitVec.ofNat 64 (i * w.imm.toNat), 512)))
      settleOperands e r (ls ++ misaligned m tab 256 ++ barrierConds s e m bar ++
        (if bad then [{ cause := 0x3A, aux0 := k, aux1 := np }] else []))
      submit e { blankCommand e eng .psel false with
        dstH := out.setWidth 64, srcH := tab, option := q.setWidth 64, listN := k.toNat, barrier := bar, startAt := startAt,
        bytes := 8 * k.toNat, xlat := r.xlat, form := [np, w.imm.setWidth 64] } (800 + 8 * np.toNat + k.toNat)) s

/-! ### Scores (R322) -/

/-- One term: the larger of q × mn and q × mx, taken exactly with the NaN and zero rules of R122. -/
def pselTerm (q mn mx : Num) : Num × Bool :=
  let (a, i1) := mulNum q mn
  let (b, i2) := mulNum q mx
  let r := if a.isNan then b else if b.isNan then a else
    match cmpNum a b with
    | .lt => b
    | .gt => a
    | .eq => if a.sign then b else a
  (r, i1 || i2)

/-- The score of a page: the query, the minima and the maxima as BF16 codes. -/
def pselScore (q mn mx : List Nat) : Nat × Events :=
  let rd (c : Nat) : Num × Events := readF .bf16 c
  let ts := List.zipWith (fun (x : Nat) (y : Nat × Nat) =>
    let (t, inv) := pselTerm (rd x).1 (rd y.1).1 (rd y.2).1
    (t, (rd x).2 ||| (rd y.1).2 ||| (rd y.2).2 ||| Events.when inv Events.invalid)) q (mn.zip mx)
  let (v, e1) := exactSum (ts.map (fun t => t.1))
  let (c, e2) := roundTo .f32 v .rne false
  (c, ts.foldl (fun ev t => ev ||| t.2) (e1 ||| e2))

/-- Does page a (index, score) stand before page b: higher score first, NaN last, equal scores by index? -/
def pselBefore (a b : Nat × Nat) : Bool :=
  let x := (Fmt.decode .f32 a.2).1
  let y := (Fmt.decode .f32 b.2).1
  if x.isNan then y.isNan && decide (a.1 < b.1)
  else if y.isNan then true
  else match cmpNum x y with
    | .gt => true
    | .lt => false
    | .eq => decide (a.1 < b.1)

/-- Insert a page into an ordered list. -/
def pselInsert (p : Nat × Nat) : List (Nat × Nat) → List (Nat × Nat)
  | [] => [p]
  | q :: l => if pselBefore p q then p :: q :: l else q :: pselInsert p l

/-- The k output entries: rank by rank, then empty entries. -/
def pselOutput (k : Nat) (scores : List Nat) : List Byte :=
  let ranked := ((List.range scores.length).zip scores).foldl (fun l p => pselInsert p l) []
  ((List.range k).map (fun i =>
    match ranked[i]? with
    | some p => toBytes 4 p.1 ++ toBytes 4 p.2
    | none => toBytes 4 0xFFFFFFFF ++ toBytes 4 0xFF800000)).flatten

/-- The completion entry of q14 (R323). -/
def Command.selection (c : Command) : W64 :=
  BitVec.ofNat 64 (c.seq.toNat % 2 ^ 12 + min c.listN (c.form.headD 0).toNat * 2 ^ 12)

end Sys2Proof.Machine
end

