-- ==== Sys2Proof/Machine/FabricCmd.lean ====
section
/-!
DEFINITION. The fabric commands at issue (spec 21_fabric.md R445 to R454): `CPYR`, `STREP`, `FCOLL`.
-/
namespace Sys2Proof.Machine

/-- A shape that a fabric command does not accept (R446): 0x29, engine 0, reason 6; no geometry register is concerned. -/
def fabReject : Cond := { cause := 0x29, aux0 := BitVec.ofNat 64 (6 * 2 ^ 8) }

/-- The peers of a peer list register (R446), with the conditions that the list meets. -/
def peerList (s : State) (e : Env) (m : W32) (x : W64) : List Cond × List (BitVec 12) :=
  let addr : W32 := x.setWidth 32
  let n := bitsAt x.toNat 32 7
  if n = 0 ∨ 64 < n then (misaligned m (addr.setWidth 64) 4 ++ [fabReject], [])
  else match s.lsRef e.w e.g.half1 addr (4 * n) with
    | none => ([rangeCond m addr], [])
    | some r =>
      let es := elementsOf 4 n (s.lsRead r.wg r.half1 r.off (4 * n))
      let bad (i : Nat) : List Cond :=
        let w := es.getD i 0
        if bitsAt w 12 20 ≠ 0 || !bitAt (s.fabric.partOf (w % 2 ^ 12)) 0 then
          [{ cause := 0x13, aux0 := (addr + BitVec.ofNat 32 (4 * i)).setWidth 64, aux1 := BitVec.ofNat 64 (w % 2 ^ 12) }]
        else []
      (misaligned m (addr.setWidth 64) 4 ++ ((List.range n).map bad).flatten, es.map (BitVec.ofNat 12))

/-- Hold while requests stand ahead in the banks that hold a peer list (R158). -/
def peersReady (e : Env) (x : W64) : Exec Unit := do
  let s ← get
  let n := 4 * bitsAt x.toNat 32 7
  match s.lsRef e.w e.g.half1 (x.setWidth 32) n with
  | some r => holdIf (s.rangeBehind e.g.core r.wg r.half1 r.off n) .bankQueue
  | none => pure ()

/-- The conditions of byte ranges in the peers' windows (R446): 0x11 with the first offset that fails. -/
def windowConds (s : State) (peers : List (BitVec 12)) (ranges : List (W64 × Nat)) : List Cond :=
  let fails (r : W64 × Nat) : Bool := decide (2 ^ 43 < r.1.toNat + r.2) || peers.any (fun p =>
    let e := s.fabric.partOf p.toNat
    !bitAt e 1 || decide (bitsAt e 2 8 * 2 ^ 36 < r.1.toNat + r.2))
  match ranges.find? fails with
  | some r => [{ cause := 0x11, aux0 := r.1 }]
  | none => []

/-- What the fabric commands share at issue: options, barrier, release. -/
structure FabIn where
  prio    : Bool
  startAt : Option W64
  rel     : Option W64
  bar     : Option W64
  each    : Bool
  deriving DecidableEq, Repr

/-- Read the shared fields. -/
def fabIn (e : Env) (w : WFrame) (each : Bool) : FabIn :=
  let (startAt, rel) := optionsOf e w
  { prio := w.wflags.getLsbD 2, startAt := startAt, rel := rel, bar := sOrNone e w.srcD, each := each }

/-- The conditions of the release: a global address, or with `.each` an offset in every peer's window. -/
def FabIn.release (x : FabIn) (s : State) (e : Env) (m : W32) (peers : List (BitVec 12)) : Resolve :=
  if x.each then
    match x.rel with
    | some a => { conds := misaligned m a 8 ++ windowConds s peers [(a, 8)] }
    | none => {}
  else s.resolveRelease e m x.rel

/-- The engine of a core's die (R447). -/
def egressOf (core : Nat) : EngineId := .egress (dieOf core)

/-- `CPYR` (R448): the source as for `CPY`, the destination as offsets in each peer's window. -/
def execCpyr (w : WFrame) (s : State) : Host.Outcome State Fault Refusal :=
  issueW w.f.guard (fun e => do
    beginW e (specCpyr w) w
    optionReady e w
    let m := e.active w.f.guard
    if m = 0 then pure ()
    else do
      let x := fabIn e w (bit5 w.f)
      let eng := egressOf e.g.core
      engineRoom e eng x.prio
      peersReady e (e.sl.s (regNo w.srcE))
      let s ← get
      let dstG := e.geomReg w.f.srcA
      let srcG := e.geomReg w.f.srcC
      let dst := Geom.ofReg dstG
      let src := Geom.ofReg srcG
      let dstH := e.sl.s (regNo w.f.dst)
      let srcH := srcSz e w.f.srcB
      let ad := dst.acceptCopy dstH
      let as_ := src.acceptCopy srcH
      let rejects := (if ad.reason?.isNone && dst.space != 0 then [copyReject w 0 2] else []) ++
        (ad.reason?.map (copyReject w 0)).toList ++ (as_.reason?.map (copyReject w 1)).toList
      let shape := if !rejects.isEmpty then [] else if dst.size ≠ src.size then [copyReject w 1 9]
        else if !convOk dst.fmt src.fmt then [copyReject w 1 7] else []
      let (pc, peers) := peerList s e m (e.sl.s (regNo w.srcE))
      let ranges := if dst.reaches dstH then (List.range dst.size).filterMap (fun i => match dst.eval dstH i with
        | .global va bit => some (va, elemBytes bit dst.eb)
        | _ => none) else []
      let rs := s.resolveTile e m src srcH .load (List.range src.size)
      let rr := x.release s e m peers
      let r := rs.and rr
      settleOperands e r (rejects ++ shape ++ pc ++ windowConds s peers ranges ++ barrierConds s e m x.bar)
      let n := peers.length
      let cost := 2500 + permuteCycles ad.cost (8 * dst.byteSize) + permuteCycles as_.cost (8 * src.byteSize) +
        (dst.byteSize * n + 63) / 64
      submit e { blankCommand e eng .cpyr x.prio with
        dstG := dstG, srcG := srcG, dstH := dstH, srcH := srcH, rounding := w.f.variant.extractLsb' 0 2,
        sat := w.f.variant.getLsbD 2, peers := peers, each := x.each, barrier := x.bar, startAt := x.startAt,
        release := x.rel.map (fun a => (a, w.imm)), sysScope := true, bytes := dst.byteSize * n, xlat := r.xlat } cost) s

/-- `STREP` (R448): the same bytes of local store to every peer. -/
def execStrep (w : WFrame) (s : State) : Host.Outcome State Fault Refusal :=
  issueW w.f.guard (fun e => do
    beginW e (specStrep w) w
    optionReady e w
    let m := e.active w.f.guard
    if m = 0 then pure ()
    else do
      let x := fabIn e w (bit5 w.f)
      let eng := egressOf e.g.core
      engineRoom e eng x.prio
      peersReady e (e.sl.s (regNo w.srcE))
      let s ← get
      let dst := e.sl.s (regNo w.f.dst)
      let src : W32 := (e.sl.s (regNo w.f.srcA)).setWidth 32
      let len := (← srcS e w.f.srcB w.lit).toNat
      let lenOk := decide (0 < len) && decide (len ≤ 65536)
      let (pc, peers) := peerList s e m (e.sl.s (regNo w.srcE))
      let r := x.release s e m peers
      settleOperands e r ((if lenOk then rangeConds s e m src len ++ windowConds s peers [(dst, len)] else [fabReject]) ++ pc ++
        barrierConds s e m x.bar)
      let n := peers.length
      submit e { blankCommand e eng .strep x.prio with
        dstH := dst, srcH := src.setWidth 64, listN := len, peers := peers, each := x.each, barrier := x.bar,
        startAt := x.startAt, release := x.rel.map (fun a => (a, w.imm)), sysScope := true, bytes := len * n,
        xlat := r.xlat } (2500 + (len * n + 63) / 64)) s

/-- The bytes of an element of a collective (R453); `.mcast` counts bytes. -/
def collSize (op : Nat) (ty : Nat) : Nat := if op = 3 then 1 else valueWidth ty / 8

/-- The entry of a collective (`fab.coll`, Table 21.1). -/
def Fabric.collOf (f : Fabric) (id : Nat) : Nat :=
  match f.coll.find? (fun p => p.1 == id) with
  | some p => p.2.toNat
  | none => 0

/-- The next instance number of a collective (R451). -/
def Fabric.instance_ (f : Fabric) (id : Nat) : BitVec 32 :=
  match f.collNo.find? (fun p => p.1 == id) with
  | some p => p.2
  | none => 0

/-- `FCOLL` (R451 to R453): the instance is numbered at issue. -/
def execFcoll (w : WFrame) (s : State) : Host.Outcome State Fault Refusal :=
  issueW w.f.guard (fun e => do
    beginW e (specFcoll w) w
    optionReady e w
    let m := e.active w.f.guard
    if m = 0 then pure ()
    else do
      let x := fabIn e w false
      let eng := egressOf e.g.core
      engineRoom e eng x.prio
      let s ← get
      let op := w.f.variant.toNat % 4
      let dst : W32 := (e.sl.s (regNo w.f.dst)).setWidth 32
      let src : W32 := (srcSz e w.f.srcA).setWidth 32
      let count := (← srcS e w.f.srcB w.lit).toNat
      let id := (← srcS e w.f.srcC).toNat
      let len := count * collSize op w.f.ty.toNat
      let entry := s.fabric.collOf id
      let known := decide (id < 1024) && bitAt entry 0
      let gives := op != 3 || bitsAt entry 13 12 == 0
      let r := x.release s e m []
      settleOperands e r (
        (if count = 0 ∨ 65536 < len then [fabReject]
         else rangeConds s e m dst len ++ (if gives then rangeConds s e m src len else [])) ++
        (if known then [] else [{ cause := 0x13, aux0 := BitVec.ofNat 64 id, aux1 := 0xFFF }]) ++ barrierConds s e m x.bar)
      let no := s.fabric.instance_ id
      modify (fun s => { s with fabric := { s.fabric with
        collNo := (id, no + 1) :: s.fabric.collNo.filter (fun p => p.1 != id) } })
      submit e { blankCommand e eng (.fcoll (BitVec.ofNat 2 op) w.f.ty) x.prio with
        dstH := dst.setWidth 64, srcH := src.setWidth 64, option := no.setWidth 64, listN := id, barrier := x.bar,
        startAt := x.startAt, release := x.rel.map (fun a => (a, w.imm)), sysScope := true, bytes := len, xlat := r.xlat,
        form := [BitVec.ofNat 64 count, BitVec.ofNat 64 gives.toNat] } (4000 + (len + 63) / 64)) s

end Sys2Proof.Machine
end

