-- ==== Sys2Proof/Machine/EngineRun.lean ====
section
/-!
DEFINITION. Running engine commands (spec 10_copy.md R242, R250 to R265; 13_die.md R321 to R324; 21_fabric.md R448 to R454):
the events COMMAND_START, ENGINE_BYTE_SUBTRACT, COMMAND_COMPLETE, TILE_TASK_REPLAY, PSEL_COMPLETE, COLL_RESULT_ARRIVE and
COLL_LINE_RESEND. An engine first asks peers for what it reads there, then moves elements, and lands their bytes.
-/
namespace Sys2Proof.Machine

/-! ### The shape of a command -/

/-- The destination's geometry. -/
def Command.dstGeo (c : Command) : Geom := Geom.ofReg c.dstG
/-- The source's geometry. -/
def Command.srcGeo (c : Command) : Geom := Geom.ofReg c.srcG
/-- The rounding mode. -/
def Command.mode (c : Command) : Mode := Mode.ofCode c.rounding.toNat
/-- A word read from a form at issue. -/
def Command.word (c : Command) (i : Nat) : Nat := (c.form.getD i 0).toNat

/-- Is a command computed as a whole before it moves (R255, R257, R261, R448)? -/
def CmdKind.whole : CmdKind → Bool
  | .cpyg => true
  | .cpyz _ dec => !dec
  | .cpym => true
  | .strep => true
  | _ => false

/-- The units that a command moves: destination elements, rows' elements for `CPYS`, bytes of a form or of `STREP`. -/
def Command.units (c : Command) : Nat :=
  match c.kind with
  | .cpys => c.srcGeo.size
  | .cpyz _ false => c.query.length
  | .strep => c.listN
  | .psel => 0
  | .fcoll _ _ => 0
  | _ => c.dstGeo.size

/-- The row that position j of a scatter writes: in range, and no higher position names it (R256). -/
def Command.scatterRow (c : Command) (j : Nat) : Option Nat :=
  let r := (c.idx.getD j 0)
  if r.toNat < c.dstGeo.rowCount ∧ !(c.idx.drop (j + 1)).contains r then some r.toNat else none

/-- The place of a byte of a form. -/
def State.formPlace (s : State) (c : Command) (off : Nat) : List Place := (s.elemPlaces c c.srcGeo c.srcH none off).1

/-- A byte of a form. -/
def State.formByte (s : State) (c : Command) (off : Nat) : Byte := ((s.formPlace c off).map (s.cmdByte c)).headD 0

/-- A number of n bytes of a form. -/
def State.formNat (s : State) (c : Command) (off n : Nat) : Nat :=
  ofBytes ((List.range n).map (fun k => s.formByte c (off + k)))

/-! ### Decoding (R257 to R261) -/

/-- The rank of element i among the values of a flat form; none when it is zero. -/
def flatRank (masks : List Nat) (i : Nat) : Option Nat :=
  let bit (k : Nat) : Bool := (masks.getD (k / 64) 0).testBit (k % 64)
  if bit i then some ((List.range i).filter bit).length else none

/-- Where a flat or hierarchical form holds the value of element i: offset; none when the element is zero. -/
def Command.valueAt (c : Command) (form : BitVec 2) (i : Nat) : Option Nat :=
  let vb := c.dstGeo.eb / 8
  if form = 0 then
    let masks := (c.form.drop 1).map (fun w => w.toNat)
    (flatRank masks i).map (fun r => 8 + 8 * masks.length + vb * r)
  else
    let ws := (c.form.drop 2).map (fun w => w.toNat)
    match hbmHeader (c.word 0 + 2 ^ 64 * c.word 1) c.dstGeo.size vb c.dstGeo.fmt c.srcGeo.size with
    | none => none
    | some h => match h.positions ws with
      | none => none
      | some ps => (ps.findIdx? (fun p => p == i)).map (fun r => 16 + 8 * h.nw + vb * r)

/-- The page, slot, dimension and vector of element i of a dense K/V operand (R260). -/
def kvAt (g : Geom) (i : Nat) : Nat × Nat × Nat × Bool :=
  let t := modeExt (g.modes.getD 1 [])
  let tok := i / 128 % t
  (tok / 240, tok % 240, i % 128, decide (0 < i / 128 / t))

/-- The offsets of a form that the decoding of element i reads. -/
def Command.decOffsets (c : Command) (form : BitVec 2) (i : Nat) : List Nat :=
  if form = 2 then
    let (p, slot, d, v) := kvAt c.dstGeo i
    if slot < c.word p then
      [65536 * p + (if v then 0x7C00 else 0x400) + 128 * slot + d, 65536 * p + (if v then 0xF7C0 else 0xF400) + 4 * slot + d / 32]
    else []
  else match c.valueAt form i with
    | some o => (List.range (c.dstGeo.eb / 8)).map (fun k => o + k)
    | none => []

/-- The value of element i of a decode, with its events. -/
def State.decValue (s : State) (c : Command) (form : BitVec 2) (i : Nat) : Nat × Events :=
  if form = 2 then
    let (p, slot, d, v) := kvAt c.dstGeo i
    if slot < c.word p then kvpValue c.mode c.sat (fun k => s.formByte c (65536 * p + k)) v slot d else (0, 0)
  else match c.valueAt form i with
    | some o => (s.formNat c o (c.dstGeo.eb / 8), 0)
    | none => (0, 0)

/-- The header of a Morton COO form that was read at issue. -/
def Command.coo (c : Command) : Option CooHeader :=
  cooHeader (c.word 0 + 2 ^ 64 * c.word 1 + 2 ^ 128 * c.word 2 + 2 ^ 192 * c.word 3) c.srcGeo.size

/-! ### What a command reads (R248, R250) -/

/-- The places of an element of the source. -/
def State.srcPlaces (s : State) (c : Command) (i : Nat) : List Place := (s.elemPlaces c c.srcGeo c.srcH none i).1

/-- The places that unit i reads when it moves. -/
def State.unitReads (s : State) (c : Command) (i : Nat) : List Place :=
  match c.kind with
  | .cpy => s.srcPlaces c i
  | .cpyr => s.srcPlaces c i
  | .cpys => if (c.scatterRow (i / c.dstGeo.rowLen)).isSome then s.srcPlaces c i else []
  | .cpyz form true => ((c.decOffsets form i).map (s.formPlace c)).flatten
  | _ => []

/-- The places of a page summary (R320). -/
def Command.summaryPlaces (c : Command) (p : Nat) : List Place :=
  (List.range 512).filterMap (fun k => c.placeAt (c.srcH + BitVec.ofNat 64 (p * c.word 1 + k)))

/-- The places that a command reads before it moves. -/
def State.wholeReads (s : State) (c : Command) : List Place :=
  match c.kind with
  | .cpyg => ((rowIx c.srcGeo.rowLen c.srcGeo.rowCount c.idx).map (s.srcPlaces c)).flatten
  | .cpyz _ false => ((List.range c.srcGeo.size).map (s.srcPlaces c)).flatten
  | .cpym => (match c.coo with
    | some h => ((List.range (2 * h.ne)).map (fun k => s.formPlace c (h.co + k))).flatten ++
        ((List.range (h.vb * h.ne)).map (fun k => s.formPlace c (h.vo + k))).flatten
    | none => [])
  | .psel => ((List.range (c.word 0)).map c.summaryPlaces).flatten
  | _ => []

/-- The destination element that unit i writes. -/
def Command.dstOf (c : Command) (i : Nat) : Option Nat :=
  match c.kind with
  | .cpys => let rl := c.dstGeo.rowLen
    (c.scatterRow (i / rl)).map (fun r => i % rl + rl * r)
  | _ => some i

/-- The places that unit i writes at home or at the peer that its address names. -/
def State.unitWrites (s : State) (c : Command) (i : Nat) : List Place :=
  match c.kind with
  | .cpyr => []
  | .strep => []
  | _ => match c.dstOf i with
    | some k => (s.elemPlaces c c.dstGeo c.dstH none k).1
    | none => []

/-- Does a destination element share bytes with its neighbours? -/
def Geom.narrow (g : Geom) : Bool := g.eb % 8 != 0

/-- The bytes that a command asks its peers for: what it reads there, and the bytes around narrow elements that it writes. -/
def State.askBytes (s : State) (c : Command) : List (BitVec 12 × Nat × Byte) :=
  let n := c.units
  let reads := s.wholeReads c ++ (if c.kind.whole then [] else ((List.range n).map (s.unitReads c)).flatten)
  let around : List Place :=
    if c.kind = .strep || !c.dstGeo.narrow then []
    else if c.kind = .cpyr then
      (c.peers.map (fun p => ((List.range n).map (fun i => (s.elemPlaces c c.dstGeo c.dstH (some p) i).1)).flatten)).flatten
    else ((List.range n).map (s.unitWrites c)).flatten
  (reads ++ around).filterMap (fun p => match p with
    | .fabric q off => some (q, off, 0)
    | _ => none)

/-- The storage line of a poisoned place among some (R391). -/
def State.poisonAmong (s : State) (ps : List Place) : Option Nat :=
  ps.findSome? (fun p => match p with
    | .mem pa => if s.poisoned pa then some pa else none
    | _ => none)

/-- Must a command wait for a host port that has been down for less than 10 ms (R413)? -/
def State.portWait (s : State) (ps : List Place) : Bool :=
  ps.any (fun p => match p with
    | .host pa => !s.portUp pa && !s.hostRefused pa
    | _ => false)

/-- Note the lines of host memory that a dead port refuses (R450): `val` is the port. -/
def State.noteHost (s : State) (ps : List Place) (r : CmdResult) : CmdResult :=
  ((ps.filterMap (fun p => match p with
    | .host pa => if s.hostRefused pa then some (pa / 128) else none
    | _ => none)).eraseDups).foldl (fun r line => r.refuse false (BitVec.ofNat 32 (bitsAt line 43 1))) r

/-- Note an outcome of the command itself, unless a request was refused or failed. -/
def CmdResult.note (r : CmdResult) (out : BitVec 3) (cnt : Nat) (val : W32) : CmdResult :=
  if r.out = 5 ∨ r.out = 6 then r else { r with out := out, cnt := cnt, val := val }

/-! ### Computing a whole (R255, R257 to R261) -/

/-- Pack elements as whole bytes each. -/
def packElems (g : Geom) (xs : List Nat) : List Byte := (xs.map (toBytes ((g.eb + 7) / 8))).flatten

/-- Element i of a packed list. -/
def Command.packed (c : Command) (i : Nat) : Nat :=
  let n := (c.dstGeo.eb + 7) / 8
  ofBytes ((c.query.drop (n * i)).take n)

/-- The elements of a gather, with events (R255). -/
def State.gatherAll (s : State) (c : Command) : List Nat × Events :=
  let rl := c.srcGeo.rowLen
  (List.range c.dstGeo.size).foldl (fun acc i =>
    let row := (c.idx.getD (i / rl) 0).toNat
    if row < c.srcGeo.rowCount then
      let (x, ev) := convElem c.dstGeo.fmt c.srcGeo.fmt c.mode c.sat (s.cmdElem c c.srcGeo c.srcH (i % rl + rl * row))
      (acc.1 ++ [x], acc.2 ||| ev)
    else (acc.1 ++ [0], acc.2)) ([], 0)

/-- The KVP pages of a dense operand (R260). -/
def kvpPages' (mode : Mode) (layer head : Nat) (xs : List Nat) (t : Nat) : List Byte × Events :=
  let row (v tok : Nat) : List Nat := (xs.drop (128 * (tok + t * v))).take 128
  (List.range (kvpPages t)).foldl (fun acc p =>
    let toks := (List.range (min 240 (t - 240 * p))).map (fun k => 240 * p + k)
    let (bs, ev) := kvpPage mode layer head (toks.map (row 0)) (toks.map (row 1))
    (acc.1 ++ bs, acc.2 ||| ev)) ([], 0)

/-- The form that an encode writes, with events. -/
def Command.encode (c : Command) (form : BitVec 2) (xs : List Nat) : List Byte × Events :=
  let g := c.srcGeo
  if form = 0 then (flatForm (g.eb / 8) g.fmt xs, 0)
  else if form = 1 then (hbmForm (g.eb / 8) g.fmt xs, 0)
  else kvpPages' c.mode (bitsAt c.option.toNat 0 32) (bitsAt c.option.toNat 32 16) xs (modeExt (g.modes.getD 1 []))

/-- The elements that a Morton COO form gives: every element +0, then the entries; with events and the entries skipped. -/
def State.cooAll (s : State) (c : Command) : List Nat × Events × Nat :=
  match c.coo with
  | none => ([], 0, 0)
  | some h =>
    let (es, sk) := cooEntries h (fun off n => s.formNat c off n) ((c.form.drop 4).map (fun w => w.toNat))
    let (xs, ev) := es.foldl (fun (acc : List Nat × Events) e =>
      let (x, ev) := convElem c.dstGeo.fmt h.fmt c.mode c.sat e.2
      (acc.1.set e.1 x, acc.2 ||| ev)) (List.replicate c.dstGeo.size 0, 0)
    (xs, ev, sk)

/-- Read the bytes of `STREP`'s source (R448). -/
def State.strepBytes (s : State) (c : Command) : List Byte := (s.cmdLs c (c.srcH.setWidth 32) c.listN).map (s.cmdByte c)

/-- Compute what a command computes as a whole. -/
def State.computeWhole (s : State) (c : Command) : Command :=
  let c := { c with ready := true, result := s.noteHost (s.wholeReads c) c.result }
  match c.kind with
  | .cpyg =>
    let (xs, ev) := s.gatherAll c
    { c with query := packElems c.dstGeo xs, result := { c.result with ev := c.result.ev ||| ev } }
  | .cpyz form false =>
    let (bs, ev) := c.encode form ((List.range c.srcGeo.size).map (s.cmdElem c c.srcGeo c.srcH))
    let r := { c.result with ev := c.result.ev ||| ev }
    if c.dstGeo.size < bs.length then { c with query := [], result := r.note 2 0 (BitVec.ofNat 32 bs.length) }
    else { c with query := bs, result := r.note 0 0 (BitVec.ofNat 32 bs.length) }
  | .cpym =>
    let (xs, ev, sk) := s.cooAll c
    let r := { c.result with ev := c.result.ev ||| ev }
    { c with query := packElems c.dstGeo xs, result := if sk = 0 then r else r.note 3 sk 0 }
  | .strep => { c with query := s.strepBytes c }
  | _ => c

/-! ### Moving units -/

/-- The value that unit i writes, with its events. -/
def State.unitValue (s : State) (c : Command) (i : Nat) : Nat × Events :=
  match c.kind with
  | .cpyg => (c.packed i, 0)
  | .cpym => (c.packed i, 0)
  | .cpyz _ false => ((c.query.getD i 0).toNat, 0)
  | .cpyz form true => s.decValue c form i
  | _ => convElem c.dstGeo.fmt c.srcGeo.fmt c.mode c.sat (s.cmdElem c c.srcGeo c.srcH i)

/-- A run of moves: the state, the command, the bytes for peers, the places written at home. -/
structure Run where
  s    : State
  c    : Command
  out  : List (BitVec 12 × Nat × Byte)
  home : List Place
  deriving DecidableEq, Repr

/-- Store an element, at home or at a peer. Bytes of narrow elements sent to a peer are remembered for their neighbours. -/
def Run.store (r : Run) (peer : Option (BitVec 12)) (k x : Nat) : Run :=
  let g := r.c.dstGeo
  let (s1, out) := r.s.cmdStore r.c g r.c.dstH peer k x
  { s := s1,
    c := if g.narrow then { r.c with fetched := out.foldl (fun m y => m.write (peerKey y.1 y.2.1) y.2.2) r.c.fetched } else r.c,
    out := r.out ++ out, home := r.home ++ (r.s.elemPlaces r.c g r.c.dstH peer k).1 }

/-- Move unit i: its source is read once, whatever the number of peers (R448). -/
def Run.move (r : Run) (i : Nat) : Run :=
  match r.c.kind with
  | .strep =>
    let b := r.c.query.getD i 0
    { r with out := r.out ++ r.c.peers.map (fun p => (p, (r.c.dstH.toNat + i) % 2 ^ 43, b)) }
  | _ =>
    match r.c.dstOf i with
    | none => r
    | some k =>
      let (x, ev) := r.s.unitValue r.c i
      let r1 := { r with c := { r.c with result := { r.c.result with ev := r.c.result.ev ||| ev } } }
      if r.c.kind = .cpyr then r.c.peers.foldl (fun r p => r.store (some p) k x) r1 else r1.store none k x

/-- The lines that bytes written at home cover whole (R391). -/
def homeLines (ps : List Place) : List Nat :=
  let as_ := (ps.filterMap (fun p => match p with | .mem pa => some pa | _ => none)).foldl insertNat []
  ((as_.map (fun a => a / 128)).eraseDups).filter (fun l => (as_.filter (fun a => a / 128 == l)).length == 128)

/-- Bytes of a command at peers that have not been answered. -/
def State.unlanded (s : State) (i : EngineId) : Nat :=
  s.fabric.outs.foldl (fun n o => match o.owner with
    | .command e _ b => if e = i then n + b else n
    | _ => n) 0

/-- The result lines of a collective. -/
def Command.collLines (c : Command) : Nat := (c.bytes + 127) / 128

/-- Have all the bytes that a command writes been written or sent? -/
def Command.allMoved (c : Command) : Bool :=
  match c.kind with
  | .fcoll _ _ => (List.range c.collLines).all (fun j => c.lines.contains j)
  | .psel => c.ready
  | _ => c.ready && decide (c.units ≤ c.moved)

/-- Subtract what has landed of the running command since the last time (R251): a share of B in proportion to the units
moved, less what peers have still to acknowledge. -/
def State.landSome (s : State) (i : EngineId) : State :=
  match (s.engine i).running with
  | none => s
  | some c =>
    let due := (if c.allMoved then c.bytes else c.bytes * c.moved / max 1 c.units) - s.unlanded i
    s.cmdLand c (due - c.landed)

/-- The units that may move at once when bytes go to peers: at most 4,096 lines (R438). -/
def State.unitLimit (s : State) (c : Command) : Nat :=
  let remote := match c.kind with
    | .cpyr => true
    | .strep => true
    | _ => (s.unitWrites c 0).any (fun p => match p with | .fabric _ _ => true | _ => false)
  if remote then max 1 (2048 / max 1 c.peers.length) else c.units

/-- The atomic unit in which a byte lies (R158, R335): a 16-byte bank word, or an aligned 8-byte quantity. -/
def Place.unit : Place → Place
  | .mem pa => .mem (pa / 8 * 8)
  | .host pa => .host (pa / 8 * 8)
  | .fabric p off => .fabric p (off / 8 * 8)
  | .ls w h off => .ls w h (off / 16 * 16)

/-- The units from `lo` below `hi` of what a command reads or writes. -/
def unitsOf (f : Nat → List Place) (lo hi : Nat) : List Place :=
  (((List.range (hi - lo)).map (fun k => (f (lo + k)).map Place.unit)).flatten).eraseDups

/-- Does a portion that ends before unit `hi` share no atomic unit with what stays to be moved (R264, R335)? -/
def State.cleanCut (s : State) (c : Command) (hi : Nat) : Bool :=
  let apart (f : Nat → List Place) : Bool :=
    let rest := unitsOf f hi c.units
    (unitsOf f c.moved hi).all (fun p => !rest.contains p)
  apart (s.unitReads c) && apart (s.unitWrites c)

/-- The end of a portion of about n units: the first clean cut from there on, else the last one before. Where the units that the
peers' windows take at once hold none, the portion ends after n units (DESIGN CHOICE, notes/assumptions/29.md). -/
def State.portionEnd (s : State) (c : Command) (n : Nat) : Nat :=
  let top := min c.units (c.moved + s.unitLimit c)
  match ((List.range (top + 1 - (c.moved + n))).map (fun k => c.moved + n + k)).find? (s.cleanCut c) with
  | some h => h
  | none => (((List.range (n - 1)).map (fun k => c.moved + n - 1 - k)).find? (s.cleanCut c)).getD (c.moved + n)

/-- Send reads to peers, line by line, while the windows have room (R438). -/
def State.askLines (s : State) (i : EngineId) : List (BitVec 12 × Nat × List (Nat × Byte)) → State
  | [] => s
  | x :: l =>
    if 4096 ≤ s.fabric.unanswered x.1 then s
    else
      ((s.sendReq x.1 (cmdRequest s.fabric.dev true x.2.1 x.2.2) (.command i x.1 0)).modRunning i
        (fun c => { c with waiting := c.waiting + 1, asked := c.asked + 1 })).askLines i l

/-- Make a command ready: ask the peers, wait for them, then compute what is computed as a whole. A poisoned line, a port that is
down or requests ahead in a bank keep it waiting. -/
def State.makeReady (s : State) (i : EngineId) (c : Command) : State :=
  let lines := (groupLines (s.askBytes c)).drop c.asked
  if !lines.isEmpty then s.askLines i lines
  else if c.waiting ≠ 0 then s
  else
    let ps := s.wholeReads c
    if (s.poisonAmong ps).isSome || s.portWait ps || s.placesBehind ps then s
    else s.modRunning i (fun _ => s.computeWhole c)

/-- Move about `limit` units of a command that is ready: a portion ends where no atomic unit is cut (R264, R335, R347), and waits
for requests ahead in the banks that it touches (R158). -/
def State.moveUnits (s : State) (i : EngineId) (c : Command) (limit : Nat) : State :=
  let want := min (min limit (s.unitLimit c)) (c.units - c.moved)
  let n := if want = 0 then 0 else s.portionEnd c want - c.moved
  let is_ := (List.range n).map (fun k => c.moved + k)
  let reads := (is_.map (s.unitReads c)).flatten
  let writes := (is_.map (s.unitWrites c)).flatten
  if n = 0 || (s.poisonAmong reads).isSome || s.portWait (reads ++ writes) || s.placesBehind (reads ++ writes) then s
  else
    let c1 := { c with moved := c.moved + n, result := s.noteHost (reads ++ writes) c.result }
    let r := is_.foldl (fun (r : Run) i => r.move i) { s := s, c := c1, out := [], home := [] }
    if s.windowFull r.out then s
    else
      let s1 := (r.s.modRunning i (fun _ => r.c)).clearPoison (homeLines r.home)
      (s1.cmdSend i false r.out).landSome i

/-- Run a command of an engine further: make it ready, then move units. -/
def State.cmdAdvance (s : State) (i : EngineId) (limit : Nat) : State :=
  let s1 := match (s.engine i).running with
    | some c => if c.ready then s else s.makeReady i c
    | none => s
  match (s1.engine i).running with
  | some c => if c.ready then s1.moveUnits i c limit else s1
  | none => s1

/-! ### Release and completion (R252, R449, R450) -/

/-- The packet of an 8-byte release store at a peer. -/
def releaseReq (dev : BitVec 12) (off : Nat) (v : W32) : FabReq :=
  { cmdRequest dev false 0 ((List.range 8).zip (toBytes 8 v.toNat) |>.map (fun x => (off + x.1, x.2))) with
    off := BitVec.ofNat 43 off }

/-- Send the release store of a command to a peer. -/
def State.sendRelease (s : State) (i : EngineId) (p : BitVec 12) (off : Nat) (v : W32) : State :=
  (s.sendReq p (releaseReq s.fabric.dev off v) (.releaseOf i)).modRunning i
    (fun c => { c with waiting := c.waiting + 1, relDone := c.relDone ++ [p] })

/-- The peers that still have unanswered data of an engine's command. -/
def State.pendingPeer (s : State) (i : EngineId) (p : BitVec 12) : Bool :=
  s.fabric.outs.any (fun o => match o.owner with
    | .command e q _ => e == i && q == p
    | _ => false)

/-- Make the releases that can be made now: without `.each` one, once everything has landed and nothing was refused; with it
one at each peer that has acknowledged its bytes. -/
def State.makeReleases (s : State) (i : EngineId) (c : Command) : State :=
  match c.release with
  | none => s
  | some (a, v) =>
    if c.each then
      (c.peers.eraseDups).foldl (fun s p =>
        if c.relDone.contains p || c.badPeers.contains p || s.pendingPeer i p then s
        else s.sendRelease i p a.toNat v) s
    else if c.relDone ≠ [] ∨ c.waiting ≠ 0 ∨ c.result.out = 5 ∨ c.result.out = 6 then s
    else match c.placeAt a with
      | some (.fabric p off) => s.sendRelease i p off v
      | some (.host pa) =>
        if s.portWait [.host pa] then s
        else if s.hostRefused pa then
          s.modRunning i (fun c => { c with relDone := [0], result := c.result.refuse false (BitVec.ofNat 32 (bitsAt pa 50 1)) })
        else (s.writePlace c.core (.host pa) (toBytes 8 v.toNat)).modRunning i (fun c => { c with relDone := [0] })
      | some p => (s.writePlace c.core p (toBytes 8 v.toNat)).modRunning i (fun c => { c with relDone := [0] })
      | none => s.modRunning i (fun c => { c with relDone := [0] })

/-- Are the releases of a command made, as far as they are to be made? -/
def Command.released (c : Command) : Bool :=
  match c.release with
  | none => true
  | some _ =>
    if c.each then c.peers.all (fun p => c.relDone.contains p || c.badPeers.contains p)
    else c.relDone != [] || c.result.out == 5 || c.result.out == 6

/-- Complete the running command of an engine when nothing of it is left to do. -/
def State.closeCmd (s : State) (i : EngineId) (extra : Command → Option W64) : State :=
  match (s.engine i).running with
  | none => s
  | some c =>
    if !c.allMoved then s
    else
      let s1 := (s.makeReleases i c).landSome i
      match (s1.engine i).running with
      | none => s1
      | some c1 => if c1.waiting = 0 && c1.released then s1.finishCmd c1 (extra c1) else s1

/-- Write the result of a collective whose lines have come (R452); one that does not match writes nothing (R454). -/
def State.writeColl (s : State) (i : EngineId) (c : Command) : State :=
  if !c.allMoved || c.ready || s.placesBehind (s.cmdLs c (c.dstH.setWidth 32) c.bytes) then s
  else
    let s1 := if c.result.out = 4 then s else
      match (s.cmdLs c (c.dstH.setWidth 32) c.bytes).head? with
      | some (.ls w h off) => s.lsWrite w h off (c.fetched.readBytes 0 c.bytes)
      | _ => s
    s1.modRunning i (fun c => { c with ready := true })

/-! ### Starting (R250, R440) -/

/-- The group's subcore. -/
def State.cmdSub (s : State) (c : Command) : Nat := ((s.group? c.grp).map (fun g => g.sub)).getD 0

/-- The ports that are up of a collective's planes, ascending (R452). -/
def Fabric.upPlanes (f : Fabric) (mask : Nat) : List Nat :=
  (List.range 48).filter (fun p => mask.testBit p && (match f.ports[p]? with | some x => x.up | none => false))

/-- What a command reads from local store when it starts: the query of `PSEL` (R321), the contribution of `FCOLL` (R452). -/
def State.startReads (s : State) (c : Command) : List Place :=
  match c.kind with
  | .psel => s.cmdLs c (c.option.setWidth 32) 256
  | .fcoll _ _ => if c.word 1 = 0 then [] else s.cmdLs c (c.srcH.setWidth 32) c.bytes
  | _ => []

/-- Can a command start: its instant has come, its fence points are closed, no request stands before what it reads, a collective has
a plane? -/
def State.canStart (s : State) (c : Command) : Bool :=
  (match c.startAt with | some t => decide (t.toNat ≤ s.ptb (engineDie c.engine)) | none => true) &&
  c.fences.all (fun p => !s.pointOpen c.core (s.cmdSub c) p) && !s.placesBehind (s.startReads c) &&
  (match c.kind with
    | .fcoll _ _ => !(s.fabric.upPlanes (bitsAt (s.fabric.collOf c.listN) 32 48)).isEmpty
    | _ => true)

/-- The command that an engine starts next, and the engine without it (R242). -/
def State.pickCmd (s : State) (i : EngineId) : Option (Command × Engine) :=
  let q := s.engine i
  let d := s.die (engineDie i)
  if q.running.isSome || d.fenced then none
  else
    match q.prio with
    | c :: l => if s.canStart c then some (c, { q with prio := l }) else
      (match q.normal with
        | b :: m => if s.canStart b then some (b, { q with normal := m }) else none
        | [] => none)
    | [] => match q.normal with
      | b :: m => if s.canStart b then some (b, { q with normal := m }) else none
      | [] => none

/-- The peers that a command writes to. -/
def State.destPeers (s : State) (c : Command) : List (BitVec 12) :=
  if c.kind = .cpyr ∨ c.kind = .strep then c.peers.eraseDups
  else
    (((List.range c.dstGeo.size).map (fun k => (s.elemPlaces c c.dstGeo c.dstH none k).1)).flatten.filterMap (fun p => match p with
      | .fabric q _ => some q
      | _ => none)).eraseDups

/-- Send a correlation packet to each destination ahead of the data (R440); the part itself needs no packet (R433). -/
def State.sendCorr (s : State) (c : Command) : State :=
  if c.corr.getLsbD 31 then
    { s with fabric := { s.fabric with sent := s.fabric.sent ++ ((s.destPeers c).filter (fun p => p != s.fabric.dev)).map (fun p =>
        .correlation p c.corr (BitVec.ofNat 16 (engineIdent c.engine)) (BitVec.ofNat 2 c.queueCode) c.seq) } }
  else s

/-- The bytes that a member contributes to line j of a collective. -/
def contribution (bs : List Byte) (j : Nat) : List Byte := (bs.drop (128 * j)).take 128

/-- The plane of line j: the planes counted at the start stand behind the first two words of `form`. -/
def Command.planeOf (c : Command) (j : Nat) : Nat := c.word (2 + j % (c.form.length - 2))

/-- The packet of line j of a contribution. -/
def Command.contribute (c : Command) (j plane : Nat) : FabMsg :=
  match c.kind with
  | .fcoll op ty => .contribution c.listN (c.option.setWidth 32) j plane op ty (c.word 0) (contribution c.query j)
  | _ => .contribution c.listN 0 j plane 0 0 0 []

/-- Start a collective: the contribution is read and its lines go to the planes (R452). -/
def State.startColl (s : State) (i : EngineId) (c : Command) : State :=
  let planes := s.fabric.upPlanes (bitsAt (s.fabric.collOf c.listN) 32 48)
  let bs := (s.startReads c).map (s.cmdByte c)
  let c1 := { c with query := bs, form := c.form ++ planes.map (BitVec.ofNat 64) }
  { s.modRunning i (fun _ => c1) with
    fabric := { s.fabric with sent := s.fabric.sent ++ (List.range c1.collLines).map (fun j => c1.contribute j (c1.planeOf j)) } }

/-- COMMAND_START (R242, R250). -/
def execCommandStart (i : EngineId) (s : State) : Host.Outcome State Fault Refusal :=
  match s.pickCmd i with
  | none => .next s
  | some (c, q) =>
    let c1 := { c with started := true }
    let s1 := (s.modEngine i (fun _ => { q with running := some c1 })).traceCmdIf c1 0x02 c1.bytes
    match c1.kind with
    | .psel => .next (s1.modRunning i (fun c =>
        { c with query := (s.startReads c).map (s.cmdByte c) }))
    | .fcoll _ _ => .next (s1.startColl i c1)
    | _ => .next (s1.sendCorr c1)

/-- Is an engine free to run: its die is in service? -/
def State.engineOk (s : State) (i : EngineId) : Bool := !(s.die (engineDie i)).fenced

/-- ENGINE_BYTE_SUBTRACT (R251): a chunk of elements moves, and its bytes are subtracted. -/
def execEngineByteSubtract (i : EngineId) (elems : Nat) (s : State) : Host.Outcome State Fault Refusal :=
  if s.engineOk i then .next (s.cmdAdvance i elems) else .next s

/-- COMMAND_COMPLETE (R252): the command runs on; when all it writes is performed, the release store is made and the status
entry pushed. `PSEL` completes under PSEL_COMPLETE. -/
def execCommandComplete (i : EngineId) (s : State) : Host.Outcome State Fault Refusal :=
  match (s.engine i).running with
  | none => .next s
  | some c =>
    if !s.engineOk i then .next s
    else match c.kind with
      | .psel => .next s
      | .fcoll _ _ => .next ((s.writeColl i c).closeCmd i (fun _ => none))
      | _ => .next ((s.cmdAdvance i c.units).closeCmd i (fun _ => none))

/-- The result of a command before it ran. -/
def Command.freshResult (c : Command) : CmdResult :=
  match c.kind with
  | .cpyg => indexResult c.srcGeo.rowCount c.idx
  | .cpys => indexResult c.dstGeo.rowCount c.idx
  | _ => { ev := 0, cnt := 0, val := 0, out := 0 }

/-- A command at its boundary: it runs afresh; what was subtracted and released stays done (R265). -/
def Command.atBoundary (c : Command) : Command :=
  { c with ready := false, moved := 0, asked := 0, fetched := [], badPeers := [], result := c.freshResult,
           query := match c.kind with | .psel => c.query | .fcoll _ _ => c.query | _ => [] }

/-- TILE_TASK_REPLAY (R265): the running command starts again from its boundary. A collective sends its open lines again. -/
def execTileTaskReplay (i : EngineId) (s : State) : Host.Outcome State Fault Refusal :=
  match (s.engine i).running with
  | none => .next s
  | some c =>
    match c.kind with
    | .fcoll _ _ =>
      .next { s with fabric := { s.fabric with sent := s.fabric.sent ++
        ((List.range c.collLines).filter (fun j => !c.lines.contains j)).map (fun j => c.contribute j (c.planeOf j)) } }
    | _ => .next (s.modRunning i Command.atBoundary)

/-! ### Page selection (R322, R323) -/

/-- BF16 codes of a byte list. -/
def codes16 (n : Nat) (bs : List Byte) : List Nat := elementsOf 2 n bs

/-- The scores of all pages, with events. -/
def State.pselScores (s : State) (c : Command) : List Nat × Events :=
  let q := codes16 128 c.query
  (List.range (c.word 0)).foldl (fun acc p =>
    let bs := (c.summaryPlaces p).map (s.cmdByte c)
    let (x, ev) := pselScore q (codes16 128 (bs.take 256)) (codes16 128 (bs.drop 256))
    (acc.1 ++ [x], acc.2 ||| ev)) ([], 0)

/-- PSEL_COMPLETE (R322, R323): the output is written and the entries are pushed. -/
def execPselComplete (cluster : Nat) (s : State) : Host.Outcome State Fault Refusal :=
  let i : EngineId := .psel cluster
  match (s.engine i).running with
  | none => .next s
  | some c =>
    if !s.engineOk i then .next s
    else
      let s1 := if c.ready then s else s.makeReady i c
      match (s1.engine i).running with
      | none => .next s1
      | some c1 =>
        let out := s1.cmdLs c1 (c1.dstH.setWidth 32) (8 * c1.listN)
        if !c1.ready || s1.placesBehind out then .next s1
        else
          let (xs, ev) := s1.pselScores c1
          let s2 := match out.head? with
            | some (.ls w h off) => s1.lsWrite w h off (pselOutput c1.listN xs)
            | _ => s1
          let s3 := s2.modRunning i (fun c => { c with result := { c.result with ev := ev } })
          .next (s3.closeCmd i (fun c => some c.selection))

/-! ### Collectives (R452 to R454) -/

/-- One step of a `.sum`: a ← a + x in FP32. -/
def collAdd (a : Nat × Events) (x : Nat) : Nat × Events :=
  let (v, e1) := exactSum [(readF .f32 a.1).1, (readF .f32 x).1]
  let (r, e2) := roundTo .f32 v .rne false
  (r, a.2 ||| e1 ||| e2)

/-- A contribution as FP32, exactly. -/
def collRead (f : Fmt) (x : Nat) : Nat × Events :=
  let (v, e1) := readF f x
  ((roundTo .f32 v .rne false).1, e1)

/-- The sum of a leaf or of the spine: from the first partial result on. -/
def collSum : List (Nat × Events) → Nat × Events
  | [] => (0, 0)
  | x :: l => l.foldl (fun a y => let (r, ev) := collAdd a y.1; (r, ev ||| y.2)) x

/-- Combine the contributions to one element, by leaf (R452, R453). -/
def collElem (op : BitVec 2) (ty : BitVec 4) (leaves : List (List Nat)) : Nat × Events :=
  let t := Ty.ofCode .u32 ty
  match t with
  | .fl f =>
    if op = 0 then
      let (a, ev) := collSum (leaves.map (fun l => collSum (l.map (collRead f))))
      if f = .bf16 then let (r, e2) := roundTo .bf16 (readF .f32 a).1 .rne false; (r, ev ||| e2) else (a, ev)
    else
      let all := leaves.flatten
      let ev := all.foldl (fun ev x => ev ||| (readF f x).2) 0
      match all with
      | [] => (0, ev)
      | x :: l => (l.foldl (fMinMax (op == 2) f) x, ev)
  | t =>
    match leaves.flatten with
    | [] => (0, 0)
    | x :: l => (l.foldl (fun a b =>
        if (readInt t.signed t.width b < readInt t.signed t.width a) == (op == 1) then b else a) x, 0)

/-- Combine the contributions to a line; `.mcast` gives member 0's bytes. -/
def collLine (op : BitVec 2) (ty : BitVec 4) (n : Nat) (leaves : List (List (List Byte))) : List Byte × Events :=
  if op = 3 then (leaves.flatten.flatten, 0)
  else
    let sz := collSize op.toNat ty.toNat
    (List.range (n / sz)).foldl (fun acc k =>
      let (r, ev) := collElem op ty (leaves.map (fun l => l.map (fun bs => ofBytes ((bs.drop (sz * k)).take sz))))
      (acc.1 ++ toBytes sz r, acc.2 ||| ev)) ([], 0)

/-- The bytes of line j of a collective. -/
def Command.lineLen (c : Command) (j : Nat) : Nat := min 128 (c.bytes - 128 * j)

/-- COLL_RESULT_ARRIVE (R452 to R454): a line of the combined result reaches this member; contributions that differ end the
instance with outcome 4. -/
def execCollResultArrive (die line : Nat) (leaves : List (List (List Byte))) (mismatch : Bool) (s : State) :
    Host.Outcome State Fault Refusal :=
  let i : EngineId := .egress die
  match (s.engine i).running with
  | none => .next s
  | some c =>
    match c.kind with
    | .fcoll op ty =>
      if mismatch then
        .next (s.modRunning i (fun c => { c with lines := List.range c.collLines, result := c.result.note 4 0 0 }))
      else
        let (bs, ev) := collLine op ty (c.lineLen line) leaves
        if c.lines.contains line || decide (c.collLines ≤ line) || bs.length != c.lineLen line ||
            leaves.any (fun l => l.any (fun b => b.length != c.lineLen line)) then .next s
        else
          .next (s.modRunning i (fun c =>
            { c with lines := c.lines ++ [line], fetched := c.fetched.writeBytes (128 * line) bs,
                     result := { c.result with ev := c.result.ev ||| ev } }))
    | _ => .next s

/-- The plane that follows a plane among those that are up, in ascending order around (R454). -/
def nextPlane (up : List Nat) (p : Nat) : Option Nat := (up.find? (fun q => decide (p < q))).or up.head?

/-- COLL_LINE_RESEND (R454): 20 µs after a plane went down, its open lines go again on the next up plane of the mask. -/
def execCollLineResend (die plane : Nat) (s : State) : Host.Outcome State Fault Refusal :=
  let i : EngineId := .egress die
  match (s.engine i).running, s.fabric.ports[plane]? with
  | some c, some p =>
    match c.kind, nextPlane (s.fabric.upPlanes (bitsAt (s.fabric.collOf c.listN) 32 48)) plane with
    | .fcoll _ _, some q =>
      let open_ := (List.range c.collLines).filter (fun j => !c.lines.contains j && c.planeOf j == plane)
      if p.up || s.time < p.downAt + 200000 || open_.isEmpty then .next s
      else
        let form := c.form.take 2 ++ (c.form.drop 2).map (fun w => if w.toNat = plane then BitVec.ofNat 64 q else w)
        .next { s.modRunning i (fun c => { c with form := form }) with
                fabric := { s.fabric with sent := s.fabric.sent ++ open_.map (fun j => c.contribute j q) } }
    | _, _ => .next s
  | _, _ => .next s

end Sys2Proof.Machine
end

