-- ==== Sys2Proof/Machine/System.lean ====
section
/-!
DEFINITION. System registers, `TLBI`, trace and profiling instructions (spec 01_group.md R16, R17; 03_numbers.md R88;
05_group_float_lanes.md R141 to R143; 12_cluster.md R282; 13_die.md R311 to R314; 18_debug.md R394 to R404).
-/
namespace Sys2Proof.Machine

/-! ### Reading system registers (R16, R17) -/

/-- A counter register as a word (Table 3.6). -/
def EvCounter.word (c : EvCounter) : Nat := c.thr.toNat + c.count.toNat * 2 ^ 16 + c.win.toNat * 2 ^ 32

/-- The value of a system register at issue; 0 for a number that no table assigns. -/
def State.sysRead (s : State) (e : Env) (n : Nat) : Nat :=
  let d := s.die (dieOf e.g.core)
  match n with
  | 0x00 => 32
  | 0x01 => e.cur.a.toNat
  | 0x02 => e.g.num
  | 0x03 => e.w.index.toNat
  | 0x04 => if e.w.item then 0 else e.g.core % 8
  | 0x05 => clusterOf e.g.core % 8
  | 0x06 => dieOf e.g.core
  | 0x07 => s.fabric.dev.toNat
  | 0x10 => e.sl.cause.toNat
  | 0x11 => e.sl.aux0.toNat
  | 0x12 => e.sl.aux1.toNat
  | 0x13 => e.sl.epc.toNat
  | 0x14 => e.sl.skid.toNat
  | 0x15 => e.sl.fpc.toNat
  | 0x20 => e.sl.gbank.toNat
  | 0x21 => e.sl.estat.toNat
  | 0x22 => (s.core e.g.core).lothr.toNat
  | 0x23 => e.sl.corr.toNat
  | 0x30 => d.dcyc
  | 0x31 => s.ptb (dieOf e.g.core)
  | 0x40 => e.sl.evctl.toNat
  | 0x48 => e.sl.emask.toNat
  | 0x49 => e.sl.hmode.toNat
  | 0x4A => e.sl.hscr0.toNat
  | 0x4B => e.sl.hscr1.toNat
  | 0x50 => 256 * e.w.lsize
  | 0x51 => (e.tags e.w).length
  | 0x52 => 16 * e.g.sub + e.g.slot
  | 0x58 => e.sl.lgeom.toNat
  | 0x60 => if e.w.item then 0 else e.w.member + 8 * (e.w.ksize - 1)
  | 0x61 => (onGCluster e.g.core).toNat + 2 * e.w.item.toNat
  | 0x68 => d.stretched
  | 0x69 => e.w.asn.toNat
  | 0x6A => e.g.half1.toNat + 2 * e.w.pair.toNat
  | 0x70 => s.fabric.ftoff.toNat
  | _ => if 0x41 ≤ n ∧ n ≤ 0x46 then ((e.sl.evc[n - 0x41]?).getD EvCounter.reset).word else 0

/-- `SRD` (R17). -/
def bodySrd (f : FFrame) : Body := fun e => do
  begin_ e (specSrd f) f none
  let s ← get
  dstS e (e.active f.guard) f.dst (BitVec.ofNat 64 (s.sysRead e f.srcC.toNat))
  pure 0

/-- `SRD`. -/
def execSrd (f : FFrame) (s : State) : Host.Outcome State Fault Refusal := issueF f.guard (bodySrd f) s

/-! ### Writing system registers (R17, R88) -/

/-- Write a counter register (R88): threshold and window take the value, the count returns to 0 and the class's hit bit is
cleared. -/
def Slice.writeEvc (sl : Slice) (c : Nat) (v : W64) : Slice :=
  let k := (sl.evc[c]?).getD EvCounter.reset
  { sl with evc := sl.evc.setIfInBounds c { k with thr := v.setWidth 16, win := v.extractLsb' 32 32, count := 0 },
            evctl := BitVec.ofNat 18 (setBits sl.evctl.toNat (12 + c) 1 0) }

/-- Write a register of the slice, each field by its access code (R17). -/
def Slice.sysWrite (sl : Slice) (n : Nat) (v : W64) : Slice :=
  match n with
  | 0x10 => { sl with cause := v.setWidth 8 }
  | 0x11 => { sl with aux0 := v }
  | 0x12 => { sl with aux1 := v }
  | 0x13 => { sl with epc := v.setWidth 56 }
  | 0x15 => { sl with fpc := v.setWidth 56 }
  | 0x21 => { sl with estat := sl.estat &&& ~~~(v.setWidth 6) }
  | 0x23 => { sl with corr := v.setWidth 32 }
  | 0x40 => { sl with evctl := sl.evctl.extractLsb' 12 6 ++ v.extractLsb' 0 12 }
  | 0x48 => { sl with emask := v.setWidth 33 }
  | 0x4A => { sl with hscr0 := v }
  | 0x4B => { sl with hscr1 := v }
  | 0x58 => { sl with lgeom := v.setWidth 6 }
  | _ => if 0x41 ≤ n ∧ n ≤ 0x46 then sl.writeEvc (n - 0x41) v else sl

/-- `SWR` (R17): a handler-only register raises 0x05 in user mode. -/
def bodySwr (f : FFrame) : Body := fun e => do
  let n := f.srcC.toNat
  begin_ e (specSwr f) f none (if sysHandler.contains n && !e.sl.hmode then [{ cause := 0x05 }] else [])
  let v ← srcS e f.srcB
  if e.active f.guard = 0 then pure 0
  else if n = 0x22 then do
    modify (fun s => s.modCore e.g.core (fun k => { k with lothr := v.setWidth 32 }))
    pure 0
  else do
    modSl e (fun sl => sl.sysWrite n v)
    pure 0

/-- `SWR`. -/
def execSwr (f : FFrame) (s : State) : Host.Outcome State Fault Refusal := issueF f.guard (bodySwr f) s

/-! ### `TLBI` (R311, R312) -/

/-- What a `TLBI` removes: translations of any page size that cover an address under an ASN, those of an ASN, or all. -/
inductive TlbiOp where
  | ofVa (asn : BitVec 16) (va : Nat)
  | ofAsn (asn : BitVec 16)
  | all
  deriving DecidableEq, Repr

/-- Does a `TLBI` remove a translation? -/
def TlbiOp.removes (op : TlbiOp) (t : TlbEntry) : Bool :=
  match op with
  | .ofVa asn va => t.asn == asn && va / 2 ^ t.bits == t.vbase / 2 ^ t.bits
  | .ofAsn asn => t.asn == asn
  | .all => true

/-- May an access to an address under an ASN have used a removed translation? The largest page of 2^36 bytes decides
(notes/assumptions/24.md). -/
def TlbiOp.concerns (op : TlbiOp) (asn : BitVec 16) (va : Nat) : Bool :=
  decide (va < 2 ^ 55) && (match op with
    | .ofVa b x => asn == b && va / 2 ^ 36 == x / 2 ^ 36
    | .ofAsn b => asn == b
    | .all => true)

/-- Does a `TLBI` remove an upper-level entry of a walk cache (R307): one that an address or the ASN that it names goes through? -/
def TlbiOp.removesWalk (op : TlbiOp) (x : WalkEntry) : Bool :=
  match op with
  | .ofVa asn va => x.asn == asn && va / 2 ^ levelBits x.level * 2 ^ levelBits x.level == x.vbase
  | .ofAsn asn => x.asn == asn
  | .all => true

/-- The watches of a die walk their words anew where a `TLBI` covers them (R196, R312); a word that no longer translates keeps its place
(DESIGN CHOICE, notes/assumptions/124.md). -/
def State.tlbiWatch (s : State) (op : TlbiOp) (d : Nat) (x : Watch) : Watch :=
  match s.wg? x.wg with
  | none => x
  | some w =>
    if dieOf (w.coreOf x.half1) = d ∧ op.concerns w.asn x.va.toNat then
      (match s.virtPlace w.root x.va.toNat .load with
        | .place p => { x with place := p }
        | _ => x)
    else x

/-- Remove the translations of a die: its shared TLB, its walk cache, its cores' TLBs and the finished walks that they keep. Armed
watches walk anew. -/
def State.tlbiDie (s : State) (op : TlbiOp) (d : Nat) : State :=
  let s1 := { s.modDie d (fun x => { x with tlb := x.tlb.filter (fun t => !op.removes t),
                                            wcache := x.wcache.filter (fun t => !op.removesWalk t) }) with
    watches := s.watches.map (s.tlbiWatch op d) }
  (List.range 64).foldl (fun s c => s.modCore (64 * d + c) (fun k =>
    { k with tlb := k.tlb.filter (fun t => !op.removes t),
             faults := k.faults.filter (fun f => !op.concerns f.asn (f.page * 2 ^ 16)) })) s1

/-- The ASN of a group. -/
def State.asnOf (s : State) (grp : Nat) : BitVec 16 :=
  match (s.group? grp).bind (fun g => s.wg? g.wg) with
  | some w => w.asn
  | none => 0

/-- The translations of an address that a die's TLBs hold. -/
def State.tlbHits (s : State) (d : Nat) (asn : BitVec 16) (va : Nat) : List TlbEntry :=
  ((s.die d).tlb ++ (List.range 64).flatMap (fun c => (s.core (64 * d + c)).tlb)).filter (fun t =>
    t.asn == asn && t.vbase == va / 2 ^ t.bits * 2 ^ t.bits)

/-- Has an access to an address on a die used a translation that a `TLBI` removes (R312)? What the TLBs hold for the address says so;
where they hold nothing for it any more, the largest page decides (notes/assumptions/24.md). -/
def State.tlbiUsed (s : State) (op : TlbiOp) (d : Nat) (asn : BitVec 16) (va : Nat) : Bool :=
  let l := s.tlbHits d asn va
  op.concerns asn va && (l.isEmpty || l.any op.removes)

/-- The outstanding accesses of a die that have used a removed translation. -/
def State.tlbiPend (s : State) (op : TlbiOp) (d : Nat) : List (Nat × Nat) :=
  ((List.range 64).map (fun c =>
    ((s.core (64 * d + c)).pend.filter (fun p => p.accs.any (fun a => !a.done &&
      (match a.place with | .ls _ _ _ => false | _ => s.tlbiUsed op d (s.asnOf p.grp) a.va.toNat)))).map
      (fun p => (64 * d + c, p.id)))).flatten

/-- The engines of a die. -/
def dieEngines (d : Nat) : List EngineId :=
  (List.range 64).flatMap (fun c => [.copy (64 * d + c) 0, .copy (64 * d + c) 1]) ++
  (List.range 8).map (fun c => .psel (8 * d + c)) ++ [.egress d]

/-- Every command of a die, with those that are held. -/
def State.dieCommands (s : State) (d : Nat) : List Command :=
  ((dieEngines d).map (fun i => (s.engine i).commands)).flatten ++
  (s.pkg.heldCmds.map (fun h => h.2)).filter (fun c => engineDie c.engine == d)

/-- The commands of a die that hold a removed translation (R248). -/
def State.tlbiCmds (s : State) (op : TlbiOp) (d : Nat) : List Nat :=
  ((s.dieCommands d).filter (fun c => c.xlat.any (fun x => s.tlbiUsed op d c.asn x.1))).map (fun c => c.serial)

/-- The operation that a `TLBI` names. -/
def tlbiOp (e : Env) (f : FFrame) : TlbiOp :=
  match f.variant.toNat % 4 with
  | 0 => .ofVa ((e.sl.s (regNo f.srcB)).setWidth 16) (e.sl.s (regNo f.srcA)).toNat
  | 1 => .ofAsn ((e.sl.s (regNo f.srcB)).setWidth 16)
  | _ => .all

/-- Is one of the things that a `TLBI` waits for still outstanding? -/
def State.tlbiOpen (s : State) (w : TlbiWait) : Bool :=
  w.pend.any (fun p => (s.core p.1).pend.any (fun q => q.id == p.2)) ||
  (!w.cmds.isEmpty && (List.range 8).any (fun d => (s.dieCommands d).any (fun c => w.cmds.contains c.serial)))

/-- Hold, keeping a state. -/
def holdKeep {α : Type} (h : Hold) (keep : State) : Exec α := fun _ => .error (.hold h [] (some keep))

/-- `TLBI` (R312): the slice's earlier stores are performed; the translations go; then every access and command that used
one completes. -/
def bodyTlbi (f : FFrame) : Body := fun e => do
  begin_ e (specTlbi f) f none (if e.sl.hmode then [] else [{ cause := 0x05 }])
  if e.active f.guard = 0 then pure 0
  else do
    let s ← get
    match e.sl.tlbi with
    | some w => do
      holdIf (w.slot1 != e.cur.slot1 || s.tlbiOpen w) .tlbi
      modSl e (fun sl => { sl with tlbi := none })
      pure 0
    | none => do
      holdIf ((s.core e.g.core).pend.any (fun p => p.grp == e.cur.grp && p.a == e.cur.a && p.kind.writes)) .tlbi
      let op := tlbiOp e f
      let ds := if f.variant.getLsbD 2 then [dieOf e.g.core] else List.range 8
      let w : TlbiWait := { slot1 := e.cur.slot1, pend := (ds.map (s.tlbiPend op)).flatten, cmds := (ds.map (s.tlbiCmds op)).flatten }
      let s1 := ds.foldl (fun s d => s.tlbiDie op d) s
      if s1.tlbiOpen w then
        holdKeep .tlbi (s1.modSlice e.cur.grp e.cur.a (fun sl => { sl with tlbi := some w }))
      else do
        set s1
        pure 0

/-- `TLBI`. -/
def execTlbi (f : FFrame) (s : State) : Host.Outcome State Fault Refusal := issueF f.guard (bodyTlbi f) s

/-! ### `TRACE`, `TMARK`, `PERF` (R395, R400, R404) -/

/-- Write a record of the issuing slice. -/
def State.traceSlice (s : State) (e : Env) (type detail : Nat) (corr : W32) (payload : W64) : State :=
  s.trace e.w.region { type := type, detail := detail, engine := sliceIdent e.g.core, origin := e.g.origin e.cur.a, corr := corr,
                       ptb := s.ptb (dieOf e.g.core), payload := payload.toNat }

/-- `TRACE` (R400). -/
def bodyTrace (f : FFrame) : Body := fun e => do
  begin_ e specTrace f none
  let (a, b, _) ← sources (srcS e f.srcA) (srcS e f.srcB) (pure ())
  if e.active f.guard = 0 then pure 0
  else do
    modify (fun s => s.traceSlice e 0x10 (b.toNat % 256) e.sl.corr a)
    pure 0

/-- `TRACE`. -/
def execTrace (f : FFrame) (s : State) : Host.Outcome State Fault Refusal := issueF f.guard (bodyTrace f) s

/-- `TMARK` (R395). -/
def bodyTmark (f : FFrame) : Body := fun e => do
  begin_ e specTmark f none
  let b ← srcS e f.srcB
  if e.active f.guard = 0 then pure 0
  else do
    let new : W32 := b.setWidth 32
    let old := e.sl.corr
    modSl e (fun sl => { sl with corr := new })
    if old.getLsbD 31 || new.getLsbD 31 then modify (fun s => s.traceSlice e 0x0F 0 new (old.setWidth 64))
    pure 0

/-- `TMARK`. -/
def execTmark (f : FFrame) (s : State) : Host.Outcome State Fault Refusal := issueF f.guard (bodyTmark f) s

/-- The counter that a `PERF` names; 0 when it names none. -/
def Core.perf (k : Core) (x : W64) : Nat :=
  let i := x.toNat % 32
  let j := bitsAt x.toNat 8 4
  if i ≤ 16 ∧ j ≤ 10 ∧ x.toNat = i + j * 256 then ((((k.snap[i]?).bind (fun row => row[j]?)).getD 0)).toNat else 0

/-- `PERF` (R404). -/
def bodyPerf (f : FFrame) : Body := fun e => do
  begin_ e specPerf f none
  let b ← srcS e f.srcB
  let s ← get
  dstS e (e.active f.guard) f.dst (BitVec.ofNat 64 ((s.core e.g.core).perf b))
  pure 0

/-- `PERF`. -/
def execPerf (f : FFrame) (s : State) : Host.Outcome State Fault Refusal := issueF f.guard (bodyPerf f) s

end Sys2Proof.Machine
end

