-- ==== Sys2Proof/Machine/Work.lean ====
section
/-!
DEFINITION. Work creation, time and energy instructions (spec 12_cluster.md R285 to R294; 16_package_work.md R357 to R366;
02_encoding.md R66, R67): continuation and join records, `SPAWN`, `SPAWNJ`, `JDEC`, `LAUNCH`, `TGET`, `EGET`, `EPOST`.
-/
namespace Sys2Proof.Machine

/-! ### Launches and regions -/

/-- The launch of an id. -/
def State.launch? (s : State) (id : Nat) : Option Launch := s.launches.find? (fun l => l.id == id)
/-- Change one launch. -/
def State.modLaunch (s : State) (id : Nat) (f : Launch → Launch) : State :=
  { s with launches := s.launches.map (fun l => if l.id = id then f l else l) }
/-- The part's view of an active region. -/
def State.region? (s : State) (n : Nat) : Option Region := s.regions.find? (fun r => r.num == n)
/-- Change one region. -/
def State.modRegion (s : State) (n : Nat) (f : Region → Region) : State :=
  { s with regions := s.regions.map (fun r => if r.num = n then f r else r) }

/-! ### Kernel descriptors (R66, R67) -/

/-- Is a queue declaration of a descriptor valid: depth at most 16? Its reserved bits are reason 3's. -/
def queueDeclOk (x : Nat) : Bool := decide (bitsAt x 0 5 ≤ 16)

/-- Is a count of vector registers 8 to 128 in steps of 8? -/
def regsOk (n : Nat) : Bool := decide (8 ≤ n) && decide (n ≤ 128) && n % 8 == 0

/-- The lowest failing check of Table 2.16. -/
def descReason (d : BitVec 1024) : Option Nat :=
  let f := descField d
  let a := f 24 1 == 1
  let decls := (List.range 12).map (queueDecl d)
  let reserved := f 20 4 + f 27 5 + f 53 3 + f 76 4 + f 96 32 + f 184 8 + f 248 8 + f 496 528
  if f 0 16 ≠ 1 then some 1
  else if 1 < f 16 4 then some 2
  else if reserved ≠ 0 ∨ decls.any (fun x => bitsAt x 7 9 != 0) then some 3
  else if !regsOk (f 32 8) ∨ (if a then !regsOk (f 40 8) else f 40 8 ≠ 0) ∨ 16 < f 48 5 then some 4
  else if 3072 < f 80 16 ∨ 256 * f 80 16 < 32 * f 64 12 then some 5
  else if decls.any (fun x => !queueDeclOk x) ∨ (!a && decls.any (fun x => bitsAt x 0 5 != 0)) then some 6
  else if f 128 56 = 0 ∨ f 128 56 % 8 ≠ 0 ∨ (if a then f 192 56 = 0 ∨ f 192 56 % 8 ≠ 0 else f 192 56 ≠ 0) then some 7
  else if f 16 4 = 1 ∧ (a ∨ f 25 1 ≠ 0 ∨ f 26 1 ≠ 0 ∨ f 64 12 ≠ 0 ∨ f 80 16 ≠ 0) then some 8
  else none

/-- Is a descriptor a valid item descriptor (R289 reason 1)? -/
def itemDescOk (d : BitVec 1024) : Bool := (descReason d).isNone && descField d 16 4 == 1

/-! ### Continuation records and the item queue (R285, R286) -/

/-- A continuation record (Table 12.2). -/
def contRecord (code frame join : W64) (region : Nat) (corr : W32) : BitVec 256 :=
  BitVec.ofNat 256 (code.toNat % 2 ^ 56 + frame.toNat * 2 ^ 64 + (join.toNat % 2 ^ 56) * 2 ^ 128 + region * 2 ^ 192 +
    corr.toNat * 2 ^ 224)

/-- The records that a cluster's item queue can hold, on chip and spilled (R286, Table 16.1). -/
def State.itemRoom (s : State) (cluster : Nat) : Nat :=
  4096 + (((s.pkg.spill[cluster]?).getD 0).extractLsb' 64 32).toNat

/-- The records in a cluster's item queue, on chip and spilled. -/
def Cluster.queued (c : Cluster) : Nat := c.itemq.length + c.spillLen

/-- Is a cluster's item queue full, counting what is still entering? -/
def State.itemsFull (s : State) (cluster : Nat) : Bool :=
  let c := s.cluster cluster
  decide (s.itemRoom cluster ≤ c.queued + c.entering.length)

/-- The physical address of record i of a cluster's spill area (Table 16.1), which is used as a ring. -/
def State.spillAt (s : State) (cluster i : Nat) : Nat :=
  let x := (s.pkg.spill[cluster]?).getD 0
  (x.extractLsb' 0 64).toNat + 32 * (i % (x.extractLsb' 64 32).toNat)

/-- A record joins an item queue: on chip while nothing is spilled and there is room, else in the spill area (R286). -/
def State.queueItem (s : State) (cluster : Nat) (r : BitVec 256) : State :=
  let c := s.cluster cluster
  if c.spillLen = 0 ∧ c.itemq.length < 4096 then s.modCluster cluster (fun c => { c with itemq := c.itemq ++ [r] })
  else (s.poke (s.spillAt cluster (c.spillHead + c.spillLen)) 32 r.toNat).modCluster cluster (fun c => { c with spillLen := c.spillLen + 1 })

/-- The spilled records of a cluster, oldest first. -/
def State.spilled (s : State) (cluster : Nat) : List (BitVec 256) :=
  let c := s.cluster cluster
  (List.range c.spillLen).map (fun i => BitVec.ofNat 256 (s.peek (s.spillAt cluster (c.spillHead + i)) 32))

/-- Every record of a cluster's item queue, oldest first. -/
def State.items (s : State) (cluster : Nat) : List (BitVec 256) := (s.cluster cluster).itemq ++ s.spilled cluster

/-- Spilled records come on chip as far as there is room (R286); n bounds their number. -/
def State.refillItems (s : State) (cluster : Nat) : Nat → State
  | 0 => s
  | n + 1 =>
    let c := s.cluster cluster
    if c.spillLen = 0 ∨ 4096 ≤ c.itemq.length then s
    else
      let r := BitVec.ofNat 256 (s.peek (s.spillAt cluster c.spillHead) 32)
      (s.modCluster cluster (fun c =>
        { c with itemq := c.itemq ++ [r], spillHead := c.spillHead + 1, spillLen := c.spillLen - 1 })).refillItems cluster n

/-- Replace the records of a cluster's item queue. -/
def State.setItems (s : State) (cluster : Nat) (l : List (BitVec 256)) : State :=
  l.foldl (fun s r => s.queueItem cluster r) (s.modCluster cluster (fun c => { c with itemq := [], spillHead := 0, spillLen := 0 }))

/-- Records of one instruction begin to enter an item queue (R286) in the die cycle after this one; `owner` is the slice whose
stores counter falls with the last of them. -/
def State.spawnInto (s : State) (cluster : Nat) (owner : Option (Nat × Bool)) (l : List (BitVec 256)) : State :=
  let now := (s.die (cluster / 8)).dcyc
  let tagged := l.dropLast.map (fun r => (r, none, now)) ++ (l.getLast?.map (fun r => (r, owner, now))).toList
  s.modCluster cluster (fun c => { c with entering := c.entering ++ tagged })

/-- Start work from a slice: records for an item queue, a launch. Under a single step it is held until the group next runs
(R408). -/
def State.startWork (s : State) (e : Env) (h : HeldWork) (start : State → State) : State :=
  if e.w.stepping then { s with pkg := { s.pkg with heldWork := s.pkg.heldWork ++ [h] } } else start s

/-- What the issuing slice would have held. -/
def heldBy (e : Env) (recs : List (BitVec 256)) (launch : Option (Nat × List Byte)) (counted : Bool) : HeldWork :=
  { wg := e.w.id, grp := e.cur.grp, a := e.cur.a, cluster := clusterOf e.g.core, recs := recs, launch := launch,
    counted := counted }

/-! ### `SPAWN` and `SPAWNJ` (R288 to R291) -/

/-- Is a join address aligned to 64 bytes with bits [63:56] zero (R289 reason 3)? -/
def joinOk (a : W64) : Bool := a.toNat % 64 == 0 && decide (a.toNat < 2 ^ 56)

/-- The descriptor that a code address names: `none` when the address is misaligned. -/
def readDesc (e : Env) (code : W64) (m : W32) : Exec (Option (BitVec 1024)) := do
  if code.toNat % 128 ≠ 0 then pure none
  else do
    let bs ← readSeen e code 128 .dev m
    pure (some (BitVec.ofNat 1024 (ofBytes bs)))

/-- The 0x42 of the lowest reason (Table 12.5). -/
def spawnCheck (e : Env) (code : W64) (d : Option (BitVec 1024)) (nBad : Bool) (joins : List W64) : Exec Unit :=
  if !(match d with | some x => itemDescOk x | none => false) then raiseDrop e 0x42 code 1
  else if nBad then raiseDrop e 0x42 code 2
  else match joins.find? (fun a => !joinOk a) with
    | some a => raiseDrop e 0x42 a 3
    | none => pure ()

/-- `SPAWN` (R290). -/
def execSpawn (w : WFrame) (s : State) : Host.Outcome State Fault Refusal :=
  issueW w.f.guard (fun e => do
    beginW e specSpawn w
    let m := e.active w.f.guard
    if m = 0 then pure ()
    else do
      let code := e.sl.s (regNo w.f.srcA)
      let frame := srcSz e w.f.srcB
      let n ← srcS e w.f.srcC
      let join := srcSz e w.srcD
      let d ← readDesc e code m
      spawnCheck e code d (decide (65535 < n.toNat)) [join]
      releaseReady e
      let s ← get
      let cl := clusterOf e.g.core
      if n.toNat ≠ 0 then do
        holdIf (s.itemsFull cl) .itemQueueFull
        counterRoom e .store
        let recs := (List.range n.toNat).map (fun i =>
          contRecord code (frame + BitVec.ofNat 64 (i * w.imm.toNat)) join e.w.region e.sl.corr)
        modify (fun s => s.startWork e (heldBy e recs none true) (fun s => s.spawnInto cl (some (e.cur.grp, e.cur.a)) recs))
        modSl e (fun sl => { sl with stores := sl.stores + 1 })
      modify (fun s => s.dropStages e)) s

/-- A join record (Table 12.3). -/
def joinRecord (cont : BitVec 256) (count cluster state : Nat) : List Byte :=
  toBytes 64 (cont.toNat + count * 2 ^ 256 + (cluster % 8) * 2 ^ 288 + (cluster / 8) * 2 ^ 291 + state * 2 ^ 294)

/-- `SPAWNJ` (R291): the join record is a store of the LSU path at `.dev`. -/
def execSpawnj (w : WFrame) (s : State) : Host.Outcome State Fault Refusal :=
  issueW w.f.guard (fun e => do
    beginW e specSpawnj w
    let m := e.active w.f.guard
    if m = 0 then pure ()
    else do
      let code := e.sl.s (regNo w.f.srcA)
      let frame := srcSz e w.f.srcB
      let count := (← srcS e w.f.srcC).toNat % 2 ^ 32
      let join := srcSz e w.srcD
      let at_ := e.sl.s (regNo w.srcE)
      let d ← readDesc e code m
      let pcs := piecesOf at_ 64
      let ps ← if joinOk at_ then placesOf e (pcs.map (fun p => (p.1, p.2.1))) 1 .store (some m) else pure []
      spawnCheck e code d false [join, at_]
      let s ← get
      let cl := clusterOf e.g.core
      holdIf (count == 0 && s.itemsFull cl) .itemQueueFull
      let cont := contRecord code frame join e.w.region e.sl.corr
      let bs := joinRecord cont count cl (if count = 0 then 2 else 1)
      modify (fun s => s.dropStages e)
      enter e { kind := .store, dst := .none, ext := { size := 8, signed := false },
                accs := markPeers (ps.map (fun p => { laneAcc 8 noBytes noBytes p with
                  data := (bs.drop (8 * (p.1 - 32))).take 8 })),
                scope := .dev, order := 0 }
      if count = 0 then
        modify (fun s => s.startWork e (heldBy e [cont] none false) (fun s => s.spawnInto cl none [cont]))) s

/-! ### Join records (R287, R292) -/

/-- The count of a join record: 0 unless its state is 1. -/
def joinCount (x : Nat) : Nat := if bitsAt x 294 2 = 1 then bitsAt x 256 32 else 0

/-- Decrement a join record in storage by a, at its home L2 (R292); `none` when it would underflow. -/
def State.joinStep (s : State) (core : Nat) (p : Place) (a : Nat) : Option State :=
  let pa := match p with | .mem x => x | .host x => x | _ => 0
  let x := s.mem.readNat pa 64
  let c := joinCount x
  if c < a then none
  else if a = 0 then some s
  else
    let done := c - a = 0 && bitsAt x 294 2 == 1
    let y := setBits x 256 32 (c - a)
    let z := if done then setBits y 294 2 2 else y
    let s1 := s.writePlace core p (toBytes 64 z)
    some (if done then s1.spawnInto (8 * bitsAt x 291 3 + bitsAt x 288 3) none [BitVec.ofNat 256 x] else s1)

/-- `JDEC` (R292): a release at `.dev`; it is performed at once when the slice's earlier accesses are. A record that lies
with a peer raises 0x11. -/
def bodyJdec (f : FFrame) : Body := fun e => do
  begin_ e specJdec f none
  let m := e.active f.guard
  let a := (← srcS e f.srcB).toNat % 2 ^ 32
  if m = 0 then pure 0
  else do
    releaseReady e
    if a = 0 then pure 0
    else do
      let va := e.sl.s (regNo f.srcA)
      let ps ← placesOf e [(32, va)] 64 .store (some m)
      noPoison ps
      let p ← match ps with
        | x :: _ => (match x.2.2 with
          | .fabric _ _ => raise e 0x11 va (m.setWidth 64)
          | p => pure p)
        | [] => raise e 0x11 va (m.setWidth 64)
      hostReady va p
      let s ← get
      match s.joinStep e.g.core p a with
      | none => raise e 0x41 va
      | some s1 => do
        set (s1.watchHit e.cur.grp e.cur.a [(va, 64)] true true)
        pure 0

/-- `JDEC`. -/
def execJdec (f : FFrame) (s : State) : Host.Outcome State Fault Refusal := issueF f.guard (bodyJdec f) s

/-! ### `LAUNCH` (R294, R366) -/

/-- Append a launch record to a region's launch queue; `none` when it is full. -/
def State.appendLaunch (s : State) (region : Nat) (bs : List Byte) : Option State :=
  let n := s.rcb region 768 16
  let head := s.rcb region 784 16
  let tail := s.rcb region 800 16
  if n = 0 ∨ (tail + 1) % n = head then none
  else some ((s.pokeBytes (s.rcb region 704 64 + 128 * tail) bs).setRcb region 800 16 ((tail + 1) % n))

/-- `LAUNCH` (R294). -/
def execLaunch (w : WFrame) (s : State) : Host.Outcome State Fault Refusal :=
  issueW w.f.guard (fun e => do
    beginW e specLaunch w
    let m := e.active w.f.guard
    if m = 0 then pure ()
    else do
      let image := e.sl.s (regNo w.f.srcA)
      let s ← get
      let target := if RC.of w.f.srcB = .s then (e.sl.s (regNo w.f.srcB)).toNat else e.w.region
      let known := decide (target < 2 ^ 16) && (s.chain s.climb target).contains e.w.region
      let bad : List Cond := (misaligned m image 128) ++
        (if known then [] else [{ cause := 0x42, aux0 := BitVec.ofNat 64 target, aux1 := 4 }])
      if image.toNat % 128 = 0 then do
        let _ ← placesOf e ((piecesOf image 128).map (fun p => (p.1, p.2.1))) 1 .load (some m)
        raiseLowest e bad
      else raiseLowest e bad
      releaseReady e
      counterRoom e .store
      let bs ← readSeen e image 128 .dev m
      let s1 ← get
      match s1.appendLaunch target bs with
      | none => hold .launchQueueFull
      | some s2 =>
        if e.w.stepping then do
          set ((s1.startWork e (heldBy e [] (some (target, bs)) true) (fun s => s)).dropStages e)
          modSl e (fun sl => { sl with stores := sl.stores + 1 })
        else set (s2.dropStages e)) s

/-! ### `TGET`, `EGET`, `EPOST` (R359, R365) -/

/-- The deadline that covers n die cycles from an instant (R359). -/
def deadline (now n : Nat) : Nat := min (now + (9 * n + 9) / 10) (2 ^ 63 - 1)

/-- `TGET`. -/
def bodyTget (f : FFrame) : Body := fun e => do
  begin_ e (specTget f) f none
  let dl := f.variant.getLsbD 0
  let n ← if dl then srcS e f.srcB else pure 0
  let s ← get
  let now := s.ptb (dieOf e.g.core)
  dstS e (e.active f.guard) f.dst (BitVec.ofNat 64 (if dl then deadline now n.toNat else now))
  pure 0

/-- `TGET`. -/
def execTget (f : FFrame) (s : State) : Host.Outcome State Fault Refusal := issueF f.guard (bodyTget f) s

/-- The nearest region that owns an energy budget (R361). -/
def State.energyOwner (s : State) (r : Nat) : Nat := s.ownerOf 5 s.climb r

/-- The energy budget in effect in a region's present window, and that window's length (R361). -/
def State.ebudOf (s : State) (r : Nat) : Nat := ((s.region? r).map (fun x => x.ebud)).getD 0
/-- The length of a region's present window. -/
def State.winOf (s : State) (r : Nat) : Nat := ((s.region? r).map (fun x => x.win)).getD 0

/-- Is the energy budget of a region unmetered (Table 16.4)? -/
def State.unmetered (s : State) (r : Nat) : Bool := s.ebudOf r == 2 ^ 48 - 1

/-- The remaining energy of a region's window, in µJ. -/
def State.erem (s : State) (r : Nat) : Int := sextNat 48 (s.rcb r 320 48)

/-- The current estimate of a workgroup's launch, or of its item descriptor (R365). -/
def State.estOf (s : State) (w : Wg) : Nat :=
  match w.launch with
  | some l => ((s.launch? l).map (fun x => x.est)).getD 0
  | none => descField w.desc 448 48

/-- The value that `EGET` reads. -/
def State.energyValue (s : State) (w : Wg) (sel : Nat) : W64 :=
  let r := s.energyOwner w.region
  match sel with
  | 0 => if s.unmetered r then BitVec.ofNat 64 (2 ^ 63 - 1) else BitVec.ofInt 64 (s.erem r)
  | 1 => BitVec.ofNat 64 (((s.wg? w.id).getD w).used)
  | 2 => BitVec.ofNat 64 (s.rcb r 384 64 + s.winOf r)
  | _ => BitVec.ofNat 64 (s.estOf w)

/-- `EGET`. -/
def bodyEget (f : FFrame) : Body := fun e => do
  begin_ e (specEget f) f none
  let s ← get
  dstS e (e.active f.guard) f.dst (s.energyValue e.w f.variant.toNat)
  pure 0

/-- `EGET`. -/
def execEget (f : FFrame) (s : State) : Host.Outcome State Fault Refusal := issueF f.guard (bodyEget f) s

/-- `EPOST`: in an item group it writes nothing. -/
def bodyEpost (f : FFrame) : Body := fun e => do
  begin_ e specEpost f none
  let x := min (e.sl.s (regNo f.srcA)).toNat (2 ^ 48 - 1)
  if e.active f.guard = 0 then pure 0
  else match e.w.launch with
    | some l => do
      modify (fun s => s.modLaunch l (fun y => { y with est := x }))
      pure 0
    | none => pure 0

/-- `EPOST`. -/
def execEpost (f : FFrame) (s : State) : Host.Outcome State Fault Refusal := issueF f.guard (bodyEpost f) s

end Sys2Proof.Machine
end

