-- ==== Sys2Proof/Machine/Packed.lean ====
section
/-!
DEFINITION. The packed frames (spec 02_encoding.md R44 to R50, R57): a literal frame executes as the F form of its
instruction with the literal as srcB; a pair frame executes two F forms at once. A reserved opcode raises 0x01.
-/
namespace Sys2Proof.Machine

/-- The meaning of an L code's instruction (R45): the F opcode is the L code plus 0x40. -/
def literalBody (l : LFrame) : Body :=
  match l.op.toNat with
  | 0x00 => bodySadd (some l.lit) l.toF
  | 0x01 => bodySsub (some l.lit) l.toF
  | 0x02 => bodySmul (some l.lit) l.toF
  | 0x03 => bodySmulh (some l.lit) l.toF
  | 0x04 => bodySand (some l.lit) l.toF
  | 0x05 => bodySor (some l.lit) l.toF
  | 0x06 => bodySxor (some l.lit) l.toF
  | 0x07 => bodySnot (some l.lit) l.toF
  | 0x08 => bodySshl (some l.lit) l.toF
  | 0x09 => bodySshr (some l.lit) l.toF
  | 0x0A => bodySsra (some l.lit) l.toF
  | 0x0B => bodySmin (some l.lit) l.toF
  | 0x0C => bodySmax (some l.lit) l.toF
  | 0x0D => bodySmov (some l.lit) l.toF
  | 0x0E => bodySli (some l.lit) l.toF
  | 0x0F => bodyScmp (some l.lit) l.toF
  | 0x10 => bodySsel (some l.lit) l.toF
  | 0x11 => bodySclz (some l.lit) l.toF
  | 0x12 => bodySpopc (some l.lit) l.toF
  | 0x13 => bodySbfx (some l.lit) l.toF
  | 0x14 => bodySbfi (some l.lit) l.toF
  | 0x40 => bodyVadd (some l.lit) l.toF
  | 0x41 => bodyVsub (some l.lit) l.toF
  | 0x42 => bodyVmul (some l.lit) l.toF
  | 0x43 => bodyVmulh (some l.lit) l.toF
  | 0x44 => bodyVmad (some l.lit) l.toF
  | 0x45 => bodyVand (some l.lit) l.toF
  | 0x46 => bodyVor (some l.lit) l.toF
  | 0x47 => bodyVxor (some l.lit) l.toF
  | 0x48 => bodyVnot (some l.lit) l.toF
  | 0x49 => bodyVshl (some l.lit) l.toF
  | 0x4A => bodyVshr (some l.lit) l.toF
  | 0x4B => bodyVsra (some l.lit) l.toF
  | 0x4C => bodyVmin (some l.lit) l.toF
  | 0x4D => bodyVmax (some l.lit) l.toF
  | 0x4E => bodyVabs (some l.lit) l.toF
  | 0x4F => bodyVneg (some l.lit) l.toF
  | 0x50 => bodyVclz (some l.lit) l.toF
  | 0x51 => bodyVpopc (some l.lit) l.toF
  | 0x52 => bodyVbfx (some l.lit) l.toF
  | 0x53 => bodyVbfi (some l.lit) l.toF
  | 0x54 => bodyVbrev (some l.lit) l.toF
  | 0x55 => bodyVsel (some l.lit) l.toF
  | 0x56 => bodyVmov (some l.lit) l.toF
  | 0x57 => bodyVli (some l.lit) l.toF
  | 0x58 => bodyVaddc (some l.lit) l.toF
  | 0x59 => bodyVsubb (some l.lit) l.toF
  | 0x5A => bodyVcmp (some l.lit) l.toF
  | 0x5B => bodyVidot4 (some l.lit) l.toF
  | 0xA0 => bodyVfadd (some l.lit) l.toF
  | 0xA1 => bodyVfsub (some l.lit) l.toF
  | 0xA2 => bodyVfmul (some l.lit) l.toF
  | 0xA3 => bodyVfma (some l.lit) l.toF
  | 0xA4 => bodyVfmin (some l.lit) l.toF
  | 0xA5 => bodyVfmax (some l.lit) l.toF
  | 0xA6 => bodyVfabs (some l.lit) l.toF
  | 0xA7 => bodyVfneg (some l.lit) l.toF
  | 0xA8 => bodyVfcmp (some l.lit) l.toF
  | 0xA9 => bodyVfclass (some l.lit) l.toF
  | 0xAA => bodyVfround (some l.lit) l.toF
  | 0xAB => bodyVfdot2 (some l.lit) l.toF
  | 0xAC => bodyVfscale (some l.lit) l.toF
  | 0xC0 => bodyVrcp (some l.lit) l.toF
  | 0xC1 => bodyVrsq (some l.lit) l.toF
  | 0xC2 => bodyVsqrt (some l.lit) l.toF
  | 0xC3 => bodyVexp2 (some l.lit) l.toF
  | 0xC4 => bodyVlog2 (some l.lit) l.toF
  | 0xC5 => bodyVsin (some l.lit) l.toF
  | 0xC6 => bodyVcos (some l.lit) l.toF
  | 0xC7 => bodyVtanh (some l.lit) l.toF
  | _ => fun e => raise e 0x01

/-- The literal frame (R44 to R46): an L code without an L form raises 0x01. -/
def execLiteralFrame (l : LFrame) (s : State) : Host.Outcome State Fault Refusal :=
  issueF l.guard (fun e => do
    trapIf e (!l.hasForm) 0x01
    literalBody l e) s

/-- The meaning of a P code's instruction (R48): the F opcode is the P code plus 0x80. -/
def halfBody (h : PHalf) : Body :=
  match h.op.toNat with
  | 0x00 => bodyVadd none h.toF
  | 0x01 => bodyVsub none h.toF
  | 0x02 => bodyVmul none h.toF
  | 0x03 => bodyVmulh none h.toF
  | 0x05 => bodyVand none h.toF
  | 0x06 => bodyVor none h.toF
  | 0x07 => bodyVxor none h.toF
  | 0x08 => bodyVnot none h.toF
  | 0x09 => bodyVshl none h.toF
  | 0x0A => bodyVshr none h.toF
  | 0x0B => bodyVsra none h.toF
  | 0x0C => bodyVmin none h.toF
  | 0x0D => bodyVmax none h.toF
  | 0x0E => bodyVabs none h.toF
  | 0x0F => bodyVneg none h.toF
  | 0x10 => bodyVclz none h.toF
  | 0x11 => bodyVpopc none h.toF
  | 0x12 => bodyVbfx none h.toF
  | 0x14 => bodyVbrev none h.toF
  | 0x16 => bodyVmov none h.toF
  | 0x17 => bodyVli none h.toF
  | 0x60 => bodyVfadd none h.toF
  | 0x61 => bodyVfsub none h.toF
  | 0x62 => bodyVfmul none h.toF
  | 0x64 => bodyVfmin none h.toF
  | 0x65 => bodyVfmax none h.toF
  | 0x66 => bodyVfabs none h.toF
  | 0x67 => bodyVfneg none h.toF
  | 0x6A => bodyVfround none h.toF
  | 0x6C => bodyVfscale none h.toF
  | _ => fun e => raise e 0x01

/-- The pair frame (R47 to R50): both halves read the state before the frame, each under its own guard; a trap of either
leaves neither's writes. -/
def execPairFrame (h0 h1 : PHalf) (s : State) : Host.Outcome State Fault Refusal :=
  issue [h0.fguard, h1.fguard] (fun e => do
    trapIf e (!(h0.hasForm && h1.hasForm)) 0x01
    match pairCause h0 h1 with
    | some c => raise e c (if c = 0x06 then (((h0.strays ++ h1.strays).headD 0).setWidth 64) else 0)
    | none => do
      let ev0 ← halfBody h0 e
      let ev1 ← halfBody h1 e
      recordEv e (ev0 ||| ev1)
      advance e 8) s

/-- A word whose opcode, L code or frame kind is reserved (R41, R52, R57): 0x01. -/
def execReservedOpcode (_word : BitVec 64) (s : State) : Host.Outcome State Fault Refusal :=
  issue [0] (fun e => raise e 0x01) s

end Sys2Proof.Machine
end

