-- ==== Sys2Proof/Machine/CoreEvents.lean ====
section
/-!
DEFINITION. The core's own events (spec 06_core.md R147 to R167; 13_die.md R307, R313, R316; 18_debug.md R401, R402;
17_package_faults.md R391; 19_host.md R413; 21_fabric.md R435 to R438): halts that arrive, idle cycles, the locality
throttle, bank service, responses of memory, stretched die cycles. An event that is not enabled changes nothing.
-/
namespace Sys2Proof.Machine

/-! ### Slices of a subcore (R147) -/

/-- Insert by key into a list in ascending order of key; equal keys keep their order. -/
def insertBy {α : Type} (key : α → Nat) : List α → α → List α
  | [], x => [x]
  | y :: l, x => if key x < key y then x :: y :: l else y :: insertBy key l x

/-- Sort by key, keeping the order of equal keys. -/
def sortBy {α : Type} (key : α → Nat) (l : List α) : List α := l.foldl (insertBy key) []

/-- The slices of a group, A-slice first (R147). -/
def Group.slices (g : Group) : List (Group × Bool × Slice) :=
  (match g.a with | some a => [(g, true, a)] | none => []) ++ [(g, false, g.x)]

/-- The slices of a subcore's groups by (admission stamp, A before X). -/
def State.slicesOn (s : State) (core sub : Nat) : List (Group × Bool × Slice) :=
  ((sortBy (fun (g : Group) => g.stamp) (s.groups.filter (fun g => g.core == core && g.sub == sub))).map
    Group.slices).flatten

/-- Is a slice neither ended nor stopped by a halt? -/
def Slice.going (sl : Slice) : Bool := !sl.ended && sl.halt != .stopped

/-! ### Halts that arrive (R165 to R167) -/

/-- A halt reaches a slice: in the skid of a trap, or, for a pre-emption, a page or poison stop, at once (R167, R297). A slice
in handler mode stops only for a stop of the workgroup. -/
def Slice.haltAt (sl : Slice) (out once : Bool) : Slice :=
  if sl.ended then sl
  else if sl.hmode then (if out then { sl with halt := .stopped } else sl)
  else if once then
    match sl.halt with
    | .stopped => sl
    | .skid n => sl.stopAt n
    | .running => sl.stopAt 0
  else sl.reach

/-- HALT_ARRIVAL. -/
def execHaltArrival (wg core sub : Nat) (s : State) : Host.Outcome State Fault Refusal :=
  match s.halts.find? (fun h => h.wg == wg && h.core == core && h.sub == sub && decide (h.due ≤ (s.die (dieOf core)).dcyc)),
        s.wg? wg with
  | some h, some w =>
    let f (sl : Slice) : Slice := sl.haltAt w.stop.isSome w.atOnce
    .next ({ s with halts := s.halts.erase h }.modSleepers (fun g => g.wg == wg && g.core == core && g.sub == sub) f)
  | _, _ => .next s

/-! ### Idle cycles (R401, R402) -/

/-- The first slot of which something holds. -/
def firstSlot (p : Bool → Bool) : Option Bool := if p false then some false else if p true then some true else none

/-- Is the slot live with a mark of a kind, or waiting at a `BWAIT` that does not sleep? -/
def Slice.marked (sl : Slice) (f : Hold → Bool) (one : Bool) : Bool :=
  (sl.slot one).isSome && (match sl.hold one with | some h => f h | none => false)

/-- Does a slot wait for a phase (R33)? -/
def Slice.phaseWait (sl : Slice) (one : Bool) : Bool :=
  sl.marked (fun h => h == .phase) one || (match sl.wait one with | some w => !w.asleep | none => false)

/-- The sub-bin of an idle slice, as a counter of Table 18.3, with the slot whose PC is charged. -/
def Slice.idleBin (sl : Slice) : Nat × Bool :=
  match firstSlot (sl.marked (fun h => h == .throttled)) with
  | some one => (5, one)
  | none =>
    match firstSlot (sl.marked (fun h => h == .queueEmpty || h == .queueFull)) with
    | some one => (6, one)
    | none =>
      match firstSlot sl.phaseWait with
      | some one => (7, one)
      | none =>
        if sl.sleep.isSome then (8, match sl.promSlot with | some (one, _) => one | none => sl.last1)
        else (4, false)

/-- Has a subcore issued in the present die cycle? -/
def State.hasIssued (s : State) (core sub : Nat) : Bool := ((s.core core).sub sub).issued

/-- IDLE_CYCLE: a subcore that has issued nothing in the present die cycle is classified. -/
def execIdleCycle (core sub : Nat) (s : State) : Host.Outcome State Fault Refusal :=
  if s.hasIssued core sub then .next s
  else
    let (j, at_) : Nat × Option (Va × BitVec 16) :=
      match (s.slicesOn core sub).find? (fun x => x.2.2.going) with
      | none => (4, none)
      | some (g, _, sl) =>
        let (j, one) := sl.idleBin
        (j, (sl.slot one).map (fun p => (p.pc, s.asnOf g.id)))
    .next (s.modCore core (fun k => (k.count j 32 at_).modSub sub (fun u => { u with issued := true })))

/-! ### The locality throttle (R150, R151) -/

/-- Is a live, unparked slot of the slice held by no wait (R33, R26, R103), by the marks that `State.probe` keeps fresh? -/
def Slice.hasFree (sl : Slice) : Bool :=
  let free (one : Bool) : Bool :=
    (match sl.slot one with | some p => !p.parked | none => false) &&
    !sl.marked (fun h => h == .queueEmpty || h == .queueFull || h == .phase) one && (sl.wait one).isNone
  sl.going && sl.sleep.isNone && (free false || free true)

/-- The core group number of a group (R145). -/
def Group.coreNo (g : Group) : Nat := 16 * g.sub + g.slot

/-- The core's resident groups. -/
def State.groupsOn (s : State) (core : Nat) : List Group := s.groups.filter (fun g => g.core == core)

/-- The candidates of a core, ascending. -/
def State.candidates (s : State) (core : Nat) : List Nat :=
  (((s.groupsOn core).filter (fun g => g.x.hasFree || (match g.a with | some a => a.hasFree | none => false))).map
    Group.coreNo).foldl insertNat []

/-- The throttle state of a group slot. -/
def Core.tslot (k : Core) (n : Nat) : ThrottleSlot := (k.slots[n]?).getD { score := 0, denied := 0, waited := false }

/-- choose_allowed() for a candidate list. -/
def Core.chooseAllowed (k : Core) (c : List Nat) : List Nat :=
  if c.length ≤ k.limit then c
  else
    let starved := (c.filter (fun n => decide (8 ≤ (k.tslot n).denied))).take k.limit
    let rest := sortBy (fun n => (k.tslot n).score.toNat) (c.filter (fun n => !starved.contains n))
    starved ++ rest.take (k.limit - starved.length)

/-- The allowed set follows the candidates between windows: a group that left makes the core choose again, one that joins is
added while there is room. -/
def State.followCandidates (s : State) (core : Nat) : State :=
  let c := s.candidates core
  s.modCore core (fun k =>
    if k.allowed.any (fun n => !c.contains n) then { k with allowed := k.chooseAllowed c }
    else
      let more := c.filter (fun n => !k.allowed.contains n)
      { k with allowed := more.foldl (fun l n => if l.length < k.limit then l ++ [n] else l) k.allowed })

/-- THROTTLE_DECAY: once in a die cycle that is a multiple of 4,096. -/
def execThrottleDecay (core : Nat) (s : State) : Host.Outcome State Fault Refusal :=
  let c := (s.die (dieOf core)).dcyc
  if c % 4096 ≠ 0 ∨ (s.core core).decayAt = c then .next s
  else .next (s.modCore core (fun k =>
    { k with decayAt := c, slots := tabulate 64 (fun i => let t := k.slots[i]; { t with score := t.score >>> 1 }) }))

/-- The window step of a core. -/
def Core.window (k : Core) (cand resident : List Nat) (now : Nat) : Core :=
  let sum := resident.foldl (fun m n => m + (k.tslot n).score.toNat) 0
  let l0 := min k.limit (max cand.length 4)
  let l := if k.lothr.toNat < sum then max (l0 - 1) 4 else if sum < k.lothr.toNat / 2 then min (l0 + 1) 64 else l0
  let k1 : Core := { k with windowAt := now, limit := l, slots := tabulate 64 (fun i =>
    let t := k.slots[i]
    { t with denied := if resident.contains i.val && !k.allowed.contains i.val && t.waited then t.denied + 1 else 0,
             waited := false }) }
  { k1 with allowed := k1.chooseAllowed cand }

/-- THROTTLE_WINDOW: once in a die cycle that is a multiple of 1,024, after the halving of that cycle. -/
def execThrottleWindow (core : Nat) (s : State) : Host.Outcome State Fault Refusal :=
  let c := (s.die (dieOf core)).dcyc
  let k := s.core core
  if c % 1024 ≠ 0 ∨ k.windowAt = c ∨ (c % 4096 = 0 ∧ k.decayAt ≠ c) then .next s
  else .next (s.modCore core (fun k => k.window (s.candidates core) ((s.groupsOn core).map Group.coreNo) c))

/-! ### Bank service (R156 to R158) -/

/-- The lanes that a bank request serves: those of its word that have arrived and are not done. -/
def Pending.lanesOf (p : Pending) (r : BankReq) : List LaneAcc :=
  p.accs.filter (fun a => !a.done && a.arrived && a.bank == r.bank && a.place.word == r.word)

/-- The outstanding access of a bank request. -/
def State.reqPend (s : State) (r : BankReq) : Option Pending := (s.core r.core).pend.find? (fun p => p.id == r.pend)

/-- May a request be performed now? One whose access is gone may be dropped. -/
def State.bankReady (s : State) (r : BankReq) : Bool :=
  match s.reqPend r with
  | none => true
  | some p => (p.lanesOf r).all (fun a => (s.core r.core).mayPerform p a)

/-- The head of a bank's queue. -/
def Core.bankHead (k : Core) (bank : Nat) : Option BankReq := k.bankq.find? (fun r => r.entered && r.bank == bank)

/-- The requests that a bank's queue holds at most (R145). -/
def bankDepth : Nat := 8

/-- The sources in the order in which they enter a bank's queue in die cycle c (R156): source c mod 10 first, the buddy core's
requests last (notes/assumptions/104.md). -/
def bankSources (c : Nat) : List Nat := (List.range 10).map (fun i => (c + i) % 10) ++ [10]

/-- Accept the first waiting request of a source to a bank while its queue has room: one that waits for another access keeps
those behind it out (R156). -/
def State.acceptBank (s : State) (core bank source : Nat) : State :=
  let k := s.core core
  if decide (bankDepth ≤ (k.bankq.filter (fun r => r.entered && r.bank == bank)).length) then s
  else match k.bankq.find? (fun r => !r.entered && r.bank == bank && r.source == source) with
    | none => s
    | some r =>
      if s.bankReady r then s.modCore core (fun k => { k with bankq := k.bankq.erase r ++ [{ r with entered := true }] })
      else s

/-- What enters the bank queues of a core in a die cycle: at most one request of each source in each. -/
def State.acceptBanks (s : State) (core : Nat) : State :=
  let banks := (((s.core core).bankq.filter (fun r => !r.entered)).map (fun r => r.bank)).eraseDups
  banks.foldl (fun s b => (bankSources (s.die (dieOf core)).dcyc).foldl (fun s i => s.acceptBank core b i) s) s

/-- BANK_SERVE: a bank serves the head of its queue, once in a die cycle (R156, R158). -/
def execBankServe (core bank : Nat) (s : State) : Host.Outcome State Fault Refusal :=
  let k := s.core core
  if k.served.contains bank then .next s
  else match k.bankHead bank with
    | none => .next s
    | some r =>
      if !s.bankReady r then .next s
      else
        let s1 := s.modCore core (fun k => { k with bankq := k.bankq.erase r, served := k.served ++ [bank] })
        match s.reqPend r with
        | none => .next s1
        | some p => .next (s1.perform r.core p (p.lanesOf r))

/-- BUDDY_REQUEST_ARRIVE (R316): the requests of one core reach its buddy in issue order. -/
def execBuddyRequestArrive (core id : Nat) (s : State) : Host.Outcome State Fault Refusal :=
  let ps := (s.core core).pend.filter (fun p => p.accs.any LaneAcc.travels)
  match ps with
  | [] => .next s
  | p :: _ =>
    if p.id ≠ id then .next s
    else
      let go := p.accs.filter LaneAcc.travels
      let s1 := s.setAccs core id (fun a => if a.travels then { a with arrived := true } else a)
      .next (s1.enqueueBanks core id go)

/-! ### Responses of memory (R163, R164, R413, R436 to R438) -/

/-- Is a place in device memory or host memory? -/
def Place.home : Place → Bool
  | .mem _ => true
  | .host _ => true
  | _ => false

/-- Does an access read what lies at its places? -/
def PendKind.reads : PendKind → Bool
  | .store => false
  | .expand => false
  | _ => true

/-- The group and workgroup of an outstanding access. -/
def State.pendOwner (s : State) (p : Pending) : Option (Group × Wg) :=
  match s.group? p.grp with
  | none => none
  | some g => (s.wg? g.wg).map (fun w => (g, w))

/-- Mark an outstanding access as refused at an address: the peer or port, and the reason of R435 (0: a poisoned line). -/
def State.markRefused (s : State) (core id : Nat) (va : W64) (who : BitVec 12) (reason : BitVec 4) : State :=
  s.modCore core (fun k => { k with pend := k.pend.map (fun p =>
    if p.id = id ∧ p.refused.isNone then { p with refused := some (va, who, reason) } else p) })

/-- A load that met a poisoned line performs no lane's access (R391): what it has read is read again. -/
def State.unread (s : State) (core id : Nat) : State :=
  s.modCore core (fun k => { k with pend := k.pend.map (fun p =>
    if p.id = id ∧ !p.kind.writes then { p with accs := p.accs.map (fun a => if a.place.home then { a with done := false } else a) }
    else p) })

/-- Stop the workgroup of an outstanding access that met a poisoned line (R391): it is performed after the resume. -/
def State.poisonStop (s : State) (core : Nat) (p : Pending) (va : W64) : State :=
  match s.pendOwner p with
  | none => s
  | some (g, w) =>
    let sl := ((g.slice? p.a).getD g.x).haltAt true true
    (((s.markRefused core p.id va 0 0).unread core p.id).modSleeper g.id p.a (fun sl => sl.haltAt true true)).stopSlice w g p.a
      { reason := .poison, grp := g.num, slice := p.a, epc := sl.epc, aux0 := va, aux1 := 0, corr := p.corr, pages := [],
        since := s.ptb (dieOf core), onReservedPath := false, record := none }

/-- The first line of what a whole form stores: its pieces are performed a line at a time (R270, R335). -/
def firstLine (l : List LaneAcc) : List LaneAcc :=
  match l with
  | [] => []
  | a :: _ => if 32 ≤ a.lane then l.filter (fun b => b.place.line? == a.place.line?) else l

/-- The lane accesses at home that may be performed now: an atomic waits until every one of them may. -/
def State.readyAt (s : State) (core : Nat) (p : Pending) : List LaneAcc :=
  let todo := p.accs.filter (fun a => !a.done && a.place.home)
  let ok (a : LaneAcc) : Bool := (s.core core).mayPerform p a &&
    (match a.place with | .host pa => s.portUp pa | _ => true)
  match p.kind with
  | .atomic _ _ _ _ => if todo.all ok then todo else []
  | .store => firstLine (todo.filter ok)
  | _ => todo.filter ok

/-- The lane access of an outstanding one that meets a poisoned line at the lowest virtual address (R391). -/
def State.poisonedAcc (s : State) (p : Pending) : Option LaneAcc :=
  if p.kind.reads then
    (p.accs.filter (fun a => !a.done && (match a.place with | .mem pa => s.poisoned pa | _ => false))).foldl (fun m a =>
      match m with
      | none => some a
      | some b => some (if a.va < b.va then a else b)) none
  else none

/-- The first lane access whose host port has been down for 10 ms (R413). -/
def State.deadPort (s : State) (p : Pending) : Option LaneAcc :=
  p.accs.find? (fun a => !a.done && (match a.place with | .host pa => s.hostRefused pa | _ => false))

/-- Send an access's requests to its peers once they may be sent and the windows have room (R438). -/
def State.sendReady (s : State) (core : Nat) (p : Pending) : State :=
  let out := p.accs.filter (fun a => !a.arrived && (match a.place with | .fabric _ _ => true | _ => false))
  let lines := peerLines out
  if out.isEmpty || out.any (fun a => !(s.core core).mayPerform p a) ||
      lines.any (fun x => decide (4096 ≤ s.fabric.unanswered (BitVec.ofNat 12 x.1))) then s
  else s.sendPend core p

/-- What memory does for an outstanding access: requests to peers leave, what lies at home is performed, and the access
completes with its last part. -/
def State.respond (s : State) (core id : Nat) : State :=
  match (s.core core).pend.find? (fun p => p.id == id) with
  | none => s
  | some p =>
    if p.refused.isSome then s
    else
      let ls := s.readyAt core p
      match (if ls.isEmpty then none else s.poisonedAcc p), s.deadPort p with
      | some a, _ => s.poisonStop core p a.va
      | none, some a =>
        s.markRefused core id a.va (match a.place with | .host pa => BitVec.ofNat 12 (bitsAt pa 50 1) | _ => 0) 3
      | none, none =>
        let s1 := s.sendReady core p
        if ls.isEmpty then s1.completeIf core id else s1.perform core p ls

/-- The kind of an outstanding access. -/
def State.pendKind (s : State) (core id : Nat) : Option PendKind :=
  ((s.core core).pend.find? (fun p => p.id == id)).map (fun p => p.kind)

/-- LOAD_RESPONSE. -/
def execLoadResponse (core id : Nat) (s : State) : Host.Outcome State Fault Refusal :=
  match s.pendKind core id with
  | some .load => .next (s.respond core id)
  | some .ldq => .next (s.respond core id)
  | some .reload => .next (s.respond core id)
  | some .stage => .next (s.respond core id)
  | _ => .next s

/-- STORE_PERFORMED: of a store, and of an atomic that returns nothing. -/
def execStorePerformed (core id : Nat) (s : State) : Host.Outcome State Fault Refusal :=
  match s.pendKind core id with
  | some .store => .next (s.respond core id)
  | some (.atomic _ _ _ false) => .next (s.respond core id)
  | _ => .next s

/-- ATOMIC_RESPONSE: of an atomic that returns. -/
def execAtomicResponse (core id : Nat) (s : State) : Host.Outcome State Fault Refusal :=
  match s.pendKind core id with
  | some (.atomic _ _ _ true) => .next (s.respond core id)
  | _ => .next s

/-! ### The die (R307, R313) -/

/-- PAGE_WALK. -/
def execPageWalk (die : Nat) (s : State) : Host.Outcome State Fault Refusal := .next (s.pageWalk die)

/-- DROOP_STRETCH: the present die cycle takes 1.6 ns; at most 8 of any 64 consecutive die cycles do. -/
def execDroopStretch (die : Nat) (s : State) : Host.Outcome State Fault Refusal :=
  let d := s.die die
  let recent := d.recent.filter (fun c => decide (d.dcyc < c + 64))
  if !d.present || d.fenced || d.stretch || decide (8 ≤ recent.length) then .next s
  else .next (s.modDie die (fun d => { d with stretch := true, stretched := d.stretched + 1, recent := d.dcyc :: recent,
                                              nextEdge := d.nextEdge + 8 }))

end Sys2Proof.Machine
end

