-- ==== Sys2Proof/Machine/Energy.lean ====
section
/-!
DEFINITION. Regions and energy (spec 16_package_work.md R360 to R364, R373), fault records and the queue that takes them
(17_package_faults.md R374, R375).
-/
namespace Sys2Proof.Machine

/-! ### Budgets along the chain of ancestors (R361, R363) -/

/-- Does a region's own block hold a field group: its bit is set, or it is a root (R361)? -/
def State.owns (s : State) (bit r : Nat) : Bool := s.rcb r 32 32 == 0 || (s.rcb r 96 12).testBit bit

/-- The regions from r up that own a field group, nearest first. -/
def State.ownersOf (s : State) (bit r : Nat) : List Nat := (s.chain s.climb r).filter (s.owns bit)

/-- The metered energy budgets that a region's work is charged to. -/
def State.meters (s : State) (r : Nat) : List Nat := (s.ownersOf 5 r).filter (fun x => !s.unmetered x)

/-- Does every budget hold an amount in its present window (R363)? One whose window has passed first begins the next. -/
def State.energyOk (s : State) (r e : Nat) : Bool :=
  (s.meters r).all (fun x => decide ((e : Int) ≤ s.erem x) && decide (s.ptb0 < s.rcb x 384 64 + s.winOf x))

/-- Set the remaining energy of a region's window, as 48 bits of two's complement. -/
def State.setErem (s : State) (r : Nat) (x : Int) : State := s.setRcb r 320 48 (wrapInt 48 x)

/-- Take an amount from each of a list of budgets. -/
def State.takeErem (s : State) (l : List Nat) (q : Int) : State := l.foldl (fun s x => s.setErem x (s.erem x - q)) s

/-- Does a reservation made at a PTB instant belong to the present window of a budget? -/
def State.inWindow (s : State) (owner : Nat) (at_ : W64) : Bool := decide (s.rcb owner 384 64 ≤ at_.toNat)

/-- Charge q µJ to an entry with a reservation (R363). -/
def State.chargeEntry (s : State) (w : Wg) (q : Nat) : State :=
  let u := w.used + q
  let s1 := (s.meters w.region).foldl (fun s x =>
    if s.inWindow x w.window then s.setErem x (s.erem x - ((u - w.est : Nat) : Int) + ((w.used - w.est : Nat) : Int))
    else s.setErem x (s.erem x - q)) s
  s1.modWg w.id (fun w => { w with used := u })

/-- Settle an entry at its retirement (R363). -/
def State.settle (s : State) (w : Wg) : State :=
  (s.meters w.region).foldl (fun s x =>
    if s.inWindow x w.window then s.setErem x (s.erem x + ((w.est - w.used : Nat) : Int)) else s) s

/-- Count energy in a launch (R371). -/
def State.launchEnergy (s : State) (l : Option Nat) (q : Nat) : State :=
  match l with
  | some l => s.modLaunch l (fun x => { x with energy := x.energy + q })
  | none => s

/-- The launch of a resident or saved workgroup. -/
def State.launchOf (s : State) (wg : Nat) : Option Nat :=
  match s.wg? wg with
  | some w => w.launch
  | none => (s.ctxs.find? (fun c => c.shell.id == wg)).bind (fun c => c.launch)

/-- ENERGY_CHARGE (R362): quanta of 1 µJ, of a resident workgroup's activity (region 0), of a command, a request or a walk of a
region, which names the workgroup it belongs to, or of an incoming request of a peer (a number above every region's), which is
charged to the region that owns the exported window (R434). -/
def execEnergyCharge (wg region quanta : Nat) (s : State) : Host.Outcome State Fault Refusal :=
  let s1 := { s with pkg := { s.pkg with etot := s.pkg.etot + BitVec.ofNat 48 quanta } }
  if 65535 < region then .next (match s.exportRegion with
    | some x => s1.takeErem (s1.meters x) quanta
    | none => s1)
  else if region = 0 then
    match s.wg? wg with
    | none => .next s1
    | some w => .next ((s1.chargeEntry w quanta).launchEnergy w.launch quanta)
  else .next ((s1.takeErem (s1.meters region) quanta).launchEnergy (s.launchOf wg) quanta)

/-- POWER_MEASURE (R364): at the PTB `ends` at which a millisecond ends, the energy metered in it. -/
def execPowerMeasure (ends : Nat) (s : State) : Host.Outcome State Fault Refusal :=
  if ends ≠ s.pkg.powerAt + 1000000 ∨ s.ptb0 < ends then .next s
  else .next { s with pkg := { s.pkg with
    power := (s.pkg.etot - s.pkg.powerBase).toNat, powerAt := ends, powerBase := s.pkg.etot } }

/-- Does the metered power of the package exceed `pkg.pwr` (R364): µJ in a millisecond against watts? -/
def State.overPower (s : State) : Bool := decide (1000 * s.pkg.pwr.toNat < s.pkg.power)

/-! ### The package's power over its root regions (R373) -/

/-- Add a fraction. -/
def addFrac (x : Nat × Nat) (n d : Nat) : Nat × Nat := (x.1 * d + n * x.2, x.2 * d)

/-- Do the active metered roots, with these values for one region, stay within the package's budget? -/
def State.powerOk (s : State) (r ebud win : Nat) : Bool :=
  let others := s.regions.filter (fun x => x.num != r && s.rcb x.num 32 32 == 0 && x.ebud != 2 ^ 48 - 1)
  let mine : Nat × Nat := if ebud = 2 ^ 48 - 1 then (0, 1) else (1000 * ebud, max 1 win)
  let t := others.foldl (fun t x => addFrac t (1000 * x.ebud) (max 1 x.win)) mine
  decide (t.1 ≤ s.pkg.pwr.toNat * t.2)

/-- ENERGY_WINDOW_START (R363, R373): the window that has passed gives way to the next; new values of ebud and win count from
it on; those of a root region that would break the package's sum are refused: the old values stand in the block again. -/
def execEnergyWindowStart (region : Nat) (s : State) : Host.Outcome State Fault Refusal :=
  match s.region? region with
  | none => .next s
  | some x =>
    let start := s.rcb region 384 64 + x.win
    if !s.owns 5 region || s.ptb0 < start then .next s
    else
      let ebud := s.rcb region 192 48
      let win := s.rcb region 256 48
      let same := ebud == x.ebud && win == x.win
      let ok := same || (decide (1000 ≤ win) && (s.rcb region 32 32 != 0 || s.powerOk region ebud win))
      let s1 := if ok then s.modRegion region (fun x => { x with ebud := ebud, win := win })
                else ((s.setRcb region 192 48 x.ebud).setRcb region 256 48 x.win).trace region
                  { type := 0x0D, ptb := s.ptb0, payload := ebud }
      .next ((s1.setRcb region 384 64 start).setErem region (if ok then ebud else x.ebud))

/-! ### Activation (R360) -/

/-- The reserved bits of a control block (Table 16.4). -/
def rcbReserved : List (Nat × Nat) :=
  [(66, 2), (95, 1), (108, 20), (160, 32), (240, 16), (304, 16), (368, 16), (504, 8), (567, 9), (816, 16), (944, 16), (1056, 32),
   (1164, 52), (1648, 400)]

/-- Is a region number in the table (Table 16.1)? -/
def State.regionNumber (s : State) (r : Nat) : Bool := decide (0 < r) && decide (r < s.pkg.rmax.toNat)

/-- The value that a region takes for the field groups of energy, from the block in force. -/
def State.blockOk (s : State) (r : Nat) : Bool :=
  let f := s.rcb r
  let parent := f 32 32
  rcbReserved.all (fun x => f x.1 x.2 == 0) && f 0 32 == r && f 64 2 != 3 &&
  (parent == 0 || (s.region? parent).isSome) &&
  f 704 64 % 128 == 0 && f 832 64 % 512 == 0 && f 960 64 % 4096 == 0 &&
  decide (1000 ≤ f 256 48) &&
  (!s.owns 11 r || (f 1024 32 != 0 && f 1616 32 != 0 && f 1552 64 % 2 ^ 16 == 0))

/-- Answer a `pkg.ract` write (Table 16.1). -/
def State.rstatWrite (s : State) (region result : Nat) : State :=
  { s with pkg := { s.pkg with rstat := BitVec.ofNat 21 (region % 2 ^ 16 + result * 2 ^ 16) } }

/-- REGION_ACTIVATE. Activating an active region changes nothing. -/
def execRegionActivate (region : Nat) (s : State) : Host.Outcome State Fault Refusal :=
  if !s.regionNumber region then .next (s.rstatWrite region 1)
  else if (s.region? region).isSome then .next (s.rstatWrite region 0)
  else if !s.blockOk region then .next (s.rstatWrite region 3)
  else
    let ebud := s.rcb region 192 48
    let win := s.rcb region 256 48
    let root := s.rcb region 32 32 == 0
    if root && !s.powerOk region ebud win && ebud != 2 ^ 48 - 1 then .next (s.rstatWrite region 2)
    else
      let s1 := ((((((s.setRcb region 94 1 1).setErem region ebud).setRcb region 384 64 s.ptb0).setRcb region 672 32 0).setRcb
        region 784 16 0).setRcb region 800 16 0).setRcb region 928 16 0
      let x : Region := { num := region, launches := [], stopped := false, attached := false, holdTasks := false, deferred := [],
                          headSince := none, ebud := ebud, win := win, lap := false, recs := [] }
      .next ({ s1 with regions := s1.regions ++ [x] }.rstatWrite region 0)

/-- Does a region hold launches, workgroups, items or contexts? -/
def State.regionBusy (s : State) (r : Nat) : Bool :=
  s.rcb r 784 16 != s.rcb r 800 16 || s.launches.any (fun l => l.region == r) || s.wgs.any (fun w => w.region == r) ||
  s.ctxs.any (fun c => c.region == r) ||
  (List.range 64).any (fun i =>
    let c := s.cluster i
    let of_ (x : BitVec 256) : Bool := (x.extractLsb' 192 32).toNat == r
    (s.items i).any of_ || c.entering.any (fun x => of_ x.1) || c.opened.any (fun g => g.region.toNat == r) ||
    c.itemStream.any (fun g => g.region.toNat == r))

/-- REGION_DEACTIVATE. -/
def execRegionDeactivate (region : Nat) (s : State) : Host.Outcome State Fault Refusal :=
  if !s.regionNumber region then .next (s.rstatWrite region 1)
  else if (s.region? region).isNone then .next (s.rstatWrite region 0)
  else if s.regionBusy region then .next (s.rstatWrite region 4)
  else .next (({ s with regions := s.regions.filter (fun x => x.num != region) }.setRcb region 94 1 0).rstatWrite region 0)

/-! ### Fault records (R374, R375) -/

/-- The fields of a fault record (Table 17.1) that its case gives. -/
structure FaultRec where
  kind   : Nat
  cause  : Nat := 0
  cause2 : Nat := 0
  state  : Nat := 3
  region : Nat
  corr   : W32 := 0
  wg     : Nat := 0
  grp    : Nat := 0
  slice  : Bool := false
  epc    : Va := 0
  aux0   : W64 := 0
  aux1   : W64 := 0
  ctx    : Nat := 0
  cpages : Nat := 0
  die    : Nat := 0
  clus   : Nat := 0
  core   : Nat := 0
  pages  : List W64 := []
  deriving DecidableEq, Repr

/-- The record as a number, with the PTB and the fault domain. -/
def FaultRec.word (x : FaultRec) (ptb fdom : Nat) : Nat :=
  let pages := x.pages.take 32
  x.kind + x.cause % 256 * 2 ^ 8 + x.cause2 % 256 * 2 ^ 16 + x.state * 2 ^ 24 + x.region % 2 ^ 32 * 2 ^ 32 +
  x.corr.toNat * 2 ^ 64 + x.wg % 2 ^ 60 * 2 ^ 128 + x.grp % 32 * 2 ^ 192 + x.slice.toNat * 2 ^ 197 +
  pages.length * 2 ^ 200 + x.epc.toNat * 2 ^ 256 + x.aux0.toNat * 2 ^ 320 + x.aux1.toNat * 2 ^ 384 +
  ptb % 2 ^ 64 * 2 ^ 448 + x.ctx * 2 ^ 512 + x.cpages % 2 ^ 32 * 2 ^ 576 + fdom % 2 ^ 16 * 2 ^ 608 + x.die % 8 * 2 ^ 640 +
  x.clus % 8 * 2 ^ 643 + x.core % 8 * 2 ^ 646 +
  ((List.range pages.length).zip pages).foldl (fun m p => m + p.2.toNat * 2 ^ (1024 + 64 * p.1)) 0

/-- Is the fault queue of a region full (R375)? -/
def State.faultFull (s : State) (r : Nat) : Bool :=
  let n := s.rcb r 896 16
  n == 0 || (s.rcb r 928 16 + 1) % n == s.rcb r 912 16

/-- The place at which the next record of a region goes: its index and its address. -/
def State.faultSlot (s : State) (r : Nat) : Nat × Nat := (s.rcb r 928 16, s.rcb r 832 64 + 512 * s.rcb r 928 16)

/-- A record's word with the PTB of its writing (Table 17.1). -/
def State.stampFault (s : State) (word : Nat) : Nat := setBits word 448 64 s.ptb0

/-- Append a record's word: the record, then fqtail, then the vector and the trace record (R375, R398). -/
def State.appendFault (s : State) (r word : Nat) : State :=
  let (i, at_) := s.faultSlot r
  let s0 := s.modRegion r (fun x => { x with recs := if x.recs.contains i then x.recs else x.recs ++ [i] })
  let s1 := ((s0.pokeBytes at_ (toBytes 512 word)).setRcb r 928 16 ((i + 1) % s.rcb r 896 16)).raiseRegion r 1520
  let ofSlice := [1, 2, 4, 7, 8].contains (word % 256)
  let core := word / 2 ^ 640 % 8 * 64 + word / 2 ^ 643 % 8 * 8 + word / 2 ^ 646 % 8
  s1.trace r { type := 0x06, detail := word % 256, engine := if ofSlice then sliceIdent core else 0,
               origin := if ofSlice then originOf core (word / 2 ^ 192 % 32) (word.testBit 197) else 0,
               corr := BitVec.ofNat 32 (word / 2 ^ 64), ptb := s.ptb0, payload := at_ }

/-- The word of a record written now. -/
def State.faultWord (s : State) (x : FaultRec) : Nat := x.word s.ptb0 (s.rcbOwned 2 x.region 76 16)

/-- Write a record to a queue that has room. -/
def State.putFault (s : State) (x : FaultRec) : State := s.appendFault x.region (s.faultWord x)

/-- Write a record of kind 3, 5 or 6: one that meets a full queue waits in the package controller, of which there are at most
64 for a region; the oldest gives way (R375). -/
def State.deferFault (s : State) (x : FaultRec) : State :=
  if s.faultFull x.region || s.regions.any (fun r => r.num == x.region && !r.deferred.isEmpty) then
    s.modRegion x.region (fun r =>
      { r with deferred := (r.deferred ++ [BitVec.ofNat 4096 (s.faultWord x)]).drop (r.deferred.length + 1 - 64) })
  else s.putFault x

end Sys2Proof.Machine
end

