-- ==== Sys2Proof/Machine/Cluster.lean ====
section
/-!
DEFINITION. The cluster (spec 12_cluster.md R281 to R296; 06_core.md R146, R154; 01_group.md R14, R15, R22, R36;
13_die.md R315): what an entry needs and where it is placed, frame areas, the state of a group at entry, the item queue, the
coupler, and retirement.
-/
namespace Sys2Proof.Machine

/-! ### The part's own translations -/

/-- Bytes that the part reads at an address inside one page; none where nothing can be read. -/
def State.virtBytes (s : State) (root va n : Nat) : Option (List Byte) :=
  match s.virtPlace root va .load with
  | .place (.mem pa) => some (s.mem.readBytes pa n)
  | .place (.host pa) => some (s.mem.readBytes pa n)
  | _ => none

/-! ### What an entry needs (R14, R146, R283) -/

/-- The vector register file of a group in KiB (R14). -/
def vrfKib (d : BitVec 1024) : Nat :=
  descField d 32 8 / 8 + descField d 40 8 / 8 + (160 * depthSum d + 1023) / 1024

/-- What one core holds for a workgroup: groups, their register file and tiles, local store, tag-table sets. -/
structure Need where
  groups : Nat
  vrf    : Nat
  acc    : Nat
  lsize  : Nat
  tags   : Nat
  deriving DecidableEq, Repr

/-- What is free on a subcore. -/
structure SubFree where
  sub   : Nat
  vrf   : Nat
  acc   : Nat
  slots : List Nat
  deriving DecidableEq, Repr

/-- A place on a core: subcore and slot of each group, local-store base, tag-table base. -/
structure CorePlace where
  core   : Nat
  groups : List (Nat × Nat)
  ls     : Nat
  tag    : Nat
  deriving DecidableEq, Repr

/-- The register file that a group occupies. -/
def State.groupVrf (s : State) (g : Group) : Nat := ((s.wg? g.wg).map (fun w => vrfKib w.desc)).getD 0

/-- What is free on the subcores of a core (Table 6.1). -/
def State.subsFree (s : State) (core : Nat) : List SubFree :=
  let here := s.groupsOn core
  (List.range 4).map (fun i =>
    let gs := here.filter (fun g => g.sub == i)
    { sub := i, vrf := 512 - gs.foldl (fun n g => n + s.groupVrf g) 0, acc := 64 - gs.foldl (fun n g => n + g.acc.length) 0,
      slots := (List.range 16).filter (fun k => gs.all (fun g => g.slot != k)) })

/-- The unoccupied register file of a core. -/
def State.coreVrf (s : State) (core : Nat) : Nat := (s.subsFree core).foldl (fun n x => n + x.vrf) 0

/-- The element with the largest key; the first among equals. -/
def firstMax {α : Type} (key : α → Nat) (l : List α) : Option α :=
  l.foldl (fun b x => match b with
    | none => some x
    | some y => if key y < key x then some x else some y) none

/-- Place one group (R146): the subcore with the most free register file among those with a slot and tiles. -/
def takeSub (n : Need) (l : List SubFree) : Option ((Nat × Nat) × List SubFree) :=
  match firstMax (fun x => x.vrf) (l.filter (fun x => !x.slots.isEmpty && decide (n.acc ≤ x.acc))) with
  | none => none
  | some x =>
    match x.slots with
    | [] => none
    | k :: rest =>
      if n.vrf ≤ x.vrf then
        some ((x.sub, k), l.map (fun y =>
          if y.sub = x.sub then { y with vrf := y.vrf - n.vrf, acc := y.acc - n.acc, slots := rest } else y))
      else none

/-- Place groups one after another. -/
def takeSubs (n : Need) : Nat → List SubFree → Option (List (Nat × Nat))
  | 0, _ => some []
  | k + 1, l =>
    match takeSub n l with
    | none => none
    | some (p, l') => (takeSubs n k l').map (fun r => p :: r)

/-- The lowest position of the first free run of n among used runs (R146). -/
def freeRun (total : Nat) (used : List (Nat × Nat)) (n : Nat) : Option Nat :=
  let real := used.filter (fun u => decide (0 < u.2))
  let starts := (real.map (fun u => u.1 + u.2)).foldl insertNat [0]
  if n = 0 then some 0
  else starts.find? (fun b => decide (b + n ≤ total) && real.all (fun u => decide (b + n ≤ u.1) || decide (u.1 + u.2 ≤ b)))

/-- The local-store runs in use on a core, in units of 256 bytes. -/
def State.lsRuns (s : State) (core : Nat) : List (Nat × Nat) :=
  s.wgs.filterMap (fun w =>
    if w.core = core then some (w.lsBase, w.lsize)
    else if w.pair ∧ buddyOf w.core = core then some (w.lsBase1, w.lsize) else none)

/-- The tag-table runs in use on a core. -/
def State.tagRuns (s : State) (core : Nat) : List (Nat × Nat) :=
  s.wgs.filterMap (fun w =>
    if w.core = core then some (w.tagBase, w.tags0.length)
    else if w.pair ∧ buddyOf w.core = core then some (w.tagBase1, w.tags1.length) else none)

/-- Does a core hold what an entry needs, and where? A core of a die out of service holds nothing. -/
def State.placeOn (s : State) (n : Need) (core : Nat) : Option CorePlace :=
  let d := s.die (dieOf core)
  if !d.present || d.fenced then none
  else match takeSubs n n.groups (s.subsFree core), freeRun 3072 (s.lsRuns core) n.lsize, freeRun 256 (s.tagRuns core) n.tags with
    | some gs, some ls, some tag => some { core := core, groups := gs, ls := ls, tag := tag }
    | _, _, _ => none

/-- The place of a member: on one core, or for a pair on both cores of a buddy pair (R315). -/
abbrev MemberPlace := CorePlace × Option CorePlace

/-- Place a member on the core, not yet taken, that would hold it with the most free register file (R283). -/
def State.placeMember (s : State) (cluster : Nat) (n : Need) (m : Option Need) (taken : List Nat) : Option MemberPlace :=
  let cores := ((List.range 8).map (fun k => 8 * cluster + k)).filter (fun c => !taken.contains c)
  let fits : List MemberPlace := cores.filterMap (fun c =>
    match s.placeOn n c, m with
    | some p, none => some (p, none)
    | some p, some m => (s.placeOn m (buddyOf c)).map (fun q => (p, some q))
    | none, _ => none)
  firstMax (fun (x : MemberPlace) => s.coreVrf x.1.core) fits

/-- Place the members of a set in ascending order on distinct cores. -/
def State.placeSet (s : State) (cluster : Nat) : List (Need × Option Need) → List Nat → Option (List MemberPlace)
  | [], _ => some []
  | n :: l, taken =>
    match s.placeMember cluster n.1 n.2 taken with
    | none => none
    | some p => (s.placeSet cluster l (p.1.core :: taken)).map (fun r => p :: r)

/-! ### Frame areas (R22) -/

/-- The size of a group's frame area in units of 256 bytes. -/
def frameUnits (d : BitVec 1024) : Nat :=
  (16 * (dstackOf d + cstackOf d) * (1 + descField d 24 1) + 255) / 256

/-- The frame pool of a region: its base and its units. -/
def State.pool (s : State) (r : Nat) : Nat × Nat := (s.rcbOwned 11 r 1552 64, 256 * s.rcbOwned 11 r 1616 32)

/-- The place of the bitmap's byte for a unit; none where the pool's page is not a writable system page. -/
def State.bitmapPa (s : State) (root base j : Nat) : Option Nat :=
  match s.virtPlace root (base + j / 8) .frame with
  | .place (.mem pa) => some pa
  | _ => none

/-- The units of the pool that its bitmap takes. -/
def ownUnits (total : Nat) : Nat := (total + 2047) / 2048

/-- Is a unit of the pool in use? The bitmap's own units are. -/
def State.unitUsed (s : State) (root base total j : Nat) : Bool :=
  decide (j < ownUnits total) ||
  (match s.bitmapPa root base j with
    | some pa => ((s.mem.read pa).toNat).testBit (j % 8)
    | none => true)

/-- Mark a unit of the pool as used or free. -/
def State.setUnit (s : State) (root base : Nat) (b : Bool) (j : Nat) : State :=
  match s.bitmapPa root base j with
  | some pa => { s with mem := s.mem.writeNat pa 1 (setBits (s.mem.read pa).toNat (j % 8) 1 b.toNat) }
  | none => s

/-- The first run of n free units from a position on; `run` free units have just been passed. -/
def findRun (used : Nat → Bool) (n : Nat) : Nat → Nat → Nat → Option Nat
  | 0, _, _ => none
  | fuel + 1, at_, run =>
    if used at_ then findRun used n fuel (at_ + 1) 0
    else if run + 1 = n then some (at_ + 1 - n)
    else findRun used n fuel (at_ + 1) (run + 1)

/-- Mark the bitmap's own units, and units from u on, as used. -/
def State.takeUnits (s : State) (root base total u n : Nat) : State :=
  (List.range n).foldl (fun s i => s.setUnit root base true (u + i))
    ((List.range (ownUnits total)).foldl (fun s i => s.setUnit root base true i) s)

/-- Allocate areas of n units, first fit, for a number of groups; none when one finds no room. -/
def State.allocFrames (s : State) (root base total n : Nat) : Nat → Option (State × List (Nat × Nat))
  | 0 => some (s, [])
  | k + 1 =>
    match findRun (s.unitUsed root base total) n total 0 0 with
    | none => none
    | some u =>
      ((s.takeUnits root base total u n).allocFrames root base total n k).map
        (fun r => (r.1, (u, n) :: r.2))

/-- Free the areas of a workgroup. -/
def State.freeFrames (s : State) (w : Wg) : State :=
  let base := (s.pool w.region).1
  w.frames.foldl (fun s f => (List.range f.2).foldl (fun s i => s.setUnit w.root base false (f.1 + i)) s) s

/-! ### Group entry (R15, R88, R154, R296, R315) -/

/-- An invalid tag-table set. -/
def emptySet : List TagEntry := List.replicate 8 { key := 0, slot := 0, valid := false }

/-- A slice at entry. -/
def State.entrySlice (s : State) (r regs : Nat) (entry : Va) (mask : W32) (s0 s1 : W64) (corr : W32) : Slice :=
  let sregs := ((Vector.replicate 32 (0 : W64)).setIfInBounds 0 s0).setIfInBounds 1 s1
  { Slice.reset with
    slot0 := some { pc := entry, mask := mask, age := 0, depth := 0, parked := false }, ageCtr := 1,
    vreg := List.replicate regs Lanes.zero, sreg := sregs, corr := corr,
    evctl := BitVec.ofNat 18 (s.rcbOwned 8 r 1152 6 + s.rcbOwned 8 r 1158 6 * 64),
    evc := tabulate 6 (fun c => { EvCounter.reset with
      thr := BitVec.ofNat 16 (s.rcbOwned 8 r (1216 + 16 * c.val) 16),
      win := BitVec.ofNat 32 (s.rcbOwned 8 r (1312 + 32 * c.val) 32) }) }

/-- A queue as its descriptor declares it (Table 2.15). -/
def entryQueue (x : Nat) : Queue := { Queue.reset with depth := bitsAt x 0 5, x2a := bitAt x 5, scalar := bitAt x 6 }

/-- What an entry brings: a workgroup of a launch, or an item group. -/
structure Entry where
  launch : Option Nat
  region : Nat
  index  : BitVec 60
  kd     : W64
  desc   : BitVec 1024
  args   : W64
  corr   : W32
  groups : Nat
  tags   : Nat
  pair   : Bool
  member : Nat
  ksize  : Nat
  joins  : List W64
  lanes  : List W64
  item   : Bool
  est    : Nat
  deriving DecidableEq, Repr

/-- The lane mask of an entry's groups: the lanes that hold items, in an item group. -/
def Entry.mask (x : Entry) : W32 := if x.item then BitVec.ofNat 32 (2 ^ x.lanes.length - 1) else BitVec.allOnes 32

/-- The vector registers v0 and v1 of an item group: the frame pointers of its items (R296). -/
def Entry.frames (x : Entry) (sl : Slice) : Slice :=
  if x.item then
    let lo : Lanes := tabulate 32 (fun l => (x.lanes.getD l.val 0).setWidth 32)
    let hi : Lanes := tabulate 32 (fun l => ((x.lanes.getD l.val 0) >>> 32).setWidth 32)
    { sl with vreg := (sl.vreg.set 0 lo).set 1 hi }
  else sl

/-- A group at entry. -/
def State.entryGroup (s : State) (x : Entry) (wg num core sub slot : Nat) (half1 : Bool) (unit : Nat) : Group :=
  let frame : W64 := BitVec.ofNat 64 ((s.pool x.region).1 + 256 * unit)
  let sl (regs : Nat) (entry : Va) : Slice := s.entrySlice x.region regs entry x.mask x.args frame x.corr
  { id := s.nextId, wg := wg, num := num, half1 := half1, core := core, sub := sub, slot := slot,
    stamp := (s.core core).stampCtr,
    x := x.frames (sl (descField x.desc 32 8) (x.desc.extractLsb' 128 56)),
    a := if descField x.desc 24 1 = 1 then some (sl (descField x.desc 40 8) (x.desc.extractLsb' 192 56)) else none,
    queues := tabulate 12 (fun n => entryQueue (queueDecl x.desc n.val)), geom := Vector.replicate 32 0,
    fb := Vector.replicate 8 0, acc := List.replicate (descField x.desc 48 5) Tile.zero, frameBase := frame,
    itemLanes := x.mask }

/-- A group becomes resident (R146, R150): its core's next admission stamp, a score and a denial count of 0. -/
def State.seat (s : State) (g : Group) : State :=
  { s.modCore g.core (fun k =>
      { k with stampCtr := k.stampCtr + 1,
               slots := k.slots.setIfInBounds g.coreNo { score := 0, denied := 0, waited := false } }) with
    groups := s.groups ++ [g], nextId := s.nextId + 1 }

/-- The places of a member's groups in ascending number, with the half they lie on. -/
def seatsOf (p : MemberPlace) : List (Nat × Nat × Nat × Bool) :=
  p.1.groups.map (fun g => (p.1.core, g.1, g.2, false)) ++
  (match p.2 with | some q => q.groups.map (fun g => (q.core, g.1, g.2, true)) | none => [])

/-- A workgroup becomes resident at a place, with its frame areas (R15, R154, R160, R370): an acquire at `.sys` scope on its
cores comes before it. -/
def State.enterWg (s : State) (x : Entry) (setId : Nat) (p : MemberPlace) (frames : List (Nat × Nat)) : State :=
  let id := s.nextId
  let ptb := s.ptb (dieOf p.1.core)
  let q := p.2.getD { core := 0, groups := [], ls := 0, tag := 0 }
  let w : Wg :=
    { id := id, launch := x.launch, region := x.region, index := x.index, core := p.1.core, pair := x.pair, item := x.item,
      itemJoins := x.joins, kd := x.kd, desc := x.desc, member := x.member, ksize := x.ksize, setId := setId,
      groups := x.groups, lsize := descField x.desc 80 16, lsBase := p.1.ls, lsBase1 := q.ls, ls0 := [], ls1 := [],
      tagBase := p.1.tag, tagBase1 := q.tag, frames := frames, tags0 := List.replicate x.tags emptySet,
      tags1 := if x.pair then List.replicate x.tags emptySet else [], asn := BitVec.ofNat 16 (s.rcb x.region 551 16),
      root := s.rootOf x.region, est := x.est, used := 0, window := BitVec.ofNat 64 ptb, progress := ptb, halted := false,
      handler := false, stepping := false, phase := .running, stop := none, corr := x.corr }
  let s1 := (s.l1Drop p.1.core)
  let s2 := match p.2 with | some q => s1.l1Drop q.core | none => s1
  let s3 := { s2 with wgs := s2.wgs ++ [w], nextId := s2.nextId + 1 }
  let seats := seatsOf p
  ((List.range seats.length).zip (seats.zip frames)).foldl (fun s y =>
    s.seat (s.entryGroup x id y.1 y.2.1.1 y.2.1.2.1 y.2.1.2.2.1 y.2.1.2.2.2 y.2.2.1)) s3

/-- What an entry needs on its core, and on the buddy core of a pair. -/
def Entry.need (x : Entry) : Need × Option Need :=
  let n : Need := { groups := if x.pair then x.groups / 2 else x.groups, vrf := vrfKib x.desc, acc := descField x.desc 48 5,
                    lsize := descField x.desc 80 16, tags := x.tags }
  (n, if x.pair then some n else none)

/-- Admit members at places (R283, R363): frame areas for all of them and energy for all, or nothing. -/
def State.enterAll (s : State) (setId : Nat) : List (Entry × MemberPlace) → Option State
  | [] => some s
  | (x, p) :: l =>
    let (base, total) := s.pool x.region
    match s.allocFrames (s.rootOf x.region) base total (frameUnits x.desc) (seatsOf p).length with
    | none => none
    | some (s1, fr) => (s1.enterWg x setId p fr).enterAll setId l

/-- Reserve energy for a number of entries of a region (R363). -/
def State.reserveEnergy (s : State) (r e n : Nat) : State := s.takeErem (s.meters r) ((e * n : Nat) : Int)

/-- Admit a set of entries of one region to a cluster, if it fits. -/
def State.admitEntries (s : State) (cluster : Nat) (l : List Entry) : Option State :=
  match l with
  | [] => none
  | x :: _ =>
    if !s.energyOk x.region (x.est * l.length) then none
    else match s.placeSet cluster (l.map Entry.need) [] with
      | none => none
      | some ps =>
        (({ s with nextId := s.nextId + 1 }).enterAll s.nextId (l.zip ps)).map (fun (s : State) => s.reserveEnergy x.region x.est l.length)

/-! ### Launches at the cluster (R281, R366, R370) -/

/-- A field of a launch record. -/
def Launch.field (l : Launch) (lo w : Nat) : Nat := (l.record.extractLsb' lo w).toNat

/-- The number of workgroups of a launch. -/
def Launch.total (l : Launch) : Nat := l.field 128 21 * l.field 149 21 * l.field 170 21

/-- The tag-table sets that a tcode asks for (Table 16.5). -/
def tagSets (tcode : Nat) : Nat := if tcode = 0 then 0 else 2 ^ (tcode - 1)

/-- The entry of a workgroup of a launch. -/
def Launch.entry (l : Launch) (index member k : Nat) : Entry :=
  { launch := some l.id, region := l.region, index := BitVec.ofNat 60 index, kd := BitVec.ofNat 64 (l.field 0 56), desc := l.desc,
    args := BitVec.ofNat 64 (l.field 64 64), corr := BitVec.ofNat 32 (l.field 224 32), groups := l.field 192 6,
    tags := tagSets (l.field 208 4), pair := l.field 201 1 == 1, member := member, ksize := k, joins := [], lanes := [],
    item := false, est := l.est }

/-- The set that begins at an index: the last set of a launch may be smaller. -/
def Launch.setSize (l : Launch) (first : Nat) : Nat := min (l.field 198 3 + 1) (l.total - first)

/-- The entries of a cluster set. -/
def Launch.entries (l : Launch) (first k : Nat) : List Entry := (List.range k).map (fun j => l.entry (first + j) j k)

/-! ### The item queue and the coupler (R286, R295) -/

/-- The records that may enter a cluster's item queue in this die cycle: up to 4 that were issued before it, as far as there is
room. -/
def State.itemsToEnter (s : State) (cluster : Nat) : List (BitVec 256 × Option (Nat × Bool) × Nat) :=
  let c := s.cluster cluster
  let now := (s.die (cluster / 8)).dcyc
  (c.entering.takeWhile (fun x => decide (x.2.2 < now))).take (min 4 (s.itemRoom cluster - c.queued))

/-- ITEM_QUEUE_ENTER: up to 4 records a die cycle enter the queue, after the coupler's turn of that cycle; the last of a
`SPAWN` lowers its slice's stores counter. -/
def execItemQueueEnter (cluster : Nat) (s : State) : Host.Outcome State Fault Refusal :=
  let c := s.cluster cluster
  let now := (s.die (cluster / 8)).dcyc
  let go := s.itemsToEnter cluster
  if go.isEmpty || c.enterAt == now || !(c.packAt == now || (c.itemq.isEmpty && c.opened.isEmpty)) then .next s
  else
    let s1 := s.modCluster cluster (fun c => { c with entering := c.entering.drop go.length, enterAt := now })
    .next (go.foldl (fun s x => match x.2.1 with
      | some (g, a) => s.modSlice g a (fun sl => { sl with stores := sl.stores - 1 })
      | none => s) (go.foldl (fun s x => s.queueItem cluster x.1) s1))

/-- make_ready: the group joins the item stream. -/
def Cluster.makeReady (c : Cluster) (now : Nat) (g : OpenGroup) : Cluster :=
  { c with opened := c.opened.filter (fun x => !(x.code == g.code && x.region == g.region)),
           itemStream := c.itemStream ++ [{ code := g.code, region := g.region, recs := g.recs, ctx := none }],
           itemSince := if c.itemStream.isEmpty then now else c.itemSince, tryAdmit := true }

/-- Does a group have the key of a record? -/
def OpenGroup.keyOf (g : OpenGroup) (r : BitVec 256) : Bool := g.code == r.extractLsb' 0 56 && g.region == r.extractLsb' 192 32

/-- Pack one record. -/
def Cluster.pack (c : Cluster) (now : Nat) (r : BitVec 256) : Cluster :=
  let fresh : OpenGroup := { code := r.extractLsb' 0 56, region := r.extractLsb' 192 32, recs := [], idle := 0 }
  let c1 : Cluster :=
    if c.opened.any (fun g => g.keyOf r) then c
    else
      let c0 : Cluster := if 8 ≤ c.opened.length then (match c.opened with | g :: _ => c.makeReady now g | [] => c) else c
      { c0 with opened := c0.opened ++ [fresh] }
  let c2 : Cluster := { c1 with opened := c1.opened.map (fun g =>
    if g.keyOf r then { g with recs := g.recs ++ [r], idle := 0 } else g) }
  match c2.opened.find? (fun g => g.keyOf r && decide (32 ≤ g.recs.length)) with
  | some g => c2.makeReady now g
  | none => c2

/-- COUPLER_CYCLE: up to 4 records are packed, the idle timers count, and when nothing is queued or entering every group
closes. A group whose timer has run out closes under COUPLER_IDLE_TIMEOUT. -/
def execCouplerCycle (cluster : Nat) (s : State) : Host.Outcome State Fault Refusal :=
  let c := s.cluster cluster
  let now := (s.die (cluster / 8)).dcyc
  if c.packAt == now || (c.itemq.isEmpty && c.opened.isEmpty) || c.opened.any (fun g => decide (256 ≤ g.idle)) then .next s
  else
    let c1 := (c.itemq.take 4).foldl (fun c r => c.pack now r) { c with itemq := c.itemq.drop 4, packAt := now }
    let c2 := { c1 with opened := c1.opened.map (fun g => { g with idle := g.idle + 1 }) }
    let c3 := if c2.itemq.isEmpty && c2.entering.isEmpty then c2.opened.foldl (fun c g => c.makeReady now g) c2 else c2
    .next ((s.modCluster cluster (fun _ => c3)).refillItems cluster 4)

/-- COUPLER_IDLE_TIMEOUT: groups that have been idle for 256 die cycles close, in order of opening. -/
def execCouplerIdleTimeout (cluster : Nat) (s : State) : Host.Outcome State Fault Refusal :=
  let c := s.cluster cluster
  let now := (s.die (cluster / 8)).dcyc
  .next (s.modCluster cluster (fun _ =>
    (c.opened.filter (fun g => decide (256 ≤ g.idle))).foldl (fun c g => c.makeReady now g) c))

/-- The item group of a ready item (R284, R296): its descriptor as memory holds it now; none when the region is not active or
the descriptor cannot be read or is none of an item. -/
def State.itemEntry (s : State) (cluster : Nat) (g : ReadyItem) : Option Entry :=
  let r := g.region.toNat
  match s.region? r, s.virtBytes (s.rootOf r) g.code.toNat 128 with
  | some _, some bs =>
    let d := BitVec.ofNat 1024 (ofBytes bs)
    if itemDescOk d then
      some { launch := none, region := r, index := (s.cluster cluster).itemSeq, kd := g.code.setWidth 64, desc := d,
             args := g.code.setWidth 64, corr := ((g.recs.map (fun x => x.extractLsb' 224 32)).headD 0), groups := 1,
             tags := 0, pair := false, member := 0, ksize := 1,
             joins := (g.recs.map (fun x => (x.extractLsb' 128 56).setWidth 64)).filter (fun a => a != 0),
             lanes := g.recs.map (fun x => x.extractLsb' 64 64), item := true, est := descField d 448 48 }
    else none
  | _, _ => none

/-! ### Retirement (R36, R293, R363) -/

/-- Has a group ended, with every load, store, atomic and pass of it complete? -/
def State.groupDone (s : State) (g : Group) : Bool :=
  let isOver (sl : Slice) : Bool := sl.ended && sl.loads == 0 && sl.stores == 0 && sl.passes == 0
  isOver g.x && (match g.a with | some a => isOver a | none => true) &&
  (s.core g.core).pend.all (fun p => p.grp != g.id)

/-- Decrement a join record by the items that name it; an underflow or an address that leads nowhere is reported (R293). -/
def State.itemJoin (s : State) (w : Wg) (corr : W32) (a : W64) (n : Nat) : State :=
  let report (cause : BitVec 8) : State := s.deferFault
    { kind := 3, cause := cause.toNat, region := w.region, corr := corr, wg := w.index.toNat, aux0 := a, die := dieOf w.core,
      clus := clusterOf w.core % 8, core := w.core % 8 }
  match s.virtPlace w.root a.toNat .store with
  | .place (.fabric _ _) => report 0x11
  | .place p => (match s.joinStep w.core p n with | some s1 => s1 | none => report 0x41)
  | .bad c _ => report c
  | .miss _ => s

/-- The decrements of a retiring item group, one step for each distinct record. -/
def State.itemJoins (s : State) (w : Wg) (corr : W32) : State :=
  (w.itemJoins.eraseDups).foldl (fun s a => s.itemJoin w corr a (w.itemJoins.filter (fun b => b == a)).length) s

/-- Is a command of a workgroup queued, running or held? -/
def State.wgBusy (s : State) (w : Wg) : Bool :=
  let engines := enginesOf w.core ++ (if w.pair then enginesOf (buddyOf w.core) else [])
  engines.any (fun i => (s.engine i).commands.any (fun c => c.wg == w.id)) || s.pkg.heldCmds.any (fun h => h.2.wg == w.id)

/-- The clusters of a workgroup try to admit again. -/
def State.freed (s : State) (w : Wg) : State :=
  let s1 := s.modCluster (clusterOf w.core) (fun c => { c with tryAdmit := true })
  if w.pair then s1.modCluster (clusterOf (buddyOf w.core)) (fun c => { c with tryAdmit := true }) else s1

/-- Take a workgroup off its core: its allocations and messages go with it. -/
def State.removeWg (s : State) (w : Wg) : State :=
  { s with wgs := s.wgs.filter (fun v => v.id != w.id), groups := s.groups.filter (fun g => g.wg != w.id),
           halts := s.halts.filter (fun h => h.wg != w.id), pairMsgs := s.pairMsgs.filter (fun m => m.wg != w.id) }.freed w

/-- A workgroup retires: its energy is settled, its frame areas are freed, its launch counts it. -/
def State.retireWg (s : State) (w : Wg) : State :=
  let s0 := ((s.settle w).freeFrames w).removeWg w
  let s1 := { s0 with watches := s0.watches.filter (fun x => x.wg != w.id) }
  match w.launch with
  | some l => s1.modLaunch l (fun x => { x with retired := x.retired + 1 })
  | none => s1

/-- Retire every workgroup whose groups have retired and whose commands are complete. -/
def State.sweepWgs (s : State) : State :=
  (s.wgs.filter (fun w => s.groups.all (fun g => g.wg != w.id) && !s.wgBusy w)).foldl (fun s w => s.retireWg w) s

/-- GROUP_RETIRE: what its queues still hold is discarded; an item group decrements its join records. Workgroups that are
over then retire. -/
def execGroupRetire (grp : Nat) (s : State) : Host.Outcome State Fault Refusal :=
  match s.group? grp with
  | none => .next s.sweepWgs
  | some g =>
    match s.wg? g.wg with
    | none => .next s
    | some w =>
      if !s.groupDone g then .next s
      else
        let s1 := { s with groups := s.groups.filter (fun x => x.id != g.id) }.freed w
        let s2 := if w.item then s1.itemJoins w g.x.corr else s1
        .next s2.sweepWgs

end Sys2Proof.Machine
end

