-- ==== Sys2Proof/Machine/Image.lean ====
section
/-!
DEFINITION. Context images and swap-out (spec 17_package_faults.md R374, R375, R378 to R387; 12_cluster.md R297; 18_debug.md
R398, R406): the bytes of a saved workgroup, the context area, when a workgroup may be saved, and the restore. Where Tables
17.3 to 17.5 leave the place of a field open (within a slot, a queue tag, bytes 58 to 63), the model's place is its own
choice (notes/assumptions/40.md).
-/
namespace Sys2Proof.Machine

/-! ### Writing an image (Tables 17.3 to 17.5) -/

/-- The bytes of a vector register. -/
def laneBytes (v : Lanes) : List Byte := (List.range 32).flatMap (fun l => toBytes 4 ((v[l]?).getD 0).toNat)

/-- A slot: pc, mask, age, depth, flags. -/
def slotBytes (p : Option Path) : List Byte :=
  toBytes 32 (match p with
    | none => 0
    | some p => p.pc.toNat + p.mask.toNat * 2 ^ 64 + p.age % 2 ^ 32 * 2 ^ 96 + p.depth.toNat * 2 ^ 128 +
        (1 + 2 * p.parked.toNat) * 2 ^ 160)

/-- An engine queue: 16 places. -/
def engqBytes (l : List W64) : List Byte := (List.range 16).flatMap (fun i => toBytes 8 (l.getD i 0).toNat)

/-- Has an engine queue lost an entry that is still marked (R28)? -/
def lossBit (l : List W64) : Nat := (l.any (fun x => x.getLsbD 63)).toNat

/-- The registers of bytes 768 to 959. -/
def Slice.sysWords (sl : Slice) : List Nat :=
  [sl.cause.toNat, sl.aux0.toNat, sl.aux1.toNat, sl.epc.toNat, sl.skid.toNat, sl.fpc.toNat, sl.estat.toNat, sl.gbank.toNat,
   sl.corr.toNat, sl.evctl.toNat] ++ (sl.evc.toList.map EvCounter.word) ++
  [sl.emask.toNat, sl.hmode.toNat, sl.hscr0.toNat, sl.hscr1.toNat, sl.lgeom.toNat]

/-- A slice block (Table 17.5). -/
def Slice.bytes (sl : Slice) : List Byte :=
  (sl.sreg.toList.flatMap (fun x => toBytes 8 x.toNat)) ++ (sl.pred.toList.flatMap (fun x => toBytes 4 x.toNat)) ++
  slotBytes sl.slot0 ++ slotBytes sl.slot1 ++ engqBytes sl.q12 ++ engqBytes sl.q13 ++ engqBytes sl.q14 ++
  (sl.sysWords.flatMap (toBytes 8)) ++ List.replicate 24 0 ++
  toBytes 8 (sl.loads + sl.stores * 2 ^ 8 + sl.copies * 2 ^ 16 + sl.passes * 2 ^ 24) ++
  toBytes 8 (sl.dstackN + sl.cstackN * 2 ^ 16 + sl.ageCtr % 2 ^ 32 * 2 ^ 32) ++
  toBytes 16 (sl.last1.toNat + sl.yieldEnd.isSome.toNat * 2 + (match sl.heldPop with
    | none => 0
    | some (h, x) => 4 + (if h = .brq then 0 else 8) + (if h = .bwaitMissed then 16 else 0) + x.toNat * 2 ^ 64)) ++
  toBytes 8 (sl.q12.length + sl.q13.length * 2 ^ 8 + sl.q14.length * 2 ^ 16 + lossBit sl.q12 * 2 ^ 24 + lossBit sl.q13 * 2 ^ 25 +
    lossBit sl.q14 * 2 ^ 26) ++ List.replicate 24 0

/-- The tag of a queue entry: base, lanes, cause, type, valid, raised, variant, PC. -/
def Token.word (t : Token) : Nat :=
  t.base.toNat + t.lanes.toNat * 2 ^ 64 + t.cause.toNat * 2 ^ 96 + t.ty.toNat * 2 ^ 104 + 2 ^ 108 + t.raised.toNat * 2 ^ 109 +
  t.variant.toNat * 2 ^ 110 + t.pc.toNat * 2 ^ 128

/-- A queue entry: 128 bytes of data and its tag. -/
def QEntry.bytes (scalar : Bool) (x : QEntry) : List Byte :=
  (if scalar then toBytes 128 x.scalar.toNat else laneBytes x.lanes) ++ toBytes 32 (match x.token with | some t => t.word | none => 0)

/-- A queue: its depth of entries, from the head. -/
def Queue.bytes (q : Queue) : List Byte :=
  (q.entries.flatMap (QEntry.bytes q.scalar)) ++ List.replicate (160 * (q.depth - q.entries.length)) 0

/-- The issue image of a held command: what names it, its promise and its operands (R379). -/
def Command.image (c : Command) : List Byte :=
  toBytes 64 (1 + c.kind.code * 2 ^ 8 + c.queueCode * 2 ^ 16 + engineIdent c.engine * 2 ^ 32 + c.seq.toNat * 2 ^ 64 +
    c.corr.toNat * 2 ^ 96 + c.promise.toNat * 2 ^ 128 + c.dstH.toNat * 2 ^ 192 + c.srcH.toNat * 2 ^ 256 +
    c.option.toNat * 2 ^ 320 + c.bytes % 2 ^ 64 * 2 ^ 384)

/-- The issue image of a held `SPAWN`, `SPAWNJ` or `LAUNCH` (R379, R408): what it starts, and the first bytes of its first record. -/
def HeldWork.image (h : HeldWork) : List Byte :=
  let (code, target, first) : Nat × Nat × Nat := match h.launch with
    | some (r, bs) => (0x81, r, ofBytes (bs.take 32))
    | none => (0x80, h.cluster, ((h.recs.head?.map (fun x => x.toNat)).getD 0))
  toBytes 64 (1 + code * 2 ^ 8 + target % 2 ^ 16 * 2 ^ 16 + h.a.toNat * 2 ^ 32 + h.counted.toNat * 2 ^ 33 +
    h.recs.length % 2 ^ 32 * 2 ^ 64 + first * 2 ^ 256)

/-- A group's header, with the images of its held commands. -/
def Group.header (g : Group) (held : List (List Byte)) : List Byte :=
  let isOver (o : Option Slice) : Nat := match o with | some sl => sl.ended.toNat | none => 1
  let due (o : Option Slice) : Nat := match o with | some sl => sl.due48.isSome.toNat | none => 0
  (g.queues.toList.flatMap (fun q => toBytes 4 (q.entries.length + q.phases.toNat * 2 ^ 16))) ++
  toBytes 16 (isOver (some g.x) + isOver g.a * 2 + due (some g.x) * 4 + due g.a * 8) ++
  (held.take 2).flatten ++ List.replicate (64 * (2 - min 2 held.length)) 0 ++ List.replicate 64 0

/-- A group block (Table 17.4). -/
def Group.bytes (g : Group) (held : List (List Byte)) : List Byte :=
  g.header held ++ g.x.bytes ++ (match g.a with | some a => a.bytes | none => List.replicate 1024 0) ++
  (g.geom.toList.flatMap (fun x => toBytes 64 x.toNat)) ++ (g.fb.toList.flatMap (fun x => toBytes 32 x.toNat)) ++
  (g.x.vreg.flatMap laneBytes) ++ (match g.a with | some a => a.vreg.flatMap laneBytes | none => []) ++
  (g.queues.toList.flatMap Queue.bytes) ++
  (g.acc.flatMap (fun t => t.toList.flatMap (fun r => r.toList.flatMap (fun x => toBytes 4 x.toNat))))

/-- The block of a group that has retired: both slices ended. -/
def retiredBlock (w : Wg) : List Byte := List.replicate 48 0 ++ toBytes 16 3 ++ List.replicate (groupBytes w.desc - 64) 0

/-- A tag-table entry in 16 bytes (Table 6.4). -/
def TagEntry.bytes (t : TagEntry) : List Byte := toBytes 16 (t.valid.toNat + t.slot.toNat * 2 ^ 16 + t.key.toNat * 2 ^ 48)

/-- The header (Table 17.3) with its state: 0 valid, 1 torn. -/
def Wg.header (w : Wg) (ptb state : Nat) : List Byte :=
  toBytes 4 0x58544E43 ++ toBytes 2 1 ++ toBytes 1 state ++
  toBytes 1 (w.pair.toNat + w.item.toNat * 2 + descField w.desc 26 1 * 4) ++ toBytes 8 w.kd.toNat ++ toBytes 4 w.region ++
  toBytes 4 w.corr.toNat ++ toBytes 8 w.index.toNat ++ toBytes 8 ((w.launch.map (fun l => l + 1)).getD 0) ++ toBytes 8 ptb ++
  toBytes 4 (imagePages w) ++ toBytes 2 w.groups ++ toBytes 2 w.lsize ++ toBytes 2 w.tags0.length ++
  toBytes 6 (w.member + 8 * (w.ksize - 1) + dieOf w.core * 2 ^ 16 + clusterOf w.core % 8 * 2 ^ 24 + w.core % 8 * 2 ^ 32) ++
  List.replicate 448 0

/-- The image of a workgroup. -/
def State.image (s : State) (w : Wg) : List Byte :=
  let held (g : Group) : List (List Byte) :=
    (s.pkg.heldCmds.filter (fun h => h.1 == .step && h.2.grp == g.id)).map (fun h => h.2.image) ++
    (s.pkg.heldWork.filter (fun h => h.grp == g.id)).map HeldWork.image
  let block (n : Nat) : List Byte := match s.groups.find? (fun g => g.wg == w.id && g.num == n) with
    | some g => g.bytes (held g)
    | none => retiredBlock w
  let sets (l : List (List TagEntry)) : List Byte := l.flatMap (fun set => set.flatMap TagEntry.bytes)
  w.header (s.ptb (dieOf w.core)) 0 ++ (List.range w.groups).flatMap block ++ w.ls0.readBytes 0 (256 * w.lsize) ++
  (if w.pair then w.ls1.readBytes 0 (256 * w.lsize) else []) ++ sets w.tags0 ++ sets w.tags1

/-- Write bytes page by page, so that a range that the map scatters is written whole. -/
def State.pokePages (s : State) (at_ : Nat) (bs : List Byte) : Nat → State
  | 0 => s
  | n + 1 => (s.pokeBytes at_ (bs.take 4096)).pokePages (at_ + 4096) (bs.drop 4096) n

/-! ### The context area (R382) -/

/-- The region whose block gives a region's context area, with its base and pages. -/
def State.area (s : State) (r : Nat) : Nat × Nat × Nat :=
  let o := s.ownerOf 11 s.climb r
  (o, s.rcb o 960 64, s.rcb o 1024 32)

/-- The pages of an area that its bitmap takes. -/
def ownPages (size : Nat) : Nat := (size + 32767) / 32768

/-- Is a page of an area in use? The bitmap's own pages are. -/
def State.pageUsed (s : State) (base size j : Nat) : Bool :=
  decide (j < ownPages size) || (s.peek (base + j / 8) 1).testBit (j % 8)

/-- Mark pages of an area. -/
def State.setPages (s : State) (base : Nat) (b : Bool) (j n : Nat) : State :=
  (List.range n).foldl (fun s i => s.pokeBits (base + (j + i) / 8) ((j + i) % 8) 1 b.toNat) s

/-- Free the pages of a context. -/
def State.freeCtx (s : State) (c : Ctx) : State :=
  let base := s.rcb c.owner 960 64
  { s.setPages base false ((c.addr - base) / 4096) c.pages with ctxs := s.ctxs.filter (fun x => x.id != c.id) }

/-! ### When a workgroup may be saved (R378) -/

/-- Has a slice ended, or stopped? -/
def Slice.settled (sl : Slice) : Bool := sl.ended || sl.halt == .stopped

/-- Is an access of a group still to be performed? A refused load or atomic is sent again after the restore, a refused store counts
as performed once its refusal has been reported (R435), and a staged read belongs to an instruction that issues again. -/
def Pending.unsettled (p : Pending) : Bool :=
  (p.refused.isNone || p.kind == .store) && !(p.kind == .stage && p.accs.all (fun a => a.done))

/-- Is a command of a workgroup still to complete? One that a step holds is saved (R379). -/
def State.wgRuns (s : State) (w : Wg) : Bool :=
  let engines := enginesOf w.core ++ (if w.pair then enginesOf (buddyOf w.core) else [])
  engines.any (fun i => (s.engine i).commands.any (fun c => c.wg == w.id)) ||
  s.pkg.heldCmds.any (fun h => h.1 != .step && h.2.wg == w.id)

/-- Does a subcore still hold a pass of a group? -/
def State.passOpen (s : State) (g : Group) : Bool :=
  let u := (s.core g.core).sub g.sub
  u.waiting.any (fun p => p.grp == g.id) || (match u.running with | some (p, _) => p.grp == g.id | none => false)

/-- Has a stopped workgroup settled: slices stopped, accesses and passes done, commands complete, messages delivered? -/
def State.drained (s : State) (w : Wg) : Bool :=
  let gs := s.groups.filter (fun g => g.wg == w.id)
  w.stop.isSome &&
  gs.all (fun g => g.x.settled && (match g.a with | some a => a.settled | none => true) && !s.passOpen g &&
    (s.core g.core).pend.all (fun p => p.grp != g.id || !p.unsettled)) &&
  !s.wgRuns w && s.pairMsgs.all (fun m => m.wg != w.id)

/-- Does a workgroup have a slice that has not ended? -/
def State.alive (s : State) (w : Wg) : Bool :=
  s.groups.any (fun g => g.wg == w.id && (!g.x.ended || (match g.a with | some a => !a.ended | none => false)))

/-- The members of a workgroup's cluster set that go out with it, the workgroup among them. -/
def State.unitOf (s : State) (w : Wg) : List Wg := s.wgs.filter (fun v => v.setId == w.setId && s.alive v)

/-! ### Saving (R297, R374, R381, R383, R398) -/

/-- The record of a stopped workgroup, by its reason; none for a pre-emption or a member of a set. -/
def stopRecord (w : Wg) (i : StopInfo) (ctx cpages state : Nat) : Option FaultRec :=
  let base : FaultRec :=
    { kind := 0, state := state, region := w.region, corr := i.corr, wg := w.index.toNat, grp := i.grp, slice := i.slice,
      epc := i.epc, aux0 := i.aux0, aux1 := i.aux1, ctx := ctx, cpages := cpages, die := dieOf w.core,
      clus := clusterOf w.core % 8, core := w.core % 8 }
  match i.reason with
  | .cause1 c c2 => some { base with kind := 1, cause := c.toNat, cause2 := c2.toNat }
  | .pages => some { base with kind := 2, cause := 0x10, pages := i.pages }
  | .poison => some { base with kind := 4 }
  | .debug c => some { base with kind := 7, cause := c.toNat }
  | .refusedRemote => some { base with kind := 8 }
  | .preempt => none
  | .member => none

/-- What a slice keeps beside its image: a `YIELD` exclusion as the die cycles that remain. -/
def Slice.shelve (sl : Slice) (now : Nat) : Slice := { sl with yieldEnd := sl.yieldEnd.map (fun d => d - now) }

/-- A slice's shell in a group's shell. -/
def Group.shelve (g : Group) (now : Nat) : Group := { g with x := g.x.shelve now, a := g.a.map (fun a => a.shelve now) }

/-- Save one workgroup at an address: the image, then its context, then its resources are free. -/
def State.saveAt (s : State) (w : Wg) (i : StopInfo) (owner at_ : Nat) : State :=
  let gs := s.groups.filter (fun g => g.wg == w.id)
  let mine (p : Pending) : Bool := gs.any (fun g => g.id == p.grp)
  let cores := (gs.map (fun g => g.core)).eraseDups
  let again := (cores.map (fun c => (s.core c).pend.filter (fun p => mine p && p.kind != .stage))).flatten
  let c : Ctx :=
    { id := s.nextId, region := w.region, launch := w.launch, addr := at_, pages := imagePages w, owner := owner,
      phase := match i.reason with | .pages => .waitingPages | .member => .resumed | _ => .saved,
      reason := i.reason, record := none, needed := i.pages, shell := { w with ls0 := [], ls1 := [] },
      shells := gs.map (fun g => g.shelve (s.die (dieOf g.core)).dcyc), resend := again, setId := w.setId, step := false,
      cluster := clusterOf w.core }
  let s1 := s.pokePages at_ (s.image w) (imagePages w)
  let s2 := cores.foldl (fun s k => s.modCore k (fun x =>
    { x with pend := x.pend.filter (fun p => !mine p), ttWait := x.ttWait.filter (fun t => gs.all (fun g => g.id != t.1.grp)) })) s1
  ({ s2 with ctxs := s2.ctxs ++ [c], nextId := s2.nextId + 1 }).removeWg w

/-- The trace record of a saved workgroup. -/
def State.traceSave (s : State) (w : Wg) (i : StopInfo) (at_ recAddr : Nat) : State :=
  let r : TraceRec := { type := 0x05, engine := sliceIdent w.core, origin := originOf w.core i.grp i.slice, corr := i.corr, ptb := s.ptb (dieOf w.core),
                        payload := i.epc.toNat }
  match i.reason with
  | .preempt => s.trace w.region { r with type := 0x0E, payload := at_ }
  | .debug c => s.trace w.region { r with type := 0x11, detail := c.toNat, payload := recAddr }
  | .cause1 c _ => s.trace w.region { r with detail := c.toNat }
  | .pages => s.trace w.region { r with detail := 0x10 }
  | _ => s.trace w.region r

/-- Write the record of a saved or held workgroup, and name it. -/
def State.reportStop (s : State) (w : Wg) (i : StopInfo) (ctx cpages state : Nat) : State × Option Nat :=
  match stopRecord w i ctx cpages state with
  | none => (s, none)
  | some x => (s.putFault x, some (s.faultSlot w.region).1)

/-- Allocate pages and save every workgroup of a unit; none when pages do not suffice. -/
def State.saveAll (s : State) : List Wg → Option State
  | [] => some s
  | w :: l =>
    match w.stop with
    | none => none
    | some i =>
      let (owner, base, size) := s.area w.region
      match findRun (s.pageUsed base size) (imagePages w) size 0 0 with
      | none => none
      | some j => ((((s.setPages base true 0 (ownPages size)).setPages base true j (imagePages w)).saveAt w i owner (base + 4096 * j))).saveAll l

/-- Report every saved workgroup of a unit (R374): the trace record of its event, then its fault record (R428's records 0x05 and
0x06 stand in that order). -/
def State.reportAll (s : State) (l : List Wg) : State :=
  l.foldl (fun s w => match w.stop, s.ctxOf w.id with
    | some i, some c =>
      let s0 := s.traceSave w i c.addr (s.faultSlot w.region).2
      let (s1, r) := s0.reportStop w i c.addr c.pages 0
      { s1 with ctxs := s1.ctxs.map (fun (x : Ctx) => if x.id = c.id then { x with record := r } else x) }
    | _, _ => s) s

/-- Hold a unit in place (R383): its records carry state 1 and no context. -/
def State.holdUnit (s : State) (l : List Wg) : State :=
  l.foldl (fun s w => match w.stop, w.phase with
    | some i, .draining =>
      let s0 := match i.reason with | .debug _ => s.traceSave w i 0 (s.faultSlot w.region).2 | _ => s
      let (s1, r) := s0.reportStop w i 0 0 1
      let s2 := s1.modWg w.id (fun w => { w with phase := .heldInPlace r.isSome, stop := some { i with record := r } })
      if i.reason = .preempt then
        { s2 with pkg := { s2.pkg with pstat := BitVec.ofNat 20 (setBits s2.pkg.pstat.toNat 16 3 2) } }
      else s2
    | _, _ => s) s

/-- The places that the records of a unit need in a fault queue. -/
def recordsOf (l : List Wg) : Nat := (l.filter (fun w => match w.stop with
  | some i => (stopRecord w i 0 0 0).isSome
  | none => false)).length

/-- The free places of a region's fault queue. -/
def State.faultFree (s : State) (r : Nat) : Nat :=
  let n := s.rcb r 896 16
  if n = 0 then 0 else (s.rcb r 912 16 + n - s.rcb r 928 16 - 1) % n

/-- Is `pkg.dctl`'s last command over (Table 18.5): no workgroup of the region on its way to a debug stop, none in its step or on
its way into it? -/
def State.settleDstat (s : State) : State :=
  let r := (s.pkg.dstat.extractLsb' 0 16).toNat
  let stopping (w : Wg) : Bool := w.phase == .draining && (match w.stop with
    | some i => (match i.reason with | .debug _ => true | _ => false)
    | none => false)
  if s.wgs.any (fun w => w.region == r && (w.stepping || stopping w) && s.alive w) || s.ctxs.any (fun c => c.region == r && c.step) then s
  else { s with pkg := { s.pkg with dstat := s.pkg.dstat &&& 0x7FFFF } }

/-- Is `pkg.pre`'s last command over (Table 17.2): no workgroup of a stopped region still to be saved, none of a resumed one
still to re-enter? -/
def State.settlePstat (s : State) : State :=
  let r := (s.pkg.pstat.extractLsb' 0 16).toNat
  let under (x : Nat) : Bool := (s.chain s.climb x).contains r
  let open_ :=
    if s.regions.any (fun x => x.num == r && x.stopped) then
      s.wgs.any (fun w => under w.region && s.alive w && w.phase == .draining)
    else s.ctxs.any (fun c => under c.region && c.reason == .preempt && c.phase == .resumed)
  if open_ then s else { s with pkg := { s.pkg with pstat := s.pkg.pstat &&& 0x7FFFF } }

/-- Save the unit of a workgroup once it has drained and its records have room (R375). -/
def State.saveUnit (s : State) (w : Wg) : State :=
  let l := s.unitOf w
  if l.isEmpty || !l.all s.drained || l.any (fun v => v.phase == .heldInPlace true) ||
      decide (s.faultFree w.region < recordsOf l) then s
  else match s.saveAll l with
    | some s1 => (s1.reportAll l).settlePstat.settleDstat
    | none => (s.holdUnit l).settlePstat.settleDstat

/-- SWAP_OUT (R297): a workgroup stopped by a cause, a page, a poisoned line, a debugger or a refused request. -/
def execSwapOut (wg : Nat) (s : State) : Host.Outcome State Fault Refusal :=
  match s.wg? wg with
  | none => .next s
  | some w =>
    match w.stop with
    | none => .next s
    | some i => if i.reason = .preempt then .next s else .next (s.saveUnit w)

/-- CONTEXT_SAVE (R380): any workgroup that has stopped to be saved. -/
def execContextSave (wg : Nat) (s : State) : Host.Outcome State Fault Refusal :=
  match s.wg? wg with
  | none => .next s
  | some w => .next (s.saveUnit w)

/-! ### Reading an image (R384) -/

/-- A number of n bytes at an offset of an image. -/
def State.img (s : State) (at_ off n : Nat) : Nat := s.peek (at_ + off) n

/-- A vector register in an image. -/
def State.imgLanes (s : State) (at_ : Nat) : Lanes := tabulate 32 (fun l => BitVec.ofNat 32 (s.peek (at_ + 4 * l.val) 4))

/-- A slot in an image. -/
def State.imgSlot (s : State) (at_ : Nat) : Option Path :=
  let f := s.peek (at_ + 20) 1
  if bitAt f 0 then
    some { pc := BitVec.ofNat 56 (s.peek at_ 8), mask := BitVec.ofNat 32 (s.peek (at_ + 8) 4), age := s.peek (at_ + 12) 4,
           depth := BitVec.ofNat 16 (s.peek (at_ + 16) 2), parked := bitAt f 1 }
  else none

/-- An engine queue in an image. -/
def State.imgEngq (s : State) (at_ n : Nat) : List W64 :=
  (List.range (min 16 n)).map (fun i => BitVec.ofNat 64 (s.peek (at_ + 8 * i) 8))

/-- A counter register in an image; the instant of its last event stays the part's. -/
def State.imgEvc (s : State) (at_ : Nat) (c : EvCounter) : EvCounter :=
  { thr := BitVec.ofNat 16 (s.peek at_ 2), count := BitVec.ofNat 16 (s.peek (at_ + 2) 2),
    win := BitVec.ofNat 32 (s.peek (at_ + 4) 4), last := c.last }

/-- Put a slice's next slot at `sys.epc` when system software has changed the value that was saved (R377) and no live slot stands
there. Else the slots resume where they stood, which is `sys.epc` (R297) but for a 0x10, which leaves it unchanged (R140; DEDUCED,
notes/assumptions/127.md). -/
def Slice.resumeAt (sl : Slice) (saved : Va) : Slice :=
  let at_ (p : Option Path) : Bool := match p with | some p => p.pc == sl.epc | none => false
  if sl.epc == saved || sl.hmode || sl.ended || at_ sl.slot0 || at_ sl.slot1 then sl
  else match sl.nextSlot with
    | some one => sl.setSlot one ((sl.slot one).map (fun p => { p with pc := sl.epc }))
    | none => sl

/-- A slice from its block and its vector registers; the shell gives what no image holds. -/
def State.imgSlice (s : State) (b vat : Nat) (sh : Slice) (now : Nat) : Slice :=
  let sys (i : Nat) : Nat := s.img b (768 + 8 * i) 8
  let cnt := s.img b 960 8
  let occ := s.img b 968 8
  let misc := s.img b 976 8
  let qn := s.img b 992 8
  let sl : Slice := { sh with
    sreg := tabulate 32 (fun i => BitVec.ofNat 64 (s.img b (8 * i.val) 8)),
    pred := tabulate 16 (fun i => BitVec.ofNat 32 (s.img b (256 + 4 * i.val) 4)),
    slot0 := s.imgSlot (b + 320), slot1 := s.imgSlot (b + 352), hold0 := none, hold1 := none,
    q12 := s.imgEngq (b + 384) (bitsAt qn 0 5), q13 := s.imgEngq (b + 512) (bitsAt qn 8 5),
    q14 := s.imgEngq (b + 640) (bitsAt qn 16 5),
    cause := BitVec.ofNat 8 (sys 0), aux0 := BitVec.ofNat 64 (sys 1), aux1 := BitVec.ofNat 64 (sys 2),
    epc := BitVec.ofNat 56 (sys 3), skid := BitVec.ofNat 5 (sys 4), fpc := BitVec.ofNat 56 (sys 5),
    estat := BitVec.ofNat 6 (sys 6), gbank := BitVec.ofNat 8 (sys 7), corr := BitVec.ofNat 32 (sys 8),
    evctl := BitVec.ofNat 18 (sys 9),
    evc := tabulate 6 (fun c => s.imgEvc (b + 848 + 8 * c.val) ((sh.evc[c.val]?).getD EvCounter.reset)),
    emask := BitVec.ofNat 33 (sys 16), hmode := bitAt (sys 17) 0, hscr0 := BitVec.ofNat 64 (sys 18),
    hscr1 := BitVec.ofNat 64 (sys 19), lgeom := BitVec.ofNat 6 (sys 20),
    loads := bitsAt cnt 0 6, stores := bitsAt cnt 8 6, copies := bitsAt cnt 16 6, passes := bitsAt cnt 24 6,
    dstackN := bitsAt occ 0 16, cstackN := bitsAt occ 16 16, ageCtr := bitsAt occ 32 32,
    last1 := bitAt misc 0,
    yieldEnd := if bitAt misc 1 then some (now + sh.yieldEnd.getD 32) else none,
    heldPop := if bitAt misc 2 then
      some (if !bitAt misc 3 then .brq else if bitAt misc 4 then .bwaitMissed else .bwaitProm, BitVec.ofNat 64 (s.img b 984 8)) else none,
    vreg := (List.range sh.vreg.length).map (fun n => s.imgLanes (vat + 128 * n)),
    wait0 := none, wait1 := none, sleep := none, tlbi := none, halt := .running }
  sl.resumeAt sh.epc

/-- A token in a queue tag. -/
def State.imgToken (s : State) (at_ : Nat) : Option Token :=
  let x := s.peek at_ 32
  if bitAt x 108 then
    some { base := BitVec.ofNat 64 x, lanes := BitVec.ofNat 32 (bitsAt x 64 32), cause := BitVec.ofNat 8 (bitsAt x 96 8),
           ty := BitVec.ofNat 4 (bitsAt x 104 4), raised := bitAt x 109, variant := BitVec.ofNat 6 (bitsAt x 110 6), pc := BitVec.ofNat 56 (bitsAt x 128 56) }
  else none

/-- A queue from its place and its header word; an entry keeps the number of the access that will fill it, and those of the
accesses that come before its pop (R34, R435). -/
def State.imgQueue (s : State) (at_ hdr : Nat) (sh : Queue) : Queue :=
  let entry (i : Nat) : QEntry :=
    let p := at_ + 160 * i
    { lanes := if sh.scalar then Lanes.zero else s.imgLanes p, scalar := if sh.scalar then BitVec.ofNat 64 (s.peek p 8) else 0,
      token := s.imgToken (p + 128), fill := (sh.entries[i]?).bind (fun x => x.fill), after := ((sh.entries[i]?).map (fun x => x.after)).getD [] }
  { sh with entries := (List.range (min sh.depth (bitsAt hdr 0 5))).map entry, phases := BitVec.ofNat 16 (bitsAt hdr 16 16) }

/-- The sum of the depths before queue n. -/
def depthsBefore (d : BitVec 1024) (n : Nat) : Nat :=
  ((List.range n).map (fun k => bitsAt (queueDecl d k) 0 5)).foldl (· + ·) 0

/-- A group from its block. -/
def State.imgGroup (s : State) (c : Ctx) (g : Group) (now : Nat) : Group :=
  let d := c.shell.desc
  let b := c.addr + 512 + g.num * groupBytes d
  let v := b + 4608
  let va := v + 128 * descField d 32 8
  let qs := va + 128 * descField d 40 8
  let tiles := qs + 160 * depthSum d
  { g with
    x := s.imgSlice (b + 256) v g.x now, a := g.a.map (fun a => s.imgSlice (b + 1280) va a now),
    queues := tabulate 12 (fun n =>
      s.imgQueue (qs + 160 * depthsBefore d n.val) (s.peek (b + 4 * n.val) 4) g.queues[n]),
    geom := tabulate 32 (fun i => BitVec.ofNat 512 (s.peek (b + 2304 + 64 * i.val) 64)),
    fb := tabulate 8 (fun i => BitVec.ofNat 256 (s.peek (b + 4352 + 32 * i.val) 32)),
    acc := (List.range g.acc.length).map (fun t => tabulate 32 (fun r => tabulate 32 (fun k =>
      BitVec.ofNat 32 (s.peek (tiles + 4096 * t + 128 * r.val + 4 * k.val) 4)))) }

/-- A local-store image as memory. -/
def State.imgLs (s : State) (at_ n : Nat) : Memory :=
  Memory.writeBytes [] 0 ((List.range n).map (fun i => BitVec.ofNat 8 (s.peek (at_ + i) 1)))

/-- Tag-table sets from their place. -/
def State.imgTags (s : State) (at_ n : Nat) : List (List TagEntry) :=
  (List.range n).map (fun i => (List.range 8).map (fun k =>
    let x := s.peek (at_ + 128 * i + 16 * k) 16
    { key := BitVec.ofNat 48 (bitsAt x 48 48), slot := BitVec.ofNat 32 (bitsAt x 16 32), valid := bitAt x 0 }))

/-- Do the header's checks hold: magic, version, size (R377)? A torn image is none either. -/
def State.imageOk (s : State) (c : Ctx) : Bool :=
  s.img c.addr 0 4 == 0x58544E43 && s.img c.addr 4 2 == 1 && s.img c.addr 6 1 == 0 && s.img c.addr 48 4 == c.pages

/-! ### Restoring (R384) -/

/-- What a saved workgroup needs: its groups that have not retired, on each half. -/
def Ctx.need (c : Ctx) : Need × Option Need :=
  let w := c.shell
  let n (half1 : Bool) : Need :=
    { groups := (c.shells.filter (fun g => g.half1 == half1)).length, vrf := vrfKib w.desc, acc := descField w.desc 48 5,
      lsize := w.lsize, tags := w.tags0.length }
  (n false, if w.pair then some (n true) else none)

/-- The core and half of a group at a place. -/
def seatGroups (p : MemberPlace) (gs : List Group) : List (Group × Nat × Nat × Nat) :=
  let h0 := gs.filter (fun g => !g.half1)
  let h1 := gs.filter (fun g => g.half1)
  (h0.zip p.1.groups).map (fun x => (x.1, p.1.core, x.2.1, x.2.2)) ++
  (match p.2 with
    | some q => (h1.zip q.groups).map (fun x => (x.1, q.core, x.2.1, x.2.2))
    | none => [])

/-- Send an access again (R435): what is left of it is asked for anew. -/
def Pending.afresh (p : Pending) : Pending :=
  { p with refused := none, accs := p.accs.map (fun a =>
      if a.done then a else match a.place with | .fabric _ _ => { a with arrived := false } | _ => a) }

/-- Renumber the accesses that a slice's order stands on; those that are performed drop out. -/
def Slice.renumber (sl : Slice) (f : Nat → Option Nat) : Slice :=
  { sl with acqIds := sl.acqIds.filterMap f, relIds := sl.relIds.filterMap f,
            fences := sl.fences.map (fun p => { p with pend := p.pend.filterMap f }) }

/-- Renumber the accesses that a group's queues and slices name. -/
def Group.renumber (g : Group) (f : Nat → Option Nat) : Group :=
  { g with x := g.x.renumber f, a := g.a.map (fun a => a.renumber f), queues := g.queues.map (fun q =>
      { q with entries := q.entries.map (fun x => { x with fill := x.fill.bind f, after := x.after.filterMap f }) }) }

/-- Translate again what is left of an access that is sent again: a `TLBI` may have passed since (R312). What no longer leads
anywhere keeps its place (DESIGN CHOICE, notes/assumptions/124.md). -/
def State.retranslate (s : State) (root : Nat) (p : Pending) : Pending :=
  { p with accs := p.accs.map (fun a => match a.done, a.place with
      | true, _ => a
      | false, .ls _ _ _ => a
      | false, _ => (match s.virtPlace root a.va.toNat (if p.kind.writes then .store else .load) with
        | .place x => { a with place := x }
        | _ => a)) }

/-- The numbers under which a group's accesses are entered again. -/
def State.newIds (s : State) (l : List Pending) (g : Group) (old : Nat) : Option Nat :=
  ((l.filter (fun p => match s.group? p.grp with | some h => h.core == g.core | none => false)).findIdx?
    (fun p => p.grp == g.id && p.id == old)).map (fun i => (s.core g.core).nextPend + i)

/-- Enter the accesses that are sent again, before the slices issue, in their order and with what each waits for (R385, R435). -/
def State.resendAll (s : State) (c : Ctx) : State :=
  let l := c.resend
  let s1 := { s with groups := s.groups.map (fun g => if g.wg = c.shell.id then g.renumber (s.newIds l g) else g) }
  l.foldl (fun t p => match s.group? p.grp with
    | none => t
    | some g => t.addPend g.core { s.retranslate c.shell.root p.afresh with deps := p.deps.filterMap (s.newIds l g) }) s1

/-- An engine of the core that a group now stands on. -/
def engineMoved (i : EngineId) (core : Nat) : EngineId :=
  match i with
  | .copy _ u => .copy core u
  | .psel _ => .psel (clusterOf core)
  | .egress _ => .egress (dieOf core)

/-- Queue the commands that a step held (R379, R408), in order, on the engines of their groups' cores; in a region whose tile
tasks are held they join those (R409). -/
def State.requeueHeld (s : State) (wg : Nat) : State :=
  let mine (h : CmdHold × Command) : Bool := h.1 == .step && h.2.wg == wg
  let s1 := { s with pkg := { s.pkg with heldCmds := s.pkg.heldCmds.filter (fun h => !mine h) } }
  (s.pkg.heldCmds.filter mine).foldl (fun s h =>
    let core := ((s.group? h.2.grp).map (fun g => g.core)).getD h.2.core
    let c := { h.2 with core := core, engine := engineMoved h.2.engine core, fences := [] }
    if s.regions.any (fun r => r.num == c.region && r.holdTasks) then
      ({ s with pkg := { s.pkg with heldCmds := s.pkg.heldCmds ++ [(CmdHold.task, c)] } }).traceCmd c 0x12 0
    else s.modEngine c.engine (fun q => q.append c)) s1

/-- Start the held `SPAWN`, `SPAWNJ` and `LAUNCH` work of a workgroup; a launch whose queue is full stays held. -/
def State.releaseWork (s : State) (sel : HeldWork → Bool) : State :=
  let (go, rest) := (s.pkg.heldWork.filter sel, s.pkg.heldWork.filter (fun h => !sel h))
  go.foldl (fun s h => match h.launch with
    | none => s.spawnInto h.cluster (if h.counted then some (h.grp, h.a) else none) h.recs
    | some (r, bs) => match s.appendLaunch r bs with
      | some s1 => s1.modSlice h.grp h.a (fun sl => { sl with stores := sl.stores - 1 })
      | none => { s with pkg := { s.pkg with heldWork := s.pkg.heldWork ++ [h] } })
    { s with pkg := { s.pkg with heldWork := rest } }

/-- The slot that a hardware breakpoint stopped, with its PC, whose first issue there does not raise it again (R407). -/
def Slice.skipOnce (sl : Slice) : Option (Bool × Va) :=
  let there (one : Bool) : Bool := match sl.slot one with | some p => p.pc == sl.epc | none => false
  if sl.cause = 0x51 ∧ sl.aux0 ≠ 0 then ([!sl.last1, sl.last1].find? there).map (fun one => (one, sl.epc)) else none

/-- Bring a saved workgroup back at a place: its state from the image, on its new core, with an acquire at `.dev` scope. A
slice in handler mode finds its siblings halted. -/
def State.restoreWg (s : State) (c : Ctx) (p : MemberPlace) : State :=
  let w := c.shell
  let ptb := s.ptb (dieOf p.1.core)
  let q := p.2.getD { core := 0, groups := [], ls := 0, tag := 0 }
  let tagAt := c.addr + tagImage w
  let seats := seatGroups p c.shells
  let groups := seats.map (fun y => { s.imgGroup c y.1 (s.die (dieOf y.2.1)).dcyc with core := y.2.1, sub := y.2.2.1, slot := y.2.2.2 })
  let handler := groups.any (fun g => g.x.hmode || (match g.a with | some a => a.hmode | none => false))
  let still (sl : Slice) : Slice := if handler && !sl.hmode then { sl with halt := .stopped } else sl
  let skip (sl : Slice) : Slice :=
    { sl with stepped := false, bpSkip := if c.reason = .debug 0x51 then sl.skipOnce else none }
  let w' : Wg :=
    { w with core := p.1.core, lsBase := p.1.ls, lsBase1 := q.ls, tagBase := p.1.tag, tagBase1 := q.tag,
             ls0 := s.imgLs (c.addr + lsImage w) (256 * w.lsize),
             ls1 := if w.pair then s.imgLs (c.addr + lsImage w + 256 * w.lsize) (256 * w.lsize) else [],
             tags0 := s.imgTags tagAt w.tags0.length, tags1 := s.imgTags (tagAt + 128 * w.tags0.length) w.tags1.length,
             used := 0, window := BitVec.ofNat 64 ptb, progress := ptb, halted := handler, handler := handler,
             stepping := c.step, phase := .running, stop := none }
  let s1 := (s.freeCtx c).l1Drop p.1.core
  let s2 := match p.2 with | some q => s1.l1Drop q.core | none => s1
  let s3 : State := { s2 with
    wgs := s2.wgs ++ [w'], watches := s2.watches.map (fun (x : Watch) => if x.wg = w.id then { x with event := true } else x) }
  let s4 := groups.foldl (fun s g =>
    { s.seat { g with x := skip (still g.x), a := g.a.map (fun a => skip (still a)), stamp := (s.core g.core).stampCtr } with
      nextId := s.nextId }) s3
  let s5 := ((s4.resendAll c).requeueHeld w.id).releaseWork (fun h => h.wg == w.id)
  s5.trace w.region { type := 0x07, engine := sliceIdent p.1.core, origin := originOf p.1.core 0 false, corr := w.corr, ptb := ptb, payload := c.addr }

/-- Restore the contexts of a unit in a cluster, if they fit (R283, R297, R363): each takes its launch's present estimate. -/
def State.restoreUnit (s : State) (cluster : Nat) (l : List Ctx) : Option State :=
  match l with
  | [] => none
  | c :: _ =>
    let e := s.estOf c.shell
    if !s.energyOk c.region (e * l.length) then none
    else (s.placeSet cluster (l.map Ctx.need) []).map (fun ps =>
      let s1 := (l.zip ps).foldl (fun s x => s.restoreWg { x.1 with shell := { x.1.shell with est := e } } x.2) s
      (s1.reserveEnergy c.region e l.length).settlePstat)

end Sys2Proof.Machine
end

