-- ==== Sys2Proof/Machine/Admit.lean ====
section
/-!
DEFINITION. Admission at the cluster, and the distributor (spec 12_cluster.md R283, R284, R297; 16_package_work.md R367 to
R371; 02_encoding.md R67): the two streams, launch records and their checks, budgets, priorities, completion.
-/
namespace Sys2Proof.Machine

/-! ### The cluster's two streams (R284) -/

/-- Is a region stopped by pre-emption (R378)? -/
def State.regionStopped (s : State) (r : Nat) : Bool := s.regions.any (fun x => x.num == r && x.stopped)

/-- The contexts of a list of ids, in that order. -/
def State.ctxList (s : State) (l : List Nat) : List Ctx := l.filterMap (fun i => s.ctxs.find? (fun c => c.id == i))

/-- Admit the head of the workgroup stream, if it fits; the flag says that it was a saved unit. -/
def State.admitHead (s : State) (cluster : Nat) : Option (Bool × State) :=
  let now := (s.die (cluster / 8)).dcyc
  match (s.cluster cluster).wgStream with
  | [] => none
  | h :: rest =>
    let pop (s : State) : State := s.modCluster cluster (fun c => { c with wgStream := rest, wgSince := now, tryAdmit := true })
    if h.ctxs.isEmpty then
      match s.launch? h.launch with
      | some l => (s.admitEntries cluster (l.entries h.first h.members)).map (fun t => (false, pop t))
      | none => none
    else (s.restoreUnit cluster (s.ctxList h.ctxs)).map (fun t => (true, pop t))

/-- The item stream's head: items of a stopped region are passed over. -/
def State.itemHead (s : State) (cluster : Nat) : Option ReadyItem :=
  (s.cluster cluster).itemStream.find? (fun g => !s.regionStopped g.region.toNat)

/-- Admit the head of the item stream, if it fits. -/
def State.admitItem (s : State) (cluster : Nat) : Option (Bool × State) :=
  let now := (s.die (cluster / 8)).dcyc
  match s.itemHead cluster with
  | none => none
  | some g =>
    let pop (s : State) : State := s.modCluster cluster (fun c =>
      { c with itemStream := c.itemStream.erase g, itemSince := now, tryAdmit := true })
    match g.ctx with
    | some i => (s.restoreUnit cluster (s.ctxList [i])).map (fun t => (true, pop t))
    | none =>
      match s.itemEntry cluster g with
      | none => none
      | some x => (s.admitEntries cluster [x]).map (fun t =>
          (false, (pop t).modCluster cluster (fun c => { c with itemSeq := c.itemSeq + 1 })))

/-- One attempt (R284): the preferred stream's head, else the other's unless the preferred head has waited too long. -/
def State.tryAdmit (s : State) (cluster : Nat) : Option (Bool × State) :=
  let c := s.cluster cluster
  let now := (s.die (cluster / 8)).dcyc
  let prefer (b : Bool) (r : Bool × State) : Bool × State :=
    (r.1, r.2.modCluster cluster (fun c => { c with preferItem := b }))
  if c.preferItem then
    match s.admitItem cluster with
    | some r => some (prefer false r)
    | none => if (s.itemHead cluster).isSome && decide (c.itemSince + 65536 ≤ now) then none else s.admitHead cluster
  else
    match s.admitHead cluster with
    | some r => some (prefer true r)
    | none => if !c.wgStream.isEmpty && decide (c.wgSince + 65536 ≤ now) then none else s.admitItem cluster

/-- Is a cluster's die in service? -/
def State.clusterOk (s : State) (cluster : Nat) : Bool :=
  let d := s.die (cluster / 8)
  d.present && !d.fenced

/-- CLUSTER_ADMIT: a set of a launch, or an item group, that fits. -/
def execClusterAdmit (cluster : Nat) (s : State) : Host.Outcome State Fault Refusal :=
  if !s.clusterOk cluster then .next s
  else match s.tryAdmit cluster with
    | some (false, t) => .next t
    | some (true, _) => .next s
    | none => .next (s.modCluster cluster (fun c => { c with tryAdmit := false }))

/-- RESTORE: a saved unit whose turn it is. -/
def execRestore (cluster : Nat) (s : State) : Host.Outcome State Fault Refusal :=
  if !s.clusterOk cluster then .next s
  else match s.tryAdmit cluster with
    | some (true, t) => .next t
    | _ => .next s

/-! ### Completion (R371) -/

/-- The status word of a launch. -/
def statusWord (outcome reason energy : Nat) : Nat := outcome % 256 + reason % 256 * 2 ^ 8 + energy % 2 ^ 48 * 2 ^ 16

/-- A write of the part at an address of a region: at home, sent to a peer, or held while the port of its host is down for less
than 10 ms (R413). -/
def State.partWrite (s : State) (root va : Nat) (bs : List Byte) : State :=
  match s.virtPlace root va .store with
  | .place (.fabric p off) =>
    s.sendReq p { cmdRequest s.fabric.dev false 0 (((List.range bs.length).zip bs).map (fun x => (off + x.1, x.2))) with
      off := BitVec.ofNat 43 off } .part
  | .place (.host pa) =>
    if s.portUp pa then s.writePlace 0 (.host pa) bs
    else if s.hostRefused pa then s
    else { s with pkg := { s.pkg with heldHost := s.pkg.heldHost ++ [(pa, bs)] } }
  | .place p => s.writePlace 0 p bs
  | _ => s

/-- Write a launch's status and completion value, raise its vector and leave the expansion list. -/
def State.finishLaunch (s : State) (l : Launch) (outcome reason : Nat) : State :=
  let w := statusWord outcome reason l.energy
  let root := s.rootOf l.region
  let comp := l.field 320 56
  let bad := reason == 21
  let s1 := if bad then s else
    (s.partWrite root (comp + 8) (toBytes 8 w)).partWrite root comp (toBytes 8 (l.field 384 64))
  let s2 := if bad || l.field 203 1 == 1 then s1.raiseRegion l.region 1504 else s1
  let corr := BitVec.ofNat 32 (l.field 224 32)
  let r : TraceRec := { type := 0x0C, detail := outcome, corr := corr, ptb := s.ptb0, payload := w, engine := 5 * 2 ^ 12 }
  let s3 :=
    if outcome = 1 ∨ outcome = 2 then s2.trace l.region { r with type := 0x0B, detail := reason, payload := l.recAddr } else s2
  let s4 := if corr.getLsbD 31 then s3.trace l.region r else s3
  { s4 with launches := s4.launches.filter (fun x => x.id != l.id) }.modRegion l.region
    (fun x => { x with launches := x.launches.filter (fun i => i != l.id) })

/-- Every command of the package, with the held ones. -/
def State.allCommands (s : State) : List Command := ((List.range 8).map s.dieCommands).flatten

/-- LAUNCH_COMPLETE: every workgroup of the grid has retired and every command of theirs is complete; the answers of their
remote writes have come. -/
def execLaunchComplete (launch : Nat) (s : State) : Host.Outcome State Fault Refusal :=
  match s.launch? launch with
  | none => .next s
  | some l =>
    if l.retired < l.total || s.wgs.any (fun w => w.launch == some launch) || s.ctxs.any (fun c => c.launch == some launch) ||
        s.allCommands.any (fun c => c.launch == some launch) then .next s
    else .next (s.finishLaunch l 0 0)

/-! ### Reading launch records (R366, R367, Table 16.6) -/

/-- The resident groups that a placement kind can hold (R369). -/
def placeLimit (place : Nat) : Nat := if place = 1 then 24576 else if place = 2 then 8192 else 32768

/-- The cores and local-store KiB that a workgroup of a launch takes. -/
def Launch.coresEach (l : Launch) : Nat := if l.field 201 1 = 1 then 2 else 1
/-- Local store in KiB, rounded up. -/
def Launch.kibEach (l : Launch) : Nat := (l.coresEach * 256 * descField l.desc 80 16 + 1023) / 1024

/-- Reasons 16 to 20 of a record, as failed checks in ascending order. -/
def recordReason (l : Launch) : Option Nat :=
  let f := l.field
  let g (x : Nat) : Bool := decide (1 ≤ x) && decide (x ≤ 2 ^ 20)
  let pair := f 201 1 == 1
  let wgs := f 192 6
  if f 56 8 + f 191 1 + f 204 4 + f 212 12 + f 304 16 + f 376 8 + f 512 512 ≠ 0 then some 16
  else if !(g (f 128 21) && g (f 149 21) && g (f 170 21)) then some 17
  else if !(if pair then decide (2 ≤ wgs) && decide (wgs ≤ 32) && wgs % 2 == 0 else decide (1 ≤ wgs) && decide (wgs ≤ 16)) then some 18
  else if f 201 1 ≠ descField l.desc 25 1 ∨ f 202 1 ≠ descField l.desc 26 1 then some 19
  else if 9 < f 208 4 then some 20
  else none

/-- Can a completion address be written? -/
def State.compOk (s : State) (r : Nat) (comp : Nat) : Bool :=
  comp % 16 == 0 && (match s.virtPlace (s.rootOf r) comp .store with | .place _ => true | _ => false)

/-- The reasons of a record whose descriptor has been read (Table 16.6 and R369), the lowest first. -/
def State.launchReason (s : State) (l : Launch) : Option Nat :=
  match recordReason l with
  | some r => some r
  | none =>
    if !s.compOk l.region (l.field 320 56) then some 21
    else if l.field 202 1 = 1 ∧ placeLimit (s.rcbOwned 0 l.region 64 2) < l.total * l.field 192 6 then some 22
    else if s.rcbOwned 3 l.region 128 10 < l.coresEach ∨ s.rcbOwned 4 l.region 138 22 < l.kibEach ∨
        s.rcbOwned 5 l.region 192 48 < l.est then some 23
    else none

/-- What the distributor finds of a descriptor: its bits, a page to fill, or nothing readable. A descriptor that a peer holds
or that is misaligned is not readable. -/
def State.readDescAt (s : State) (r kd : Nat) : Option (BitVec 1024) × Option W64 :=
  if kd % 128 ≠ 0 then (none, none)
  else match s.virtPlace (s.rootOf r) kd .load with
    | .place (.fabric _ _) => (none, none)
    | .place _ => ((s.virtBytes (s.rootOf r) kd 128).map (fun bs => BitVec.ofNat 1024 (ofBytes bs)), none)
    | .bad c a => (none, if c = 0x10 then some a else none)
    | .miss _ => (none, none)

/-- A launch as its record and descriptor give it. -/
def State.newLaunch (s : State) (r addr : Nat) (img desc : BitVec 1024) : Launch :=
  let e := (img.extractLsb' 256 48).toNat
  { id := s.nextId, region := r, record := img, recAddr := addr, desc := desc, next := 0, retired := 0, energy := 0,
    est := if e = 0 then descField desc 448 48 else e, since := s.ptb0, replayed := false, back := [], topSince := none,
    code := s.mem }

/-- LAUNCH_READ: the head of a region's launch queue, once its start has come. A page of its descriptor that is not present
is asked for once, and the head waits; a rejected launch completes at once; an accepted one waits for room among 4. -/
def execLaunchRead (region : Nat) (s : State) : Host.Outcome State Fault Refusal :=
  match s.region? region with
  | none => .next s
  | some x =>
    let head := s.rcb region 784 16
    if x.stopped || head == s.rcb region 800 16 || s.rcb region 768 16 == 0 then .next s
    else
      let addr := s.rcb region 704 64 + 128 * head
      let img : BitVec 1024 := BitVec.ofNat 1024 (s.peek addr 128)
      let next (s : State) : State :=
        ((s.setRcb region 784 16 ((head + 1) % s.rcb region 768 16)).modRegion region (fun x => { x with headSince := none })).releaseWork
          (fun h => (match h.launch with | some (r, _) => r == region | none => false) &&
            s.wgs.any (fun w => w.id == h.wg && !w.stepping))
      if s.ptb0 < (img.extractLsb' 448 64).toNat then .next s
      else
        let reject (l : Launch) (reason : Nat) : State :=
          (next s).finishLaunch l (if reason < 16 then 1 else 2) reason
        match s.readDescAt region (img.extractLsb' 0 56).toNat with
        | (some d, _) =>
          let l := s.newLaunch region addr img d
          let reason := (descReason d).or (if descField d 16 4 = 1 then some 2 else s.launchReason l)
          match reason with
          | some n => .next (reject l n)
          | none =>
            if 4 ≤ x.launches.length then .next s
            else
              let s1 := { next s with launches := s.launches ++ [l], nextId := s.nextId + 1 }.modRegion region
                (fun x => { x with launches := x.launches ++ [l.id] })
              let corr := BitVec.ofNat 32 (l.field 224 32)
              let r : TraceRec := { type := 0x0A, corr := corr, ptb := s.ptb0, payload := addr, engine := 5 * 2 ^ 12 }
              .next (if corr.getLsbD 31 then s1.trace region r else s1)
        | (none, some page) =>
          if x.headSince = some head || s.faultFull region then .next s
          else
            let r : FaultRec := { kind := 2, cause := 0x10, region := region, corr := img.extractLsb' 224 32, pages := [page] }
            .next ((s.putFault r).modRegion region (fun x => { x with headSince := some head }))
        | (none, none) =>
          let l := s.newLaunch region addr img 0
          let bits : BitVec 1024 := BitVec.ofNat 1024 ((img.extractLsb' 201 2).toNat * 2 ^ 25)
          .next (reject l ((s.launchReason { l with desc := bits }).getD 24))

/-! ### The distributor (R368, R369) -/

/-- The clusters that a placement mask allows: P-clusters lie on dies 0 to 5, G-clusters on dies 6 and 7 (R280). -/
def State.allowedClusters (s : State) (place : Nat) (pair : Bool) : List Nat :=
  (List.range 64).filter (fun c =>
    s.clusterOk c && (place == 0 || (decide (c / 8 < 6) == (place == 1))) && place != 3 &&
    (!pair || (c / 8 % 2 == 0 && s.clusterOk (c + 8))))

/-- The placement mask of a region. -/
def State.placeOf (s : State) (r : Nat) : Nat := s.rcbOwned 0 r 64 2

/-- The cores and local-store KiB that the work of a region and the regions that share its budget hold or have reserved. -/
def State.heldBy (s : State) (bit owner : Nat) : Nat × Nat :=
  let under (r : Nat) : Bool := (s.ownersOf bit r).contains owner
  let wgs := s.wgs.filter (fun w => under w.region)
  let cores := ((wgs.map (fun w => if w.pair then [w.core, buddyOf w.core] else [w.core])).flatten).eraseDups.length
  let kib := wgs.foldl (fun n w => n + (halves w * 256 * w.lsize + 1023) / 1024) 0
  let waiting := (List.range 64).flatMap (fun i => (s.cluster i).wgStream)
  waiting.foldl (fun x h =>
    if h.ctxs.isEmpty then
      match s.launch? h.launch with
      | some l => if under l.region then (x.1 + h.members * l.coresEach, x.2 + h.members * l.kibEach) else x
      | none => x
    else (s.ctxList h.ctxs).foldl (fun x c =>
      if under c.region then (x.1 + halves c.shell, x.2 + (halves c.shell * 256 * c.shell.lsize + 1023) / 1024) else x) x) (cores, kib)

/-- Does a set of n members, each taking cores and KiB, pass the budget check of a region and every owning ancestor (R369)? -/
def State.budgetOk (s : State) (r n cores kib e : Nat) : Bool :=
  (s.ownersOf 3 r).all (fun o => decide ((s.heldBy 3 o).1 + n * cores ≤ s.rcb o 128 10)) &&
  (s.ownersOf 4 r).all (fun o => decide ((s.heldBy 4 o).2 + n * kib ≤ s.rcb o 138 22)) && s.energyOk r e

/-- What the distributor may hand out next for a region: a set of a launch, or a saved unit that re-enters. -/
inductive NextSet where
  | fresh (l : Launch) (first : Nat)
  | saved (l : List Ctx)
  deriving DecidableEq, Repr

/-- Is a unit of contexts ready to re-enter: all of it saved, resumed, and in no stream yet? -/
def State.unitReady (s : State) (c : Ctx) : Bool :=
  let l := s.ctxs.filter (fun x => x.setId == c.setId)
  !c.shell.item && l.all (fun x => x.phase == .resumed) && l.any (fun x => x.reason != .member) &&
  s.wgs.all (fun w => w.setId != c.setId || !s.alive w) &&
  (List.range 64).all (fun i => (s.cluster i).wgStream.all (fun h => !h.ctxs.contains c.id))

/-- The first saved unit of a region's launch that may re-enter. -/
def State.readyUnit (s : State) (launch : Nat) : Option (List Ctx) :=
  (s.ctxs.find? (fun c => c.launch == some launch && s.unitReady c)).map (fun c => s.ctxs.filter (fun x => x.setId == c.setId))

/-- The next set of a launch: saved units first, then sets that came back, then the next index. -/
def State.nextOf (s : State) (l : Launch) : Option NextSet :=
  match s.readyUnit l.id with
  | some u => some (.saved u)
  | none =>
    match l.back with
    | i :: _ => some (.fresh l i)
    | [] => if l.next < l.total then some (.fresh l l.next) else none

/-- The oldest launch of a region with something to hand out. -/
def State.candidate (s : State) (x : Region) : Option (Launch × NextSet) :=
  x.launches.findSome? (fun i => (s.launch? i).bind (fun l => (s.nextOf l).map (fun n => (l, n))))

/-- The priority that a region's launch has reached. -/
def State.effOf (s : State) (x : Region) (l : Launch) : Nat :=
  let prio := s.rcbOwned 1 x.num 68 4
  let cap := s.rcbOwned 1 x.num 72 4
  min (prio + (s.ptb0 - l.since) / 1000000) (max prio cap)

/-- The free group slots of a cluster. -/
def State.freeSlots (s : State) (cluster : Nat) : Nat :=
  (List.range 8).foldl (fun n k => n + 64 - (s.groupsOn (8 * cluster + k)).length) 0

/-- The sets that wait at a cluster; of a pair, at both. -/
def State.waitingAt (s : State) (cluster : Nat) : Nat :=
  let odd := (s.cluster cluster).wgStream.length
  let buddy := if cluster / 8 % 2 = 1 then
    ((s.cluster (cluster - 8)).wgStream.filter (fun h =>
      (match s.launch? h.launch with | some l => l.field 201 1 == 1 | none => false) || (s.ctxList h.ctxs).any (fun c => c.shell.pair))).length
    else 0
  odd + buddy

/-- The cluster that takes a set: the fewest waiting sets, then the most free slots, then the lower number; none when every
allowed one holds two. Clusters that a blocked co-resident launch keeps are left out. -/
def State.pickCluster (s : State) (place : Nat) (pair : Bool) (kept : List Nat) : Option Nat :=
  let ok := (s.allowedClusters place pair).filter (fun c => !kept.contains c && decide (s.waitingAt c < 2) &&
    (!pair || decide (s.waitingAt (c + 8) < 2)))
  firstMax (fun c => 1000000 * (2 - s.waitingAt c) + s.freeSlots c) ok

/-- A place for every set of a co-resident launch, tried in ascending order of cluster, and the state with all admitted. -/
def State.placeWhole (s : State) (l : Launch) (clusters : List Nat) : Nat → Nat → Option State
  | 0, _ => some s
  | n + 1, first =>
    let k := l.setSize first
    match clusters.findSome? (fun c => s.admitEntries c (l.entries first k)) with
    | some t => t.placeWhole l clusters n (first + k)
    | none => none

/-- The number of sets of a launch. -/
def Launch.sets (l : Launch) : Nat := (l.total + l.field 198 3) / (l.field 198 3 + 1)

/-- Hand out a co-resident launch whole to some clusters, if it fits (R369). -/
def State.handWhole (s : State) (l : Launch) (clusters : List Nat) : Option State :=
  let n := l.total
  if !s.budgetOk l.region n l.coresEach l.kibEach (l.est * n) then none
  else (s.placeWhole l clusters l.sets 0).map (fun t =>
    t.modLaunch l.id (fun x => { x with next := x.total, topSince := none }))

/-- Restore a co-resident launch's saved units whole (R378). -/
def State.restoreWhole (s : State) (clusters : List Nat) : List (List Ctx) → Option State
  | [] => some s
  | u :: rest =>
    match clusters.findSome? (fun c => s.restoreUnit c u) with
    | some t => t.restoreWhole clusters rest
    | none => none

/-- The units of a launch's contexts. -/
def State.units (s : State) (launch : Nat) : List (List Ctx) :=
  let mine := s.ctxs.filter (fun c => c.launch == some launch)
  ((mine.map (fun c => c.setId)).eraseDups).map (fun i => mine.filter (fun c => c.setId == i))

/-- Append a set to a cluster's stream. -/
def State.enqueueSet (s : State) (cluster : Nat) (h : WaitSet) : State :=
  let now := (s.die (cluster / 8)).dcyc
  s.modCluster cluster (fun c =>
    { c with wgStream := c.wgStream ++ [h], wgSince := if c.wgStream.isEmpty then now else c.wgSince, tryAdmit := true })

/-- Hand a set to a cluster. -/
def State.handSet (s : State) (l : Launch) (n : NextSet) (cluster : Nat) : State :=
  match n with
  | .fresh _ first =>
    let k := l.setSize first
    (s.enqueueSet cluster { launch := l.id, first := first, members := k, ctxs := [], est := l.est }).modLaunch l.id (fun x =>
      if x.back.contains first then { x with back := x.back.erase first } else { x with next := first + k })
  | .saved u =>
    s.enqueueSet cluster { launch := l.id, first := 0, members := u.length, ctxs := u.map (fun c => c.id), est := l.est }

/-- Try to hand out a launch's next set; co-resident launches go whole. -/
def State.tryHand (s : State) (l : Launch) (n : NextSet) (kept : List Nat) : Option State :=
  let pair := l.field 201 1 == 1
  let clusters := (s.allowedClusters (s.placeOf l.region) pair).filter (fun c => !kept.contains c)
  match n, l.field 202 1 == 1 with
  | .fresh _ _, true => s.handWhole l clusters
  | .saved _, true =>
    if (s.units l.id).all (fun u => u.all (fun c => s.unitReady c)) then s.restoreWhole clusters (s.units l.id) else none
  | .fresh _ first, false =>
    let k := l.setSize first
    if !s.budgetOk l.region k l.coresEach l.kibEach l.est then none
    else (s.pickCluster (s.placeOf l.region) pair kept).map (s.handSet l n)
  | .saved u, false =>
    if !s.budgetOk l.region u.length l.coresEach l.kibEach l.est then none
    else (s.pickCluster (s.placeOf l.region) pair kept).map (s.handSet l n)

/-- The candidates of the active regions with their levels, in the order of the round (R368): by level, highest first; within
a level, the regions after the last served one, wrapping. -/
def State.round (s : State) : List (Nat × Nat × Launch × NextSet) :=
  let all := (s.regions.filter (fun x => !x.stopped)).filterMap (fun x =>
    (s.candidate x).map (fun c => (s.effOf x c.1, x.num, c.1, c.2)))
  let key (y : Nat × Nat × Launch × NextSet) : Nat :=
    let last := (s.pkg.rr[y.1]?).getD 0
    (15 - y.1) * 2 ^ 20 + (if last < y.2.1 then y.2.1 else y.2.1 + 2 ^ 17)
  sortBy key all

/-- Is a candidate a co-resident launch, which goes only whole? -/
def coResident (y : Nat × Nat × Launch × NextSet) : Bool := y.2.2.1.field 202 1 == 1

/-- The co-resident launches that do not fit and that no candidate of a higher level stands before: the highest-level eligible
candidates of R369. -/
def State.tops (s : State) (l : List (Nat × Nat × Launch × NextSet)) : List (Nat × Nat × Launch × NextSet) :=
  let fits (y : Nat × Nat × Launch × NextSet) : Bool := (s.tryHand y.2.2.1 y.2.2.2 []).isSome
  match l.find? (fun y => coResident y || fits y) with
  | none => []
  | some top => l.filter (fun y => y.1 == top.1 && coResident y && !fits y)

/-- Note since when launches have been the highest without fitting (R369); the others begin anew. -/
def State.markTops (s : State) (ids : List Nat) : State :=
  { s with launches := s.launches.map (fun x =>
      { x with topSince := if ids.contains x.id then some (x.topSince.getD s.ptb0) else none }) }

/-- Walk the round: the first region that is eligible takes the step. The clusters of `kept` are kept for one launch, from sets of
its level and of lower ones. -/
def State.serve (s : State) (kept : Option (Nat × Nat × List Nat)) : List (Nat × Nat × Launch × NextSet) → State
  | [] => s
  | (lv, r, l, n) :: rest =>
    let away := match kept with
      | some (level, id, clusters) => if lv ≤ level ∧ l.id ≠ id then clusters else []
      | none => []
    match s.tryHand l n away with
    | some t => { t with pkg := { t.pkg with rr := t.pkg.rr.setIfInBounds lv r, lastSet := some t.ptb0 } }
    | none => s.serve kept rest

/-- The launch that has been the highest for 1 ms without fitting, with its level and the clusters of its placement (R369). -/
def State.keeper (s : State) (tops : List (Nat × Nat × Launch × NextSet)) : Option (Nat × Nat × List Nat) :=
  (tops.find? (fun y => match (s.launch? y.2.2.1.id).bind (fun x => x.topSince) with
    | some t => decide (t + 1000000 ≤ s.ptb0)
    | none => false)).map (fun y =>
      (y.1, y.2.2.1.id, s.allowedClusters (s.placeOf y.2.1) (y.2.2.1.field 201 1 == 1)))

/-- DISTRIBUTOR_STEP: at most one set in 2 PTB ticks, none while the package is over its power (R364). -/
def execDistributorStep (s : State) : Host.Outcome State Fault Refusal :=
  let soon := match s.pkg.lastSet with
    | some t => decide (s.ptb0 < t + 2)
    | none => false
  if s.overPower || soon then .next s
  else
    let tops := s.tops s.round
    let s1 := s.markTops (tops.map (fun y => y.2.2.1.id))
    .next (s1.serve (s1.keeper tops) s1.round)

end Sys2Proof.Machine
end

