-- ==== Sys2Proof/Machine/Faults.lean ====
section
/-!
DEFINITION. Resolution, pre-emption, resets and hardware errors (spec 17_package_faults.md R376 to R378, R383, R386 to R392;
13_die.md R309, R310; 21_fabric.md R435; 18_debug.md R405 to R409).
-/
namespace Sys2Proof.Machine

/-! ### Sending saved work back (R297, R377, R378, R383) -/

/-- Lift the halt of a workgroup that is held in place or still draining: it goes on where it stands; refused accesses are
sent again. A slice in handler mode keeps its siblings halted. -/
def State.unhold (s : State) (w : Wg) (step : Bool) : State :=
  let gs := s.groups.filter (fun g => g.wg == w.id)
  let handler := gs.any (fun g => g.x.hmode || (match g.a with | some a => a.hmode | none => false))
  let run (sl : Slice) : Slice :=
    { sl with halt := if handler && !sl.hmode then sl.halt else .running, stepped := false,
              bpSkip := match w.stop with
                | some i => if i.reason = .debug 0x51 then sl.skipOnce.or sl.bpSkip else sl.bpSkip
                | none => sl.bpSkip }
  let again (p : Pending) : Pending := if gs.any (fun g => g.id == p.grp) && p.refused.isSome then p.afresh else p
  let cores := (gs.map (fun g => g.core)).eraseDups
  let s1 : State := { s with
    wgs := s.wgs.map (fun v => if v.id = w.id then
      { v with phase := .running, stop := none, halted := handler, handler := handler, stepping := step,
               progress := s.ptb (dieOf w.core) } else v),
    groups := s.groups.map (fun g => if g.wg = w.id then { g with x := run g.x, a := g.a.map run } else g),
    halts := s.halts.filter (fun h => h.wg != w.id) }
  (((cores.foldl (fun s c => s.modCore c (fun k => { k with pend := k.pend.map again })) s1).requeueHeld w.id).releaseWork
    (fun h => h.wg == w.id))

/-- A resumed context: an item group goes to the head of its cluster's item stream, another waits for the distributor. -/
def State.resumeCtx (s : State) (c : Ctx) (step : Bool) : State :=
  let s1 : State := { s with ctxs := s.ctxs.map (fun x =>
    if x.id = c.id then { x with phase := .resumed, step := step } else if x.setId = c.setId then { x with step := step } else x) }
  if c.shell.item then
    let now := (s.die (c.cluster / 8)).dcyc
    s1.modCluster c.cluster (fun k =>
      { k with itemStream := { code := c.shell.kd.setWidth 56, region := BitVec.ofNat 32 c.region, recs := [], ctx := some c.id } ::
                 k.itemStream,
               itemSince := now, tryAdmit := true })
  else s1

/-! ### Resetting launches and fault domains (R388) -/

/-- Remove every group, access, pass and message of a workgroup, and its frame areas, without a save. -/
def State.discardWg (s : State) (w : Wg) : State :=
  let gs := s.groups.filter (fun g => g.wg == w.id)
  let mine (i : Nat) : Bool := gs.any (fun g => g.id == i)
  let cores := (gs.map (fun g => g.core)).eraseDups
  let s1 := cores.foldl (fun s c => s.modCore c (fun k =>
    { k with pend := k.pend.filter (fun p => !mine p.grp), ttWait := k.ttWait.filter (fun t => !mine t.1.grp),
             subs := k.subs.map (fun u =>
               { u with waiting := u.waiting.filter (fun p => !mine p.grp),
                        running := u.running.filter (fun r => !mine r.1.grp) }) })) s
  let s2 := (s1.freeFrames w).removeWg w
  { s2 with watches := s2.watches.filter (fun x => x.wg != w.id) }

/-- Discard a context: its pages and its frame areas are free. -/
def State.discardCtx (s : State) (c : Ctx) : State :=
  let s1 := (s.freeFrames c.shell).freeCtx c
  { s1 with watches := s1.watches.filter (fun x => x.wg != c.shell.id) }

/-- Every engine of the package. -/
def allEngines : List EngineId := ((List.range 8).map dieEngines).flatten

/-- Remove the commands that satisfy a condition: queued ones, the running one at the end of its chunk, held ones. -/
def State.dropCommands (s : State) (sel : Command → Bool) : State :=
  let keep (l : List Command) : List Command := l.filter (fun c => !sel c)
  let hit := allEngines.filter (fun i => (s.engine i).commands.any sel)
  let s1 := hit.foldl (fun s i => s.modEngine i (fun q =>
    { q with normal := keep q.normal, prio := keep q.prio, running := q.running.filter (fun c => !sel c) })) s
  { s1 with pkg := { s1.pkg with heldCmds := s1.pkg.heldCmds.filter (fun h => !sel h.2) } }

/-- Take the sets and item groups that satisfy conditions out of the clusters' streams. -/
def State.dropStreams (s : State) (set : WaitSet → Bool) (item : ReadyItem → Bool) : State :=
  (List.range 64).foldl (fun s i =>
    let c := s.cluster i
    if c.wgStream.any set || c.itemStream.any item then
      s.modCluster i (fun c => { c with wgStream := c.wgStream.filter (fun h => !set h),
                                        itemStream := c.itemStream.filter (fun g => !item g) })
    else s) s

/-- Drop the item records of regions that satisfy a condition from the queues of the package. -/
def State.dropItems (s : State) (sel : Nat → Bool) : State :=
  let of_ (x : BitVec 256) : Bool := sel (x.extractLsb' 192 32).toNat
  (List.range 64).foldl (fun s i =>
    let c := s.cluster i
    if (s.items i).any of_ || c.entering.any (fun x => of_ x.1) || c.opened.any (fun g => sel g.region.toNat) then
      (s.setItems i ((s.items i).filter (fun x => !of_ x))).modCluster i (fun c =>
        { c with entering := c.entering.filter (fun x => !of_ x.1), opened := c.opened.filter (fun g => !sel g.region.toNat) })
    else s) s

/-- A launch that had begun is reset: it runs again whole from the head of its region's list, once; a second reset of it, or an
abort, completes it with outcome 3. -/
def State.resetLaunch (s : State) (l : Launch) (replay : Bool) : State :=
  if replay && !l.replayed then
    (s.modLaunch l.id (fun x => { x with next := 0, retired := 0, back := [], topSince := none, replayed := true, since := s.ptb0 })).modRegion
      l.region (fun x => { x with launches := l.id :: x.launches.filter (fun i => i != l.id) })
  else s.finishLaunch l 3 0

/-- Discard everything of a launch: workgroups, commands, sets, contexts; then reset it. -/
def State.wipeLaunch (s : State) (id : Nat) (replay : Bool) : State :=
  match s.launch? id with
  | none => s
  | some l =>
    let s1 := (s.wgs.filter (fun w => w.launch == some id)).foldl (fun s w => s.discardWg w) s
    let s2 := (s1.ctxs.filter (fun c => c.launch == some id)).foldl (fun s c => s.discardCtx c) s1
    let s3 := ((s2.dropCommands (fun c => c.launch == some id)).dropStreams (fun h => h.launch == id) (fun _ => false))
    s3.resetLaunch l replay

/-- Reset a fault domain (R388): `replay` when the part caused it. -/
def State.resetDomain (s : State) (fdom : Nat) (replay : Bool) : State :=
  let regs := (s.regions.map (fun x => x.num)).filter (fun r => s.rcbOwned 2 r 76 16 == fdom)
  let sel (r : Nat) : Bool := regs.contains r
  let s1 := (s.wgs.filter (fun w => sel w.region)).foldl (fun s w => s.discardWg w) s
  let s2 := (s1.ctxs.filter (fun c => sel c.region)).foldl (fun s c => s.discardCtx c) s1
  let mine (h : WaitSet) : Bool := s.launches.any (fun l => l.id == h.launch && sel l.region)
  let s3 := ((s2.dropCommands (fun c => sel c.region)).dropStreams mine (fun g => sel g.region.toNat)).dropItems sel
  let s4 : State := { s3 with
    regions := s3.regions.map (fun x => if sel x.num then { x with deferred := [] } else x),
    pkg := { s3.pkg with heldWork := s3.pkg.heldWork.filter (fun h => s3.wgs.any (fun w => w.id == h.wg) || s3.ctxs.any (fun c => c.shell.id == h.wg)) } }
  let s5 := ((s4.launches.filter (fun l => sel l.region)).reverse).foldl (fun s l => s.resetLaunch l replay) s4
  regs.foldl (fun s r => s.deferFault { kind := 6, region := r }) s5

/-- The fault domain of a region. -/
def State.fdomOf (s : State) (r : Nat) : Nat := s.rcbOwned 2 r 76 16

/-! ### `pkg.fres` (R376, R377) -/

/-- Answer a `pkg.fres` write. -/
def State.fdstWrite (s : State) (region result : Nat) : State :=
  { s with pkg := { s.pkg with fdst := BitVec.ofNat 20 (region % 2 ^ 16 + result * 2 ^ 16) } }

/-- Return a command to its engine at its boundary, ahead of its queue (R391). -/
def State.requeueFirst (s : State) (c : Command) : State :=
  let c' := c.atBoundary
  s.modEngine c.engine (fun q => if c.prio then { q with prio := c' :: q.prio } else { q with normal := c' :: q.normal })

/-- Send a saved workgroup back with its set. When the header of an image of the set fails its checks none is restored: their
launch is reset, and a kind-6 record says so (R377). -/
def State.sendBack (s : State) (c : Ctx) (step : Bool) : State :=
  if (s.ctxs.filter (fun x => x.setId == c.setId)).all s.imageOk then s.resumeCtx c step
  else
    let s1 := match c.launch with
      | some l => s.wipeLaunch l true
      | none => s.discardCtx c
    s1.deferFault { kind := 6, region := c.region }

/-- Send saved workgroups back, those that are still there when their turn comes. -/
def State.sendAllBack (s : State) (l : List Ctx) : State :=
  l.foldl (fun s c => if s.ctxs.any (fun x => x.id == c.id) then s.sendBack c false else s) s

/-- Resume what a record of a region names: a context, a workgroup held in place, a command at its boundary. -/
def State.resumeRecord (s : State) (region index : Nat) (step : Bool) : Option State :=
  match s.ctxs.find? (fun c => c.region == region && c.record == some index && c.phase != .resumed) with
  | some c => some (s.sendBack c step)
  | none =>
    match s.wgs.find? (fun w => w.region == region && (match w.stop with | some i => i.record == some index | none => false)) with
    | some w => some ((s.unitOf w).foldl (fun s v => s.unhold v step) s)
    | none =>
      match s.pkg.heldCmds.find? (fun h => h.1 == .poison index && h.2.region == region) with
      | some h => some (({ s with pkg := { s.pkg with heldCmds := s.pkg.heldCmds.erase h } }).requeueFirst h.2)
      | none => none

/-- Is there a record of a number in a region's fault queue: one has been written there since its activation (R376)? -/
def State.recordAt (s : State) (region index : Nat) : Bool :=
  match s.region? region with
  | some x => x.recs.contains index
  | none => false

/-- FAULT_RESUME: `pkg.fres` with action 0. -/
def execFaultResume (region index : Nat) (s : State) : Host.Outcome State Fault Refusal :=
  if !s.recordAt region index then .next (s.fdstWrite region 1)
  else match s.resumeRecord region index false with
    | some t => .next (t.fdstWrite region 0)
    | none => .next (s.fdstWrite region 2)

/-- FAULT_DOMAIN_RESET: `pkg.fres` with action 1: every launch of the domain that had begun completes with outcome 3. -/
def execFaultDomainReset (region index : Nat) (s : State) : Host.Outcome State Fault Refusal :=
  if !s.recordAt region index then .next (s.fdstWrite region 1)
  else .next ((s.resetDomain (s.fdomOf region) false).fdstWrite region 0)

/-- Is a listed range present: the entry at its level no longer stops the walk (R309)? -/
def State.rangePresent (s : State) (root : Nat) (a : W64) : Bool :=
  match s.walk [] (a.toNat / 4 * 4) 4 root with
  | .bad c level => !(c == 0x10 && decide (level ≤ 4 - a.toNat % 4))
  | .leaf _ _ => true

/-- Does a saved context have every page that it waits for? -/
def State.pagesDue (s : State) (c : Ctx) : Bool := c.phase == .waitingPages && c.needed.all (s.rangePresent c.shell.root)

/-- Does a workgroup that is held in place with a record of kind 2 have every page that it waits for? -/
def State.pagesDueHere (s : State) (w : Wg) : Bool :=
  w.phase == .heldInPlace true && (match w.stop with
    | some i => i.reason == .pages && i.pages.all (s.rangePresent w.root)
    | none => false)

/-- PAGE_PRESENT_RESUME (R310, R377): a record of kind 2 is resumed once every listed range is present, of a saved context or of a
workgroup held in place. -/
def execPagePresentResume (id : Nat) (s : State) : Host.Outcome State Fault Refusal :=
  match s.ctxs.find? (fun c => c.id == id) with
  | some c => .next (if s.pagesDue c then s.sendBack c false else s)
  | none =>
    match s.wg? id with
    | some w => .next (if s.pagesDueHere w then (s.unitOf w).foldl (fun s v => s.unhold v false) s else s)
    | none => .next s

/-! ### Pre-emption (R378) -/

/-- The active regions that a region has under it, itself among them. -/
def State.regionsUnder (s : State) (r : Nat) : List Nat :=
  (s.regions.map (fun x => x.num)).filter (fun x => (s.chain s.climb x).contains r)

/-- Answer a `pkg.pre` write. -/
def State.pstatWrite (s : State) (region result : Nat) (busy : Bool) : State :=
  { s with pkg := { s.pkg with pstat := BitVec.ofNat 20 (region % 2 ^ 16 + result * 2 ^ 16 + busy.toNat * 2 ^ 19) } }

/-- A stop that no slice caused. -/
def stopOf (w : Wg) (reason : OutReason) (ptb : Nat) : StopInfo :=
  { reason := reason, grp := 0, slice := false, epc := 0, aux0 := 0, aux1 := 0, corr := w.corr, pages := [], since := ptb,
    onReservedPath := false, record := none }

/-- Stop every resident workgroup of some regions through the pre-emption halt. -/
def State.stopAllOf (s : State) (regs : List Nat) (reason : OutReason) : State :=
  (s.wgs.filter (fun w => regs.contains w.region && s.alive w)).foldl (fun s w =>
    s.beginStop w.id w.core 0 (stopOf w reason (s.ptb (dieOf w.core)))) s

/-- The sets of some regions that wait at clusters return to the distributor. -/
def State.recallSets (s : State) (sel : WaitSet → Bool) : State :=
  let back := (List.range 64).flatMap (fun i => (s.cluster i).wgStream.filter (fun h => sel h && h.ctxs.isEmpty))
  let s1 := s.dropStreams sel (fun _ => false)
  back.foldl (fun s h => s.modLaunch h.launch (fun x => { x with back := insertNat x.back h.first })) s1

/-- PREEMPT_STOP: `pkg.pre` with op 1. -/
def execPreemptStop (region : Nat) (s : State) : Host.Outcome State Fault Refusal :=
  if (s.region? region).isNone then .next (s.pstatWrite region 1 false)
  else
    let regs := s.regionsUnder region
    let s1 : State := { s with regions := s.regions.map (fun x => if regs.contains x.num then { x with stopped := true } else x) }
    let s2 := s1.recallSets (fun h => s.launches.any (fun l => l.id == h.launch && regs.contains l.region))
    .next (((s2.stopAllOf regs .preempt).pstatWrite region 0 true).settlePstat)

/-- PREEMPT_RESUME: `pkg.pre` with op 2: the saved workgroups go back in the order in which they were saved; those held in
place, or not saved yet, go on. -/
def execPreemptResume (region : Nat) (s : State) : Host.Outcome State Fault Refusal :=
  if (s.region? region).isNone then .next (s.pstatWrite region 1 false)
  else
    let regs := s.regionsUnder region
    let s1 : State := { s with regions := s.regions.map (fun x => if regs.contains x.num then { x with stopped := false } else x) }
    let held (w : Wg) : Bool := regs.contains w.region && (match w.stop with | some i => i.reason == .preempt | none => false)
    let s2 := (s1.wgs.filter held).foldl (fun s w => s.unhold w false) s1
    let mine (c : Ctx) : Bool := regs.contains c.region && c.reason == .preempt && c.phase == .saved
    let s3 := s2.sendAllBack (s.ctxs.filter mine).reverse
    .next ((s3.pstatWrite region 0 true).settlePstat)

/-! ### Refused and failed requests of group instructions (R435, R413) -/

/-- FABRIC_REFUSAL: an access of a group that was refused stops its workgroup; a store counts as performed. -/
def execFabricRefusal (core id : Nat) (s : State) : Host.Outcome State Fault Refusal :=
  match (s.core core).pend.find? (fun p => p.id == id && p.refused.isSome) with
  | none => .next s
  | some p =>
    match p.refused, s.pendOwner p with
    | some (va, who, reason), some (g, w) =>
      if reason = 0 then .next s
      else
        let sl := ((g.slice? p.a).getD g.x).haltAt true true
        let i : StopInfo :=
          { reason := .refusedRemote, grp := g.num, slice := p.a, epc := sl.epc, aux0 := va,
            aux1 := BitVec.ofNat 64 (who.toNat + reason.toNat * 2 ^ 12), corr := p.corr, pages := [],
            since := s.ptb (dieOf core), onReservedPath := false, record := none }
        let s1 := if w.phase == .running || w.unreported then (s.modSleeper g.id p.a (fun sl => sl.haltAt true true)).stopSlice w g p.a i else s
        let store := match p.kind with | .store => true | _ => false
        .next (if store then (s1.setAccs core id (fun a => { a with done := true })).completeIf core id else s1)
    | _, _ => .next s

/-! ### The watchdog and the save's budget (R386, R387) -/

/-- The lowest slice of a workgroup that has not ended: by `sys.grp`, then X before A. -/
def State.lowestSlice (s : State) (w : Wg) : Option (Group × Bool × Slice) :=
  let gs := sortBy (fun (g : Group) => g.num) (s.groups.filter (fun g => g.wg == w.id))
  gs.findSome? (fun g => if !g.x.ended then some (g, false, g.x) else match g.a with
    | some a => if a.ended then none else some (g, true, a)
    | none => none)

/-- WATCHDOG_EXPIRY: a workgroup that has made no progress for its region's period is swapped out with cause 0x61. -/
def execWatchdogExpiry (wg : Nat) (s : State) : Host.Outcome State Fault Refusal :=
  match s.wg? wg with
  | none => .next s
  | some w =>
    let period := s.rcbOwned 9 w.region 1088 64
    match s.lowestSlice w with
    | none => .next s
    | some (g, a, sl) =>
      if period = 0 ∨ w.phase ≠ .running ∨ s.ptb (dieOf w.core) < w.progress + period then .next s
      else
        let st := sl.haltAt true true
        let pc := (st.nextSlot.bind (fun one => st.slot one)).map (fun p => p.pc)
        let epc := if sl.hmode then pc.getD sl.epc else st.epc
        let t : TrapInfo := { cause := 0x61, aux0 := 0, aux1 := 0, epc := epc, fpc := none }
        let s1 := s.modSleeper g.id a (fun sl => (sl.haltAt true true).writeCause t)
        .next (s1.stopSlice w g a { stopOf w (.cause1 0x61 (if sl.hmode then sl.cause else 0)) (s.ptb (dieOf w.core)) with
          grp := g.num, slice := a, epc := epc, corr := sl.corr })

/-- The place that a workgroup's image has in its context area, marked torn in its header (R387); 0 where no run is free. -/
def State.tornImage (s : State) (w : Wg) : Nat × State :=
  let (_, base, size) := s.area w.region
  match findRun (s.pageUsed base size) (imagePages w) size 0 0 with
  | some j => (base + 4096 * j, s.pokeBytes (base + 4096 * j) (w.header (s.ptb (dieOf w.core)) 1))
  | none => (0, s)

/-- SAVE_BUDGET_EXPIRY: a stop that has not drained within its budget goes on along the reserved path; when that budget ends
too, the image is torn and the fault domain is reset with replay. -/
def execSaveBudgetExpiry (wg : Nat) (s : State) : Host.Outcome State Fault Refusal :=
  match s.wg? wg with
  | none => .next s
  | some w =>
    match w.stop with
    | none => .next s
    | some i =>
      let period := s.rcbOwned 9 w.region 1088 64
      let budget := if period = 0 then 100000 else period
      let now := s.ptb (dieOf w.core)
      if w.phase ≠ .draining ∨ now < i.since + budget ∨ (s.unitOf w).all s.drained then .next s
      else if !i.onReservedPath then
        .next (s.modWg wg (fun w => { w with stop := some { i with since := now, onReservedPath := true } }))
      else
        let (at_, s1) := s.tornImage w
        let s2 := s1.resetDomain (s.fdomOf w.region) true
        .next (match stopRecord w i at_ (if at_ = 0 then 0 else imagePages w) 2 with
          | some r => s2.deferFault r
          | none => s2)

/-! ### Hardware errors (R389 to R392) -/

/-- Poison the line of a storage address, unless it is guarded: that one is rebuilt (R356, R389). -/
def State.poisonLine (s : State) (pa : Nat) : State :=
  match s.canonPa pa with
  | none => s
  | some a =>
    if 2 ^ 51 ≤ a ∨ ((homeDie a).isSome ∧ s.inGuard a) then s
    else { s with poison := if s.poison.contains (a / 128) then s.poison else s.poison ++ [a / 128],
                  restored := s.restored.filter (fun l => l != a / 128) }

/-- The engine of a number: 0 to 1,023 copy engines, 1,024 to 1,087 page-selection engines, then the fabric egress engines. -/
def engineAt (i : Nat) : EngineId :=
  if i < 1024 then .copy (i / 2) (i % 2) else if i < 1088 then .psel (i - 1024) else .egress (i - 1088)

/-- ECC_ERROR (Table 17.6): a corrected error is counted. Of an uncorrectable one, `index` names the core, die or engine and
`addr` the workgroup, line, page or address it met. -/
def execEccError (site : EccSite) (index addr : Nat) (correctable : Bool) (s : State) : Host.Outcome State Fault Refusal :=
  if correctable then .next { s with pkg := { s.pkg with cerr := s.pkg.cerr + 1 } }
  else match site with
    | .coreState => (match s.wg? addr with
      | some w => .next (s.resetDomain (s.fdomOf w.region) true)
      | none => .next s)
    | .l1Line => .next (s.modCore index (fun k => { k with l1 := k.l1.filter (fun x => x.1 != addr / 128) }))
    | .tlbEntry =>
      let keep (t : TlbEntry) : Bool := t.vbase / 2 ^ t.bits != addr / 2 ^ t.bits
      if index < 512 then .next (s.modCore index (fun k => { k with tlb := k.tlb.filter keep }))
      else .next (s.modDie (index - 512) (fun d => { d with tlb := d.tlb.filter keep }))
    | .walkCache =>
      .next (s.modDie index (fun d => { d with wcache := d.wcache.filter (fun c =>
        c.vbase != addr / 2 ^ levelBits c.level * 2 ^ levelBits c.level) }))
    | .victimTag => .next (s.modCore index (fun k => { k with victims := k.victims.filter (fun v => v.1 != addr / 128) }))
    | .l2Clean => .next s
    | .l2Dirty => .next (s.poisonLine addr)
    | .dram => .next (s.poisonLine addr)
    | .engineBuffer => execTileTaskReplay (engineAt index) s

/-- The virtual address of a storage address among a command's translations. -/
def Command.vaOf (c : Command) (pa : Nat) : Option Nat :=
  c.xlat.findSome? (fun x => match x.2 with
    | .mem base => if base ≤ pa ∧ pa < base + 2 ^ 16 then some (x.1 + (pa - base)) else none
    | _ => none)

/-- The lowest poisoned virtual address that a running command has still to read. -/
def State.poisonVa (s : State) (c : Command) : Option Nat :=
  let ps := if !c.ready then s.wholeReads c
    else ((List.range (c.units - c.moved)).map (fun k => s.unitReads c (c.moved + k))).flatten
  let bad := ps.filterMap (fun p => match p with
    | .mem pa => if s.poisoned pa then some ((c.vaOf pa).getD pa) else none
    | _ => none)
  (bad.foldl insertNat []).head?

/-- POISON_READ (R391): an engine command that meets a poisoned line stops at its boundary, with a kind-4 record. -/
def execPoisonRead (e : EngineId) (s : State) : Host.Outcome State Fault Refusal :=
  match (s.engine e).running with
  | none => .next s
  | some c =>
    match s.poisonVa c with
    | none => .next s
    | some va =>
      if s.faultFull c.region then .next s
      else
        let i := (s.faultSlot c.region).1
        let r : FaultRec :=
          { kind := 4, region := c.region, corr := c.corr, wg := ((s.anyWg? c.wg).map (fun w => w.index.toNat)).getD 0,
            grp := c.grpNum, slice := c.a, aux0 := BitVec.ofNat 64 va,
            aux1 := BitVec.ofNat 64 (c.queueCode + engineIdent c.engine * 4 + c.seq.toNat * 2 ^ 32), die := dieOf c.core,
            clus := clusterOf c.core % 8, core := c.core % 8 }
        let s1 := (s.modEngine e (fun q => { q with running := none })).putFault r
        .next { s1 with pkg := { s1.pkg with heldCmds := s1.pkg.heldCmds ++ [(.poison i, c.atBoundary)] } }

/-- Does a connection-table entry name a die? -/
def ctabNames (x : BitVec 64) (die : Nat) : Bool :=
  x.getLsbD 18 && ((x.extractLsb' 0 4).toNat == die || (x.extractLsb' 4 4).toNat == die)

/-- Drop a die's entries from the connection table. -/
def State.dropCircuits (s : State) (die : Nat) : State :=
  { s with pkg := { s.pkg with ctab := s.pkg.ctab.map (fun x => if ctabNames x die then 0 else x) } }

/-- DIE_FAIL (R392): the die is fenced; the launches on it run again, its waiting sets return, its items are lost. -/
def execDieFail (die : Nat) (s : State) : Host.Outcome State Fault Refusal :=
  let d := s.die die
  if !d.present || d.fenced then .next s
  else
    let on (core : Nat) : Bool := dieOf core == die
    let here (w : Wg) : Bool := on w.core || (w.pair && on (buddyOf w.core))
    let hit := (s.launches.filter (fun l => s.wgs.any (fun w => w.launch == some l.id && here w) ||
      (dieEngines die).any (fun e => match (s.engine e).running with | some c => c.launch == some l.id | none => false))).map (fun l => l.id)
    let clusters := (List.range 8).map (fun k => 8 * die + k)
    let itemsOf (c : Cluster) : List Nat :=
      (c.itemq ++ c.entering.map (fun x => x.1)).map (fun x => (x.extractLsb' 192 32).toNat) ++
      c.opened.map (fun g => g.region.toNat) ++ c.itemStream.map (fun g => g.region.toNat)
    let gone := s.ctxs.filter (fun c => c.shell.item && c.cluster / 8 == die)
    let regs := ((clusters.flatMap (fun i => itemsOf (s.cluster i))) ++ (clusters.flatMap (fun i => s.spilled i)).map (fun x =>
        (x.extractLsb' 192 32).toNat) ++ gone.map (fun c => c.region) ++
      (s.wgs.filter (fun w => w.item && here w)).map (fun w => w.region)).eraseDups
    let s1 := s.modDie die (fun d => { d with fenced := true })
    let s2 := hit.foldl (fun s l => s.wipeLaunch l true) s1
    let s3 := (s2.wgs.filter here).foldl (fun s w => s.discardWg w) s2
    let pairSet (h : WaitSet) : Bool := s.launches.any (fun l => l.id == h.launch && l.field 201 1 == 1)
    let back := (clusters.flatMap (fun i => (s3.cluster i).wgStream)) ++
      (if die % 2 = 1 then (clusters.flatMap (fun i => (s3.cluster (i - 8)).wgStream)).filter pairSet else [])
    let s4 := s3.recallSets (fun h => back.contains h)
    let lost := s4.ctxs.filter (fun c => c.shell.item && c.cluster / 8 == die)
    let s5 := lost.foldl (fun s c => s.discardCtx c) s4
    let s6 := clusters.foldl (fun s i => s.modCluster i (fun _ => Cluster.reset)) s5
    let s7 := (s6.dropCommands (fun c => engineDie c.engine == die)).dropCircuits die
    let s8 := (regs.filter (fun r => (s7.region? r).isSome)).foldl (fun s r => s.deferFault { kind := 5, region := r, die := die }) s7
    .next { s8 with pkg := { s8.pkg with dies := s8.pkg.dies ||| BitVec.ofNat 24 (2 ^ (16 + die)),
                                         port0 := s8.pkg.port0.raiseVector 2, port1 := s8.pkg.port1.raiseVector 2 } }

/-- WAVELENGTH_FAIL (R390): a wavelength of a circuit is lost; programs see only timing. -/
def execWavelengthFail (entry : Nat) (s : State) : Host.Outcome State Fault Refusal :=
  match s.pkg.ctab[entry]? with
  | none => .next s
  | some x =>
    if !x.getLsbD 18 ∨ (x.extractLsb' 8 7).toNat ≤ (s.pkg.lostWl.filter (fun e => e == entry)).length then .next s
    else .next { s with pkg := { s.pkg with lostWl := s.pkg.lostWl ++ [entry] } }

end Sys2Proof.Machine
end

