-- ==== Sys2Proof/Machine/Debug.lean ====
section
/-!
DEFINITION. Stopping work for a debugger (spec 18_debug.md R405 to R409): attaching, stopping on request, single steps and
held tile tasks. An event answers a write of `pkg.dctl` (Table 18.5).
-/
namespace Sys2Proof.Machine

/-- Answer a `pkg.dctl` write. -/
def State.dstatWrite (s : State) (region result : Nat) (busy : Bool := false) : State :=
  { s with pkg := { s.pkg with dstat := BitVec.ofNat 20 (region % 2 ^ 16 + result * 2 ^ 16 + busy.toNat * 2 ^ 19) } }

/-- Run an operation on an attached region, or answer why not. -/
def State.whenAttached (s : State) (region : Nat) (f : State → State) : State :=
  if (s.region? region).isNone then s.dstatWrite region 1
  else if !s.attached region then s.dstatWrite region 2
  else (f s).dstatWrite region 0

/-- Did a debug stop cause it? -/
def OutReason.isDebug : OutReason → Bool
  | .debug _ => true
  | _ => false

/-- DEBUG_ATTACH. -/
def execDebugAttach (region : Nat) (s : State) : Host.Outcome State Fault Refusal :=
  if (s.region? region).isNone then .next (s.dstatWrite region 1)
  else .next ((s.modRegion region (fun x => { x with attached := true })).dstatWrite region 0)

/-- DEBUG_DETACH: every workgroup that holds a kind-7 record of the region is resumed. -/
def execDebugDetach (region : Nat) (s : State) : Host.Outcome State Fault Refusal :=
  .next (s.whenAttached region (fun s =>
    let s1 := s.modRegion region (fun x => { x with attached := false })
    let held (w : Wg) : Bool := w.region == region && (match w.stop with
      | some i => i.reason.isDebug && i.record.isSome
      | none => false)
    let s2 := (s1.wgs.filter held).foldl (fun s w => s.unhold w false) s1
    let mine (c : Ctx) : Bool := c.region == region && c.reason.isDebug && c.phase == .saved
    s2.sendAllBack (s.ctxs.filter mine).reverse))

/-- Give a workgroup that pre-emption has saved its kind-7 record and its trace record (R406); a record that meets a full fault
queue waits until there is room (R375). -/
def State.debugRecord (s : State) (c : Ctx) : State :=
  if s.faultFull c.region then { s with ctxs := s.ctxs.map (fun (x : Ctx) => if x.id = c.id then { x with reason := .debug 0 } else x) }
  else
    let i := stopOf c.shell (.debug 0) s.ptb0
    let at_ := (s.faultSlot c.region).2
    let (s1, r) := s.reportStop c.shell i c.addr c.pages 0
    let s2 : State := { s1 with ctxs := s1.ctxs.map (fun (x : Ctx) =>
      if x.id = c.id then { x with record := r, reason := .debug 0 } else x) }
    s2.traceSave c.shell i c.addr at_

/-- The saved workgroup of a region whose kind-7 record waits for room. -/
def State.unrecorded (s : State) (region : Nat) : Option Ctx :=
  s.ctxs.find? (fun c => c.region == region && c.reason.isDebug && c.record.isNone && c.phase == .saved)

/-- FAULT_RECORD_DEFERRED: once the queue has room the oldest waiting record is written, with the PTB of its writing; then the
kind-7 records that wait. -/
def execFaultRecordDeferred (region : Nat) (s : State) : Host.Outcome State Fault Refusal :=
  match s.region? region with
  | none => .next s
  | some r =>
    if s.faultFull region then .next s
    else match r.deferred, s.unrecorded region with
      | x :: l, _ => .next ((s.modRegion region (fun r => { r with deferred := l })).appendFault region (s.stampFault x.toNat))
      | [], some c => .next (s.debugRecord c)
      | [], none => .next s

/-- DEBUG_STOP: every resident workgroup of the region stops through the pre-emption halt, with cause 0; one that pre-emption is
saving, holds in place or has saved is the debugger's from now on. -/
def execDebugStop (region : Nat) (s : State) : Host.Outcome State Fault Refusal :=
  let t := s.whenAttached region (fun s =>
    let s1 := s.stopAllOf [region] (.debug 0)
    let turn (w : Wg) : Wg := match w.stop with
      | some i => if w.region = region ∧ i.reason = .preempt then
          { w with phase := .draining, stop := some { i with reason := .debug 0 } } else w
      | none => w
    let s2 : State := { s1 with wgs := s1.wgs.map turn }
    let mine (c : Ctx) : Bool := c.region == region && c.reason == .preempt && c.phase == .saved
    (s2.ctxs.filter mine).foldl (fun s c => s.debugRecord c) s2)
  .next (if s.attached region then (t.dstatWrite region 0 true).settleDstat else t)

/-- Put the commands of a queue that belong to a region aside; the rest stay in order. -/
def State.holdTasksOf (s : State) (region : Nat) (i : EngineId) : State :=
  let q := s.engine i
  let mine (c : Command) : Bool := c.region == region
  let out := q.prio.filter mine ++ q.normal.filter mine
  if out.isEmpty then s
  else
    let s1 := s.modEngine i (fun q => { q with prio := q.prio.filter (fun c => !mine c), normal := q.normal.filter (fun c => !mine c) })
    out.foldl (fun s c =>
      ({ s with pkg := { s.pkg with heldCmds := s.pkg.heldCmds ++ [(CmdHold.task, c)] } }).traceCmd c 0x12 0) s1

/-- DEBUG_HOLD (R409): queued commands of the region leave their queues; running ones finish. -/
def execDebugHold (region : Nat) (s : State) : Host.Outcome State Fault Refusal :=
  .next (s.whenAttached region (fun s =>
    allEngines.foldl (fun s i => s.holdTasksOf region i) (s.modRegion region (fun x => { x with holdTasks := true }))))

/-- Return a held tile task to the head of its queue. -/
def State.returnTask (s : State) (c : Command) : State :=
  s.modEngine c.engine (fun q => if c.prio then { q with prio := c :: q.prio } else { q with normal := c :: q.normal })

/-- DEBUG_RELEASE (R409, R408): held tile tasks return to the heads of their queues in their original order; commands that a
step holds enter their queues. -/
def execDebugRelease (region : Nat) (s : State) : Host.Outcome State Fault Refusal :=
  .next (s.whenAttached region (fun s =>
    let task (h : CmdHold × Command) : Bool := h.1 == .task && h.2.region == region
    let back := s.pkg.heldCmds.filter task
    let s1 := { s.modRegion region (fun x => { x with holdTasks := false }) with
      pkg := { s.pkg with heldCmds := s.pkg.heldCmds.filter (fun h => !task h) } }
    let s2 := back.foldl (fun s h => s.traceCmd h.2 0x13 0) (back.reverse.foldl (fun s h => s.returnTask h.2) s1)
    let wgs := ((s2.pkg.heldCmds.filter (fun h => h.1 == .step && h.2.region == region)).map (fun h => h.2.wg)).eraseDups
    (wgs.foldl (fun s w => s.requeueHeld w) s2).releaseWork (fun h =>
      (match s.anyWg? h.wg with | some w => w.region == region | none => false))))

/-- DEBUG_STEP (R408): the workgroup of a kind-7 record is restored for one step. -/
def execDebugStep (region index : Nat) (s : State) : Host.Outcome State Fault Refusal :=
  if !s.recordAt region index then .next (s.dstatWrite region 1)
  else if !s.attached region then .next (s.dstatWrite region 2)
  else if s.peek (s.rcb region 832 64 + 512 * index) 1 ≠ 7 then .next (s.dstatWrite region 3)
  else match s.resumeRecord region index true with
    | some t => .next ((t.dstatWrite region 0 true).settleDstat)
    | none => .next (s.dstatWrite region 1)

/-! ### Slots that may be tried, and the end of a step (R18, R19, R408) -/

/-- May a slot be tried for issue: live, unparked, in a slice that goes on and that no instant or barrier holds? In handler mode
only the slot that trapped issues (R141). -/
def Slice.mayTry (sl : Slice) (one : Bool) : Bool :=
  (match sl.slot one with | some p => !p.parked | none => false) && sl.going && sl.sleep.isNone && (sl.wait one).isNone &&
  (match sl.frozen with | some f => f.slot1 == one | none => true)

/-- Has a slice a slot that is ready as far as its last attempt shows? -/
def Slice.ready (sl : Slice) : Bool :=
  (sl.mayTry false && sl.hold0.isNone) || (sl.mayTry true && sl.hold1.isNone)

/-- Has a group made its step, or has it no ready slot? -/
def Group.stepDone (g : Group) : Bool :=
  g.x.stepped || (match g.a with | some a => a.stepped | none => false) ||
  !(g.x.ready || (match g.a with | some a => a.ready | none => false))

/-- Is the step of a workgroup over? -/
def State.stepOver (s : State) (w : Wg) : Bool :=
  w.stepping && w.phase == .running && (s.groups.filter (fun g => g.wg == w.id)).all Group.stepDone

/-- A slice at the end of a step: it stops with skid 0, and one that has issued holds cause 0x52 (R140, R408), unless it serves a
handler. -/
def Slice.stepStop (sl : Slice) : Slice :=
  if sl.ended || sl.hmode then { sl with halt := .stopped }
  else
    let x := sl.stopAt 0
    if sl.stepped then { x with cause := 0x52, aux0 := 0, aux1 := 0 } else x

/-- The slice that the record of a step names: the lowest that has issued, else the lowest. -/
def State.stepSlice (s : State) (w : Wg) : Option (Group × Bool × Slice) :=
  let gs := sortBy (fun (g : Group) => g.num) (s.groups.filter (fun g => g.wg == w.id))
  (gs.findSome? (fun g => if !g.x.ended && g.x.stepped then some (g, false, g.x) else match g.a with
    | some a => if !a.ended && a.stepped then some (g, true, a) else none
    | none => none)).or (s.lowestSlice w)

/-- STEP_END: each slice stops with skid 0, and the workgroup is saved again, with cause 0x52. -/
def execStepEnd (wg : Nat) (s : State) : Host.Outcome State Fault Refusal :=
  match s.wg? wg with
  | none => .next s
  | some w =>
    if !s.stepOver w then .next s
    else
      let s1 := s.modSleepers (fun g => g.wg == wg) Slice.stepStop
      let s2 := s1.modWg wg (fun w => { w with stepping := false })
      match s2.stepSlice w with
      | none => .next s2
      | some (g, a, sl) =>
        .next (s2.stopSlice { w with stepping := false } g a { stopOf w (.debug 0x52) (s.ptb (dieOf w.core)) with
          grp := g.num, slice := a, epc := sl.epc, corr := sl.corr })

end Sys2Proof.Machine
end

