-- ==== Sys2Proof/Machine/HostPort.lean ====
section
/-!
DEFINITION. What hosts do to the package (spec 19_host.md R411 to R417; 16_package_work.md R349 to R352; 18_debug.md R403, R405;
17_package_faults.md R376; 21_fabric.md R431, R432): registers behind BAR 0, memory behind BAR 2, push windows, heartbeats, the
links and the adoption of a failed port.
-/
namespace Sys2Proof.Machine

/-- Every bit of a read that is not accepted is one (R411). -/
def allOnes64 : W64 := BitVec.allOnes 64

/-- Does a port accept BAR 0: its link is up and the boot has come to an end (R418)? -/
def State.bar0Ok (s : State) (port1 : Bool) : Bool := (s.port port1).up && (s.pkg.stage == 3 || s.pkg.stage == 15)

/-- Does a port accept BAR 2 and push windows (R418)? -/
def State.bar2Ok (s : State) (port1 : Bool) : Bool := (s.port port1).up && s.pkg.stage == 3

/-! ### The connection table (R350 to R352) -/

/-- The fields of a connection-table entry. -/
def ctabA (x : BitVec 64) : Nat := (x.extractLsb' 0 4).toNat
def ctabB (x : BitVec 64) : Nat := (x.extractLsb' 4 4).toNat
def ctabWl (x : BitVec 64) : Nat := (x.extractLsb' 8 7).toNat
def ctabClass (x : BitVec 64) : Nat := (x.extractLsb' 16 2).toNat
def ctabValid (x : BitVec 64) : Bool := x.getLsbD 18

/-- Are two endpoints buddy dies? -/
def buddies (a b : Nat) : Bool := a % 2 == 0 && b == a + 1

/-- Is a die in service (R392, R419)? -/
def State.inService (s : State) (d : Nat) : Bool := s.pkg.dies.getLsbD d && !s.pkg.dies.getLsbD (16 + d)

/-- The check of an entry's endpoints and class; no entry names a die that is out of service. -/
def State.ctabEnds (s : State) (x : BitVec 64) : Bool :=
  let a := ctabA x
  let b := ctabB x
  decide (a < b) && decide (a ≤ 7) && decide (b ≤ 8) &&
  (match ctabClass x with
    | 0 => b != 8
    | 1 => buddies a b
    | 2 => b == 8
    | _ => false) &&
  (!ctabValid x || (s.inService a && (b == 8 || s.inService b)))

/-- The wavelengths that the valid entries of a table give a die. -/
def dieWl (t : List (BitVec 64)) (d : Nat) : Nat :=
  (t.filter (fun x => ctabNames x d)).foldl (fun m x => m + ctabWl x) 0

/-- The wavelengths of the valid class-1 entries of a buddy pair. -/
def buddyWl (t : List (BitVec 64)) (d : Nat) : Nat :=
  (t.filter (fun x => ctabValid x && ctabClass x == 1 && ctabA x == d && ctabB x == d + 1)).foldl (fun m x => m + ctabWl x) 0

/-- Answer a connection-table write. -/
def State.cstatWrite (s : State) (entry result : Nat) : State :=
  { s with pkg := { s.pkg with cstat := BitVec.ofNat 13 (entry % 2 ^ 9 + result * 2 ^ 9 + (!s.pkg.circuits.isEmpty).toNat * 2 ^ 12) } }

/-- CTAB_WRITE (R351): a refused write leaves the entry; a change of a valid entry moves its circuit. -/
def execCtabWrite (entry : Nat) (value : BitVec 64) (s : State) : Host.Outcome State Fault Refusal :=
  match s.pkg.ctab[entry]? with
  | none => .next s
  | some old =>
    let x := value &&& 0x77FFF
    let t := (s.pkg.ctab.setIfInBounds entry x).toList
    if !s.ctabEnds x then .next (s.cstatWrite entry 3)
    else if (List.range 8).any (fun d => decide (60 < dieWl t d)) then .next (s.cstatWrite entry 1)
    else if [0, 2, 4, 6].any (fun d => s.inService d && s.inService (d + 1) && decide (buddyWl t d < 16)) then
      .next (s.cstatWrite entry 2)
    else
      let moved := x != old && (ctabValid x || ctabValid old)
      let s1 : State := { s with pkg := { s.pkg with
        ctab := s.pkg.ctab.setIfInBounds entry x,
        circuits := if moved && !s.pkg.circuits.contains entry then s.pkg.circuits ++ [entry] else s.pkg.circuits,
        lostWl := if moved then s.pkg.lostWl.filter (fun e => e != entry) else s.pkg.lostWl } }
      .next (s1.cstatWrite entry 0)

/-- CIRCUIT_READY (R351): the oldest circuit being set up or torn down is done; `pkg.cstat` is busy while another is. -/
def execCircuitReady (s : State) : Host.Outcome State Fault Refusal :=
  match s.pkg.circuits with
  | [] => .next s
  | _ :: l =>
    .next { s with pkg := { s.pkg with
      circuits := l, cstat := BitVec.ofNat 13 (setBits s.pkg.cstat.toNat 12 1 (!l.isEmpty).toNat) } }

/-! ### Core debug blocks (R403) -/

/-- A 64-bit word of a PC range. -/
def PcRange.word (r : PcRange) (k : Nat) : Nat :=
  match k with
  | 0 => r.lo.toNat
  | 1 => r.hi.toNat + r.en.toNat * 2 ^ 56 + r.fasn.toNat * 2 ^ 57
  | 2 => r.asn.toNat
  | _ => 0

/-- Write a word of a PC range. -/
def PcRange.set (r : PcRange) (k : Nat) (v : W64) : PcRange :=
  match k with
  | 0 => { r with lo := v.setWidth 56 }
  | 1 => { r with hi := v.setWidth 56, en := v.getLsbD 56, fasn := v.getLsbD 57 }
  | 2 => { r with asn := v.setWidth 16 }
  | _ => r

/-- A word of an engine queue's view. -/
def State.queueWord (s : State) (core n k : Nat) : Nat :=
  let i := EngineId.copy core (n / 2)
  let prio := n % 2 == 1
  let e := s.engine i
  let q := if prio then e.prio else e.normal
  let run := e.running.filter (fun c => c.prio == prio)
  let held := s.pkg.heldCmds.any (fun h => h.2.engine == i && h.2.prio == prio)
  if k = 0 then
    ((q.head?.map (fun c => c.seq)).getD (if prio then e.seqP else e.seqN)).toNat +
      ((run.map (fun c => c.seq.toNat)).getD 0) * 2 ^ 32
  else q.length + run.isSome.toNat * 2 ^ 6 + held.toNat * 2 ^ 7

/-- A word of a core's debug block (Table 18.4). -/
def State.debugRead (s : State) (core off : Nat) : W64 :=
  let k := s.core core
  if off < 0x200 then BitVec.ofNat 64 (((k.rangesIn[off / 32]?).getD PcRange.reset).word (off % 32 / 8))
  else if off < 0x200 + 0x60 * 17 then
    let n := (off - 0x200) / 0x60
    let j := (off - 0x200) % 0x60 / 8
    (((k.counters[n]?).getD (Vector.replicate 11 0))[j]?.getD 0).setWidth 64
  else if 0x900 ≤ off ∧ off < 0x940 then BitVec.ofNat 64 (s.queueWord core ((off - 0x900) / 16) (off % 16 / 8))
  else 0

/-- Write a word of a core's debug block; a change to a range takes effect from the next die cycle. -/
def State.debugWrite (s : State) (core off : Nat) (v : W64) : State :=
  if off < 0x200 then
    s.modCore core (fun k =>
      let r := ((k.rangesIn[off / 32]?).getD PcRange.reset).set (off % 32 / 8) v
      { k with rangesIn := k.rangesIn.setIfInBounds (off / 32) r })
  else if off < 0x200 + 0x60 * 17 then
    let n := (off - 0x200) / 0x60
    let j := (off - 0x200) % 0x60 / 8
    s.modCore core (fun k =>
      let c := ((k.counters[n]?).getD (Vector.replicate 11 0)).setIfInBounds j (v.setWidth 48)
      { k with counters := k.counters.setIfInBounds n c })
  else s

/-! ### Ports: heartbeat, failure, adoption (R413, R415 to R417) -/

/-- Has a port's heartbeat expired? -/
def State.beatLate (s : State) (p : Port) : Bool := s.pkg.hbper != 0 && decide (p.beat + s.pkg.hbper.toNat ≤ s.ptb0)

/-- Does a port fail: its link down for 10 ms, or its heartbeat expired? -/
def State.failing (s : State) (p : Port) : Bool :=
  (!p.up && decide (p.downSince + 100000000 ≤ s.time)) || s.beatLate p

/-- Is a port alive (`hst.peer` of the other): its link up and its heartbeat current? -/
def State.alivePort (s : State) (p : Port) : Bool := p.up && !s.beatLate p

/-- Raise again what is pending on a port: what its link and its table let through is sent. -/
def Port.resend (p : Port) : Port := p.vectors.foldl Port.raiseVector { p with vectors := [] }

/-- A port that is no longer failed sends the vectors that were pending on it. -/
def Port.recover (p : Port) : Port := ({ p with failed := false } : Port).resend

/-- HEARTBEAT_WRITE: any write of `hst.hb`. -/
def execHeartbeatWrite (port1 : Bool) (s : State) : Host.Outcome State Fault Refusal :=
  if !s.bar0Ok port1 then .next s
  else .next (s.modPort port1 (fun p => ({ p with beat := s.ptb0 } : Port).recover))

/-- HOST_LINK_DOWN. -/
def execHostLinkDown (port1 : Bool) (s : State) : Host.Outcome State Fault Refusal :=
  .next (s.modPort port1 (fun p => if p.up then { p with up := false, downSince := s.time } else p))

/-- Does a held write of the part's own lie behind a port? -/
def heldBehind (port1 : Bool) (h : Nat × List Byte) : Bool := bitAt h.1 50 == port1

/-- HOST_LINK_UP: held requests can be performed, the part's own writes first; pending vectors are sent unless the heartbeat is
still missing. -/
def execHostLinkUp (port1 : Bool) (s : State) : Host.Outcome State Fault Refusal :=
  if (s.port port1).up then .next s
  else
    let go := if s.hostRefused (if port1 then 2 ^ 51 + 2 ^ 50 else 2 ^ 51) then [] else s.pkg.heldHost.filter (heldBehind port1)
    let s1 : State := { s with
      mem := go.foldl (fun m h => m.writeBytes h.1 h.2) s.mem,
      pkg := { s.pkg with heldHost := s.pkg.heldHost.filter (fun h => !heldBehind port1 h) } }
    .next (s1.modPort port1 (fun p => if s.beatLate p then { p with up := true } else ({ p with up := true } : Port).recover))

/-- The vectors of a region (field group 10). -/
def State.vectorsOf (s : State) (r : Nat) : List Nat :=
  [s.rcbOwned 10 r 1504 16, s.rcbOwned 10 r 1520 16, s.rcbOwned 10 r 1536 16]

/-- Adopt one region: its host bit names the surviving port, and its pending vectors are raised there. -/
def State.adoptRegion (s : State) (from1 : Bool) (r : Nat) : State :=
  if (s.rcb r 92 1 == 1) != from1 then s
  else
    let vs := (s.port from1).vectors.filter (fun v => (s.vectorsOf r).contains v)
    let s1 := (s.setRcb r 92 1 (!from1).toNat).modPort from1 (fun p => { p with vectors := p.vectors.filter (fun v => !vs.contains v) })
    s1.modPort (!from1) (fun p => vs.foldl Port.raiseVector p)

/-- The first region that a port still owns. -/
def State.ownedBy (s : State) (port1 : Bool) : Option Nat :=
  (s.regions.find? (fun x => (s.rcb x.num 92 1 == 1) == port1)).map (fun x => x.num)

/-- Does the failure of a port call for a step: it has just failed, the other port can begin to adopt, or is adopting? -/
def State.failureDue (s : State) (port1 : Bool) : Bool :=
  let p := s.port port1
  p.adopting || (s.failing p && (!p.failed || (s.alivePort (s.port (!port1)) && !p.adoptedFrom)))

/-- PORT_FAILURE (R417): a port fails; with the other port alive, that one adopts its regions, one in a step, and is then told by
vector 0. A failure after a recovery begins anew. -/
def execPortFailure (port1 : Bool) (s : State) : Host.Outcome State Fault Refusal :=
  let p := s.port port1
  if !s.failureDue port1 then .next s
  else if !p.adopting then
    let go := s.alivePort (s.port (!port1))
    .next (s.modPort port1 (fun p => { p with failed := true, adopting := go, adoptedFrom := p.adoptedFrom && !go }))
  else match s.ownedBy port1 with
    | some r => .next (s.adoptRegion port1 r)
    | none =>
      .next ((s.modPort port1 (fun p => { p with adopting := false, adoptedFrom := true })).modPort (!port1) (fun p =>
        ({ p with adopted := true } : Port).raiseVector 0))

/-- Does a place lie behind a port? -/
def Place.behind (port1 : Bool) : Place → Bool
  | .host pa => bitAt pa 50 == port1
  | _ => false

/-- An access's part that waits for a port. -/
def Pending.waitsFor (p : Pending) (port1 : Bool) : Option LaneAcc :=
  if p.refused.isSome then none else p.accs.find? (fun a => !a.done && a.place.behind port1)

/-- Do accesses of a core wait for a port? -/
def Core.waitsFor (k : Core) (port1 : Bool) : Bool := k.pend.any (fun p => (p.waitsFor port1).isSome)

/-- HOST_REQUEST_TIMEOUT (R413): what waits for a port that has been down for 10 ms is refused, with reason 3; the part's own
writes are not made. -/
def execHostRequestTimeout (port1 : Bool) (s : State) : Host.Outcome State Fault Refusal :=
  let p := s.port port1
  if p.up || s.time < p.downSince + 100000000 then .next s
  else
    let mark (q : Pending) : Pending := match q.waitsFor port1 with
      | some a => { q with refused := some (a.va, BitVec.ofNat 12 port1.toNat, 3) }
      | none => q
    .next ((List.range 512).foldl (fun s i =>
      if (s.core i).waitsFor port1 then s.modCore i (fun k => { k with pend := k.pend.map mark }) else s)
      { s with pkg := { s.pkg with heldHost := s.pkg.heldHost.filter (fun h => !heldBehind port1 h) } })

/-! ### Attestation and firmware (R420) -/

/-- `hst.dies` as it reads: a die that is fenced is not in service (Table 19.2). -/
def State.diesWord (s : State) : Nat := (s.pkg.dies &&& ~~~(s.pkg.dies >>> 16)).toNat

/-- The 32 bytes of a measurement. -/
def measured (image : Nat) : List Byte := (List.range 32).map (Config.measurement image)

/-- The bytes of an attestation report: nonce, PTB, measurements of the two images and the boot ROM, `hst.dies`, the connection
table, the leaf index, the signature. -/
def State.report (s : State) (leaf : Nat) : List Byte :=
  toBytes 32 s.pkg.nonce.toNat ++ toBytes 8 s.ptb0 ++
  (measured (1 + 2 * s.pkg.uploads.1) ++ measured (2 + 2 * s.pkg.uploads.2) ++ measured 0) ++ toBytes 8 s.diesWord ++ (s.pkg.ctab.toList.map (fun x => toBytes 8 x.toNat)).flatten ++ toBytes 8 leaf ++
  (List.range 5076).map (Config.attestation leaf)

/-- The bytes of a report. -/
def reportLen : Nat := 32 + 8 + 96 + 8 + 4096 + 8 + 5076

/-- Is a range of host memory writable: it lies in host memory, behind a port that does not stay down? -/
def State.hostWritable (s : State) (pa n : Nat) : Bool :=
  decide (2 ^ 51 ≤ pa) && decide (pa + n ≤ 2 ^ 52) && !s.hostRefused pa && bitAt pa 50 == bitAt (pa + n - 1) 50

/-- ATTEST_GO: the next leaf index is committed before the signature is made. -/
def execAttestGo (port1 : Bool) (s : State) : Host.Outcome State Fault Refusal :=
  if !s.bar0Ok port1 || s.pkg.attBusy then .next s
  else if 2 ^ 20 ≤ s.pkg.leaf then .next { s with pkg := { s.pkg with attResult := 2 } }
  else if !s.hostWritable s.pkg.attAddr.toNat reportLen then .next { s with pkg := { s.pkg with attResult := 3 } }
  else .next { s with pkg := { s.pkg with attBusy := true, attPort1 := port1, attResult := 1, leaf := s.pkg.leaf + 1 } }

/-- ATTEST_COMPLETE: the report is written, and vector 1 is raised. One whose port has gone down waits for it, at most 10 ms. -/
def execAttestComplete (s : State) : Host.Outcome State Fault Refusal :=
  let a := s.pkg.attAddr.toNat
  if !s.pkg.attBusy then .next s
  else if !s.hostWritable a reportLen then .next { s with pkg := { s.pkg with attBusy := false, attResult := 3 } }
  else if !(s.port (bitAt a 50)).up then .next s
  else
    let s1 : State := { s with mem := s.mem.writeBytes a (s.report (s.pkg.leaf - 1)),
                               pkg := { s.pkg with attBusy := false, attResult := 0 } }
    .next (s1.modPort s.pkg.attPort1 (fun p => p.raiseVector 1))

/-- FIRMWARE_IMAGE_UPLOAD: an image for the slot that did not boot; it is bootable when it verifies. -/
def execFirmwareImageUpload (verifies : Bool) (s : State) : Host.Outcome State Fault Refusal :=
  let i := s.pkg.images
  let u := s.pkg.uploads
  .next { s with pkg := { s.pkg with
    images := if s.pkg.slotB then { i with imageA := verifies } else { i with imageB := verifies },
    uploads := if s.pkg.slotB then (u.1 + 1, u.2) else (u.1, u.2 + 1) } }

/-! ### Registers behind BAR 0 -/

/-- A word of `fab.port` p. -/
def FabPort.word (p : FabPort) (k : Nat) : Nat :=
  if k = 0 then
    p.up.toNat + p.lanes.toNat * 2 + p.rounds.toNat * 2 ^ 4 + p.dis.toNat * 2 ^ 6 + p.en.toNat * 2 ^ 7 + p.retrains.toNat * 2 ^ 32
  else p.lport.toNat

/-- Is some fabric port up (R431)? -/
def Fabric.anyUp (f : Fabric) : Bool := f.ports.any (fun p => p.up)

/-- A fabric register (Table 21.1). -/
def Fabric.regRead (f : Fabric) (off : Nat) : Option Nat :=
  if off = 0 then some f.dev.toNat
  else if off = 8 then some f.xroot.toNat
  else if off = 0x10 then some (f.xasn.toNat + f.xreg.toNat * 2 ^ 32)
  else if 0x400 ≤ off ∧ off < 0x700 then (f.ports[(off - 0x400) / 16]?).map (fun p => p.word (off % 16 / 8))
  else if 0x80000 ≤ off ∧ off < 0x88000 then some (f.partOf ((off - 0x80000) / 8))
  else if 0x100000 ≤ off ∧ off < 0x104000 then
    some (bitsAt (f.collOf ((off - 0x100000) / 16)) (off % 16 * 8) 64)
  else if off < 0x104000 then some 0
  else none

/-- Put a number under a key of a list that holds no zero entries, ascending. -/
def putEntry {n : Nat} (l : List (Nat × BitVec n)) (k : Nat) (v : BitVec n) : List (Nat × BitVec n) :=
  sortBy (fun x => x.1) (l.filter (fun x => x.1 != k) ++ (if v = 0 then [] else [(k, v)]))

/-- Writing en of a port: 1 lets it come up again, 0 takes it down (Table 21.1, R443). -/
def FabPort.enable (p : FabPort) (en : Bool) (now : Nat) : FabPort :=
  if en then { p with en := true, dis := false }
  else { p with en := false, up := false, lanes := 0, downAt := if p.up then now else p.downAt }

/-- Write a fabric register. The device number, the partition table and the export registers keep their values while a port is
up (R431). -/
def State.fabWrite (s : State) (off : Nat) (v : W64) : State :=
  let f := s.fabric
  let quiet := !f.anyUp
  if off = 0 then (if quiet then { s with fabric := { f with dev := v.setWidth 12 } } else s)
  else if off = 8 then (if quiet then { s with fabric := { f with xroot := v &&& 0x000FFFFFFFFFE000 } } else s)
  else if off = 0x10 then
    (if quiet then { s with fabric := { f with xasn := v.setWidth 16, xreg := v.extractLsb' 32 16 } } else s)
  else if 0x400 ≤ off ∧ off < 0x700 ∧ off % 16 = 0 then
    let i := (off - 0x400) / 16
    let p := ((f.ports[i]?).getD FabPort.reset).enable (v.getLsbD 7) s.time
    { s with fabric := { f with ports := f.ports.setIfInBounds i p } }
  else if 0x80000 ≤ off ∧ off < 0x88000 then
    (if quiet then { s with fabric := { f with part := putEntry f.part ((off - 0x80000) / 8) (v &&& 0x3FF) } } else s)
  else if 0x100000 ≤ off ∧ off < 0x104000 then
    let i := (off - 0x100000) / 16
    let old := f.collOf i
    let new := if off % 16 = 0 then setBits old 0 64 (v &&& 0x1FFFFFF).toNat else setBits old 64 64 (v &&& 0xFFFF).toNat
    let planes := if off % 16 = 0 then setBits new 32 32 (v >>> 32).toNat else new
    { s with fabric := { f with coll := putEntry f.coll i (BitVec.ofNat 128 planes) } }
  else s

/-- Does every die of a quad stand in service at boot, so that its field of `pkg.gres` exists (R419)? -/
def State.quadWhole (s : State) (q : Nat) : Bool := (List.range 4).all (fun i => s.pkg.dies.getLsbD (4 * q + i))

/-- The value of a `pkg.gres` field: that of a quad with a dark die reads 0. -/
def State.gresRead (s : State) : Nat := s.guardGib 0 + s.guardGib 1 * 2 ^ 8

/-- Write `pkg.gres`: a value above 48, and the field of a quad with a dark die, are ignored. -/
def State.gresWrite (s : State) (v : W64) : State :=
  let put (x q : Nat) : Nat :=
    let n := bitsAt v.toNat (8 * q) 6
    if s.quadWhole q ∧ n ≤ 48 then setBits x (8 * q) 6 n else x
  { s with pkg := { s.pkg with gres := BitVec.ofNat 14 (put (put s.pkg.gres.toNat 0) 1) } }

/-- `hst.peer` of a port. -/
def State.peerWord (s : State) (port1 : Bool) : Nat :=
  (s.alivePort (s.port (!port1))).toNat + (s.port port1).adopted.toNat * 2

/-- A register of Tables 16.1, 17.2, 18.5 and 19.2, as a port reads it. Offsets that no table assigns read zero. -/
def State.pkgRead (s : State) (port1 : Bool) (off : Nat) : Nat :=
  let g := s.pkg
  let p := s.port port1
  if 0x200 ≤ off ∧ off < 0x1200 then ((g.ctab[(off - 0x200) / 8]?).getD 0).toNat
  else if 0x1200 ≤ off ∧ off < 0x1600 then bitsAt ((g.spill[(off - 0x1200) / 16]?).getD 0).toNat (off % 16 * 8) (if off % 16 = 0 then 64 else 32)
  else if 0x180 ≤ off ∧ off < 0x1C0 then
    (match g.bps[(off - 0x180) / 16]? with
      | some b => if off % 16 = 0 then b.pc.toNat else b.region.toNat + b.en.toNat * 2 ^ 16
      | none => 0)
  else if 0x1C0 ≤ off ∧ off < 0x200 then
    (match g.wps[(off - 0x1C0) / 16]? with
      | some b => if off % 16 = 0 then b.addr.toNat
                  else b.region.toNat + b.en.toNat * 2 ^ 16 + b.rd.toNat * 2 ^ 17 + b.wr.toNat * 2 ^ 18 + b.sz.toNat * 2 ^ 19
      | none => 0)
  else match off with
    | 0x100 => g.pwr.toNat
    | 0x108 => g.etot.toNat
    | 0x110 => s.ptb0
    | 0x118 => g.rtab.toNat
    | 0x120 => g.rmax.toNat
    | 0x130 => g.rstat.toNat
    | 0x138 => g.cstat.toNat
    | 0x140 => s.gresRead
    | 0x150 => g.fdst.toNat
    | 0x160 => s.settlePstat.pkg.pstat.toNat
    | 0x168 => g.cerr.toNat
    | 0x178 => s.settleDstat.pkg.dstat.toNat
    | 0x1800 => g.stage.toNat + g.slotB.toNat * 2 ^ 4
    | 0x1808 => s.diesWord
    | 0x1818 => g.hbper.toNat
    | 0x1820 => s.peerWord port1
    | 0x1828 => p.drops.toNat + p.dropRegion.toNat * 2 ^ 32 + p.dropReason.toNat * 2 ^ 48
    | 0x1830 => p.b2base.toNat
    | 0x1838 => g.attResult.toNat * 2
    | 0x1840 => g.attAddr.toNat
    | _ => 0

/-- The pending bits of a port's MSI-X vectors (R416), 64 in a word. -/
def Port.pendingWord (p : Port) (k : Nat) : Nat :=
  ((List.range 64).filter (fun i => p.vectors.contains (64 * k + i))).foldl (fun m i => m + 2 ^ i) 0

/-- The bytes of a port's MSI-X table or of its pending bits: naturally aligned reads of 4 or 8 bytes (Table 19.1; PRESUMED,
notes/assumptions/54.md). -/
def Port.msixRead (p : Port) (off size : Nat) : Option (List Byte) :=
  if !(size == 4 || size == 8) || off % size != 0 then none
  else if 0x400000 ≤ off ∧ off < 0x408000 then some (p.msix.readBytes (off - 0x400000) size)
  else if 0x410000 ≤ off ∧ off < 0x410100 then some ((toBytes 8 (p.pendingWord ((off - 0x410000) / 8))).drop (off % 8) |>.take size)
  else none

/-- Write the MSI-X table: 8 bytes, or the 4 bytes of an odd word. A vector that is no longer masked is sent when it is pending. -/
def Port.msixWrite (p : Port) (off : Nat) (v : W64) : Port :=
  ({ p with msix := p.msix.writeBytes (off - 0x400000) (toBytes (if off % 8 = 0 then 8 else 4) v.toNat) } : Port).resend

/-- An aligned 8-byte read of BAR 0 (Table 19.1); what the table does not accept reads all ones. -/
def State.bar0Read (s : State) (port1 : Bool) (off : Nat) : W64 :=
  if off < 0x2000 then BitVec.ofNat 64 (s.pkgRead port1 off)
  else if 0x100000 ≤ off ∧ off < 0x300000 then s.debugRead ((off - 0x100000) / 0x1000) (off % 0x1000)
  else if 0x400000 ≤ off ∧ off < 0x411000 then
    (match (s.port port1).msixRead off 8 with | some bs => BitVec.ofNat 64 (ofBytes bs) | none => allOnes64)
  else if 0x600000 ≤ off ∧ off < 0x704000 then
    (match s.fabric.regRead (off - 0x600000) with | some x => BitVec.ofNat 64 x | none => allOnes64)
  else allOnes64

/-- The state that an event leaves; an event stops on no path. -/
def after (s : State) (o : Host.Outcome State Fault Refusal) : State :=
  match o with
  | .next t => t
  | _ => s

/-- Write a breakpoint word. -/
def Breakpoint.set (b : Breakpoint) (hi : Bool) (v : W64) : Breakpoint :=
  if hi then { b with region := v.setWidth 16, en := v.getLsbD 16 } else { b with pc := v.setWidth 56 }

/-- Write a watchpoint word. -/
def Watchpoint.set (b : Watchpoint) (hi : Bool) (v : W64) : Watchpoint :=
  if hi then { b with region := v.setWidth 16, en := v.getLsbD 16, rd := v.getLsbD 17, wr := v.getLsbD 18, sz := v.extractLsb' 19 3 }
  else { b with addr := v.setWidth 56 }

/-- `pkg.dctl` (R405). -/
def State.dctlWrite (s : State) (v : W64) : State :=
  let r := bitsAt v.toNat 0 16
  match bitsAt v.toNat 16 3 with
  | 1 => after s (execDebugAttach r s)
  | 2 => after s (execDebugDetach r s)
  | 3 => after s (execDebugStop r s)
  | 4 => after s (execDebugHold r s)
  | 5 => after s (execDebugRelease r s)
  | 6 => after s (execDebugStep r (bitsAt v.toNat 32 32) s)
  | _ => s

/-- `pkg.fres` (R376). -/
def State.fresWrite (s : State) (v : W64) : State :=
  let r := bitsAt v.toNat 0 16
  let i := bitsAt v.toNat 16 32
  match bitsAt v.toNat 48 2 with
  | 0 => after s (execFaultResume r i s)
  | 1 => after s (execFaultDomainReset r i s)
  | _ => s.fdstWrite r 3

/-- `pkg.pre` (R378). -/
def State.preWrite (s : State) (v : W64) : State :=
  let r := bitsAt v.toNat 0 16
  match bitsAt v.toNat 16 2 with
  | 1 => after s (execPreemptStop r s)
  | 2 => after s (execPreemptResume r s)
  | _ => s

/-- Acknowledge an adoption: the bit clears, and the other port's pushes are taken again. -/
def State.clearAdopted (s : State) (port1 : Bool) : State :=
  (s.modPort port1 (fun p => { p with adopted := false })).modPort (!port1) (fun p => { p with adoptedFrom := false })

/-- Write a package register through a port. -/
def State.pkgWrite (s : State) (port1 : Bool) (off : Nat) (v : W64) : State :=
  let g := s.pkg
  if 0x200 ≤ off ∧ off < 0x1200 then after s (execCtabWrite ((off - 0x200) / 8) v s)
  else if 0x1200 ≤ off ∧ off < 0x1600 then
    let i := (off - 0x1200) / 16
    let old := ((g.spill[i]?).getD 0).toNat
    let new := if off % 16 = 0 then setBits old 0 64 v.toNat else setBits old 64 32 v.toNat
    { s with pkg := { g with spill := g.spill.setIfInBounds i (BitVec.ofNat 96 new) } }
  else if 0x180 ≤ off ∧ off < 0x1C0 then
    let i := (off - 0x180) / 16
    (match g.bps[i]? with
      | some b => { s with pkg := { g with bps := g.bps.setIfInBounds i (b.set (off % 16 = 8) v) } }
      | none => s)
  else if 0x1C0 ≤ off ∧ off < 0x200 then
    let i := (off - 0x1C0) / 16
    (match g.wps[i]? with
      | some b => { s with pkg := { g with wps := g.wps.setIfInBounds i (b.set (off % 16 = 8) v) } }
      | none => s)
  else if 0x1848 ≤ off ∧ off < 0x1868 then
    { s with pkg := { g with nonce := BitVec.ofNat 256 (setBits g.nonce.toNat ((off - 0x1848) * 8) 64 v.toNat) } }
  else match off with
    | 0x100 => { s with pkg := { g with pwr := v.setWidth 16 } }
    | 0x118 => { s with pkg := { g with rtab := v &&& 0x000FFFFFFFFFE000 } }
    | 0x120 => { s with pkg := { g with rmax := v.setWidth 16 } }
    | 0x128 => if v.getLsbD 16 then after s (execRegionActivate (bitsAt v.toNat 0 16) s)
               else after s (execRegionDeactivate (bitsAt v.toNat 0 16) s)
    | 0x140 => s.gresWrite v
    | 0x148 => s.fresWrite v
    | 0x158 => s.preWrite v
    | 0x170 => s.dctlWrite v
    | 0x1810 => after s (execHeartbeatWrite port1 s)
    | 0x1818 => { s with pkg := { g with hbper := v.setWidth 32 } }
    | 0x1820 => if v.getLsbD 1 then s.clearAdopted port1 else s
    | 0x1830 => s.modPort port1 (fun p => { p with b2base := v.setWidth 52 })
    | 0x1838 => if v.getLsbD 0 then after s (execAttestGo port1 s) else s
    | 0x1840 => { s with pkg := { g with attAddr := v.setWidth 52 } }
    | _ => s

/-- REGISTER_WRITE (R349, R403, R405, R411, R415, R432): an aligned 8-byte write to BAR 0; of the MSI-X table also the 4 bytes of
an odd word. -/
def execRegisterWrite (port1 : Bool) (off : Nat) (v : BitVec 64) (s : State) : Host.Outcome State Fault Refusal :=
  if !s.bar0Ok port1 then .next s
  else if 0x400000 ≤ off ∧ off < 0x408000 ∧ off % 4 = 0 then .next (s.modPort port1 (fun p => p.msixWrite off v))
  else if off % 8 ≠ 0 then .next s
  else if off < 0x2000 then .next (s.pkgWrite port1 off v)
  else if 0x100000 ≤ off ∧ off < 0x300000 then .next (s.debugWrite ((off - 0x100000) / 0x1000) (off % 0x1000) v)
  else if 0x600000 ≤ off ∧ off < 0x704000 then .next (s.fabWrite (off - 0x600000) v)
  else .next s

/-! ### Push windows (R412) -/

/-- Note a discarded push. -/
def Port.drop (p : Port) (region reason : Nat) : Port :=
  { p with drops := p.drops + 1, dropRegion := BitVec.ofNat 16 region, dropReason := BitVec.ofNat 3 reason }

/-- PUSH_WINDOW_WRITE: the launch record is appended, or the write is discarded and noted. -/
def execPushWindowWrite (port1 : Bool) (region : Nat) (image : BitVec 1024) (s : State) : Host.Outcome State Fault Refusal :=
  if !s.bar2Ok port1 || region = 0 || decide (65535 < region) then .next s
  else
    let drop (n : Nat) : Host.Outcome State Fault Refusal := .next (s.modPort port1 (fun p => p.drop region n))
    if (s.region? region).isNone then drop 1
    else if (s.port port1).adoptedFrom || ((s.port port1).adopting && (s.rcb region 92 1 == 1) != port1) then drop 3
    else if (s.rcb region 92 1 == 1) != port1 then drop 2
    else match s.appendLaunch region (toBytes 128 image.toNat) with
      | some t => .next t
      | none => drop 4

/-! ### BAR 2 (R411, R414; Table 16.3) -/

/-- The workgroup, half and offset of a byte of a core's local store. -/
def State.lsByte (s : State) (core off : Nat) : Option (Nat × Bool × Nat) :=
  let u := off / 256
  (s.wgs.findSome? (fun w =>
    if w.core = core ∧ w.lsBase ≤ u ∧ u < w.lsBase + w.lsize then some (w.id, false, off - 256 * w.lsBase)
    else if w.pair ∧ buddyOf w.core = core ∧ w.lsBase1 ≤ u ∧ u < w.lsBase1 + w.lsize then some (w.id, true, off - 256 * w.lsBase1)
    else none))

/-- Where a device physical address leads a host: local store, a debug block, storage. -/
inductive HostPlace where
  | ls (core off : Nat)
  | debug (core off : Nat)
  | mem (pa : Nat)
  | none
  deriving DecidableEq, Repr

/-- The place of n bytes at a device physical address (Table 16.3, R403): 1 to 128 bytes, naturally aligned. -/
def State.hostPlace (s : State) (pa n : Nat) : HostPlace :=
  if !([1, 2, 4, 8, 16, 32, 64, 128].contains n) || pa % n != 0 then .none
  else if 0x4000000000000 ≤ pa ∧ pa < 0x4000020000000 then .ls ((pa - 0x4000000000000) / 2 ^ 20) (pa % 2 ^ 20)
  else if 0x4010000000000 ≤ pa ∧ pa < 0x4010000200000 then
    (if n = 8 then .debug ((pa - 0x4010000000000) / 0x1000) (pa % 0x1000) else .none)
  else if pa < 2 ^ 51 then (match s.canonPa pa with | some a => .mem a | none => .none)
  else .none

/-- Read at a host place. A poisoned line gives bytes that the spec does not fix. -/
def State.hostGet (s : State) (pa n : Nat) : State × List Byte :=
  match s.hostPlace pa n with
  | .ls core off => (s, (List.range n).map (fun i => match s.lsByte core (off + i) with
      | some (w, h, o) => (s.lsRead w h o 1).headD 0
      | none => 0))
  | .debug core off => (s, toBytes 8 (s.debugRead core off).toNat)
  | .mem a =>
    if s.poisoned a then
      ({ s with fresh := s.fresh + n }, (List.range n).map (fun i => Config.poisonByte (s.fresh + i)))
    else (s, s.mem.readBytes a n)
  | .none => (s, List.replicate n 0xFF)

/-- Write at a host place. -/
def State.hostPut (s : State) (pa : Nat) (bs : List Byte) : State :=
  match s.hostPlace pa bs.length with
  | .ls core off => ((List.range bs.length).zip bs).foldl (fun s x => match s.lsByte core (off + x.1) with
      | some (w, h, o) => s.lsWrite w h o [x.2]
      | none => s) s
  | .debug core off => s.debugWrite core off (BitVec.ofNat 64 (ofBytes bs))
  | .mem a => s.homeWrite a bs
  | .none => s

/-- Send a read completion. -/
def State.complete (s : State) (port1 : Bool) (bs : List Byte) : State :=
  s.modPort port1 (fun p => { p with out := p.out ++ [.completion bs] })

/-- The device physical address of an offset of BAR 2, at most 4 TiB. -/
def State.bar2 (s : State) (port1 : Bool) (offset : Nat) : Nat :=
  if offset < 2 ^ 42 then ((s.port port1).b2base.toNat + offset) % 2 ^ 52 else 2 ^ 52

/-- HOST_READ: a read of BAR 2, or of BAR 0: 8 aligned bytes, of the MSI-X table also 4. -/
def execHostRead (port1 bar0 : Bool) (offset size : Nat) (s : State) : Host.Outcome State Fault Refusal :=
  if bar0 then
    if !s.bar0Ok port1 then .next s
    else if size = 8 ∧ offset % 8 = 0 then .next (s.complete port1 (toBytes 8 (s.bar0Read port1 offset).toNat))
    else if size = 4 then .next (s.complete port1 (((s.port port1).msixRead offset 4).getD (List.replicate size 0xFF)))
    else .next (s.complete port1 (List.replicate size 0xFF))
  else if !s.bar2Ok port1 then .next s
  else
    let (t, bs) := s.hostGet (s.bar2 port1 offset) size
    .next (t.complete port1 bs)

/-- A host's write of device memory reaches the code of every launch as well: a page that is filled after a launch was accepted
is fetched as filled (R40, R41, R309; notes/assumptions/13.md). -/
def State.fillCode (s : State) (pa : Nat) (bs : List Byte) : State :=
  { s with launches := s.launches.map (fun l => { l with code := l.code.writeBytes pa bs }) }

/-- HOST_WRITE: a posted write of BAR 2. -/
def execHostWrite (port1 : Bool) (offset : Nat) (data : List Byte) (s : State) : Host.Outcome State Fault Refusal :=
  if !s.bar2Ok port1 then .next s
  else
    let pa := s.bar2 port1 offset
    match s.hostPlace pa data.length with
    | .mem a => .next ((s.hostPut pa data).fillCode a data)
    | _ => .next (s.hostPut pa data)

/-- HOST_ATOMIC (R411): FetchAdd, Swap or CAS of 32 or 64 bits on BAR 2; the old value returns. A debug block takes none. -/
def execHostAtomic (port1 : Bool) (op : HostAtomicOp) (offset size : Nat) (value cmp : BitVec 64) (s : State) :
    Host.Outcome State Fault Refusal :=
  let pa := s.bar2 port1 offset
  if !s.bar2Ok port1 then .next s
  else
    let plain := match s.hostPlace pa size with | .ls _ _ => true | .mem _ => true | _ => false
    if !(size == 4 || size == 8) || !plain then .next (s.complete port1 (List.replicate size 0xFF))
    else
      let (s1, bs) := s.hostGet pa size
      let old := ofBytes bs
      let m := 2 ^ (8 * size)
      let new := match op with
        | .fetchAdd => (old + value.toNat) % m
        | .swap => value.toNat % m
        | .cas => if old = cmp.toNat % m then value.toNat % m else old
      .next ((s1.hostPut pa (toBytes size new)).complete port1 bs)

end Sys2Proof.Machine
end

