-- ==== Sys2Proof/Machine/FabricEvents.lean ====
section
/-!
DEFINITION. The fabric from both ends (spec 21_fabric.md R433 to R444, R455): requests that peers send to this part's exported
window, answers to this part's own requests, retransmission, and the links. A fabric address that names this part itself goes the
same way without leaving the package (R433): `step` hands its requests to FABRIC_REQUEST_ARRIVE and their answers to
FABRIC_RESPONSE.
-/
namespace Sys2Proof.Machine

/-! ### The exporting part (R434, R438, R444) -/

/-- The 128-byte line of a request. -/
def reqLine (r : FabReq) : Nat := r.off.toNat / 128

/-- The place of a request's bytes in storage, given the place of its first line byte. -/
def reqAt (r : FabReq) (pa o : Nat) : Nat := pa + (o - r.off.toNat)

/-- Does a request write? -/
def reqWrites (r : FabReq) : Bool := r.op != .read

/-- A byte that a peer reads; one of a poisoned line is not fixed by the spec. -/
def State.exportByte (s : State) (pa i : Nat) : Byte :=
  if s.poisoned pa then Config.poisonByte (s.fresh + i) else s.mem.read pa

/-- Cut a list into pieces of n. -/
def pieces {α : Type} (n : Nat) : Nat → List α → List (List α)
  | 0, _ => []
  | fuel + 1, l => if l.isEmpty then [] else l.take n :: pieces n fuel (l.drop n)

/-- The lanes of an atomic request, in order: the offset, the compare value and the operand. -/
def reqLanes (r : FabReq) : List (Nat × Nat × Nat) :=
  let n := (Ty.ofCode .u32 r.ty).width / 8
  let size := if r.cas then 2 * n else n
  (pieces size 32 r.bytes).map (fun p =>
    let bs := p.map (fun x => x.2)
    ((p.head?.map (fun x => x.1)).getD 0, if r.cas then ofBytes (bs.take n) else 0, ofBytes (if r.cas then bs.drop n else bs)))

/-- Perform the lanes of an atomic request that share an address (R182), and keep each lane's old value. -/
def State.exportAtomics (s : State) (r : FabReq) (pa : Nat) (ls : List (Nat × Nat × Nat)) : List Nat → State × List (Nat × Nat)
  | [] => (s, [])
  | o :: l =>
    let t := Ty.ofCode .u32 r.ty
    let n := t.width / 8
    let mine := ((List.range ls.length).zip ls).filter (fun x => x.2.1 == o)
    let old := ofBytes ((List.range n).map (fun i => s.exportByte (reqAt r pa o + i) i))
    let (olds, v, _) := applyLanes t r.aop.toNat r.cas old (mine.map (fun x => x.2.2))
    let s1 := ({ s with fresh := s.fresh + n } : State).homeWrite (reqAt r pa o) (toBytes n v)
    let (s2, rest) := s1.exportAtomics r pa ls l
    (s2, (mine.zip olds).map (fun x => (x.1.1, x.2)) ++ rest)

/-- Perform a request whose line stands at a storage address: at its home L2, at `.sys` scope. -/
def State.exportDo (s : State) (r : FabReq) (pa : Nat) : State × FabAnswer :=
  match r.op with
  | .read =>
    let bs := ((List.range r.bytes.length).zip r.bytes).map (fun x => s.exportByte (reqAt r pa x.2.1) x.1)
    ({ s with fresh := s.fresh + r.bytes.length }, .data bs)
  | .atomic =>
    let ls := reqLanes r
    let n := (Ty.ofCode .u32 r.ty).width / 8
    let (s1, olds) := s.exportAtomics r pa ls ((ls.map (fun x => x.1)).eraseDups)
    let old (i : Nat) : Nat := ((olds.find? (fun x => x.1 == i)).map (fun x => x.2)).getD 0
    (s1, .data ((List.range ls.length).flatMap (fun i => toBytes n (old i))))
  | _ =>
    let s1 := r.bytes.foldl (fun s x => s.homeWrite (reqAt r pa x.1) [x.2]) s
    let pas := r.bytes.map (fun x => reqAt r pa x.1)
    (s1.clearPoison (homeLines (pas.map Place.mem)), .data [])

/-- Send an answer, and keep it until the source's window has passed its number; one to this part itself needs no packet. -/
def State.sendAnswer (s : State) (r : FabReq) (a : FabAnswer) : State :=
  let f := s.fabric
  let old (x : BitVec 12 × BitVec 32 × FabAnswer) : Bool := x.1 == r.src && decide (4096 ≤ (r.seq - x.2.1).toNat) &&
    decide ((r.seq - x.2.1).toNat < 2 ^ 31)
  let kept := if a = .wait then f.answered else f.answered.filter (fun x => !old x) ++ [(r.src, r.seq, a)]
  { s with fabric := { f with
      answered := kept, sent := if r.src = f.dev then f.sent else f.sent ++ [.answer r.src r.seq a] } }

/-- The kind-2 record of a held request, when the queue has room: the state, and whether it is written. -/
def State.exportRecord (s : State) (entry : W64) : State × Bool :=
  match s.exportRegion with
  | none => (s, true)
  | some x =>
    if s.faultFull x then (s, false)
    else (s.putFault { kind := 2, cause := 0x10, region := x, pages := [entry] }, true)

/-- Serve a request that no earlier one stands before. -/
def State.exportServe (s : State) (r : FabReq) : State :=
  match s.exportPlace r.off.toNat (reqWrites r) with
  | .place pa => let (s1, a) := s.exportDo r pa; s1.sendAnswer r a
  | .refuse => s.sendAnswer r .refused
  | .wait e =>
    let (s1, ok) := s.exportRecord e
    { s1 with fabric := { s1.fabric with held := s1.fabric.held ++ [(r, s.time, ok)] } }

/-- The answer that was given to a request. -/
def Fabric.answerTo (f : Fabric) (src : BitVec 12) (seq : BitVec 32) : Option FabAnswer :=
  (f.answered.find? (fun x => x.1 == src && x.2.1 == seq)).map (fun x => x.2.2)

/-- The first data packet of a command of this part reaches the part's own exported window (R399, R433, R440). -/
def State.corrArrive (s : State) (r : FabReq) : State :=
  if r.src ≠ s.fabric.dev ∨ r.op = .read then s
  else match s.fabric.outs.find? (fun o => o.peer == r.src && o.seq == r.seq) with
    | none => s
    | some o => match o.owner with
      | .command i _ _ => (match (s.engine i).running with
        | none => s
        | some c => if c.corr.getLsbD 31 && !c.arrived then
            (s.corrRecord c 0x02 c.bytes).modRunning i (fun c => { c with arrived := true })
          else s)
      | _ => s

/-- FABRIC_REQUEST_ARRIVE: a request of a peer. One that has been performed is answered as before (R444); one whose line has a held
request of the same source before it waits behind it (R438). -/
def execFabricRequestArrive (req : FabReq) (s : State) : Host.Outcome State Fault Refusal :=
  let f := s.fabric
  if s.pkg.stage ≠ 3 then .next s
  else match f.answerTo req.src req.seq with
    | some a => .next { s with fabric := { f with sent := if req.src = f.dev then f.sent else f.sent ++ [.answer req.src req.seq a] } }
    | none =>
      if f.held.any (fun h => h.1.src == req.src && h.1.seq == req.seq) then .next s
      else if f.held.any (fun h => h.1.src == req.src && reqLine h.1 == reqLine req) then
        let s1 := s.corrArrive req
        .next { s1 with fabric := { s1.fabric with held := f.held ++ [(req, s.time, true)] } }
      else .next ((s.corrArrive req).exportServe req)

/-- Note a "wait" for this part's own request. -/
def State.waited (s : State) (r : FabReq) : State :=
  if r.src ≠ s.fabric.dev then s
  else { s with fabric := { s.fabric with outs := s.fabric.outs.map (fun o =>
    if o.peer = r.src ∧ o.seq = r.seq then { o with sent := s.time, tries := 0 } else o) } }

/-- EXPORT_WAIT (R434): a held request is performed once its page is present; until then it is answered "wait" every 10 µs. -/
def execExportWait (index : Nat) (s : State) : Host.Outcome State Fault Refusal :=
  let f := s.fabric
  match f.held[index]? with
  | none => .next s
  | some (r, t, ok) =>
    let first := (f.held.take index).all (fun h => !(h.1.src == r.src && reqLine h.1 == reqLine r))
    let found := s.exportPlace r.off.toNat (reqWrites r)
    let stays := !first || (match found with | .wait _ => true | _ => false)
    if stays then
      if s.time < t + 100000 then .next s
      else
        let (s1, done) := match found with
          | .wait e => if ok then (s, ok) else s.exportRecord e
          | _ => (s, ok)
        let s2 := { s1 with fabric := { s1.fabric with held := s1.fabric.held.set index (r, s.time, done) } }
        .next ((s2.sendAnswer r .wait).waited r)
    else .next ({ s with fabric := { f with held := f.held.eraseIdx index } }.exportServe r)

/-- CORRELATION_PACKET (R440): a peer's command reaches the exported window for the first or the last time. -/
def execCorrelationPacket (first : Bool) (corr : BitVec 32) (engine : BitVec 16) (queue : BitVec 2) (seq : BitVec 32)
    (kind : BitVec 8) (payload : BitVec 64) (s : State) : Host.Outcome State Fault Refusal :=
  match s.exportRegion with
  | none => .next s
  | some x => .next (s.trace x
      { type := if first then 0x02 else 0x03, detail := kind.toNat, queue := queue.toNat, engine := engine.toNat, seq := seq.toNat,
        corr := corr, ptb := s.ptb0, payload := payload.toNat })

/-! ### The requesting part (R435, R438, R444, R450) -/

/-- Note that a request of an access was refused or failed: its lowest refused lane is the one that is reported. -/
def State.refuseLanes (s : State) (core pend : Nat) (lanes : List Nat) (peer : BitVec 12) (reason : BitVec 4) : State :=
  s.modCore core (fun k => { k with pend := k.pend.map (fun p =>
    if p.id ≠ pend then p
    else
      let laneOf (va : W64) : Nat := ((p.accs.find? (fun a => a.va == va)).map (fun a => a.lane)).getD 64
      match p.accs.find? (fun a => lanes.contains a.lane) with
      | none => p
      | some a => match p.refused with
        | some (va, _, _) => if laneOf va ≤ a.lane then p else { p with refused := some (a.va, peer, reason) }
        | none => { p with refused := some (a.va, peer, reason) }) })

/-- The bytes that each lane of a request receives. -/
def splitLanes (p : Pending) : List Nat → List Byte → List (Nat × List Byte)
  | [], _ => []
  | l :: ls, bs =>
    let n := ((p.accs.find? (fun a => a.lane == l)).map (fun a => a.size)).getD 0
    (l, bs.take n) :: splitLanes p ls (bs.drop n)

/-- The answer of a peer to a request of an access. -/
def State.accessAnswer (s : State) (core pend : Nat) (lanes : List Nat) (bs : List Byte) : State :=
  match (s.core core).pend.find? (fun p => p.id == pend) with
  | none => s
  | some p =>
    let got := match p.kind with
      | .store => lanes.map (fun l => (l, ((p.accs.find? (fun a => a.lane == l)).map (fun a => a.data)).getD []))
      | _ => splitLanes p lanes bs
    (s.markDone core pend got).completeIf core pend

/-- Change the command that an engine runs, one request of which has been answered. -/
def State.answered (s : State) (e : EngineId) (f : Command → Command) : State :=
  s.modRunning e (fun c => { f c with waiting := c.waiting - 1 })

/-- The answer to a request of a command: what is read is put by, what was written has landed. -/
def State.commandAnswer (s : State) (e : EngineId) (peer : BitVec 12) (r : FabReq) (bs : List Byte) : State :=
  match r.op with
  | .read => s.answered e (fun c => { c with
      fetched := (r.bytes.zip bs).foldl (fun m x => m.write (peerKey peer x.1.1) x.2) c.fetched })
  | _ => (s.answered e (fun c => c)).landSome e

/-- A request of a command was refused or failed (R450). -/
def State.commandRefused (s : State) (e : EngineId) (peer : BitVec 12) (failed : Bool) : State :=
  (s.answered e (fun c => { c with
    result := c.result.refuse failed (peer.setWidth 32),
    badPeers := if c.badPeers.contains peer then c.badPeers else c.badPeers ++ [peer] })).landSome e

/-- A watch unit's read of a peer's word, which is an acquire as one at home is (R196, R340, R436). -/
def State.watchAnswer (s : State) (wg : Nat) (half1 : Bool) (off v : Nat) : State :=
  let o : ObjRef := .ls wg half1 off
  let x := s.objRead o
  let s0 := s.watchAcquire o
  if s.watches.any (Watch.of o) && (s.wg? wg).isSome && bitAt x 57 && objPending x == 0 && decide (bitsAt x 192 64 ≤ v) then
    { s0 with watches := s0.watches.filter (fun w => !Watch.of o w) }.objWrite o (flipPhase x)
  else s0

/-- Take a request off the list of unanswered ones. -/
def State.dropOut (s : State) (id : Nat) : State :=
  { s with fabric := { s.fabric with outs := s.fabric.outs.filter (fun o => o.id != id) } }

/-- A request was refused (reason 1) or failed (reason 2). -/
def State.requestBad (s : State) (o : FabOut) (failed : Bool) : State :=
  let s1 := s.dropOut o.id
  match o.owner with
  | .access core pend lanes => s1.refuseLanes core pend lanes o.peer (if failed then 2 else 1)
  | .command e _ _ => s1.commandRefused e o.peer failed
  | .releaseOf e => s1.commandRefused e o.peer failed
  | _ => s1

/-- FABRIC_RESPONSE: an answer to an unanswered request of this part. -/
def execFabricResponse (id : Nat) (answer : FabAnswer) (s : State) : Host.Outcome State Fault Refusal :=
  match s.fabric.outs.find? (fun o => o.id == id) with
  | none => .next s
  | some o =>
    match answer with
    | .wait => .next { s with fabric := { s.fabric with outs := s.fabric.outs.map (fun x =>
        if x.id = id then { x with sent := s.time, tries := 0 } else x) } }
    | .refused => .next (s.requestBad o false)
    | .data bs =>
      let s1 := s.dropOut id
      match o.owner with
      | .access core pend lanes => .next (s1.accessAnswer core pend lanes bs)
      | .command e _ _ => .next (s1.commandAnswer e o.peer o.req bs)
      | .releaseOf e => .next (s1.answered e (fun c => c))
      | .watch wg half1 off => .next (s1.watchAnswer wg half1 off (ofBytes bs))
      | .part => .next s1

/-- The next plane that is up, other than a given one when there is another. -/
def Fabric.otherPlane (f : Fabric) (p : Nat) : Nat :=
  ((List.range 48).find? (fun i => i != p && (match f.ports[i]? with | some x => x.up | none => false))).getD f.plane

/-- FABRIC_RETRANSMIT (R444): 20 µs without an answer; the fourth time the request fails. -/
def execFabricRetransmit (id : Nat) (s : State) : Host.Outcome State Fault Refusal :=
  let f := s.fabric
  match f.outs.find? (fun o => o.id == id) with
  | none => .next s
  | some o =>
    if o.peer = f.dev ∨ s.time < o.sent + 200000 then .next s
    else if 3 ≤ o.tries then .next (s.requestBad o true)
    else
      let plane := f.otherPlane o.plane
      .next { s with fabric := { f with
        outs := f.outs.map (fun x => if x.id = id then { x with sent := s.time, tries := x.tries + 1, plane := plane } else x),
        sent := f.sent ++ [.request o.req o.peer plane] } }

/-! ### Links (R440 to R443, R455) -/

/-- FLIT_REPLAY (R440): the link replays a flit; programs see only its delay. -/
def execFlitReplay (_port : Nat) (s : State) : Host.Outcome State Fault Refusal := .next s

/-- CENSUS_FLIT (R442): credits lost with their flits are restored. -/
def execCensusFlit (port vc : Nat) (count : BitVec 16) (s : State) : Host.Outcome State Fault Refusal :=
  match s.fabric.ports[port]? with
  | none => .next s
  | some p =>
    let lost := (count - (p.returns[vc]?).getD count).toNat
    let p' : FabPort := { p with
      credits := p.credits.setIfInBounds vc ((p.credits[vc]?).getD 0 + lost), returns := p.returns.setIfInBounds vc count }
    .next { s with fabric := { s.fabric with ports := s.fabric.ports.setIfInBounds port p' } }

/-- LINK_RETRAIN (R443): a port that carries traffic retrains in one to three rounds; without agreement in the third it goes down. -/
def execLinkRetrain (port rounds lanes : Nat) (agreed : Bool) (s : State) : Host.Outcome State Fault Refusal :=
  match s.fabric.ports[port]? with
  | none => .next s
  | some p =>
    if !p.up || rounds = 0 || decide (3 < rounds) || (!agreed && rounds != 3) || decide (4 < lanes) then .next s
    else
      let p1 : FabPort := { p with retrains := p.retrains + 1, rounds := BitVec.ofNat 2 rounds }
      let p' : FabPort := if agreed then { p1 with lanes := BitVec.ofNat 3 lanes }
        else { p1 with up := false, dis := true, lanes := 0, downAt := s.time }
      .next { s with fabric := { s.fabric with ports := s.fabric.ports.setIfInBounds port p' } }

/-- PORT_ENABLE (R443, R455): a port with en set comes up; with the first, the part joins the fabric and `sys.ftoff` is fixed. -/
def execPortEnable (port : Nat) (lport : BitVec 16) (offset : BitVec 64) (s : State) : Host.Outcome State Fault Refusal :=
  match s.fabric.ports[port]? with
  | none => .next s
  | some p =>
    if s.pkg.stage ≠ 3 ∨ !p.en ∨ p.dis ∨ p.up then .next s
    else
      let f := s.fabric
      let p' : FabPort := { p with up := true, lanes := 4, lport := lport }
      .next { s with fabric := { f with
        ports := f.ports.setIfInBounds port p', ftoff := if f.joined then f.ftoff else offset, joined := true } }

/-- SYNC_FLIT (R455, R357): the rate of the PTB, within 1 part in 10^4. -/
def execSyncFlit (slew : Int) (s : State) : Host.Outcome State Fault Refusal :=
  .next { s with rate := max (-10000) (min 10000 slew) }

end Sys2Proof.Machine
end

