-- ==== Sys2Proof/Machine/Boot.lean ====
section
/-!
DEFINITION. Reset and boot of the package (spec 19_host.md R418, R419; 16_package_work.md R352, R357).
-/
namespace Sys2Proof.Machine

/-- A port across a reset: the link and what the host has been sent are outside the package. -/
def Port.keep (p : Port) : Port := { Port.reset with up := p.up, out := p.out }

/-- The package controller across a reset: the flash images, the next attestation leaf and what the boot will find stay. -/
def Package.keep (g : Package) : Package :=
  { Package.reset with leaf := g.leaf, images := g.images, uploads := g.uploads, port0 := g.port0.keep, port1 := g.port1.keep }

/-- A package reset: everything of the package is as after power-on; the hosts' memory is not of the package. -/
def State.again (s : State) : State :=
  { State.reset with mem := s.mem.filter (fun c => decide (2 ^ 51 ≤ c.1)), pkg := s.pkg.keep, inputs := s.inputs, fresh := s.fresh }

/-- Step 1 of Table 19.4: an image that verifies is booted, A before B. -/
def Package.bootFirmware (g : Package) : Package :=
  if g.images.imageA then { g with stage := 1, slotB := false }
  else if g.images.imageB then { g with stage := 1, slotB := true }
  else { g with stage := 15 }

/-- The dies that a mask names. -/
def darkDies (p : BitVec 8) : List Nat := (List.range 8).filter (fun d => !p.getLsbD d)

/-- Steps 2 and 3: the memory and the wavelengths train, the connection table is written, the dies authenticate; a die that fails is
held dark, and no entry names it. -/
def State.bootDies (s : State) : State :=
  if !s.pkg.images.trained then { s with pkg := { s.pkg with stage := 15 } }
  else
    let s1 : State := { s with pkg := { s.pkg with stage := 2, ctab := Package.reset.ctab } }
    (darkDies s.pkg.images.diesAuth).foldl (fun s d => s.dropCircuits d) s1

/-- Steps 4 and 5: `hst.dies` is written, the PTB starts, the dies leave reset, the ports accept BAR 2 and push windows. -/
def State.bootReady (s : State) : State :=
  let p := s.pkg.images.diesAuth
  { s with
    time := 0, ptbFine := 0, rate := 0,
    dies := tabulate 8 (fun d => { Die.reset with present := p.getLsbD d.val, nextEdge := 8 }),
    pkg := { s.pkg with stage := 3, dies := (0 : BitVec 8) ++ ~~~p ++ p } }

/-- PACKAGE_RESET: the next step of the boot, or, of a part that has booted, a new reset. -/
def execPackageReset (s : State) : Host.Outcome State Fault Refusal :=
  match s.pkg.stage.toNat with
  | 0 => .next { s with pkg := s.pkg.bootFirmware }
  | 1 => .next s.bootDies
  | 2 => .next s.bootReady
  | _ => .next s.again

end Sys2Proof.Machine
end

