-- ==== Sys2Proof/Machine/CrossLane.lean ====
section
/-!
DEFINITION. The cross-lane instructions, the group fence and queue inspection (spec 05_group_float_lanes.md R131 to R138;
03_numbers.md R84, R85).
-/
namespace Sys2Proof.Machine

/-- The type of a cross-lane instruction. -/
def laneTy (f : FFrame) : Ty := Ty.ofCode .u32 f.ty

/-- The lane that `SHFL` reads for lane l (R132): mode, width w and offset k. -/
def shflLane (mode w l k : Nat) : Nat :=
  let base := l - l % w
  let i := l % w
  match mode with
  | 0 => base + k % w
  | 1 => if k ≤ i then l - k else l
  | 2 => if i + k < w then l + k else l
  | _ => base + (i ^^^ k) % w

/-- The width of variant [4:2] (R132). -/
def shflWidth (c : Nat) : Nat :=
  match c with
  | 1 => 2 | 2 => 4 | 3 => 8 | 4 => 16 | _ => 32

/-- The body of `SHFL`. -/
def bodyShfl (f : FFrame) : Body := fun e => do
  let t := laneTy f
  begin_ e (specShfl f) f none
  let (a, b, _) ← sources (srcV e t f.srcA) (srcV e .u32 f.srcB) (pure ())
  let w := shflWidth (f.variant.toNat / 4 % 8)
  let m := e.active f.guard
  dstV e t.wide m f.dst (tabulate 32 (fun l =>
    BitVec.ofNat 64 (laneNat a (shflLane (f.variant.toNat % 4) w l (laneNat b l % 2 ^ 32)))))
  pure 0

/-- The body of `BCAST` (R133). -/
def bodyBcast (f : FFrame) : Body := fun e => do
  let t := laneTy f
  begin_ e (specBcast f) f none
  let (a, b, _) ← sources (srcV e t f.srcA) (srcS e f.srcB) (pure ())
  dstV e t.wide (e.active f.guard) f.dst (splat (BitVec.ofNat 64 (laneNat a (b.toNat % 32))))
  pure 0

/-- The body of `VCOMP` (R133): the active lanes' values in the lowest lanes, written whether active or not. -/
def bodyVcomp (f : FFrame) : Body := fun e => do
  let t := laneTy f
  begin_ e (specVcomp f) f none
  let b ← srcV e t f.srcB
  let ls := lanesIn (e.active f.guard)
  dstV e t.wide (BitVec.ofNat 32 (2 ^ ls.length - 1)) f.dst
    (tabulate 32 (fun i => BitVec.ofNat 64 (laneNat b (ls.getD i 0))))
  pure 0

/-- The body of `VOTE` (R134). -/
def bodyVote (f : FFrame) : Body := fun e => do
  begin_ e (specVote f) f none
  let m := e.active f.guard
  let b ← if RC.of f.srcB = .p then pure (tabulate 32 (fun l => if (srcP e f.srcB).getLsbD l then (1 : W64) else 0))
    else srcV e .u32 f.srcB
  let ls := lanesIn m
  let ballot := maskOf (fun l => m.getLsbD l && laneNat b l != 0)
  let r : Nat := match f.variant.toNat % 4 with
    | 0 => ballot.toNat
    | 1 => if ballot = 0 then 0 else 1
    | 2 => if ballot = m then 1 else 0
    | _ => if ls.all (fun l => laneNat b l == laneNat b (ls.headD 0)) then 1 else 0
  dstS e m f.dst (BitVec.ofNat 64 r)
  pure 0

/-- Do two keys match (R135)? -/
def keysMatch (t : Ty) (feq : Bool) (x y : Nat) : Bool :=
  if feq then
    let a := (t.fmt.decode x).1
    let b := (t.fmt.decode y).1
    !a.isNan && !b.isNan && cmpNum a b == .eq
  else x == y

/-- The body of `MATCH` (R135): a lane's own bit is always set. Under `.feq` a signalling NaN key of an active lane records the
invalid event (R69, R87). -/
def bodyMatch (f : FFrame) : Body := fun e => do
  let t := laneTy f
  begin_ e (specMatch f) f none
  let b ← srcV e t f.srcB
  let m := e.active f.guard
  let feq := f.variant.getLsbD 0
  dstV e false m f.dst (tabulate 32 (fun l => (maskOf (fun k =>
    m.getLsbD k && (k == l.val || keysMatch t feq (laneNat b k) (laneNat b l)))).setWidth 64))
  pure (if feq then unionEv m (fun l => (readF t.fmt (laneNat b l % 2 ^ t.width)).2) else 0)

/-- One level of the addition tree of R85 over integers, each sum wrapped or clamped. -/
def addLevel (signed : Bool) (w : Nat) (sat : Bool) : List Int → List Int × Events
  | x :: y :: r =>
    let (c, e1) := writeInt signed w sat (x + y)
    let (l, e2) := addLevel signed w sat r
    (readInt signed w c :: l, e1 ||| e2)
  | l => (l, 0)

/-- n levels of the tree. -/
def addTree (signed : Bool) (w : Nat) (sat : Bool) : Nat → List Int → List Int × Events
  | 0, l => (l, 0)
  | n + 1, l =>
    let (l1, e1) := addLevel signed w sat l
    let (l2, e2) := addTree signed w sat n l1
    (l2, e1 ||| e2)

/-- Two values combined by a `.min`, `.max` or bitwise operation of R136, in the type's order. -/
def combine2 (t : Ty) (op x y : Nat) : Nat :=
  match t with
  | .fl f => fMinMax (op == 2) f x y
  | _ =>
    let w := t.width
    match op with
    | 1 => wrapInt w (min (readInt t.signed w x) (readInt t.signed w y))
    | 2 => wrapInt w (max (readInt t.signed w x) (readInt t.signed w y))
    | 3 => x &&& y
    | 4 => x ||| y
    | _ => x ^^^ y

/-- The identity of an operation (R136). -/
def identityOf (t : Ty) (op : Nat) : Nat :=
  match t with
  | .fl f =>
    match op with
    | 0 => f.signed true 0
    | 1 => f.maxCode + 1
    | _ => f.signed true (f.maxCode + 1)
  | _ =>
    let (lo, hi) := intBounds t.signed t.width
    match op with
    | 1 => wrapInt t.width hi
    | 2 => wrapInt t.width lo
    | 3 => 2 ^ t.width - 1
    | _ => 0

/-- The float sum of codes, rounded once (R84). -/
def floatSum (f : Fmt) (mode : Mode) (cs : List Nat) : Nat × Events :=
  let vs := cs.map (readF f)
  let (v, e1) := exactSum (vs.map (fun p => p.1))
  let (r, e2) := roundTo f v mode false
  (r, vs.foldl (fun ev p => ev ||| p.2) (e1 ||| e2))

/-- The combination of a nonempty list of codes by `.min`, `.max` or a bitwise operation; a float list without a number
gives the canonical NaN. -/
def combineAll (t : Ty) (op : Nat) (cs : List Nat) : Nat × Events :=
  match t with
  | .fl f =>
    let ev := cs.foldl (fun ev c => ev ||| (readF f c).2) 0
    match cs.filter (fun c => !(f.decode c).1.isNan) with
    | [] => (f.nanCode, ev)
    | c :: l => (l.foldl (combine2 t op) c, ev)
  | _ => match cs with
    | [] => (identityOf t op, 0)
    | c :: l => (l.foldl (combine2 t op) c, 0)

/-- A lane's value in the type's width. -/
def laneCode (t : Ty) (v : Lanes64) (l : Nat) : Nat := laneNat v l % 2 ^ t.width

/-- The value that `VRED` gives (R84, R85, R136). -/
def reduce (t : Ty) (op : Nat) (mode : Mode) (sat : Bool) (v : Lanes64) (m : W32) : Nat × Events :=
  let cs := (lanesIn m).map (laneCode t v)
  if op = 0 then
    match t with
    | .fl f => floatSum f mode cs
    | _ =>
      let xs := (List.range 32).map (fun l => if m.getLsbD l then readInt t.signed t.width (laneCode t v l) else 0)
      let (l, ev) := addTree t.signed t.width sat 5 xs
      (wrapInt t.width (l.headD 0), ev)
  else combineAll t op cs

/-- The body of `VRED` (R136). -/
def bodyVred (f : FFrame) : Body := fun e => do
  let t := laneTy f
  begin_ e (specVred f) f none
  let b ← srcV e t f.srcB
  let m := e.active f.guard
  let (r, ev) := reduce t (f.variant.toNat % 8) (Mode.ofCode (f.variant.toNat / 8)) (f.flags.getLsbD 0) b m
  if RC.of f.dst = .s ∨ scalarQueue e f.dst then
    dstS e m f.dst (if t.signed then BitVec.ofInt 64 (readInt true t.width r) else BitVec.ofNat 64 r)
  else dstV e t.wide m f.dst (splat (BitVec.ofNat 64 r))
  pure (if m = 0 then 0 else ev)

/-- The running integer sums of `VSCAN.add` over lanes in ascending order (R136). -/
def scanInt (signed : Bool) (w : Nat) (sat : Bool) : List Nat → Int → Int × Events
  | [], acc => (acc, 0)
  | x :: l, acc =>
    let (c, e1) := writeInt signed w sat (acc + readInt signed w x)
    let (r, e2) := scanInt signed w sat l (readInt signed w c)
    (r, e1 ||| e2)

/-- One lane of `VSCAN`: the combination of the codes that precede it (R136). -/
def scanLane (t : Ty) (op : Nat) (mode : Mode) (sat : Bool) (cs : List Nat) : Nat × Events :=
  match cs with
  | [] => (identityOf t op, 0)
  | _ =>
    if op = 0 then
      match t with
      | .fl f => floatSum f mode cs
      | _ => let (x, ev) := scanInt t.signed t.width sat cs 0; (wrapInt t.width x, ev)
    else combineAll t op cs

/-- The body of `VSCAN` (R136). Under `.excl` the highest active lane's value enters no combination, so a signalling NaN there
records nothing (DESIGN CHOICE, notes/assumptions/113.md). -/
def bodyVscan (f : FFrame) : Body := fun e => do
  let t := laneTy f
  begin_ e (specVscan f) f none
  let b ← srcV e t f.srcB
  let m := e.active f.guard
  let excl := f.variant.getLsbD 5
  let r := laneResults m (fun l =>
    scanLane t (f.variant.toNat % 8) (Mode.ofCode (f.variant.toNat / 8)) (f.flags.getLsbD 0)
      (((lanesIn m).filter (fun k => if excl then decide (k < l) else decide (k ≤ l))).map (laneCode t b)))
  dstV e t.wide m f.dst (laneValues r)
  pure (laneEvents r)

/-- The body of `GFENCE` (R137): every later access of the slice waits for its earlier ones. -/
def bodyGfence (f : FFrame) : Body := fun e => do
  begin_ e specGfence f none
  let s ← get
  if e.active f.guard = 0 then pure () else acquireIds e (s.pendingOf e)
  pure 0

/-! ### Queue inspection (R138) -/

/-- The conditions of a queue that is named without being popped; `drain` when it is to be drained. -/
def inspectConds (e : Env) (drain : Bool) (n : Nat) : List Cond :=
  if n = 15 then [{ cause := 0x1A, aux0 := queueAux 15 0 }]
  else if 12 ≤ n then []
  else if e.g.a.isNone then [{ cause := 0x06, aux0 := BitVec.ofNat 64 (0xA0 + n) }]
  else
    let q := e.g.queue n
    if q.depth = 0 then [{ cause := 0x1A, aux0 := queueAux n 0 }]
    else if drain && q.x2a != e.cur.a then [{ cause := 0x19, aux0 := queueAux n 1 }]
    else []

/-- The entries a queue holds: those at its head that have been filled. -/
def Queue.held (q : Queue) : Nat := (q.entries.takeWhile (fun x => x.fill.isNone)).length

/-- The number of entries a named queue holds and its depth. -/
def Env.queueCount (e : Env) (n : Nat) : Nat × Nat :=
  if 12 ≤ n then ((e.sl.engq n).length, 16) else ((e.g.queue n).held, (e.g.queue n).depth)

/-- The accesses that the pushes of the first k entries of a queue come after (R34). -/
def Queue.afterOf (q : Queue) (k : Nat) : List Nat := ((q.entries.take k).map (fun x => x.after)).flatten

/-- Remove the first k entries of a queue, each counting as a pop. -/
def Queue.drain (q : Queue) : Nat → Queue
  | 0 => q
  | k + 1 => q.pop.drain k

/-- `QCNT`, `QROOM` and `QDRAIN`: `kind` 0, 1 and 2. -/
def inspect (kind : Nat) (f : FFrame) : Body := fun e => do
  trapIf e (!f.ok specQ false) 0x02
  let n := regNo f.srcB
  raiseLowest e (inspectConds e (kind == 2) n)
  let s ← get
  holdIf (s.busy e .sreg f.dst) .scoreboard
  let m := e.active f.guard
  let (k, depth) := e.queueCount n
  dstS e m f.dst (BitVec.ofNat 64 (if kind = 1 then depth - k else k))
  if kind = 2 ∧ m ≠ 0 then do
    syncReady e
    if 12 ≤ n then modSl e (fun sl => sl.setEngq n ((sl.engq n).drop k))
    else do
      modGrp e (fun g => g.setQueue n ((g.queue n).drain k))
      acquireIds e ((e.g.queue n).afterOf k)
  pure 0

/-- The body of `QCNT`. -/
def bodyQcnt (f : FFrame) : Body := inspect 0 f
/-- The body of `QROOM`. -/
def bodyQroom (f : FFrame) : Body := inspect 1 f
/-- The body of `QDRAIN`. -/
def bodyQdrain (f : FFrame) : Body := inspect 2 f

/-- `SHFL`. -/
def execShfl (f : FFrame) (s : State) : Host.Outcome State Fault Refusal := issueF f.guard (bodyShfl f) s
/-- `VOTE`. -/
def execVote (f : FFrame) (s : State) : Host.Outcome State Fault Refusal := issueF f.guard (bodyVote f) s
/-- `MATCH`. -/
def execMatch (f : FFrame) (s : State) : Host.Outcome State Fault Refusal := issueF f.guard (bodyMatch f) s
/-- `VRED`. -/
def execVred (f : FFrame) (s : State) : Host.Outcome State Fault Refusal := issueF f.guard (bodyVred f) s
/-- `VSCAN`. -/
def execVscan (f : FFrame) (s : State) : Host.Outcome State Fault Refusal := issueF f.guard (bodyVscan f) s
/-- `BCAST`. -/
def execBcast (f : FFrame) (s : State) : Host.Outcome State Fault Refusal := issueF f.guard (bodyBcast f) s
/-- `VCOMP`. -/
def execVcomp (f : FFrame) (s : State) : Host.Outcome State Fault Refusal := issueF f.guard (bodyVcomp f) s
/-- `GFENCE`. -/
def execGfence (f : FFrame) (s : State) : Host.Outcome State Fault Refusal := issueF f.guard (bodyGfence f) s
/-- `QCNT`. -/
def execQcnt (f : FFrame) (s : State) : Host.Outcome State Fault Refusal := issueF f.guard (bodyQcnt f) s
/-- `QROOM`. -/
def execQroom (f : FFrame) (s : State) : Host.Outcome State Fault Refusal := issueF f.guard (bodyQroom f) s
/-- `QDRAIN`. -/
def execQdrain (f : FFrame) (s : State) : Host.Outcome State Fault Refusal := issueF f.guard (bodyQdrain f) s

end Sys2Proof.Machine
end

