-- ==== Sys2Proof/Machine/Dispatch.lean ====
section
/-!
DEFINITION. One arm per constructor of `Instr`: the meaning of each instruction and event. It only calls.
-/
namespace Sys2Proof.Machine

/-- What an instruction or event does. -/
def exec (i : Instr) (s : State) : Host.Outcome State Fault Refusal :=
  match i with
  | .nop c => Sys2Proof.Machine.execNop c s
  | .bra c => Sys2Proof.Machine.execBra c s
  | .brz c => Sys2Proof.Machine.execBrz c s
  | .brnz c => Sys2Proof.Machine.execBrnz c s
  | .brx c => Sys2Proof.Machine.execBrx c s
  | .brd c => Sys2Proof.Machine.execBrd c s
  | .join c => Sys2Proof.Machine.execJoin c s
  | .brq c => Sys2Proof.Machine.execBrq c s
  | .call c => Sys2Proof.Machine.execCall c s
  | .callx c => Sys2Proof.Machine.execCallx c s
  | .ret c => Sys2Proof.Machine.execRet c s
  | .exit c => Sys2Proof.Machine.execExit c s
  | .yield c => Sys2Proof.Machine.execYield c s
  | .sleep c => Sys2Proof.Machine.execSleep c s
  | .trap c => Sys2Proof.Machine.execTrap c s
  | .bkpt c => Sys2Proof.Machine.execBkpt c s
  | .eret c => Sys2Proof.Machine.execEret c s
  | .sadd f => Sys2Proof.Machine.execSadd f s
  | .ssub f => Sys2Proof.Machine.execSsub f s
  | .smul f => Sys2Proof.Machine.execSmul f s
  | .smulh f => Sys2Proof.Machine.execSmulh f s
  | .sand f => Sys2Proof.Machine.execSand f s
  | .sor f => Sys2Proof.Machine.execSor f s
  | .sxor f => Sys2Proof.Machine.execSxor f s
  | .snot f => Sys2Proof.Machine.execSnot f s
  | .sshl f => Sys2Proof.Machine.execSshl f s
  | .sshr f => Sys2Proof.Machine.execSshr f s
  | .ssra f => Sys2Proof.Machine.execSsra f s
  | .smin f => Sys2Proof.Machine.execSmin f s
  | .smax f => Sys2Proof.Machine.execSmax f s
  | .smov f => Sys2Proof.Machine.execSmov f s
  | .sli f => Sys2Proof.Machine.execSli f s
  | .scmp f => Sys2Proof.Machine.execScmp f s
  | .ssel f => Sys2Proof.Machine.execSsel f s
  | .sclz f => Sys2Proof.Machine.execSclz f s
  | .spopc f => Sys2Proof.Machine.execSpopc f s
  | .sbfx f => Sys2Proof.Machine.execSbfx f s
  | .sbfi f => Sys2Proof.Machine.execSbfi f s
  | .vadd f => Sys2Proof.Machine.execVadd f s
  | .vsub f => Sys2Proof.Machine.execVsub f s
  | .vmul f => Sys2Proof.Machine.execVmul f s
  | .vmulh f => Sys2Proof.Machine.execVmulh f s
  | .vmad f => Sys2Proof.Machine.execVmad f s
  | .vand f => Sys2Proof.Machine.execVand f s
  | .vor f => Sys2Proof.Machine.execVor f s
  | .vxor f => Sys2Proof.Machine.execVxor f s
  | .vnot f => Sys2Proof.Machine.execVnot f s
  | .vshl f => Sys2Proof.Machine.execVshl f s
  | .vshr f => Sys2Proof.Machine.execVshr f s
  | .vsra f => Sys2Proof.Machine.execVsra f s
  | .vmin f => Sys2Proof.Machine.execVmin f s
  | .vmax f => Sys2Proof.Machine.execVmax f s
  | .vabs f => Sys2Proof.Machine.execVabs f s
  | .vneg f => Sys2Proof.Machine.execVneg f s
  | .vclz f => Sys2Proof.Machine.execVclz f s
  | .vpopc f => Sys2Proof.Machine.execVpopc f s
  | .vbfx f => Sys2Proof.Machine.execVbfx f s
  | .vbfi f => Sys2Proof.Machine.execVbfi f s
  | .vbrev f => Sys2Proof.Machine.execVbrev f s
  | .vsel f => Sys2Proof.Machine.execVsel f s
  | .vmov f => Sys2Proof.Machine.execVmov f s
  | .vli f => Sys2Proof.Machine.execVli f s
  | .vaddc f => Sys2Proof.Machine.execVaddc f s
  | .vsubb f => Sys2Proof.Machine.execVsubb f s
  | .vcmp f => Sys2Proof.Machine.execVcmp f s
  | .vidot4 f => Sys2Proof.Machine.execVidot4 f s
  | .vfadd f => Sys2Proof.Machine.execVfadd f s
  | .vfsub f => Sys2Proof.Machine.execVfsub f s
  | .vfmul f => Sys2Proof.Machine.execVfmul f s
  | .vfma f => Sys2Proof.Machine.execVfma f s
  | .vfmin f => Sys2Proof.Machine.execVfmin f s
  | .vfmax f => Sys2Proof.Machine.execVfmax f s
  | .vfabs f => Sys2Proof.Machine.execVfabs f s
  | .vfneg f => Sys2Proof.Machine.execVfneg f s
  | .vfcmp f => Sys2Proof.Machine.execVfcmp f s
  | .vfclass f => Sys2Proof.Machine.execVfclass f s
  | .vfround f => Sys2Proof.Machine.execVfround f s
  | .vfdot2 f => Sys2Proof.Machine.execVfdot2 f s
  | .vfscale f => Sys2Proof.Machine.execVfscale f s
  | .vrcp f => Sys2Proof.Machine.execVrcp f s
  | .vrsq f => Sys2Proof.Machine.execVrsq f s
  | .vsqrt f => Sys2Proof.Machine.execVsqrt f s
  | .vexp2 f => Sys2Proof.Machine.execVexp2 f s
  | .vlog2 f => Sys2Proof.Machine.execVlog2 f s
  | .vsin f => Sys2Proof.Machine.execVsin f s
  | .vcos f => Sys2Proof.Machine.execVcos f s
  | .vtanh f => Sys2Proof.Machine.execVtanh f s
  | .vcvt f => Sys2Proof.Machine.execVcvt f s
  | .vcvtb f => Sys2Proof.Machine.execVcvtb f s
  | .vpack f => Sys2Proof.Machine.execVpack f s
  | .vunpack f => Sys2Proof.Machine.execVunpack f s
  | .pand f => Sys2Proof.Machine.execPand f s
  | .por f => Sys2Proof.Machine.execPor f s
  | .pxor f => Sys2Proof.Machine.execPxor f s
  | .pnot f => Sys2Proof.Machine.execPnot f s
  | .pmov f => Sys2Proof.Machine.execPmov f s
  | .pfrom f => Sys2Proof.Machine.execPfrom f s
  | .pto f => Sys2Proof.Machine.execPto f s
  | .pany f => Sys2Proof.Machine.execPany f s
  | .pall f => Sys2Proof.Machine.execPall f s
  | .shfl f => Sys2Proof.Machine.execShfl f s
  | .vote f => Sys2Proof.Machine.execVote f s
  | .matchLanes f => Sys2Proof.Machine.execMatch f s
  | .vred f => Sys2Proof.Machine.execVred f s
  | .vscan f => Sys2Proof.Machine.execVscan f s
  | .bcast f => Sys2Proof.Machine.execBcast f s
  | .vcomp f => Sys2Proof.Machine.execVcomp f s
  | .gfence f => Sys2Proof.Machine.execGfence f s
  | .qcnt f => Sys2Proof.Machine.execQcnt f s
  | .qroom f => Sys2Proof.Machine.execQroom f s
  | .qdrain f => Sys2Proof.Machine.execQdrain f s
  | .lds f => Sys2Proof.Machine.execLds f s
  | .sts f => Sys2Proof.Machine.execSts f s
  | .ld f => Sys2Proof.Machine.execLd f s
  | .st f => Sys2Proof.Machine.execSt f s
  | .ldl f => Sys2Proof.Machine.execLdl f s
  | .stl f => Sys2Proof.Machine.execStl f s
  | .ldq f => Sys2Proof.Machine.execLdq f s
  | .stc f => Sys2Proof.Machine.execStc f s
  | .ldx f => Sys2Proof.Machine.execLdx f s
  | .pref f => Sys2Proof.Machine.execPref f s
  | .cctl f => Sys2Proof.Machine.execCctl f s
  | .atom f => Sys2Proof.Machine.execAtom f s
  | .red f => Sys2Proof.Machine.execRed f s
  | .cas f => Sys2Proof.Machine.execCas f s
  | .fence f => Sys2Proof.Machine.execFence f s
  | .fencex f => Sys2Proof.Machine.execFencex f s
  | .waitcnt f => Sys2Proof.Machine.execWaitcnt f s
  | .tlook f => Sys2Proof.Machine.execTlook f s
  | .tset f => Sys2Proof.Machine.execTset f s
  | .tclr f => Sys2Proof.Machine.execTclr f s
  | .binit f => Sys2Proof.Machine.execBinit f s
  | .barr f => Sys2Proof.Machine.execBarr f s
  | .barrx f => Sys2Proof.Machine.execBarrx f s
  | .bwait f => Sys2Proof.Machine.execBwait f s
  | .btest f => Sys2Proof.Machine.execBtest f s
  | .bwatch f => Sys2Proof.Machine.execBwatch f s
  | .gdef w => Sys2Proof.Machine.execGdef w s
  | .gld w => Sys2Proof.Machine.execGld w s
  | .gst w => Sys2Proof.Machine.execGst w s
  | .gmov w => Sys2Proof.Machine.execGmov w s
  | .gchain w => Sys2Proof.Machine.execGchain w s
  | .gpart w => Sys2Proof.Machine.execGpart w s
  | .gtran w => Sys2Proof.Machine.execGtran w s
  | .gflat w => Sys2Proof.Machine.execGflat w s
  | .gslice w => Sys2Proof.Machine.execGslice w s
  | .gswz w => Sys2Proof.Machine.execGswz w s
  | .gchk w => Sys2Proof.Machine.execGchk w s
  | .gbank w => Sys2Proof.Machine.execGbank w s
  | .mma w => Sys2Proof.Machine.execMma w s
  | .mmad w => Sys2Proof.Machine.execMmad w s
  | .mmsp w => Sys2Proof.Machine.execMmsp w s
  | .fbset w => Sys2Proof.Machine.execFbset w s
  | .aczero w => Sys2Proof.Machine.execAczero w s
  | .acld w => Sys2Proof.Machine.execAcld w s
  | .acst w => Sys2Proof.Machine.execAcst w s
  | .acrd w => Sys2Proof.Machine.execAcrd w s
  | .acwr w => Sys2Proof.Machine.execAcwr w s
  | .acmax w => Sys2Proof.Machine.execAcmax w s
  | .cpy w => Sys2Proof.Machine.execCpy w s
  | .cpyg w => Sys2Proof.Machine.execCpyg w s
  | .cpys w => Sys2Proof.Machine.execCpys w s
  | .cpyz w => Sys2Proof.Machine.execCpyz w s
  | .cpym w => Sys2Proof.Machine.execCpym w s
  | .psel w => Sys2Proof.Machine.execPsel w s
  | .cpyr w => Sys2Proof.Machine.execCpyr w s
  | .strep w => Sys2Proof.Machine.execStrep w s
  | .fcoll w => Sys2Proof.Machine.execFcoll w s
  | .spawn w => Sys2Proof.Machine.execSpawn w s
  | .spawnj w => Sys2Proof.Machine.execSpawnj w s
  | .jdec f => Sys2Proof.Machine.execJdec f s
  | .launch w => Sys2Proof.Machine.execLaunch w s
  | .tget f => Sys2Proof.Machine.execTget f s
  | .eget f => Sys2Proof.Machine.execEget f s
  | .epost f => Sys2Proof.Machine.execEpost f s
  | .srd f => Sys2Proof.Machine.execSrd f s
  | .swr f => Sys2Proof.Machine.execSwr f s
  | .tlbi f => Sys2Proof.Machine.execTlbi f s
  | .trace f => Sys2Proof.Machine.execTrace f s
  | .tmark f => Sys2Proof.Machine.execTmark f s
  | .perf f => Sys2Proof.Machine.execPerf f s
  | .literalFrame l => Sys2Proof.Machine.execLiteralFrame l s
  | .pairFrame h0 h1 => Sys2Proof.Machine.execPairFrame h0 h1 s
  | .haltArrival wg core sub => Sys2Proof.Machine.execHaltArrival wg core sub s
  | .idleCycle core sub => Sys2Proof.Machine.execIdleCycle core sub s
  | .yieldWindowEnd grp a => Sys2Proof.Machine.execYieldWindowEnd grp a s
  | .sleepWake grp a => Sys2Proof.Machine.execSleepWake grp a s
  | .bwaitPromWake grp a => Sys2Proof.Machine.execBwaitPromWake grp a s
  | .bwaitComplete grp a slot1 => Sys2Proof.Machine.execBwaitComplete grp a slot1 s
  | .throttleDecay core => Sys2Proof.Machine.execThrottleDecay core s
  | .throttleWindow core => Sys2Proof.Machine.execThrottleWindow core s
  | .bankServe core bank => Sys2Proof.Machine.execBankServe core bank s
  | .loadResponse core id => Sys2Proof.Machine.execLoadResponse core id s
  | .storePerformed core id => Sys2Proof.Machine.execStorePerformed core id s
  | .atomicResponse core id => Sys2Proof.Machine.execAtomicResponse core id s
  | .matrixPassStart core sub => Sys2Proof.Machine.execMatrixPassStart core sub s
  | .matrixPassComplete core sub => Sys2Proof.Machine.execMatrixPassComplete core sub s
  | .commandStart e => Sys2Proof.Machine.execCommandStart e s
  | .engineByteSubtract e elems => Sys2Proof.Machine.execEngineByteSubtract e elems s
  | .commandComplete e => Sys2Proof.Machine.execCommandComplete e s
  | .tileTaskReplay e => Sys2Proof.Machine.execTileTaskReplay e s
  | .pselComplete cluster => Sys2Proof.Machine.execPselComplete cluster s
  | .watchRead index => Sys2Proof.Machine.execWatchRead index s
  | .pairMessageArrive index => Sys2Proof.Machine.execPairMessageArrive index s
  | .buddyRequestArrive core id => Sys2Proof.Machine.execBuddyRequestArrive core id s
  | .pageWalk die => Sys2Proof.Machine.execPageWalk die s
  | .itemQueueEnter cluster => Sys2Proof.Machine.execItemQueueEnter cluster s
  | .couplerCycle cluster => Sys2Proof.Machine.execCouplerCycle cluster s
  | .couplerIdleTimeout cluster => Sys2Proof.Machine.execCouplerIdleTimeout cluster s
  | .clusterAdmit cluster => Sys2Proof.Machine.execClusterAdmit cluster s
  | .groupRetire grp => Sys2Proof.Machine.execGroupRetire grp s
  | .swapOut wg => Sys2Proof.Machine.execSwapOut wg s
  | .contextSave wg => Sys2Proof.Machine.execContextSave wg s
  | .faultRecordDeferred region => Sys2Proof.Machine.execFaultRecordDeferred region s
  | .pagePresentResume ctx => Sys2Proof.Machine.execPagePresentResume ctx s
  | .restore cluster => Sys2Proof.Machine.execRestore cluster s
  | .watchdogExpiry wg => Sys2Proof.Machine.execWatchdogExpiry wg s
  | .saveBudgetExpiry wg => Sys2Proof.Machine.execSaveBudgetExpiry wg s
  | .poisonRead e => Sys2Proof.Machine.execPoisonRead e s
  | .distributorStep => Sys2Proof.Machine.execDistributorStep s
  | .launchRead region => Sys2Proof.Machine.execLaunchRead region s
  | .launchComplete launch => Sys2Proof.Machine.execLaunchComplete launch s
  | .energyWindowStart region => Sys2Proof.Machine.execEnergyWindowStart region s
  | .regionActivate region => Sys2Proof.Machine.execRegionActivate region s
  | .regionDeactivate region => Sys2Proof.Machine.execRegionDeactivate region s
  | .circuitReady => Sys2Proof.Machine.execCircuitReady s
  | .faultResume region index => Sys2Proof.Machine.execFaultResume region index s
  | .faultDomainReset region index => Sys2Proof.Machine.execFaultDomainReset region index s
  | .preemptStop region => Sys2Proof.Machine.execPreemptStop region s
  | .preemptResume region => Sys2Proof.Machine.execPreemptResume region s
  | .stepEnd wg => Sys2Proof.Machine.execStepEnd wg s
  | .hostRequestTimeout port1 => Sys2Proof.Machine.execHostRequestTimeout port1 s
  | .portFailure port1 => Sys2Proof.Machine.execPortFailure port1 s
  | .attestComplete => Sys2Proof.Machine.execAttestComplete s
  | .packageReset => Sys2Proof.Machine.execPackageReset s
  | .exportWait index => Sys2Proof.Machine.execExportWait index s
  | .fabricRetransmit id => Sys2Proof.Machine.execFabricRetransmit id s
  | .reservedOpcode word => Sys2Proof.Machine.execReservedOpcode word s
  | .fabricRequestArrive req => Sys2Proof.Machine.execFabricRequestArrive req s
  | .fabricResponse id answer => Sys2Proof.Machine.execFabricResponse id answer s
  | .fabricRefusal core id => Sys2Proof.Machine.execFabricRefusal core id s
  | .collLineResend die plane => Sys2Proof.Machine.execCollLineResend die plane s
  | .droopStretch die => Sys2Proof.Machine.execDroopStretch die s
  | .eccError site index addr correctable => Sys2Proof.Machine.execEccError site index addr correctable s
  | .dieFail die => Sys2Proof.Machine.execDieFail die s
  | .wavelengthFail entry => Sys2Proof.Machine.execWavelengthFail entry s
  | .energyCharge wg region quanta => Sys2Proof.Machine.execEnergyCharge wg region quanta s
  | .powerMeasure ends => Sys2Proof.Machine.execPowerMeasure ends s
  | .ctabWrite entry value => Sys2Proof.Machine.execCtabWrite entry value s
  | .debugAttach region => Sys2Proof.Machine.execDebugAttach region s
  | .debugDetach region => Sys2Proof.Machine.execDebugDetach region s
  | .debugStop region => Sys2Proof.Machine.execDebugStop region s
  | .debugHold region => Sys2Proof.Machine.execDebugHold region s
  | .debugRelease region => Sys2Proof.Machine.execDebugRelease region s
  | .debugStep region index => Sys2Proof.Machine.execDebugStep region index s
  | .pushWindowWrite port1 region image => Sys2Proof.Machine.execPushWindowWrite port1 region image s
  | .hostRead port1 bar0 offset size => Sys2Proof.Machine.execHostRead port1 bar0 offset size s
  | .hostWrite port1 offset data => Sys2Proof.Machine.execHostWrite port1 offset data s
  | .hostAtomic port1 op offset size value cmp => Sys2Proof.Machine.execHostAtomic port1 op offset size value cmp s
  | .heartbeatWrite port1 => Sys2Proof.Machine.execHeartbeatWrite port1 s
  | .attestGo port1 => Sys2Proof.Machine.execAttestGo port1 s
  | .firmwareImageUpload verifies => Sys2Proof.Machine.execFirmwareImageUpload verifies s
  | .registerWrite port1 offset value => Sys2Proof.Machine.execRegisterWrite port1 offset value s
  | .flitReplay port => Sys2Proof.Machine.execFlitReplay port s
  | .censusFlit port vc count => Sys2Proof.Machine.execCensusFlit port vc count s
  | .linkRetrain port rounds lanes agreed => Sys2Proof.Machine.execLinkRetrain port rounds lanes agreed s
  | .portEnable port lport offset => Sys2Proof.Machine.execPortEnable port lport offset s
  | .syncFlit slew => Sys2Proof.Machine.execSyncFlit slew s
  | .correlationPacket first corr engine queue seq kind payload => Sys2Proof.Machine.execCorrelationPacket first corr engine queue seq kind payload s
  | .collResultArrive die line leaves mismatch => Sys2Proof.Machine.execCollResultArrive die line leaves mismatch s
  | .hostLinkDown port1 => Sys2Proof.Machine.execHostLinkDown port1 s
  | .hostLinkUp port1 => Sys2Proof.Machine.execHostLinkUp port1 s

end Sys2Proof.Machine
end

