-- ==== Sys2Proof/Decode.lean ====
section
/-!
DEFINITION. The decoder and the encoder of instruction words (spec 02_encoding.md R38 to R58, Tables 2.1 to 2.10).
Decoding is total: bytes are taken eight at a time, little-endian (R5); a word that the opcode map does not assign, in
its frame kind, decodes to `.reservedOpcode` (R57), whose meaning raises 0x01. The only rejection is a byte list shorter
than the frame.
-/
namespace Sys2Proof
open Machine

/-- Why bytes give no instruction. -/
inductive DecodeError where
  /-- Fewer than the 8 bytes of one word stand in the list (R38). -/
  | truncatedWord
  /-- The second word of a W frame is missing (R38, R51). -/
  | truncatedWideFrame
  deriving DecidableEq, Repr

/-- Bits [51:0] of a word in the F layout (Table 2.2). -/
def FFrame.ofWord (w : W64) : FFrame :=
  { guard := w.extractLsb' 46 6, dst := w.extractLsb' 38 8, srcA := w.extractLsb' 30 8, srcB := w.extractLsb' 22 8,
    srcC := w.extractLsb' 14 8, ty := w.extractLsb' 10 4, variant := w.extractLsb' 4 6, flags := w.extractLsb' 0 4 }

/-- A control frame's fields (Table 2.9a). -/
def CFrame.ofWord (w : W64) : CFrame :=
  { guard := w.extractLsb' 46 6, dst := w.extractLsb' 38 8, body := w.extractLsb' 0 38 }

/-- A W frame from its two words (Tables 2.2 and 2.5). -/
def WFrame.ofWords (w0 w1 : W64) : WFrame :=
  { f := FFrame.ofWord w0, srcD := w1.extractLsb' 56 8, srcE := w1.extractLsb' 48 8, srcF := w1.extractLsb' 40 8,
    wflags := w1.extractLsb' 32 8, imm := w1.extractLsb' 0 32 }

/-- An L frame (Table 2.3). -/
def LFrame.ofWord (w : W64) : LFrame :=
  { op := w.extractLsb' 54 8, guard := w.extractLsb' 48 6, dst := w.extractLsb' 40 8, srcA := w.extractLsb' 32 8,
    lit := w.extractLsb' 0 32 }

/-- A P frame half from its 31 bits (Table 2.4). -/
def PHalf.ofBits (h : BitVec 31) : PHalf :=
  { op := h.extractLsb' 24 7, guard := h.extractLsb' 20 4, ty := h.extractLsb' 16 4, dst := h.extractLsb' 8 8,
    srcB := h.extractLsb' 0 8 }

/-- Table 2.9, the control codes, part 1. -/
def mapC0 : List (Nat × (CFrame → Instr)) :=
  [(0x000, .nop), (0x001, .bra), (0x002, .brz), (0x003, .brnz), (0x004, .brx),
   (0x005, .brd), (0x006, .join), (0x007, .brq), (0x008, .call), (0x009, .callx),
   (0x00A, .ret), (0x00B, .exit), (0x00C, .yield), (0x00D, .sleep), (0x00E, .trap),
   (0x00F, .bkpt), (0x010, .eret)]

/-- Table 2.9, the control codes. -/
def mapC : List (Nat × (CFrame → Instr)) := mapC0

/-- Table 2.9, the codes of the F frame, part 1. -/
def mapF0 : List (Nat × (FFrame → Instr)) :=
  [(0x040, .sadd), (0x041, .ssub), (0x042, .smul), (0x043, .smulh), (0x044, .sand),
   (0x045, .sor), (0x046, .sxor), (0x047, .snot), (0x048, .sshl), (0x049, .sshr),
   (0x04A, .ssra), (0x04B, .smin), (0x04C, .smax), (0x04D, .smov), (0x04E, .sli),
   (0x04F, .scmp), (0x050, .ssel), (0x051, .sclz), (0x052, .spopc), (0x053, .sbfx),
   (0x054, .sbfi), (0x080, .vadd), (0x081, .vsub), (0x082, .vmul), (0x083, .vmulh),
   (0x084, .vmad), (0x085, .vand), (0x086, .vor), (0x087, .vxor), (0x088, .vnot)]

/-- Table 2.9, the codes of the F frame, part 2. -/
def mapF1 : List (Nat × (FFrame → Instr)) :=
  [(0x089, .vshl), (0x08A, .vshr), (0x08B, .vsra), (0x08C, .vmin), (0x08D, .vmax),
   (0x08E, .vabs), (0x08F, .vneg), (0x090, .vclz), (0x091, .vpopc), (0x092, .vbfx),
   (0x093, .vbfi), (0x094, .vbrev), (0x095, .vsel), (0x096, .vmov), (0x097, .vli),
   (0x098, .vaddc), (0x099, .vsubb), (0x09A, .vcmp), (0x09B, .vidot4), (0x0E0, .vfadd),
   (0x0E1, .vfsub), (0x0E2, .vfmul), (0x0E3, .vfma), (0x0E4, .vfmin), (0x0E5, .vfmax),
   (0x0E6, .vfabs), (0x0E7, .vfneg), (0x0E8, .vfcmp), (0x0E9, .vfclass), (0x0EA, .vfround)]

/-- Table 2.9, the codes of the F frame, part 3. -/
def mapF2 : List (Nat × (FFrame → Instr)) :=
  [(0x0EB, .vfdot2), (0x0EC, .vfscale), (0x100, .vrcp), (0x101, .vrsq), (0x102, .vsqrt),
   (0x103, .vexp2), (0x104, .vlog2), (0x105, .vsin), (0x106, .vcos), (0x107, .vtanh),
   (0x110, .vcvt), (0x111, .vcvtb), (0x112, .vpack), (0x113, .vunpack), (0x140, .pand),
   (0x141, .por), (0x142, .pxor), (0x143, .pnot), (0x144, .pmov), (0x145, .pfrom),
   (0x146, .pto), (0x147, .pany), (0x148, .pall), (0x160, .shfl), (0x161, .vote),
   (0x162, .matchLanes), (0x163, .vred), (0x164, .vscan), (0x165, .bcast), (0x166, .vcomp)]

/-- Table 2.9, the codes of the F frame, part 4. -/
def mapF3 : List (Nat × (FFrame → Instr)) :=
  [(0x167, .gfence), (0x170, .qcnt), (0x171, .qroom), (0x172, .qdrain), (0x1C0, .lds),
   (0x1C1, .sts), (0x1C2, .ld), (0x1C3, .st), (0x1C4, .ldl), (0x1C5, .stl),
   (0x1C6, .ldq), (0x1C7, .stc), (0x1C8, .ldx), (0x1C9, .pref), (0x1CA, .cctl),
   (0x1D0, .atom), (0x1D1, .red), (0x1D2, .cas), (0x1D8, .fence), (0x1D9, .fencex),
   (0x1DA, .waitcnt), (0x1E0, .tlook), (0x1E1, .tset), (0x1E2, .tclr), (0x200, .binit),
   (0x201, .barr), (0x202, .barrx), (0x203, .bwait), (0x204, .btest), (0x205, .bwatch)]

/-- Table 2.9, the codes of the F frame, part 5. -/
def mapF4 : List (Nat × (FFrame → Instr)) :=
  [(0x302, .jdec), (0x310, .tget), (0x311, .eget), (0x312, .epost), (0x340, .srd),
   (0x341, .swr), (0x342, .tlbi), (0x348, .trace), (0x349, .tmark), (0x34A, .perf)]

/-- Table 2.9, the codes of the F frame. -/
def mapF : List (Nat × (FFrame → Instr)) := mapF0 ++ mapF1 ++ mapF2 ++ mapF3 ++ mapF4

/-- Table 2.9, the codes of the W frame, part 1. -/
def mapW0 : List (Nat × (WFrame → Instr)) :=
  [(0x240, .gdef), (0x241, .gld), (0x242, .gst), (0x243, .gmov), (0x244, .gchain),
   (0x245, .gpart), (0x246, .gtran), (0x247, .gflat), (0x248, .gslice), (0x249, .gswz),
   (0x24A, .gchk), (0x24B, .gbank), (0x280, .mma), (0x281, .mmad), (0x282, .mmsp),
   (0x288, .fbset), (0x289, .aczero), (0x28A, .acld), (0x28B, .acst), (0x28C, .acrd),
   (0x28D, .acwr), (0x28E, .acmax), (0x2C0, .cpy), (0x2C1, .cpyg), (0x2C2, .cpys),
   (0x2C3, .cpyz), (0x2C4, .cpym), (0x2C8, .psel), (0x2D0, .cpyr), (0x2D1, .strep)]

/-- Table 2.9, the codes of the W frame, part 2. -/
def mapW1 : List (Nat × (WFrame → Instr)) :=
  [(0x2D2, .fcoll), (0x300, .spawn), (0x301, .spawnj), (0x303, .launch)]

/-- Table 2.9, the codes of the W frame. -/
def mapW : List (Nat × (WFrame → Instr)) := mapW0 ++ mapW1

/-- The entry of a code in a map. -/
def lookupCode {α : Type} (c : Nat) : List (Nat × α) → Option α
  | [] => none
  | (k, x) :: l => if k = c then some x else lookupCode c l

/-- The instruction of a one-word frame (R44 to R48, R52, R57); a W frame answers none. -/
def decodeWord (w : W64) : Option Instr :=
  let op := (w.extractLsb' 52 10).toNat
  match (w.extractLsb' 62 2).toNat with
  | 0 =>
    match lookupCode op mapC with
    | some k => some (k (CFrame.ofWord w))
    | none =>
      match lookupCode op mapF with
      | some k => some (k (FFrame.ofWord w))
      | none => some (.reservedOpcode w)
  | 1 =>
    let l := LFrame.ofWord w
    if l.hasForm then some (.literalFrame l) else some (.reservedOpcode w)
  | 2 =>
    let h0 := PHalf.ofBits (w.extractLsb' 31 31)
    let h1 := PHalf.ofBits (w.extractLsb' 0 31)
    if h0.hasForm && h1.hasForm then some (.pairFrame h0 h1) else some (.reservedOpcode w)
  | _ => match lookupCode op mapW with
    | some _ => none
    | none => some (.reservedOpcode w)

/-- The instruction of a two-word frame whose first word is of kind W (R51, R52). -/
def decodeWide (w0 w1 : W64) : Instr :=
  match lookupCode (w0.extractLsb' 52 10).toNat mapW with
  | some k => k (WFrame.ofWords w0 w1)
  | none => .reservedOpcode w0

/-- The first eight bytes as a little-endian word, and the rest. -/
def takeWord (bs : List Byte) : Option (W64 × List Byte) :=
  match bs with
  | b0 :: b1 :: b2 :: b3 :: b4 :: b5 :: b6 :: b7 :: r => some (b7 ++ b6 ++ b5 ++ b4 ++ b3 ++ b2 ++ b1 ++ b0, r)
  | _ => none

/-- Decode one instruction from bytes (R38): the instruction and the bytes after its frame. -/
def decode (bs : List Byte) : Except DecodeError (Instr × List Byte) :=
  match takeWord bs with
  | none => .error .truncatedWord
  | some (w0, r) =>
    match decodeWord w0 with
    | some i => .ok (i, r)
    | none =>
      match takeWord r with
      | none => .error .truncatedWideFrame
      | some (w1, r') => .ok (decodeWide w0 w1, r')

/-! ### The encoder, written from the same tables -/

/-- A word of the F layout (Table 2.2) with a frame kind. -/
def FFrame.word (kind : BitVec 2) (op : BitVec 10) (f : FFrame) : W64 :=
  kind ++ op ++ f.guard ++ f.dst ++ f.srcA ++ f.srcB ++ f.srcC ++ f.ty ++ f.variant ++ f.flags

/-- The word of a control frame (Table 2.9a). -/
def CFrame.word (op : BitVec 10) (c : CFrame) : W64 := 0#2 ++ op ++ c.guard ++ c.dst ++ c.body

/-- The two words of a W frame (Tables 2.2 and 2.5). -/
def WFrame.words (op : BitVec 10) (w : WFrame) : List W64 :=
  [w.f.word 3#2 op, w.srcD ++ w.srcE ++ w.srcF ++ w.wflags ++ w.imm]

/-- The word of an L frame (Table 2.3). -/
def LFrame.word (l : LFrame) : W64 := 1#2 ++ l.op ++ l.guard ++ l.dst ++ l.srcA ++ l.lit

/-- The 31 bits of a half (Table 2.4). -/
def PHalf.bits (h : PHalf) : BitVec 31 := h.op ++ h.guard ++ h.ty ++ h.dst ++ h.srcB

/-- The words of an instruction; an event has none. -/
def encode : Instr → Option (List W64)
  | .nop c => some [c.word 0x000#10]
  | .bra c => some [c.word 0x001#10]
  | .brz c => some [c.word 0x002#10]
  | .brnz c => some [c.word 0x003#10]
  | .brx c => some [c.word 0x004#10]
  | .brd c => some [c.word 0x005#10]
  | .join c => some [c.word 0x006#10]
  | .brq c => some [c.word 0x007#10]
  | .call c => some [c.word 0x008#10]
  | .callx c => some [c.word 0x009#10]
  | .ret c => some [c.word 0x00A#10]
  | .exit c => some [c.word 0x00B#10]
  | .yield c => some [c.word 0x00C#10]
  | .sleep c => some [c.word 0x00D#10]
  | .trap c => some [c.word 0x00E#10]
  | .bkpt c => some [c.word 0x00F#10]
  | .eret c => some [c.word 0x010#10]
  | .sadd f => some [f.word 0#2 0x040#10]
  | .ssub f => some [f.word 0#2 0x041#10]
  | .smul f => some [f.word 0#2 0x042#10]
  | .smulh f => some [f.word 0#2 0x043#10]
  | .sand f => some [f.word 0#2 0x044#10]
  | .sor f => some [f.word 0#2 0x045#10]
  | .sxor f => some [f.word 0#2 0x046#10]
  | .snot f => some [f.word 0#2 0x047#10]
  | .sshl f => some [f.word 0#2 0x048#10]
  | .sshr f => some [f.word 0#2 0x049#10]
  | .ssra f => some [f.word 0#2 0x04A#10]
  | .smin f => some [f.word 0#2 0x04B#10]
  | .smax f => some [f.word 0#2 0x04C#10]
  | .smov f => some [f.word 0#2 0x04D#10]
  | .sli f => some [f.word 0#2 0x04E#10]
  | .scmp f => some [f.word 0#2 0x04F#10]
  | .ssel f => some [f.word 0#2 0x050#10]
  | .sclz f => some [f.word 0#2 0x051#10]
  | .spopc f => some [f.word 0#2 0x052#10]
  | .sbfx f => some [f.word 0#2 0x053#10]
  | .sbfi f => some [f.word 0#2 0x054#10]
  | .vadd f => some [f.word 0#2 0x080#10]
  | .vsub f => some [f.word 0#2 0x081#10]
  | .vmul f => some [f.word 0#2 0x082#10]
  | .vmulh f => some [f.word 0#2 0x083#10]
  | .vmad f => some [f.word 0#2 0x084#10]
  | .vand f => some [f.word 0#2 0x085#10]
  | .vor f => some [f.word 0#2 0x086#10]
  | .vxor f => some [f.word 0#2 0x087#10]
  | .vnot f => some [f.word 0#2 0x088#10]
  | .vshl f => some [f.word 0#2 0x089#10]
  | .vshr f => some [f.word 0#2 0x08A#10]
  | .vsra f => some [f.word 0#2 0x08B#10]
  | .vmin f => some [f.word 0#2 0x08C#10]
  | .vmax f => some [f.word 0#2 0x08D#10]
  | .vabs f => some [f.word 0#2 0x08E#10]
  | .vneg f => some [f.word 0#2 0x08F#10]
  | .vclz f => some [f.word 0#2 0x090#10]
  | .vpopc f => some [f.word 0#2 0x091#10]
  | .vbfx f => some [f.word 0#2 0x092#10]
  | .vbfi f => some [f.word 0#2 0x093#10]
  | .vbrev f => some [f.word 0#2 0x094#10]
  | .vsel f => some [f.word 0#2 0x095#10]
  | .vmov f => some [f.word 0#2 0x096#10]
  | .vli f => some [f.word 0#2 0x097#10]
  | .vaddc f => some [f.word 0#2 0x098#10]
  | .vsubb f => some [f.word 0#2 0x099#10]
  | .vcmp f => some [f.word 0#2 0x09A#10]
  | .vidot4 f => some [f.word 0#2 0x09B#10]
  | .vfadd f => some [f.word 0#2 0x0E0#10]
  | .vfsub f => some [f.word 0#2 0x0E1#10]
  | .vfmul f => some [f.word 0#2 0x0E2#10]
  | .vfma f => some [f.word 0#2 0x0E3#10]
  | .vfmin f => some [f.word 0#2 0x0E4#10]
  | .vfmax f => some [f.word 0#2 0x0E5#10]
  | .vfabs f => some [f.word 0#2 0x0E6#10]
  | .vfneg f => some [f.word 0#2 0x0E7#10]
  | .vfcmp f => some [f.word 0#2 0x0E8#10]
  | .vfclass f => some [f.word 0#2 0x0E9#10]
  | .vfround f => some [f.word 0#2 0x0EA#10]
  | .vfdot2 f => some [f.word 0#2 0x0EB#10]
  | .vfscale f => some [f.word 0#2 0x0EC#10]
  | .vrcp f => some [f.word 0#2 0x100#10]
  | .vrsq f => some [f.word 0#2 0x101#10]
  | .vsqrt f => some [f.word 0#2 0x102#10]
  | .vexp2 f => some [f.word 0#2 0x103#10]
  | .vlog2 f => some [f.word 0#2 0x104#10]
  | .vsin f => some [f.word 0#2 0x105#10]
  | .vcos f => some [f.word 0#2 0x106#10]
  | .vtanh f => some [f.word 0#2 0x107#10]
  | .vcvt f => some [f.word 0#2 0x110#10]
  | .vcvtb f => some [f.word 0#2 0x111#10]
  | .vpack f => some [f.word 0#2 0x112#10]
  | .vunpack f => some [f.word 0#2 0x113#10]
  | .pand f => some [f.word 0#2 0x140#10]
  | .por f => some [f.word 0#2 0x141#10]
  | .pxor f => some [f.word 0#2 0x142#10]
  | .pnot f => some [f.word 0#2 0x143#10]
  | .pmov f => some [f.word 0#2 0x144#10]
  | .pfrom f => some [f.word 0#2 0x145#10]
  | .pto f => some [f.word 0#2 0x146#10]
  | .pany f => some [f.word 0#2 0x147#10]
  | .pall f => some [f.word 0#2 0x148#10]
  | .shfl f => some [f.word 0#2 0x160#10]
  | .vote f => some [f.word 0#2 0x161#10]
  | .matchLanes f => some [f.word 0#2 0x162#10]
  | .vred f => some [f.word 0#2 0x163#10]
  | .vscan f => some [f.word 0#2 0x164#10]
  | .bcast f => some [f.word 0#2 0x165#10]
  | .vcomp f => some [f.word 0#2 0x166#10]
  | .gfence f => some [f.word 0#2 0x167#10]
  | .qcnt f => some [f.word 0#2 0x170#10]
  | .qroom f => some [f.word 0#2 0x171#10]
  | .qdrain f => some [f.word 0#2 0x172#10]
  | .lds f => some [f.word 0#2 0x1C0#10]
  | .sts f => some [f.word 0#2 0x1C1#10]
  | .ld f => some [f.word 0#2 0x1C2#10]
  | .st f => some [f.word 0#2 0x1C3#10]
  | .ldl f => some [f.word 0#2 0x1C4#10]
  | .stl f => some [f.word 0#2 0x1C5#10]
  | .ldq f => some [f.word 0#2 0x1C6#10]
  | .stc f => some [f.word 0#2 0x1C7#10]
  | .ldx f => some [f.word 0#2 0x1C8#10]
  | .pref f => some [f.word 0#2 0x1C9#10]
  | .cctl f => some [f.word 0#2 0x1CA#10]
  | .atom f => some [f.word 0#2 0x1D0#10]
  | .red f => some [f.word 0#2 0x1D1#10]
  | .cas f => some [f.word 0#2 0x1D2#10]
  | .fence f => some [f.word 0#2 0x1D8#10]
  | .fencex f => some [f.word 0#2 0x1D9#10]
  | .waitcnt f => some [f.word 0#2 0x1DA#10]
  | .tlook f => some [f.word 0#2 0x1E0#10]
  | .tset f => some [f.word 0#2 0x1E1#10]
  | .tclr f => some [f.word 0#2 0x1E2#10]
  | .binit f => some [f.word 0#2 0x200#10]
  | .barr f => some [f.word 0#2 0x201#10]
  | .barrx f => some [f.word 0#2 0x202#10]
  | .bwait f => some [f.word 0#2 0x203#10]
  | .btest f => some [f.word 0#2 0x204#10]
  | .bwatch f => some [f.word 0#2 0x205#10]
  | .gdef w => some (w.words 0x240#10)
  | .gld w => some (w.words 0x241#10)
  | .gst w => some (w.words 0x242#10)
  | .gmov w => some (w.words 0x243#10)
  | .gchain w => some (w.words 0x244#10)
  | .gpart w => some (w.words 0x245#10)
  | .gtran w => some (w.words 0x246#10)
  | .gflat w => some (w.words 0x247#10)
  | .gslice w => some (w.words 0x248#10)
  | .gswz w => some (w.words 0x249#10)
  | .gchk w => some (w.words 0x24A#10)
  | .gbank w => some (w.words 0x24B#10)
  | .mma w => some (w.words 0x280#10)
  | .mmad w => some (w.words 0x281#10)
  | .mmsp w => some (w.words 0x282#10)
  | .fbset w => some (w.words 0x288#10)
  | .aczero w => some (w.words 0x289#10)
  | .acld w => some (w.words 0x28A#10)
  | .acst w => some (w.words 0x28B#10)
  | .acrd w => some (w.words 0x28C#10)
  | .acwr w => some (w.words 0x28D#10)
  | .acmax w => some (w.words 0x28E#10)
  | .cpy w => some (w.words 0x2C0#10)
  | .cpyg w => some (w.words 0x2C1#10)
  | .cpys w => some (w.words 0x2C2#10)
  | .cpyz w => some (w.words 0x2C3#10)
  | .cpym w => some (w.words 0x2C4#10)
  | .psel w => some (w.words 0x2C8#10)
  | .cpyr w => some (w.words 0x2D0#10)
  | .strep w => some (w.words 0x2D1#10)
  | .fcoll w => some (w.words 0x2D2#10)
  | .spawn w => some (w.words 0x300#10)
  | .spawnj w => some (w.words 0x301#10)
  | .jdec f => some [f.word 0#2 0x302#10]
  | .launch w => some (w.words 0x303#10)
  | .tget f => some [f.word 0#2 0x310#10]
  | .eget f => some [f.word 0#2 0x311#10]
  | .epost f => some [f.word 0#2 0x312#10]
  | .srd f => some [f.word 0#2 0x340#10]
  | .swr f => some [f.word 0#2 0x341#10]
  | .tlbi f => some [f.word 0#2 0x342#10]
  | .trace f => some [f.word 0#2 0x348#10]
  | .tmark f => some [f.word 0#2 0x349#10]
  | .perf f => some [f.word 0#2 0x34A#10]
  | .literalFrame l => some [l.word]
  | .pairFrame h0 h1 => some [2#2 ++ h0.bits ++ h1.bits]
  | .haltArrival .. => none
  | .idleCycle .. => none
  | .yieldWindowEnd .. => none
  | .sleepWake .. => none
  | .bwaitPromWake .. => none
  | .bwaitComplete .. => none
  | .throttleDecay .. => none
  | .throttleWindow .. => none
  | .bankServe .. => none
  | .loadResponse .. => none
  | .storePerformed .. => none
  | .atomicResponse .. => none
  | .matrixPassStart .. => none
  | .matrixPassComplete .. => none
  | .commandStart .. => none
  | .engineByteSubtract .. => none
  | .commandComplete .. => none
  | .tileTaskReplay .. => none
  | .pselComplete .. => none
  | .watchRead .. => none
  | .pairMessageArrive .. => none
  | .buddyRequestArrive .. => none
  | .pageWalk .. => none
  | .itemQueueEnter .. => none
  | .couplerCycle .. => none
  | .couplerIdleTimeout .. => none
  | .clusterAdmit .. => none
  | .groupRetire .. => none
  | .swapOut .. => none
  | .contextSave .. => none
  | .faultRecordDeferred .. => none
  | .pagePresentResume .. => none
  | .restore .. => none
  | .watchdogExpiry .. => none
  | .saveBudgetExpiry .. => none
  | .poisonRead .. => none
  | .distributorStep .. => none
  | .launchRead .. => none
  | .launchComplete .. => none
  | .energyWindowStart .. => none
  | .regionActivate .. => none
  | .regionDeactivate .. => none
  | .circuitReady .. => none
  | .faultResume .. => none
  | .faultDomainReset .. => none
  | .preemptStop .. => none
  | .preemptResume .. => none
  | .stepEnd .. => none
  | .hostRequestTimeout .. => none
  | .portFailure .. => none
  | .attestComplete .. => none
  | .packageReset .. => none
  | .exportWait .. => none
  | .fabricRetransmit .. => none
  | .reservedOpcode w => some [w]
  | .droopStretch .. => none
  | .eccError .. => none
  | .dieFail .. => none
  | .wavelengthFail .. => none
  | .energyCharge .. => none
  | .powerMeasure .. => none
  | .ctabWrite .. => none
  | .debugAttach .. => none
  | .debugDetach .. => none
  | .debugStop .. => none
  | .debugHold .. => none
  | .debugRelease .. => none
  | .debugStep .. => none
  | .pushWindowWrite .. => none
  | .hostRead .. => none
  | .hostWrite .. => none
  | .hostAtomic .. => none
  | .heartbeatWrite .. => none
  | .attestGo .. => none
  | .firmwareImageUpload .. => none
  | .registerWrite .. => none
  | .fabricRequestArrive .. => none
  | .fabricResponse .. => none
  | .fabricRefusal .. => none
  | .flitReplay .. => none
  | .censusFlit .. => none
  | .linkRetrain .. => none
  | .portEnable .. => none
  | .syncFlit .. => none
  | .correlationPacket .. => none
  | .collResultArrive .. => none
  | .collLineResend .. => none
  | .hostLinkDown .. => none
  | .hostLinkUp .. => none

/-- The bytes of a word, lowest address first (R5). -/
def wordBytes (w : W64) : List Byte :=
  [w.extractLsb' 0 8, w.extractLsb' 8 8, w.extractLsb' 16 8, w.extractLsb' 24 8, w.extractLsb' 32 8, w.extractLsb' 40 8,
   w.extractLsb' 48 8, w.extractLsb' 56 8]

/-- The bytes of an instruction as memory holds them. -/
def encodeBytes (i : Instr) : Option (List Byte) := (encode i).map (fun ws => (ws.map wordBytes).flatten)

/-- The words of an opcode-table word: bit 0 of `w` is bit 0 of the first word; bits above `nbits` are zero, up to two
words. -/
def tableWords (nbits w : Nat) : List W64 :=
  let x := w % 2 ^ nbits
  [BitVec.ofNat 64 x, BitVec.ofNat 64 (x / 2 ^ 64)]

/-- The bytes of an opcode-table word as the hardware stores them. -/
def tableBytes (nbits w : Nat) : List Byte := ((tableWords nbits w).map wordBytes).flatten

/-- The instruction the decoder reads from an opcode-table word. -/
def decodeTableWord (nbits w : Nat) : Option Instr :=
  match decode (tableBytes nbits w) with
  | .ok (i, _) => some i
  | .error _ => none

end Sys2Proof
end

