-- ==== Sys2Proof/Machine/Fetch.lean ====
section
/-!
DEFINITION. Instruction fetch (spec 02_encoding.md R38 to R41; 17_package_faults.md R391).
-/
namespace Sys2Proof.Machine

/-- The trap of a fetch that failed (R40): the failing word's address and the reason; `sys.epc` is the frame's PC. -/
def fetchTrap (e : Env) (va : W64) (reason : Nat) : Stop :=
  .trap { cause := 0x08, aux0 := va, aux1 := BitVec.ofNat 64 reason, epc := e.path.pc, fpc := none } none

/-- The memory that a slice's instructions are fetched from (R41): as it was when the workgroup's launch was accepted, which no
store since has changed. An item group, whose records name no launch, fetches from memory as it is
(notes/assumptions/13.md). -/
def State.codeMem (s : State) (e : Env) : Memory :=
  match e.w.launch.bind (fun id => s.launches.find? (fun l => l.id == id)) with
  | some l => l.code
  | none => s.mem

/-- The 8 bytes of one instruction word, or why they cannot be had (R39, R40): a page that is not present but host-backed
is resolved by the part, a walk is waited for. A word in a peer's window, whose fetch the spec does not give, raises reason 1 even
where the leaf is executable (DESIGN CHOICE, notes/assumptions/112.md). -/
def fetchWord (s : State) (e : Env) (pc : Va) : Except Stop (List Byte) :=
  let va : W64 := pc.setWidth 64
  if pc.getLsbD 55 then .error (fetchTrap e va 3)
  else match e.xlate s va .load with
    | .miss w => .error (.hold .walk [w] none)
    | .bad c a => if c = 0x10 then .error (.pages [a]) else .error (fetchTrap e va 1)
    | .place _ =>
      match e.xlate s va .fetch with
      | .place (.mem a) => if s.poisoned a then .error (.poison va) else .ok ((s.codeMem e).readBytes a 8)
      | .place (.host a) => (match hostReady va (.host a) s with
        | .ok _ => .ok ((s.codeMem e).readBytes a 8)
        | .error x => .error x)
      | .place _ => .error (fetchTrap e va 1)
      | _ => .error (fetchTrap e va 2)

/-- The decode conditions that the first word of a W frame meets by itself (R59): the static check with a second word that asks nothing,
an instruction illegal in this slice, the registers that the first word names, an odd tile of a pair. -/
def wordConds (e : Env) (sp : WSpec) (w : WFrame) (xOnly : Bool := false) (extra : List Cond := []) : List Cond :=
  let lit := w.f.flags.getLsbD 0
  let named (p : Pos) (push : Bool) (code : BitVec 8) : List Cond := if p.accepts.isEmpty then [] else regConds e p push code
  (if w.f.ok { sp.f with flags := sp.f.flags ||| 1 } lit && (!lit || (w.f.srcB == 0 && sp.litOk)) then [] else [{ cause := 0x02 }]) ++
  (if xOnly && e.cur.a then [{ cause := 0x04 }] else []) ++ extra ++
  named sp.f.dst true w.f.dst ++ named sp.f.a false w.f.srcA ++ (if lit then [] else named sp.f.b false w.f.srcB) ++
  named sp.f.c false w.f.srcC

/-- The conditions of the first word of an instruction of two words, whose second word is given as zeros. -/
def firstWord (e : Env) : Instr → List Cond
  | .gdef w => wordConds e (specGdef w) w
  | .gld w => wordConds e (specGldst w false) w
  | .gst w => wordConds e (specGldst w true) w
  | .gmov w => wordConds e specGmov w
  | .gchain w => wordConds e specGchain w
  | .gpart w => wordConds e specGpart w
  | .gtran w => wordConds e (specGtran w) w
  | .gflat w => wordConds e specGflat w
  | .gslice w => wordConds e specGpart w
  | .gswz w => wordConds e (specGswz w) w
  | .gchk w => wordConds e specGchk w
  | .gbank w => wordConds e specGbank w
  | .mma w => wordConds e (specMma w false) w true (pairCond e w.f.dst (mmType w == some 7))
  | .mmad w => wordConds e (specMmad w) w true (pairCond e w.f.dst (mmType w == some 7))
  | .mmsp w => wordConds e (specMma w true) w true (pairCond e w.f.dst (mmType w == some 7))
  | .fbset w => wordConds e (specFbset w) w true
  | .aczero w => wordConds e (specAczero w) w true (pairCond e w.f.dst (cellTyOf w).wide)
  | .acld w => wordConds e (specAcmove w) w true (pairCond e w.f.dst (cellTyOf w).wide)
  | .acst w => wordConds e (specAcmove w) w true (pairCond e w.f.dst (cellTyOf w).wide)
  | .acrd w => wordConds e (specAcrd w) w true (pairCond e w.f.srcA (cellTyOf w).wide)
  | .acwr w => wordConds e (specAcwr w) w true (pairCond e w.f.dst (cellTyOf w).wide)
  | .acmax w => wordConds e (specAcmax w) w true (pairCond e w.f.srcB (cellTyOf w).wide)
  | .cpy w => wordConds e (specCpy w) w
  | .cpyg w => wordConds e (specCpyg w) w
  | .cpys w => wordConds e (specCpyg w) w
  | .cpyz w => wordConds e (specCpyz w) w
  | .cpym w => wordConds e (specCpy w) w
  | .psel w => wordConds e (specPsel { w with imm := 512 }) w false (if onGCluster e.g.core then [] else [{ cause := 0x04 }])
  | .cpyr w => wordConds e (specCpyr w) w
  | .strep w => wordConds e (specStrep w) w
  | .fcoll w => wordConds e (specFcoll w) w
  | .spawn w => wordConds e specSpawn w
  | .spawnj w => wordConds e specSpawnj w
  | .launch w => wordConds e specLaunch w
  | _ => []

/-- Why a frame whose second word cannot be had does not run: a lower cause of its first word comes before the fetch's own (R59). -/
def secondWordStop (e : Env) (b0 : List Byte) (x : Stop) : Stop :=
  match x with
  | .hold _ _ _ => x
  | .poison _ => x
  | _ =>
    match decode (b0 ++ List.replicate 8 0) with
    | .ok (i, _) => (match lowest (firstWord e i) with
      | some c => if c.cause < 0x08 then
          .trap { cause := c.cause, aux0 := c.aux0, aux1 := c.aux1, epc := e.path.pc, fpc := none } none
        else x
      | none => x)
    | .error _ => x

/-- The instruction at the issuing slot's PC (R38): a second word is fetched for a W frame. A misaligned PC, which only a
handler PC can bring about, raises 0x07 at itself. -/
def fetch (s : State) (e : Env) : Except Stop Instr :=
  if e.path.pc.toNat % 8 ≠ 0 then
    .error (.trap { cause := 0x07, aux0 := e.path.pc.setWidth 64, aux1 := 0, epc := e.path.pc, fpc := none } none)
  else
    match fetchWord s e e.path.pc with
    | .error x => .error x
    | .ok b0 =>
      match decode b0 with
      | .ok (i, _) => .ok i
      | .error _ =>
        match fetchWord s e (e.path.pc + 8) with
        | .error x => .error (secondWordStop e b0 x)
        | .ok b1 =>
          match decode (b0 ++ b1) with
          | .ok (i, _) => .ok i
          | .error _ => .error (.fault .noIssuer)

/-- The hardware breakpoint that a slot about to issue at its PC meets (R407), unless it was skipped once. -/
def State.breakpoint (s : State) (e : Env) : Option Nat :=
  if e.sl.bpSkip = some (e.cur.slot1, e.path.pc) then none
  else (List.range 4).find? (fun i =>
    match s.pkg.bps[i]? with
    | some b => b.en && b.pc == e.path.pc && b.region.toNat == e.w.region
    | none => false)

end Sys2Proof.Machine
end

