-- ==== Sys2Proof/Machine/Sched.lean ====
section
/-!
DEFINITION. What a step does: an input, an arrival or a wake, an issue, a due event of the part, or the passing of time (spec
01_group.md R19; 05_group_float_lanes.md R139; 06_core.md R147, R165; 16_package_work.md R357, R358; 18_debug.md R401, R404, R407). Where the spec leaves an order among events
open, `State.dueEvent` names one; `inputs` can name any other first (notes/assumptions/43.md).
-/
namespace Sys2Proof.Machine

/-! ### Inputs -/

/-- Is it an event, and no instruction? -/
def isEvent (i : Instr) : Bool :=
  match i with
  | .haltArrival _ _ _ => true
  | .idleCycle _ _ => true
  | .yieldWindowEnd _ _ => true
  | .sleepWake _ _ => true
  | .bwaitPromWake _ _ => true
  | .bwaitComplete _ _ _ => true
  | .throttleDecay _ => true
  | .throttleWindow _ => true
  | .bankServe _ _ => true
  | .loadResponse _ _ => true
  | .storePerformed _ _ => true
  | .atomicResponse _ _ => true
  | .matrixPassStart _ _ => true
  | .matrixPassComplete _ _ => true
  | .commandStart _ => true
  | .engineByteSubtract _ _ => true
  | .commandComplete _ => true
  | .tileTaskReplay _ => true
  | .pselComplete _ => true
  | .watchRead _ => true
  | .pairMessageArrive _ => true
  | .buddyRequestArrive _ _ => true
  | .pageWalk _ => true
  | .itemQueueEnter _ => true
  | .couplerCycle _ => true
  | .couplerIdleTimeout _ => true
  | .clusterAdmit _ => true
  | .groupRetire _ => true
  | .swapOut _ => true
  | .contextSave _ => true
  | .faultRecordDeferred _ => true
  | .pagePresentResume _ => true
  | .restore _ => true
  | .watchdogExpiry _ => true
  | .saveBudgetExpiry _ => true
  | .poisonRead _ => true
  | .distributorStep => true
  | .launchRead _ => true
  | .launchComplete _ => true
  | .energyWindowStart _ => true
  | .regionActivate _ => true
  | .regionDeactivate _ => true
  | .circuitReady => true
  | .faultResume _ _ => true
  | .faultDomainReset _ _ => true
  | .preemptStop _ => true
  | .preemptResume _ => true
  | .stepEnd _ => true
  | .hostRequestTimeout _ => true
  | .portFailure _ => true
  | .attestComplete => true
  | .packageReset => true
  | .exportWait _ => true
  | .fabricRetransmit _ => true
  | .fabricRequestArrive _ => true
  | .fabricResponse _ _ => true
  | .fabricRefusal _ _ => true
  | .collLineResend _ _ => true
  | .droopStretch _ => true
  | .eccError _ _ _ _ => true
  | .dieFail _ => true
  | .wavelengthFail _ => true
  | .energyCharge _ _ _ => true
  | .powerMeasure _ => true
  | .ctabWrite _ _ => true
  | .debugAttach _ => true
  | .debugDetach _ => true
  | .debugStop _ => true
  | .debugHold _ => true
  | .debugRelease _ => true
  | .debugStep _ _ => true
  | .pushWindowWrite _ _ _ => true
  | .hostRead _ _ _ _ => true
  | .hostWrite _ _ _ => true
  | .hostAtomic _ _ _ _ _ _ => true
  | .heartbeatWrite _ => true
  | .attestGo _ => true
  | .firmwareImageUpload _ => true
  | .registerWrite _ _ _ => true
  | .flitReplay _ => true
  | .censusFlit _ _ _ => true
  | .linkRetrain _ _ _ _ => true
  | .portEnable _ _ _ => true
  | .syncFlit _ => true
  | .correlationPacket _ _ _ _ _ _ _ => true
  | .collResultArrive _ _ _ _ => true
  | .hostLinkDown _ => true
  | .hostLinkUp _ => true
  | _ => false

/-! ### Issue (R19, R147, R407) -/

/-- The traps that a slot raises before it issues: a due 0x53, a due 0x48, a hardware breakpoint. In handler mode the first two are
double faults (R143); under a halt they stay due (R90, R166). That 0x53 comes before 0x48 is the model's choice
(notes/assumptions/119.md). -/
def State.earlyTrap (s : State) (e : Env) : Option State :=
  let t (cause : BitVec 8) (d : Due48) : TrapInfo := { cause := cause, aux0 := d.aux0, aux1 := d.aux1, epc := e.path.pc, fpc := none }
  let taken (f : Slice → Slice) : State := if e.muted then s else s.modSlice e.cur.grp e.cur.a f
  match e.sl.due53, e.sl.due48 with
  | some d, _ => some ((taken (fun sl => { sl with due53 := none })).takeTrap e (t 0x53 d))
  | none, some d => some ((taken (fun sl => { sl with due48 := none })).takeTrap e (t 0x48 d))
  | none, none => (s.breakpoint e).map (fun i =>
      s.takeTrap e (t 0x51 { aux0 := BitVec.ofNat 64 (1 + i), aux1 := 0 }))

/-- Try to issue the chosen slot: its instruction is fetched and run. -/
def State.tryIssue (s : State) : Host.Outcome State Fault Refusal :=
  match s.env? with
  | none => .next s
  | some e =>
    match s.earlyTrap e with
    | some t => .next t
    | none =>
      match fetch s e with
      | .ok i => exec i s
      | .error x => issue [] (fun _ _ => .error x) s

/-- Is the slot held after the attempt? -/
def State.heldAt (s : State) (c : Cursor) : Bool :=
  match s.slice? c.grp c.a with
  | some sl => (sl.hold c.slot1).isSome
  | none => false

/-- What trying slots gives: one has issued or stopped, or all are held, with what their attempts left behind. -/
inductive Tried where
  | done (c : Cursor) (o : Host.Outcome State Fault Refusal)
  | held (s : State)

/-- Try slots in turn until one issues. -/
def State.tryCursors (s : State) : List Cursor → Tried
  | [] => .held s
  | c :: l =>
    match { s with cur := some c }.tryIssue with
    | .next t => if t.heldAt c then { t with cur := none }.tryCursors l else .done c (.next { t with cur := none })
    | o => .done c o

/-- The slots of a slice that may be tried, in the order of R19. In a single step a group issues once (R408). -/
def State.cursorsOf (s : State) (x : Group × Bool × Slice) : List Cursor :=
  let (g, a, sl) := x
  let spent := (match s.wg? g.wg with | some w => w.stepping | none => false) &&
    (g.x.stepped || (match g.a with | some y => y.stepped | none => false))
  if spent then []
  else ([!sl.last1, sl.last1].filter sl.mayTry).map (fun one => { grp := g.id, a := a, slot1 := one })

/-- Try the slices of a subcore in turn. -/
def State.trySlices (s : State) : List (Group × Bool × Slice) → Tried
  | [] => .held s
  | x :: l =>
    match s.tryCursors (s.cursorsOf x) with
    | .done c o => .done c o
    | .held t => t.trySlices l

/-- Mark a slot as an attempt now would: held, and by what, or ready (R18). A throttled slot has waited in its window (R150). -/
def State.probeSlot (s : State) (c : Cursor) : State :=
  let mark := match { s with cur := some c }.tryIssue with
    | .next t => (t.slice? c.grp c.a).bind (fun sl => sl.hold c.slot1)
    | _ => none
  let s1 := s.modSlice c.grp c.a (fun sl => sl.setHold c.slot1 mark)
  match mark, s.group? c.grp with
  | some .throttled, some g => s1.modCore g.core (fun k => k.waits g.coreNo)
  | _, _ => s1

/-- Bring the marks of a core's slots up to date. -/
def State.probe (s : State) (core : Nat) : State :=
  ((s.groupsOn core).flatMap (fun g => (g.slices.filter (fun x => x.2.2.going)).flatMap s.cursorsOf)).foldl
    (fun s c => s.probeSlot c) s

/-- A slice in its skid stops after 16 issues, and where no slot is ready (R165). -/
def Slice.capSkid (sl : Slice) : Slice :=
  match sl.halt with
  | .skid n => if 16 ≤ n || !sl.anyReady then sl.stopAt n else sl
  | _ => sl

/-- End the skids of a core's slices, by the marks that `State.probe` has brought up to date. -/
def State.capSkids (s : State) (core : Nat) : State :=
  s.modSleepers (fun g => g.core == core) Slice.capSkid

/-- The slices of a subcore in the order of R147: those that `YIELD` excludes come last (R104). Of two excluded slices that are both
ready, the older issues: the model's choice (notes/assumptions/120.md). -/
def State.order (s : State) (core sub : Nat) : List (Group × Bool × Slice) :=
  let l := (s.slicesOn core sub).filter (fun x => x.2.2.going)
  let out (x : Group × Bool × Slice) : Bool := match x.2.2.yieldEnd with
    | some d => decide ((s.die (dieOf core)).dcyc < d)
    | none => false
  l.filter (fun x => !out x) ++ l.filter out

/-- Is a core's die in service? -/
def State.coreRuns (s : State) (core : Nat) : Bool :=
  let d := s.die (dieOf core)
  s.pkg.stage == 3 && d.present && !d.fenced

/-- The subcores that hold groups and have not issued in the present die cycle, as 4 × core + subcore, ascending. -/
def State.openSubs (s : State) : List Nat :=
  ((s.groups.filter (fun g => s.coreRuns g.core && !s.hasIssued g.core g.sub)).map (fun g => 4 * g.core + g.sub)).foldl insertNat []

/-- The rank of a trap that an attempt takes and that halts its running workgroup (R139): the lowest code first, then the lower
`sys.grp`, then the X-slice; none when the attempt takes none. -/
def State.trapRank (s : State) (c : Cursor) (t : State) : Option Nat :=
  match { s with cur := some c }.env?, t.slice? c.grp c.a with
  | some e, some sl =>
    match t.wg? e.w.id with
    | some w =>
      if e.w.halted || !w.halted then none
      else
        let cause := match w.stop with
          | some i => (match i.reason with | .pages => 0x10 | .poison => 0 | _ => sl.cause.toNat)
          | none => sl.cause.toNat
        some (cause * 64 + e.g.num % 32 * 2 + c.a.toNat)
    | none => none
  | _, _ => none

/-- Of the traps that slices of one workgroup raise in one die cycle, the one that is taken (R139): the other subcores of the core,
of a list, are tried for a trap of a lower rank, and for a pair those of the buddy core. That the present die cycles of two dies count
as one die cycle here is the model's choice (notes/assumptions/121.md). -/
def State.firstTrap (s : State) (k : Nat) (l : List Nat) (c : Cursor) (t : State) : Tried :=
  match s.trapRank c t with
  | none => .done c (.next t)
  | some r =>
    let wg := (s.group? c.grp).map (fun g => g.wg)
    let best := (l.filter (fun j => j / 4 == k / 4 || j / 4 == buddyOf (k / 4))).foldl (fun b j =>
      match s.trySlices (s.order (j / 4) (j % 4)) with
      | .done d (.next u) =>
        (match s.trapRank d u with
          | some q => if q < b.1 ∧ (s.group? d.grp).map (fun g => g.wg) = wg then (q, d, u) else b
          | none => b)
      | _ => b) (r, c, t)
    .done best.2.1 (.next best.2.2)

/-- Try the subcores in turn. -/
def State.trySubs (s : State) : List Nat → Tried
  | [] => .held s
  | k :: l =>
    match s.trySlices (s.order (k / 4) (k % 4)) with
    | .done c (.next t) => s.firstTrap k l c t
    | .done c o => .done c o
    | .held t => t.trySubs l

/-! ### Due events -/

/-- The event that a condition makes due. -/
def dueIf (c : Bool) (i : Instr) : Option Instr := if c then some i else none

/-- The first of some events that is due. -/
def firstOf : List (Unit → Option Instr) → Option Instr
  | [] => none
  | f :: l => match f () with
    | some i => some i
    | none => firstOf l

/-- The cores. -/
def coreList : List Nat := List.range 512

/-- Events of a slice: its exclusion ends, its sleep or its wait is over. -/
def State.sliceDue (s : State) (g : Group) (a : Bool) (sl : Slice) : Option Instr :=
  let d := s.die (dieOf g.core)
  let ptb := s.ptb (dieOf g.core)
  let slept := match sl.sleep with | some t => decide (t.toNat ≤ ptb) | none => false
  let isOver (one : Bool) : Bool := match sl.wait one with
    | some w => sl.runs one && !w.asleep && s.phaseOf w.obj != w.bit
    | none => false
  firstOf [
    fun _ => dueIf (match sl.yieldEnd with | some c => decide (c ≤ d.dcyc) | none => false) (.yieldWindowEnd g.id a),
    fun _ => dueIf (slept && sl.runs sl.last1 && sl.promSlot.isNone) (.sleepWake g.id a),
    fun _ => dueIf (slept && (match sl.promSlot with | some x => sl.runs x.1 | none => false)) (.bwaitPromWake g.id a),
    fun _ => dueIf (isOver false) (.bwaitComplete g.id a false),
    fun _ => dueIf (isOver true) (.bwaitComplete g.id a true)]

/-- What comes before the issues of a die cycle: halts that arrive (R165), and slices whose exclusion, sleep or wait is over. -/
def State.earlyDue (s : State) : Option Instr :=
  if s.pkg.stage = 3 then
    firstOf [
      fun _ => (s.halts.find? (fun h => decide (h.due ≤ (s.die (dieOf h.core)).dcyc) && (s.wg? h.wg).isSome)).map (fun h =>
        Instr.haltArrival h.wg h.core h.sub),
      fun _ => s.groups.findSome? (fun g =>
        if s.coreRuns g.core then g.slices.findSome? (fun x => s.sliceDue g x.2.1 x.2.2) else none)]
  else none

/-- The retirement of a group. -/
def State.groupDue (s : State) (g : Group) : Option Instr :=
  dueIf (s.coreRuns g.core && s.groupDone g && (s.wg? g.wg).isSome) (.groupRetire g.id)

/-- Can an outstanding access go on: something of it can be performed or sent, or it is complete? -/
def State.pendDue (s : State) (core : Nat) (p : Pending) : Bool :=
  let out := p.accs.filter (fun a => !a.arrived && (match a.place with | .fabric _ _ => true | _ => false))
  let send := !out.isEmpty && out.all (fun a => (s.core core).mayPerform p a) &&
    (peerLines out).all (fun x => decide (s.fabric.unanswered (BitVec.ofNat 12 x.1) < 4096))
  p.refused.isNone && p.kind != .expand &&
  (send || (s.deadPort p).isSome || !(s.readyAt core p).isEmpty || (p.accs.all (fun a => a.done) && p.kind != .stage))

/-- The event that carries an outstanding access on. -/
def Pending.event (p : Pending) (core : Nat) : Instr :=
  match p.kind with
  | .store => .storePerformed core p.id
  | .atomic _ _ _ ret => if ret then .atomicResponse core p.id else .storePerformed core p.id
  | _ => .loadResponse core p.id

/-- Are all the answers to an access's requests in? -/
def State.answersIn (s : State) (core id : Nat) : Bool :=
  s.fabric.outs.all (fun o => match o.owner with | .access c p _ => !(c == core && p == id) | _ => true)

/-- Is a refused access still to be reported? -/
def State.refusalDue (s : State) (core : Nat) (p : Pending) : Bool :=
  match p.refused, s.pendOwner p with
  | some (_, _, r), some (_, w) =>
    r != 0 && s.answersIn core p.id && (w.phase == .running || w.unreported || (p.kind == .store && p.accs.any (fun a => !a.done)))
  | _, _ => false

/-- Events of a core's memory: requests that cross to the buddy, bank service, responses, refusals. -/
def State.memoryDue (s : State) (core : Nat) : Option Instr :=
  let k := s.core core
  if k.pend.isEmpty && k.bankq.isEmpty then none
  else
    firstOf [
      fun _ => (k.pend.find? (fun p => p.accs.any LaneAcc.travels)).map (fun p => Instr.buddyRequestArrive core p.id),
      fun _ => (k.bankq.find? (fun r => r.entered && !k.served.contains r.bank && k.bankHead r.bank == some r && s.bankReady r)).map
        (fun r => Instr.bankServe core r.bank),
      fun _ => (k.pend.find? (s.pendDue core)).map (fun p => p.event core),
      fun _ => (k.pend.find? (s.refusalDue core)).map (fun p => Instr.fabricRefusal core p.id)]

/-- Events of a matrix unit. -/
def State.matrixDue (s : State) (core : Nat) : Option Instr :=
  (List.range 4).findSome? (fun sub =>
    let u := (s.core core).sub sub
    match u.running, u.waiting with
    | some (p, d), _ => dueIf (decide (d ≤ (s.die (dieOf core)).dcyc) && !s.passBehind p) (.matrixPassComplete core sub)
    | none, p :: _ => dueIf (!(p.fences.any (s.pointOpen core sub))) (.matrixPassStart core sub)
    | none, [] => none)

/-- Events of the locality throttle. -/
def State.throttleDue (s : State) (core : Nat) : Option Instr :=
  let c := (s.die (dieOf core)).dcyc
  let k := s.core core
  if c % 1024 ≠ 0 then none
  else if c % 4096 = 0 ∧ k.decayAt ≠ c then some (.throttleDecay core)
  else dueIf (k.windowAt != c) (.throttleWindow core)

/-- The elements that an engine moves in one event when no input says otherwise. -/
def chunk : Nat := 256

/-- Does an event change an engine's command? -/
def State.engineMoves (s : State) (i : EngineId) (o : Host.Outcome State Fault Refusal) : Bool :=
  (after s o).engine i != s.engine i

/-- Events of an engine: a poisoned line, a start, a chunk, the completion. -/
def State.engineDue (s : State) (i : EngineId) : Option Instr :=
  let q := s.engine i
  if !s.engineOk i then none
  else match q.running with
    | none => if q.prio.isEmpty && q.normal.isEmpty then none else dueIf (s.pickCmd i).isSome (.commandStart i)
    | some c =>
      if (s.poisonVa c).isSome && !s.faultFull c.region then some (.poisonRead i)
      else match c.kind, i with
        | .psel, .psel n => dueIf (s.engineMoves i (execPselComplete n s)) (.pselComplete n)
        | .fcoll _ _, _ =>
          firstOf [
            fun _ => ((List.range 48).find? (fun p => s.engineMoves i (execCollLineResend (engineDie i) p s))).map (fun p =>
              Instr.collLineResend (engineDie i) p),
            fun _ => dueIf (s.engineMoves i (execCommandComplete i s)) (.commandComplete i)]
        | _, _ =>
          if !c.allMoved then dueIf (s.engineMoves i (execEngineByteSubtract i chunk s)) (.engineByteSubtract i chunk)
          else dueIf (s.engineMoves i (execCommandComplete i s)) (.commandComplete i)

/-- Can the unit of a stopped workgroup be saved, or be held in place for the first time? -/
def State.saveDue (s : State) (w : Wg) : Bool :=
  let l := s.unitOf w
  w.stop.isSome && !l.isEmpty && l.all s.drained && !l.any (fun v => v.phase == .heldInPlace true) &&
  decide (recordsOf l ≤ s.faultFree w.region) && ((s.saveAll l).isSome || l.any (fun v => v.phase == .draining))

/-- Events of a workgroup: the end of a step, its save, its watchdog, its save's budget. -/
def State.wgDue (s : State) (w : Wg) : Option Instr :=
  let period := s.rcbOwned 9 w.region 1088 64
  let now := s.ptb (dieOf w.core)
  let budget := if period = 0 then 100000 else period
  if s.stepOver w then some (.stepEnd w.id)
  else match w.stop with
    | some i =>
      if s.saveDue w then some (if i.reason = .preempt then .contextSave w.id else .swapOut w.id)
      else dueIf (w.phase == .draining && decide (i.since + budget ≤ now) && !(s.unitOf w).all s.drained) (.saveBudgetExpiry w.id)
    | none =>
      dueIf (decide (0 < period) && w.phase == .running && decide (w.progress + period ≤ now) && (s.lowestSlice w).isSome)
        (.watchdogExpiry w.id)

/-- Events of a cluster: the coupler, the item queue, an admission. -/
def State.clusterDue (s : State) (i : Nat) : Option Instr :=
  let c := s.cluster i
  let now := (s.die (i / 8)).dcyc
  if !s.clusterOk i then none
  else if c.opened.any (fun g => decide (256 ≤ g.idle)) then some (.couplerIdleTimeout i)
  else if c.packAt != now && !(c.itemq.isEmpty && c.opened.isEmpty) then some (.couplerCycle i)
  else if c.enterAt != now && !(s.itemsToEnter i).isEmpty then some (.itemQueueEnter i)
  else if c.tryAdmit then
    (match s.tryAdmit i with
      | some (true, _) => some (.restore i)
      | _ => some (.clusterAdmit i))
  else none

/-- Does the distributor's step hand something out? -/
def State.handsOut (s : State) : Bool :=
  if s.round.isEmpty then false
  else
    let t := after s (execDistributorStep s)
    t.pkg.lastSet != s.pkg.lastSet || t.launches != s.launches

/-- Has the energy window of a region passed (R363)? -/
def State.windowDue (s : State) (x : Region) : Bool := s.owns 5 x.num && decide (s.rcb x.num 384 64 + x.win ≤ s.ptb0)

/-- Events of a region. -/
def State.regionDue (s : State) (x : Region) : Option Instr :=
  let r := x.num
  let read := after s (execLaunchRead r s)
  if (!x.deferred.isEmpty || (s.unrecorded r).isSome) && !s.faultFull r then some (.faultRecordDeferred r)
  else if s.rcb r 784 16 = s.rcb r 800 16 then none
  else dueIf (read.rcb r 784 16 != s.rcb r 784 16 || read.regions != s.regions) (.launchRead r)

/-- Events of the fabric: requests and answers that stay within the package, held requests, retransmission. -/
def State.fabricDue (s : State) : Option Instr :=
  let f := s.fabric
  let asked (o : FabOut) : Bool := f.held.any (fun h => h.1.src == o.peer && h.1.seq == o.seq)
  firstOf [
    fun _ => (f.outs.filter (fun o => o.peer == f.dev)).findSome? (fun o =>
      match f.answerTo o.peer o.seq with
      | some a => some (.fabricResponse o.id a)
      | none => dueIf (!asked o && s.pkg.stage == 3) (.fabricRequestArrive o.req)),
    fun _ => (List.range f.held.length).findSome? (fun i =>
      match f.held[i]? with
      | none => none
      | some (r, t, _) =>
        let first := (f.held.take i).all (fun h => !(h.1.src == r.src && reqLine h.1 == reqLine r))
        let found := match s.exportPlace r.off.toNat (reqWrites r) with | .wait _ => false | _ => true
        dueIf (decide (t + 100000 ≤ s.time) || (first && found)) (.exportWait i)),
    fun _ => (f.outs.find? (fun o => o.peer != f.dev && decide (o.sent + 200000 ≤ s.time))).map (fun o =>
      Instr.fabricRetransmit o.id)]

/-- Events of the host ports and the controller. -/
def State.portDue (s : State) : Option Instr :=
  let late (port1 : Bool) : Bool :=
    let p := s.port port1
    !p.up && decide (p.downSince + 100000000 ≤ s.time) && (coreList.any (fun i => (s.core i).waitsFor port1) || s.pkg.heldHost.any (heldBehind port1))
  let a := s.pkg.attAddr.toNat
  firstOf [
    fun _ => dueIf (s.failureDue false) (.portFailure false),
    fun _ => dueIf (s.failureDue true) (.portFailure true),
    fun _ => dueIf (late false) (.hostRequestTimeout false),
    fun _ => dueIf (late true) (.hostRequestTimeout true),
    fun _ => dueIf (s.pkg.attBusy && (!s.hostWritable a reportLen || (s.port (bitAt a 50)).up)) .attestComplete,
    fun _ => dueIf (!s.pkg.circuits.isEmpty) .circuitReady]

/-- Is a watch due for a read (R196)? -/
def State.watchDue (s : State) (w : Watch) : Bool :=
  (s.wg? w.wg).isSome && (w.event || decide (w.next ≤ s.ptb (dieOf (s.objCore w.wg w.half1))))

/-- The first event that is due, while the part runs. -/
def State.runDue (s : State) : Option Instr :=
  firstOf [
    fun _ => (s.regions.find? s.windowDue).map (fun x => Instr.energyWindowStart x.num),
    fun _ => dueIf (decide (s.pkg.powerAt + 1000000 ≤ s.ptb0)) (.powerMeasure (s.pkg.powerAt + 1000000)),
    fun _ => s.groups.findSome? s.groupDue,
    fun _ => coreList.findSome? (fun i => if s.coreRuns i then
      firstOf [fun _ => s.throttleDue i, fun _ => s.memoryDue i, fun _ => s.matrixDue i] else none),
    fun _ => ((List.range 8).find? (fun d => !(s.die d).missq.isEmpty)).map (fun d => Instr.pageWalk d),
    fun _ => dueIf (!s.pairMsgs.isEmpty) (.pairMessageArrive 0),
    fun _ => ((List.range s.watches.length).find? (fun i =>
      match s.watches[i]? with | some w => s.watchDue w | none => false)).map (fun i => Instr.watchRead i),
    fun _ => allEngines.findSome? s.engineDue,
    fun _ => dueIf (s.wgs.any (fun w => s.groups.all (fun g => g.wg != w.id) && !s.wgBusy w)) (.groupRetire s.nextId),
    fun _ => s.wgs.findSome? s.wgDue,
    fun _ => ((s.ctxs.find? s.pagesDue).map (fun c => c.id)).or ((s.wgs.find? s.pagesDueHere).map (fun w => w.id)) |>.map
      (fun i => Instr.pagePresentResume i),
    fun _ => (List.range 64).findSome? s.clusterDue,
    fun _ => (s.launches.find? (fun l => decide (l.total ≤ l.retired) &&
      (after s (execLaunchComplete l.id s)).launches != s.launches)).map (fun l => Instr.launchComplete l.id),
    fun _ => s.regions.findSome? s.regionDue,
    fun _ => dueIf s.handsOut .distributorStep,
    fun _ => s.fabricDue,
    fun _ => s.portDue]

/-- The first event that is due: the next step of the boot before stage 3. -/
def State.dueEvent (s : State) : Option Instr :=
  if s.pkg.stage.toNat < 3 then some .packageReset else if s.pkg.stage = 3 then s.runDue else none

/-! ### Time (R313, R357, R401) -/

/-- The end of a die cycle of one core: its idle subcores are classified, skids end, offered requests enter their bank queues, and
the next cycle begins. -/
def State.coreEdge (s : State) (core : Nat) : State :=
  let s1 := (List.range 4).foldl (fun s sub => after s (execIdleCycle core sub s)) s
  let s2 := (((s1.probe core).capSkids core).modCore core (fun k =>
    { k with subs := k.subs.map (fun u => { u with issued := false }), served := [], snap := k.counters, ranges := k.rangesIn })).acceptBanks core
  s2.followCandidates core

/-- The end of a die cycle of a die. -/
def State.dieEdge (s : State) (d : Nat) : State :=
  let s1 := (List.range 64).foldl (fun s k => s.coreEdge (64 * d + k)) s
  let s2 := s1.modDie d (fun x => { x with dcyc := x.dcyc + 1, nextEdge := x.nextEdge + 8, stretch := false })
  if (s2.die d).dcyc % 64 = 0 then
    (List.range 8).foldl (fun s k => s.modCluster (8 * d + k) (fun c => { c with tryAdmit := true })) s2
  else s2

/-- The dies that run. -/
def State.runningDies (s : State) : List Nat :=
  (List.range 8).filter (fun d => let x := s.die d; x.present && !x.fenced)

/-- Time passes to the next end of a die cycle; without a running die, by one cycle's length. -/
def State.tick (s : State) : State :=
  let edges := s.runningDies.map (fun d => (s.die d).nextEdge)
  let now := match edges with
    | [] => s.time + 8
    | x :: l => max (s.time + 1) (l.foldl min x)
  let s1 : State := { s with time := now, ptbFine := s.ptbFine + (now - s.time) * (100000000 + s.rate).toNat }
  (s1.runningDies.filter (fun d => decide ((s1.die d).nextEdge ≤ now))).foldl (fun s d => s.dieEdge d) s1

/-! ### One step -/

/-- The slot of an `LDQ` whose translation has not finished when a stop at once reaches its slice: it pushes its token first
(R378). -/
def State.walkingLdq (s : State) : Option Cursor :=
  (s.halts.filter (fun h => decide (h.due ≤ (s.die (dieOf h.core)).dcyc))).findSome? (fun h =>
    match s.wg? h.wg with
    | none => none
    | some w =>
      if !w.atOnce then none
      else
        let mine := s.groups.filter (fun g => g.wg == h.wg && g.core == h.core && g.sub == h.sub)
        ((mine.flatMap (fun g => g.slices.filter (fun x => x.2.2.going))).flatMap s.cursorsOf).find? (fun c =>
          let t : State := { s with cur := some c }
          match s.slice? c.grp c.a, t.env? with
          | some sl, some e => sl.hold c.slot1 == some .walk &&
              (match fetch t e with | .ok (.ldq _) => true | _ => false) &&
              (match t.tryIssue with | .next u => !u.heldAt c | _ => false)
          | _, _ => false))

/-- One step: the next input, else the token of an `LDQ` that a halt is about to stop, an arrival or a wake, else an issue, else an
event that is due, else time passes. -/
def State.advance (s : State) : Host.Outcome State Fault Refusal :=
  match s.inputs with
  | i :: rest => if isEvent i then exec i { s with inputs := rest } else .next { s with inputs := rest }
  | [] =>
    match s.walkingLdq with
    | some c => (match { s with cur := some c }.tryIssue with
      | .next t => .next { t with cur := none }
      | o => o)
    | none =>
      match s.earlyDue with
      | some i => exec i s
      | none =>
        match s.trySubs s.openSubs with
        | .done _ o => o
        | .held t =>
          match t.dueEvent with
          | some i => exec i t
          | none => .next t.tick

end Sys2Proof.Machine
end

