-- ==== Sys2Proof/Machine/Step.lean ====
section
/-!
DEFINITION. The step, and a state that runs one given instruction next.
-/
namespace Sys2Proof.Machine

/-- One step of the package: the next input, an issue, an event that is due, or time. -/
def step (s : State) : Host.Outcome State Fault Refusal := s.advance

/-- The workgroup that `withFetchWord` makes resident: one group of one X-slice on core 0, with 64 vector registers and 16 KiB of
local store, of region 1. -/
def fetchWg (id : Nat) : Wg :=
  { id := id, launch := none, region := 1, index := 0, core := 0, pair := false, item := false, itemJoins := [], kd := 0,
    desc := BitVec.ofNat 1024 (64 * 2 ^ 32 + 64 * 2 ^ 80), member := 0, ksize := 1, setId := id, groups := 1, lsize := 64,
    lsBase := 0, lsBase1 := 0, ls0 := [], ls1 := [], tagBase := 0, tagBase1 := 0, frames := [], tags0 := [], tags1 := [],
    asn := 0, root := 0, est := 0, used := 0, window := 0, progress := 0, halted := false, handler := false,
    stepping := false, phase := .running, stop := none, corr := 0 }

/-- Its group: slot 0 is live at PC 0 with every lane. -/
def fetchGroup (id wg : Nat) : Group :=
  { id := id, wg := wg, num := 0, half1 := false, core := 0, sub := 0, slot := 0, stamp := 0,
    x := { Slice.reset with slot0 := some { pc := 0, mask := BitVec.allOnes 32, age := 0, depth := 0, parked := false },
                            ageCtr := 1, vreg := List.replicate 64 Lanes.zero },
    a := none, queues := Vector.replicate 12 Queue.reset, geom := Vector.replicate 32 0, fb := Vector.replicate 8 0,
    acc := [], frameBase := 0, itemLanes := 0 }

/-- A boot that has finished with die 0 in service, one resident group whose next instruction's bytes are those of a word of the
opcode table, and a translation of its page. It stands for a boot, a launch and an admission (notes/assumptions/44.md). -/
def State.withFetchWord (s : State) (nbits w : Nat) : State :=
  let c := s.core 0
  let t : TlbEntry := { asn := 0, vbase := 0, bits := 16, leaf := 0x1001D }
  { s with
    mem := s.mem.writeBytes 0x10000 (tableBytes nbits w), poison := [], inputs := [], cur := none, halts := [],
    wgs := [fetchWg s.nextId], groups := [fetchGroup (s.nextId + 1) s.nextId], nextId := s.nextId + 2,
    cores := s.cores.setIfInBounds 0 { c with
      tlb := t :: c.tlb, faults := [], allowed := [0], subs := c.subs.map (fun u => { u with issued := false }) },
    dies := s.dies.setIfInBounds 0 { (s.die 0) with present := true, fenced := false, nextEdge := s.time + 8 },
    pkg := { s.pkg with stage := 3, dies := s.pkg.dies ||| 1, bps := s.pkg.bps.map (fun b => { b with en := false }) } }

end Sys2Proof.Machine
end

