-- ==== Sys2Proof/Laws/PerInstr.lean ====
section
/-!
SUPPORT. The per-instruction families. `EncodedLength`: how many words the encoding of an instruction has (R38): two for a W
frame, one for every other frame, and none for an event, which has no encoding.
-/
namespace Sys2Proof.Laws

namespace EncodedLength

/-- The words that a row's frame takes (R38): the W frame's two; nothing for an event. -/
def frameWords (i : Instr) : Option Nat :=
  match i with
  | .nop .. => some 1
  | .bra .. => some 1
  | .brz .. => some 1
  | .brnz .. => some 1
  | .brx .. => some 1
  | .brd .. => some 1
  | .join .. => some 1
  | .brq .. => some 1
  | .call .. => some 1
  | .callx .. => some 1
  | .ret .. => some 1
  | .exit .. => some 1
  | .yield .. => some 1
  | .sleep .. => some 1
  | .trap .. => some 1
  | .bkpt .. => some 1
  | .eret .. => some 1
  | .sadd .. => some 1
  | .ssub .. => some 1
  | .smul .. => some 1
  | .smulh .. => some 1
  | .sand .. => some 1
  | .sor .. => some 1
  | .sxor .. => some 1
  | .snot .. => some 1
  | .sshl .. => some 1
  | .sshr .. => some 1
  | .ssra .. => some 1
  | .smin .. => some 1
  | .smax .. => some 1
  | .smov .. => some 1
  | .sli .. => some 1
  | .scmp .. => some 1
  | .ssel .. => some 1
  | .sclz .. => some 1
  | .spopc .. => some 1
  | .sbfx .. => some 1
  | .sbfi .. => some 1
  | .vadd .. => some 1
  | .vsub .. => some 1
  | .vmul .. => some 1
  | .vmulh .. => some 1
  | .vmad .. => some 1
  | .vand .. => some 1
  | .vor .. => some 1
  | .vxor .. => some 1
  | .vnot .. => some 1
  | .vshl .. => some 1
  | .vshr .. => some 1
  | .vsra .. => some 1
  | .vmin .. => some 1
  | .vmax .. => some 1
  | .vabs .. => some 1
  | .vneg .. => some 1
  | .vclz .. => some 1
  | .vpopc .. => some 1
  | .vbfx .. => some 1
  | .vbfi .. => some 1
  | .vbrev .. => some 1
  | .vsel .. => some 1
  | .vmov .. => some 1
  | .vli .. => some 1
  | .vaddc .. => some 1
  | .vsubb .. => some 1
  | .vcmp .. => some 1
  | .vidot4 .. => some 1
  | .vfadd .. => some 1
  | .vfsub .. => some 1
  | .vfmul .. => some 1
  | .vfma .. => some 1
  | .vfmin .. => some 1
  | .vfmax .. => some 1
  | .vfabs .. => some 1
  | .vfneg .. => some 1
  | .vfcmp .. => some 1
  | .vfclass .. => some 1
  | .vfround .. => some 1
  | .vfdot2 .. => some 1
  | .vfscale .. => some 1
  | .vrcp .. => some 1
  | .vrsq .. => some 1
  | .vsqrt .. => some 1
  | .vexp2 .. => some 1
  | .vlog2 .. => some 1
  | .vsin .. => some 1
  | .vcos .. => some 1
  | .vtanh .. => some 1
  | .vcvt .. => some 1
  | .vcvtb .. => some 1
  | .vpack .. => some 1
  | .vunpack .. => some 1
  | .pand .. => some 1
  | .por .. => some 1
  | .pxor .. => some 1
  | .pnot .. => some 1
  | .pmov .. => some 1
  | .pfrom .. => some 1
  | .pto .. => some 1
  | .pany .. => some 1
  | .pall .. => some 1
  | .shfl .. => some 1
  | .vote .. => some 1
  | .matchLanes .. => some 1
  | .vred .. => some 1
  | .vscan .. => some 1
  | .bcast .. => some 1
  | .vcomp .. => some 1
  | .gfence .. => some 1
  | .qcnt .. => some 1
  | .qroom .. => some 1
  | .qdrain .. => some 1
  | .lds .. => some 1
  | .sts .. => some 1
  | .ld .. => some 1
  | .st .. => some 1
  | .ldl .. => some 1
  | .stl .. => some 1
  | .ldq .. => some 1
  | .stc .. => some 1
  | .ldx .. => some 1
  | .pref .. => some 1
  | .cctl .. => some 1
  | .atom .. => some 1
  | .red .. => some 1
  | .cas .. => some 1
  | .fence .. => some 1
  | .fencex .. => some 1
  | .waitcnt .. => some 1
  | .tlook .. => some 1
  | .tset .. => some 1
  | .tclr .. => some 1
  | .binit .. => some 1
  | .barr .. => some 1
  | .barrx .. => some 1
  | .bwait .. => some 1
  | .btest .. => some 1
  | .bwatch .. => some 1
  | .gdef .. => some 2
  | .gld .. => some 2
  | .gst .. => some 2
  | .gmov .. => some 2
  | .gchain .. => some 2
  | .gpart .. => some 2
  | .gtran .. => some 2
  | .gflat .. => some 2
  | .gslice .. => some 2
  | .gswz .. => some 2
  | .gchk .. => some 2
  | .gbank .. => some 2
  | .mma .. => some 2
  | .mmad .. => some 2
  | .mmsp .. => some 2
  | .fbset .. => some 2
  | .aczero .. => some 2
  | .acld .. => some 2
  | .acst .. => some 2
  | .acrd .. => some 2
  | .acwr .. => some 2
  | .acmax .. => some 2
  | .cpy .. => some 2
  | .cpyg .. => some 2
  | .cpys .. => some 2
  | .cpyz .. => some 2
  | .cpym .. => some 2
  | .psel .. => some 2
  | .cpyr .. => some 2
  | .strep .. => some 2
  | .fcoll .. => some 2
  | .spawn .. => some 2
  | .spawnj .. => some 2
  | .jdec .. => some 1
  | .launch .. => some 2
  | .tget .. => some 1
  | .eget .. => some 1
  | .epost .. => some 1
  | .srd .. => some 1
  | .swr .. => some 1
  | .tlbi .. => some 1
  | .trace .. => some 1
  | .tmark .. => some 1
  | .perf .. => some 1
  | .literalFrame .. => some 1
  | .pairFrame .. => some 1
  | .haltArrival .. => none
  | .idleCycle .. => none
  | .yieldWindowEnd .. => none
  | .sleepWake .. => none
  | .bwaitPromWake .. => none
  | .bwaitComplete .. => none
  | .throttleDecay .. => none
  | .throttleWindow .. => none
  | .bankServe .. => none
  | .loadResponse .. => none
  | .storePerformed .. => none
  | .atomicResponse .. => none
  | .matrixPassStart .. => none
  | .matrixPassComplete .. => none
  | .commandStart .. => none
  | .engineByteSubtract .. => none
  | .commandComplete .. => none
  | .tileTaskReplay .. => none
  | .pselComplete .. => none
  | .watchRead .. => none
  | .pairMessageArrive .. => none
  | .buddyRequestArrive .. => none
  | .pageWalk .. => none
  | .itemQueueEnter .. => none
  | .couplerCycle .. => none
  | .couplerIdleTimeout .. => none
  | .clusterAdmit .. => none
  | .groupRetire .. => none
  | .swapOut .. => none
  | .contextSave .. => none
  | .faultRecordDeferred .. => none
  | .pagePresentResume .. => none
  | .restore .. => none
  | .watchdogExpiry .. => none
  | .saveBudgetExpiry .. => none
  | .poisonRead .. => none
  | .distributorStep .. => none
  | .launchRead .. => none
  | .launchComplete .. => none
  | .energyWindowStart .. => none
  | .regionActivate .. => none
  | .regionDeactivate .. => none
  | .circuitReady .. => none
  | .faultResume .. => none
  | .faultDomainReset .. => none
  | .preemptStop .. => none
  | .preemptResume .. => none
  | .stepEnd .. => none
  | .hostRequestTimeout .. => none
  | .portFailure .. => none
  | .attestComplete .. => none
  | .packageReset .. => none
  | .exportWait .. => none
  | .fabricRetransmit .. => none
  | .reservedOpcode .. => some 1
  | .fabricRequestArrive .. => none
  | .fabricResponse .. => none
  | .fabricRefusal .. => none
  | .collLineResend .. => none
  | .droopStretch .. => none
  | .eccError .. => none
  | .dieFail .. => none
  | .wavelengthFail .. => none
  | .energyCharge .. => none
  | .powerMeasure .. => none
  | .ctabWrite .. => none
  | .debugAttach .. => none
  | .debugDetach .. => none
  | .debugStop .. => none
  | .debugHold .. => none
  | .debugRelease .. => none
  | .debugStep .. => none
  | .pushWindowWrite .. => none
  | .hostRead .. => none
  | .hostWrite .. => none
  | .hostAtomic .. => none
  | .heartbeatWrite .. => none
  | .attestGo .. => none
  | .firmwareImageUpload .. => none
  | .registerWrite .. => none
  | .flitReplay .. => none
  | .censusFlit .. => none
  | .linkRetrain .. => none
  | .portEnable .. => none
  | .syncFlit .. => none
  | .correlationPacket .. => none
  | .collResultArrive .. => none
  | .hostLinkDown .. => none
  | .hostLinkUp .. => none

/-- The encoding of an instruction has the length of its frame. -/
def Statement (i : Instr) : Prop := (encode i).map List.length = frameWords i

theorem nop (c : CFrame) : Statement (.nop c) := rfl
theorem bra (c : CFrame) : Statement (.bra c) := rfl
theorem brz (c : CFrame) : Statement (.brz c) := rfl
theorem brnz (c : CFrame) : Statement (.brnz c) := rfl
theorem brx (c : CFrame) : Statement (.brx c) := rfl
theorem brd (c : CFrame) : Statement (.brd c) := rfl
theorem join (c : CFrame) : Statement (.join c) := rfl
theorem brq (c : CFrame) : Statement (.brq c) := rfl
theorem call (c : CFrame) : Statement (.call c) := rfl
theorem callx (c : CFrame) : Statement (.callx c) := rfl
theorem ret (c : CFrame) : Statement (.ret c) := rfl
theorem exit (c : CFrame) : Statement (.exit c) := rfl
theorem yield (c : CFrame) : Statement (.yield c) := rfl
theorem sleep (c : CFrame) : Statement (.sleep c) := rfl
theorem trap (c : CFrame) : Statement (.trap c) := rfl
theorem bkpt (c : CFrame) : Statement (.bkpt c) := rfl
theorem eret (c : CFrame) : Statement (.eret c) := rfl
theorem sadd (f : FFrame) : Statement (.sadd f) := rfl
theorem ssub (f : FFrame) : Statement (.ssub f) := rfl
theorem smul (f : FFrame) : Statement (.smul f) := rfl
theorem smulh (f : FFrame) : Statement (.smulh f) := rfl
theorem sand (f : FFrame) : Statement (.sand f) := rfl
theorem sor (f : FFrame) : Statement (.sor f) := rfl
theorem sxor (f : FFrame) : Statement (.sxor f) := rfl
theorem snot (f : FFrame) : Statement (.snot f) := rfl
theorem sshl (f : FFrame) : Statement (.sshl f) := rfl
theorem sshr (f : FFrame) : Statement (.sshr f) := rfl
theorem ssra (f : FFrame) : Statement (.ssra f) := rfl
theorem smin (f : FFrame) : Statement (.smin f) := rfl
theorem smax (f : FFrame) : Statement (.smax f) := rfl
theorem smov (f : FFrame) : Statement (.smov f) := rfl
theorem sli (f : FFrame) : Statement (.sli f) := rfl
theorem scmp (f : FFrame) : Statement (.scmp f) := rfl
theorem ssel (f : FFrame) : Statement (.ssel f) := rfl
theorem sclz (f : FFrame) : Statement (.sclz f) := rfl
theorem spopc (f : FFrame) : Statement (.spopc f) := rfl
theorem sbfx (f : FFrame) : Statement (.sbfx f) := rfl
theorem sbfi (f : FFrame) : Statement (.sbfi f) := rfl
theorem vadd (f : FFrame) : Statement (.vadd f) := rfl
theorem vsub (f : FFrame) : Statement (.vsub f) := rfl
theorem vmul (f : FFrame) : Statement (.vmul f) := rfl
theorem vmulh (f : FFrame) : Statement (.vmulh f) := rfl
theorem vmad (f : FFrame) : Statement (.vmad f) := rfl
theorem vand (f : FFrame) : Statement (.vand f) := rfl
theorem vor (f : FFrame) : Statement (.vor f) := rfl
theorem vxor (f : FFrame) : Statement (.vxor f) := rfl
theorem vnot (f : FFrame) : Statement (.vnot f) := rfl
theorem vshl (f : FFrame) : Statement (.vshl f) := rfl
theorem vshr (f : FFrame) : Statement (.vshr f) := rfl
theorem vsra (f : FFrame) : Statement (.vsra f) := rfl
theorem vmin (f : FFrame) : Statement (.vmin f) := rfl
theorem vmax (f : FFrame) : Statement (.vmax f) := rfl
theorem vabs (f : FFrame) : Statement (.vabs f) := rfl
theorem vneg (f : FFrame) : Statement (.vneg f) := rfl
theorem vclz (f : FFrame) : Statement (.vclz f) := rfl
theorem vpopc (f : FFrame) : Statement (.vpopc f) := rfl
theorem vbfx (f : FFrame) : Statement (.vbfx f) := rfl
theorem vbfi (f : FFrame) : Statement (.vbfi f) := rfl
theorem vbrev (f : FFrame) : Statement (.vbrev f) := rfl
theorem vsel (f : FFrame) : Statement (.vsel f) := rfl
theorem vmov (f : FFrame) : Statement (.vmov f) := rfl
theorem vli (f : FFrame) : Statement (.vli f) := rfl
theorem vaddc (f : FFrame) : Statement (.vaddc f) := rfl
theorem vsubb (f : FFrame) : Statement (.vsubb f) := rfl
theorem vcmp (f : FFrame) : Statement (.vcmp f) := rfl
theorem vidot4 (f : FFrame) : Statement (.vidot4 f) := rfl
theorem vfadd (f : FFrame) : Statement (.vfadd f) := rfl
theorem vfsub (f : FFrame) : Statement (.vfsub f) := rfl
theorem vfmul (f : FFrame) : Statement (.vfmul f) := rfl
theorem vfma (f : FFrame) : Statement (.vfma f) := rfl
theorem vfmin (f : FFrame) : Statement (.vfmin f) := rfl
theorem vfmax (f : FFrame) : Statement (.vfmax f) := rfl
theorem vfabs (f : FFrame) : Statement (.vfabs f) := rfl
theorem vfneg (f : FFrame) : Statement (.vfneg f) := rfl
theorem vfcmp (f : FFrame) : Statement (.vfcmp f) := rfl
theorem vfclass (f : FFrame) : Statement (.vfclass f) := rfl
theorem vfround (f : FFrame) : Statement (.vfround f) := rfl
theorem vfdot2 (f : FFrame) : Statement (.vfdot2 f) := rfl
theorem vfscale (f : FFrame) : Statement (.vfscale f) := rfl
theorem vrcp (f : FFrame) : Statement (.vrcp f) := rfl
theorem vrsq (f : FFrame) : Statement (.vrsq f) := rfl
theorem vsqrt (f : FFrame) : Statement (.vsqrt f) := rfl
theorem vexp2 (f : FFrame) : Statement (.vexp2 f) := rfl
theorem vlog2 (f : FFrame) : Statement (.vlog2 f) := rfl
theorem vsin (f : FFrame) : Statement (.vsin f) := rfl
theorem vcos (f : FFrame) : Statement (.vcos f) := rfl
theorem vtanh (f : FFrame) : Statement (.vtanh f) := rfl
theorem vcvt (f : FFrame) : Statement (.vcvt f) := rfl
theorem vcvtb (f : FFrame) : Statement (.vcvtb f) := rfl
theorem vpack (f : FFrame) : Statement (.vpack f) := rfl
theorem vunpack (f : FFrame) : Statement (.vunpack f) := rfl
theorem pand (f : FFrame) : Statement (.pand f) := rfl
theorem por (f : FFrame) : Statement (.por f) := rfl
theorem pxor (f : FFrame) : Statement (.pxor f) := rfl
theorem pnot (f : FFrame) : Statement (.pnot f) := rfl
theorem pmov (f : FFrame) : Statement (.pmov f) := rfl
theorem pfrom (f : FFrame) : Statement (.pfrom f) := rfl
theorem pto (f : FFrame) : Statement (.pto f) := rfl
theorem pany (f : FFrame) : Statement (.pany f) := rfl
theorem pall (f : FFrame) : Statement (.pall f) := rfl
theorem shfl (f : FFrame) : Statement (.shfl f) := rfl
theorem vote (f : FFrame) : Statement (.vote f) := rfl
theorem matchLanes (f : FFrame) : Statement (.matchLanes f) := rfl
theorem vred (f : FFrame) : Statement (.vred f) := rfl
theorem vscan (f : FFrame) : Statement (.vscan f) := rfl
theorem bcast (f : FFrame) : Statement (.bcast f) := rfl
theorem vcomp (f : FFrame) : Statement (.vcomp f) := rfl
theorem gfence (f : FFrame) : Statement (.gfence f) := rfl
theorem qcnt (f : FFrame) : Statement (.qcnt f) := rfl
theorem qroom (f : FFrame) : Statement (.qroom f) := rfl
theorem qdrain (f : FFrame) : Statement (.qdrain f) := rfl
theorem lds (f : FFrame) : Statement (.lds f) := rfl
theorem sts (f : FFrame) : Statement (.sts f) := rfl
theorem ld (f : FFrame) : Statement (.ld f) := rfl
theorem st (f : FFrame) : Statement (.st f) := rfl
theorem ldl (f : FFrame) : Statement (.ldl f) := rfl
theorem stl (f : FFrame) : Statement (.stl f) := rfl
theorem ldq (f : FFrame) : Statement (.ldq f) := rfl
theorem stc (f : FFrame) : Statement (.stc f) := rfl
theorem ldx (f : FFrame) : Statement (.ldx f) := rfl
theorem pref (f : FFrame) : Statement (.pref f) := rfl
theorem cctl (f : FFrame) : Statement (.cctl f) := rfl
theorem atom (f : FFrame) : Statement (.atom f) := rfl
theorem red (f : FFrame) : Statement (.red f) := rfl
theorem cas (f : FFrame) : Statement (.cas f) := rfl
theorem fence (f : FFrame) : Statement (.fence f) := rfl
theorem fencex (f : FFrame) : Statement (.fencex f) := rfl
theorem waitcnt (f : FFrame) : Statement (.waitcnt f) := rfl
theorem tlook (f : FFrame) : Statement (.tlook f) := rfl
theorem tset (f : FFrame) : Statement (.tset f) := rfl
theorem tclr (f : FFrame) : Statement (.tclr f) := rfl
theorem binit (f : FFrame) : Statement (.binit f) := rfl
theorem barr (f : FFrame) : Statement (.barr f) := rfl
theorem barrx (f : FFrame) : Statement (.barrx f) := rfl
theorem bwait (f : FFrame) : Statement (.bwait f) := rfl
theorem btest (f : FFrame) : Statement (.btest f) := rfl
theorem bwatch (f : FFrame) : Statement (.bwatch f) := rfl
theorem gdef (w : WFrame) : Statement (.gdef w) := rfl
theorem gld (w : WFrame) : Statement (.gld w) := rfl
theorem gst (w : WFrame) : Statement (.gst w) := rfl
theorem gmov (w : WFrame) : Statement (.gmov w) := rfl
theorem gchain (w : WFrame) : Statement (.gchain w) := rfl
theorem gpart (w : WFrame) : Statement (.gpart w) := rfl
theorem gtran (w : WFrame) : Statement (.gtran w) := rfl
theorem gflat (w : WFrame) : Statement (.gflat w) := rfl
theorem gslice (w : WFrame) : Statement (.gslice w) := rfl
theorem gswz (w : WFrame) : Statement (.gswz w) := rfl
theorem gchk (w : WFrame) : Statement (.gchk w) := rfl
theorem gbank (w : WFrame) : Statement (.gbank w) := rfl
theorem mma (w : WFrame) : Statement (.mma w) := rfl
theorem mmad (w : WFrame) : Statement (.mmad w) := rfl
theorem mmsp (w : WFrame) : Statement (.mmsp w) := rfl
theorem fbset (w : WFrame) : Statement (.fbset w) := rfl
theorem aczero (w : WFrame) : Statement (.aczero w) := rfl
theorem acld (w : WFrame) : Statement (.acld w) := rfl
theorem acst (w : WFrame) : Statement (.acst w) := rfl
theorem acrd (w : WFrame) : Statement (.acrd w) := rfl
theorem acwr (w : WFrame) : Statement (.acwr w) := rfl
theorem acmax (w : WFrame) : Statement (.acmax w) := rfl
theorem cpy (w : WFrame) : Statement (.cpy w) := rfl
theorem cpyg (w : WFrame) : Statement (.cpyg w) := rfl
theorem cpys (w : WFrame) : Statement (.cpys w) := rfl
theorem cpyz (w : WFrame) : Statement (.cpyz w) := rfl
theorem cpym (w : WFrame) : Statement (.cpym w) := rfl
theorem psel (w : WFrame) : Statement (.psel w) := rfl
theorem cpyr (w : WFrame) : Statement (.cpyr w) := rfl
theorem strep (w : WFrame) : Statement (.strep w) := rfl
theorem fcoll (w : WFrame) : Statement (.fcoll w) := rfl
theorem spawn (w : WFrame) : Statement (.spawn w) := rfl
theorem spawnj (w : WFrame) : Statement (.spawnj w) := rfl
theorem jdec (f : FFrame) : Statement (.jdec f) := rfl
theorem launch (w : WFrame) : Statement (.launch w) := rfl
theorem tget (f : FFrame) : Statement (.tget f) := rfl
theorem eget (f : FFrame) : Statement (.eget f) := rfl
theorem epost (f : FFrame) : Statement (.epost f) := rfl
theorem srd (f : FFrame) : Statement (.srd f) := rfl
theorem swr (f : FFrame) : Statement (.swr f) := rfl
theorem tlbi (f : FFrame) : Statement (.tlbi f) := rfl
theorem trace (f : FFrame) : Statement (.trace f) := rfl
theorem tmark (f : FFrame) : Statement (.tmark f) := rfl
theorem perf (f : FFrame) : Statement (.perf f) := rfl
theorem literalFrame (l : LFrame) : Statement (.literalFrame l) := rfl
theorem pairFrame (h0 h1 : PHalf) : Statement (.pairFrame h0 h1) := rfl
theorem haltArrival (wg core sub : Nat) : Statement (.haltArrival wg core sub) := rfl
theorem idleCycle (core sub : Nat) : Statement (.idleCycle core sub) := rfl
theorem yieldWindowEnd (grp : Nat) (a : Bool) : Statement (.yieldWindowEnd grp a) := rfl
theorem sleepWake (grp : Nat) (a : Bool) : Statement (.sleepWake grp a) := rfl
theorem bwaitPromWake (grp : Nat) (a : Bool) : Statement (.bwaitPromWake grp a) := rfl
theorem bwaitComplete (grp : Nat) (a : Bool) (slot1 : Bool) : Statement (.bwaitComplete grp a slot1) := rfl
theorem throttleDecay (core : Nat) : Statement (.throttleDecay core) := rfl
theorem throttleWindow (core : Nat) : Statement (.throttleWindow core) := rfl
theorem bankServe (core bank : Nat) : Statement (.bankServe core bank) := rfl
theorem loadResponse (core id : Nat) : Statement (.loadResponse core id) := rfl
theorem storePerformed (core id : Nat) : Statement (.storePerformed core id) := rfl
theorem atomicResponse (core id : Nat) : Statement (.atomicResponse core id) := rfl
theorem matrixPassStart (core sub : Nat) : Statement (.matrixPassStart core sub) := rfl
theorem matrixPassComplete (core sub : Nat) : Statement (.matrixPassComplete core sub) := rfl
theorem commandStart (e : EngineId) : Statement (.commandStart e) := rfl
theorem engineByteSubtract (e : EngineId) (elems : Nat) : Statement (.engineByteSubtract e elems) := rfl
theorem commandComplete (e : EngineId) : Statement (.commandComplete e) := rfl
theorem tileTaskReplay (e : EngineId) : Statement (.tileTaskReplay e) := rfl
theorem pselComplete (cluster : Nat) : Statement (.pselComplete cluster) := rfl
theorem watchRead (index : Nat) : Statement (.watchRead index) := rfl
theorem pairMessageArrive (index : Nat) : Statement (.pairMessageArrive index) := rfl
theorem buddyRequestArrive (core id : Nat) : Statement (.buddyRequestArrive core id) := rfl
theorem pageWalk (die : Nat) : Statement (.pageWalk die) := rfl
theorem itemQueueEnter (cluster : Nat) : Statement (.itemQueueEnter cluster) := rfl
theorem couplerCycle (cluster : Nat) : Statement (.couplerCycle cluster) := rfl
theorem couplerIdleTimeout (cluster : Nat) : Statement (.couplerIdleTimeout cluster) := rfl
theorem clusterAdmit (cluster : Nat) : Statement (.clusterAdmit cluster) := rfl
theorem groupRetire (grp : Nat) : Statement (.groupRetire grp) := rfl
theorem swapOut (wg : Nat) : Statement (.swapOut wg) := rfl
theorem contextSave (wg : Nat) : Statement (.contextSave wg) := rfl
theorem faultRecordDeferred (region : Nat) : Statement (.faultRecordDeferred region) := rfl
theorem pagePresentResume (ctx : Nat) : Statement (.pagePresentResume ctx) := rfl
theorem restore (cluster : Nat) : Statement (.restore cluster) := rfl
theorem watchdogExpiry (wg : Nat) : Statement (.watchdogExpiry wg) := rfl
theorem saveBudgetExpiry (wg : Nat) : Statement (.saveBudgetExpiry wg) := rfl
theorem poisonRead (e : EngineId) : Statement (.poisonRead e) := rfl
theorem distributorStep : Statement .distributorStep := rfl
theorem launchRead (region : Nat) : Statement (.launchRead region) := rfl
theorem launchComplete (launch : Nat) : Statement (.launchComplete launch) := rfl
theorem energyWindowStart (region : Nat) : Statement (.energyWindowStart region) := rfl
theorem regionActivate (region : Nat) : Statement (.regionActivate region) := rfl
theorem regionDeactivate (region : Nat) : Statement (.regionDeactivate region) := rfl
theorem circuitReady : Statement .circuitReady := rfl
theorem faultResume (region index : Nat) : Statement (.faultResume region index) := rfl
theorem faultDomainReset (region index : Nat) : Statement (.faultDomainReset region index) := rfl
theorem preemptStop (region : Nat) : Statement (.preemptStop region) := rfl
theorem preemptResume (region : Nat) : Statement (.preemptResume region) := rfl
theorem stepEnd (wg : Nat) : Statement (.stepEnd wg) := rfl
theorem hostRequestTimeout (port1 : Bool) : Statement (.hostRequestTimeout port1) := rfl
theorem portFailure (port1 : Bool) : Statement (.portFailure port1) := rfl
theorem attestComplete : Statement .attestComplete := rfl
theorem packageReset : Statement .packageReset := rfl
theorem exportWait (index : Nat) : Statement (.exportWait index) := rfl
theorem fabricRetransmit (id : Nat) : Statement (.fabricRetransmit id) := rfl
theorem reservedOpcode (word : BitVec 64) : Statement (.reservedOpcode word) := rfl
theorem fabricRequestArrive (req : FabReq) : Statement (.fabricRequestArrive req) := rfl
theorem fabricResponse (id : Nat) (answer : FabAnswer) : Statement (.fabricResponse id answer) := rfl
theorem fabricRefusal (core id : Nat) : Statement (.fabricRefusal core id) := rfl
theorem collLineResend (die plane : Nat) : Statement (.collLineResend die plane) := rfl
theorem droopStretch (die : Nat) : Statement (.droopStretch die) := rfl
theorem eccError (site : EccSite) (index addr : Nat) (correctable : Bool) : Statement (.eccError site index addr correctable) := rfl
theorem dieFail (die : Nat) : Statement (.dieFail die) := rfl
theorem wavelengthFail (entry : Nat) : Statement (.wavelengthFail entry) := rfl
theorem energyCharge (wg region quanta : Nat) : Statement (.energyCharge wg region quanta) := rfl
theorem powerMeasure (ends : Nat) : Statement (.powerMeasure ends) := rfl
theorem ctabWrite (entry : Nat) (value : BitVec 64) : Statement (.ctabWrite entry value) := rfl
theorem debugAttach (region : Nat) : Statement (.debugAttach region) := rfl
theorem debugDetach (region : Nat) : Statement (.debugDetach region) := rfl
theorem debugStop (region : Nat) : Statement (.debugStop region) := rfl
theorem debugHold (region : Nat) : Statement (.debugHold region) := rfl
theorem debugRelease (region : Nat) : Statement (.debugRelease region) := rfl
theorem debugStep (region index : Nat) : Statement (.debugStep region index) := rfl
theorem pushWindowWrite (port1 : Bool) (region : Nat) (image : BitVec 1024) : Statement (.pushWindowWrite port1 region image) := rfl
theorem hostRead (port1 bar0 : Bool) (offset size : Nat) : Statement (.hostRead port1 bar0 offset size) := rfl
theorem hostWrite (port1 : Bool) (offset : Nat) (data : List Byte) : Statement (.hostWrite port1 offset data) := rfl
theorem hostAtomic (port1 : Bool) (op : HostAtomicOp) (offset size : Nat) (value cmp : BitVec 64) : Statement (.hostAtomic port1 op offset size value cmp) := rfl
theorem heartbeatWrite (port1 : Bool) : Statement (.heartbeatWrite port1) := rfl
theorem attestGo (port1 : Bool) : Statement (.attestGo port1) := rfl
theorem firmwareImageUpload (verifies : Bool) : Statement (.firmwareImageUpload verifies) := rfl
theorem registerWrite (port1 : Bool) (offset : Nat) (value : BitVec 64) : Statement (.registerWrite port1 offset value) := rfl
theorem flitReplay (port : Nat) : Statement (.flitReplay port) := rfl
theorem censusFlit (port vc : Nat) (count : BitVec 16) : Statement (.censusFlit port vc count) := rfl
theorem linkRetrain (port rounds lanes : Nat) (agreed : Bool) : Statement (.linkRetrain port rounds lanes agreed) := rfl
theorem portEnable (port : Nat) (lport : BitVec 16) (offset : BitVec 64) : Statement (.portEnable port lport offset) := rfl
theorem syncFlit (slew : Int) : Statement (.syncFlit slew) := rfl
theorem correlationPacket (first : Bool) (corr : BitVec 32) (engine : BitVec 16) (queue : BitVec 2) (seq : BitVec 32) (kind : BitVec 8) (payload : BitVec 64) : Statement (.correlationPacket first corr engine queue seq kind payload) := rfl
theorem collResultArrive (die line : Nat) (leaves : List (List (List Byte))) (mismatch : Bool) : Statement (.collResultArrive die line leaves mismatch) := rfl
theorem hostLinkDown (port1 : Bool) : Statement (.hostLinkDown port1) := rfl
theorem hostLinkUp (port1 : Bool) : Statement (.hostLinkUp port1) := rfl

end EncodedLength

end Sys2Proof.Laws
end

