-- ==== Sys2Proof/Safety.lean ====
section
/-!
DEFINITION. What counts as a safe step, and the terms in which the claims about single instructions are stated.
-/
namespace Sys2Proof

/-- Does an outcome go on? A fault or a refusal is a stop of the model, not of the hardware. -/
def goesOn (o : Host.Outcome Machine.State Machine.Fault Machine.Refusal) : Bool :=
  match o with
  | .next _ => true
  | .fault _ => false
  | .refused _ => false

/-- Every state has a next one under a number of steps. -/
def SafeFor (n : Nat) (s : Machine.State) : Prop := goesOn (core.run n s) = true

namespace Claims
open Sys2Proof.Machine

/-- The issuing path moves past n bytes (R38). -/
def movePast (e : Env) (n : Nat) (s : State) : State :=
  s.modSlice e.cur.grp e.cur.a (fun sl => sl.setSlot e.cur.slot1
    ((sl.slot e.cur.slot1).map (fun p => { p with pc := e.path.pc + BitVec.ofNat 56 n })))

/-- The state after an instruction that set the PC itself and completed: the issue is counted for its active lanes, and a 0x48
that fell due is taken (R89, R147, R401). -/
def issued (e : Env) (act : W32) (s : State) : State := (s.afterIssue e act).takeDue e

/-- The state after an instruction of n bytes that left the state s and recorded the events ev. -/
def done (e : Env) (act : W32) (n : Nat) (ev : Events) (s : State) : State :=
  issued e act (movePast e n (s.record e.g e.cur.a e.w.region ev e.path.pc))

/-- The same for a frame that records no event of its own. -/
def doneW (e : Env) (act : W32) (n : Nat) (s : State) : State := issued e act (movePast e n s)

/-- An operand that is in use meets no condition at decode and waits for nothing (R13, R25, R33). -/
def OperandReady (e : Env) (s : State) (n : Named) : Prop :=
  n.pos.accepts = [] ∨
    (regConds e n.pos n.push n.code = [] ∧ s.splitPhase e n.pos n.code = false ∧ s.busy e n.pos n.code = false)

/-- The named operands of an F frame, or of an L frame with its literal. -/
def operandsOf (sp : FSpec) (f : FFrame) (lit : Option W32) : List Named :=
  [{ pos := sp.dst, code := f.dst, push := true }, { pos := sp.a, code := f.srcA },
   { pos := if lit.isSome then .unused else sp.b, code := f.srcB }, { pos := sp.c, code := f.srcC }]

/-- The frame may execute for the issuing slot: its fields are legal (R59) and its operands are ready. -/
def FReady (e : Env) (sp : FSpec) (f : FFrame) (lit : Option W32) (s : State) : Prop :=
  s.env? = some e ∧ f.ok sp lit.isSome = true ∧ ∀ n ∈ operandsOf sp f lit, OperandReady e s n

/-- The named operands of a W frame. -/
def operandsOfW (sp : WSpec) (w : WFrame) : List Named :=
  [{ pos := sp.f.dst, code := w.f.dst, push := true }, { pos := sp.f.a, code := w.f.srcA },
   { pos := if w.lit.isSome then .unused else sp.f.b, code := w.f.srcB }, { pos := sp.f.c, code := w.f.srcC },
   { pos := sp.d, code := w.srcD }, { pos := sp.e, code := w.srcE }, { pos := sp.s, code := w.srcF }]

/-- A W frame may execute; `xOnly` when the instruction is legal in the X-slice alone. -/
def WReady (e : Env) (sp : WSpec) (w : WFrame) (xOnly : Bool) (s : State) : Prop :=
  s.env? = some e ∧ w.ok sp = true ∧ (xOnly && e.cur.a) = false ∧ ∀ n ∈ operandsOfW sp w, OperandReady e s n

/-- No synchronising access of the slice is outstanding: a push or pop waits for none (R337). -/
def SyncIdle (e : Env) (s : State) : Prop :=
  (s.core e.g.core).pend.any (fun p => p.grp == e.cur.grp && p.a == e.cur.a && p.sync) = false

/-- A destination of k entries has room: it is no queue, or the queue discards them, or takes them with no synchronising access to wait
for (R24, R36, R337). -/
def Room (e : Env) (code : BitVec 8) (k : Nat) (s : State) : Prop :=
  RC.of code = .q →
    let g := (s.group? e.cur.grp).getD e.g
    g.popperEnded (g.queue (regNo code)) = true ∨
      ((g.queue (regNo code)).entries.length + k ≤ (g.queue (regNo code)).depth ∧ SyncIdle e s)

end Claims
end Sys2Proof
end

