-- ==== Sys2Proof/WellFormed.lean ====
section
/-!
DEFINITION. Which instructions are well formed: those that no static check refuses (spec 02_encoding.md R43 to R56 and the field
tables of the instruction chapters). An ill-formed frame still decodes and is issued: it raises the cause that its meaning gives
(R59). An event is well formed when the units it names exist.
-/
namespace Sys2Proof

/-- Does the engine of an id exist (R242, R321, R447)? -/
def engineOk (e : EngineId) : Bool :=
  match e with
  | .copy core unit => decide (core < 512) && decide (unit < 2)
  | .psel cluster => decide (cluster < 64)
  | .egress die => decide (die < 8)

/-- The static check of an instruction. -/
def wf (i : Instr) : Bool :=
  match i with
  | .nop c => c.ok .none true
  | .bra c => c.ok .long true
  | .brz c => c.ok (.test .s) true
  | .brnz c => c.ok (.test .s) true
  | .brx c => c.ok .indirect true
  | .brd c => c.ok (.test .p) true
  | .join c => c.ok .none false
  | .brq c => c.ok (.test .q) true
  | .call c => c.ok .long true
  | .callx c => c.ok .indirect true
  | .ret c => c.ok .none true
  | .exit c => c.ok .none true
  | .yield c => c.ok .none true
  | .sleep c => c.ok .indirect true
  | .trap c => c.ok .code true
  | .bkpt c => c.ok .none true
  | .eret c => c.ok .none true
  | .sadd f => f.ok (specS 2 true) false
  | .ssub f => f.ok (specS 2 true) false
  | .smul f => f.ok (specS 2 true) false
  | .smulh f => f.ok (specS 2 false) false
  | .sand f => f.ok (specS 2 false) false
  | .sor f => f.ok (specS 2 false) false
  | .sxor f => f.ok (specS 2 false) false
  | .snot f => f.ok (specS 1 false) false
  | .sshl f => f.ok (specS 2 false) false
  | .sshr f => f.ok (specS 2 false) false
  | .ssra f => f.ok (specS 2 false) false
  | .smin f => f.ok (specS 2 false) false
  | .smax f => f.ok (specS 2 false) false
  | .smov f => f.ok (specS 1 false) false
  | .sli f => f.ok (specSli false) false
  | .scmp f => f.ok (specScmp f) false
  | .ssel f => f.ok (specS 3 false) false
  | .sclz f => f.ok (specS 1 false) false
  | .spopc f => f.ok (specS 1 false) false
  | .sbfx f => f.ok (specS 2 false) false
  | .sbfi f => f.ok (specS 3 false) false
  | .vadd f => f.ok (specV f 2 true) false
  | .vsub f => f.ok (specV f 2 true) false
  | .vmul f => f.ok (specV f 2 true) false
  | .vmulh f => f.ok (specV f 2 false) false
  | .vmad f => f.ok (specV f 3 true) false
  | .vand f => f.ok (specV f 2 false) false
  | .vor f => f.ok (specV f 2 false) false
  | .vxor f => f.ok (specV f 2 false) false
  | .vnot f => f.ok (specV f 1 false) false
  | .vshl f => f.ok (specV f 2 false) false
  | .vshr f => f.ok (specV f 2 false) false
  | .vsra f => f.ok (specV f 2 false) false
  | .vmin f => f.ok (specV f 2 false) false
  | .vmax f => f.ok (specV f 2 false) false
  | .vabs f => f.ok (specV f 1 true) false
  | .vneg f => f.ok (specV f 1 true) false
  | .vclz f => f.ok (specV f 1 false) false
  | .vpopc f => f.ok (specV f 1 false) false
  | .vbfx f => f.ok (specV f 2 false) false
  | .vbfi f => f.ok (specV f 3 false) false
  | .vbrev f => f.ok (specV f 1 false) false
  | .vsel f => f.ok (specVsel f) false
  | .vmov f => f.ok (specV f 1 false) false
  | .vli f => f.ok (specVli f) false
  | .vaddc f => f.ok (specVcarry f) false
  | .vsubb f => f.ok (specVcarry f) false
  | .vcmp f => f.ok (specVcmp f) false
  | .vidot4 f => f.ok specVidot false
  | .vfadd f => f.ok (specF f 2 true) false
  | .vfsub f => f.ok (specF f 2 true) false
  | .vfmul f => f.ok (specF f 2 true) false
  | .vfma f => f.ok (specF f 3 true) false
  | .vfmin f => f.ok (specFminmax f) false
  | .vfmax f => f.ok (specFminmax f) false
  | .vfabs f => f.ok (specF f 1 false) false
  | .vfneg f => f.ok (specF f 1 false) false
  | .vfcmp f => f.ok (specFcmp f) false
  | .vfclass f => f.ok (specFclass f) false
  | .vfround f => f.ok (specF f 1 false) false
  | .vfdot2 f => f.ok (specFdot f) false
  | .vfscale f => f.ok (specFscale f) false
  | .vrcp f => f.ok specSpecial false
  | .vrsq f => f.ok specSpecial false
  | .vsqrt f => f.ok specSpecial false
  | .vexp2 f => f.ok specSpecial false
  | .vlog2 f => f.ok specSpecial false
  | .vsin f => f.ok specSpecial false
  | .vcos f => f.ok specSpecial false
  | .vtanh f => f.ok specSpecial false
  | .vcvt f => f.ok (specCvt f) false
  | .vcvtb f => f.ok (specCvtb f) false
  | .vpack f => f.ok (specPack f false) false
  | .vunpack f => f.ok (specPack f true) false
  | .pand f => f.ok (specP 2) false
  | .por f => f.ok (specP 2) false
  | .pxor f => f.ok (specP 2) false
  | .pnot f => f.ok (specP 1) false
  | .pmov f => f.ok (specP 1) false
  | .pfrom f => f.ok specPfrom false
  | .pto f => f.ok specPto false
  | .pany f => f.ok specPanyall false
  | .pall f => f.ok specPanyall false
  | .shfl f => f.ok (specShfl f) false
  | .vote f => f.ok (specVote f) false
  | .matchLanes f => f.ok (specMatch f) false
  | .vred f => f.ok (specVred f) false
  | .vscan f => f.ok (specVscan f) false
  | .bcast f => f.ok (specBcast f) false
  | .vcomp f => f.ok (specVcomp f) false
  | .gfence f => f.ok specGfence false
  | .qcnt f => f.ok specQ false
  | .qroom f => f.ok specQ false
  | .qdrain f => f.ok specQ false
  | .lds f => f.ok (specLds f) false
  | .sts f => f.ok (specSts f) false
  | .ld f => f.ok (specLd f) false
  | .st f => f.ok (specSt f) false
  | .ldl f => f.ok (specLdl f) false
  | .stl f => f.ok (specStl f) false
  | .ldq f => f.ok (specLdq f) false
  | .stc f => f.ok (specStc f) false
  | .ldx f => f.ok (specLdx f) false
  | .pref f => f.ok (specPref f) false
  | .cctl f => f.ok (specCctl f) false
  | .atom f => f.ok (specAtom f true) false
  | .red f => f.ok (specAtom f false) false
  | .cas f => f.ok (specCas f) false
  | .fence f => f.ok (specFence f) false
  | .fencex f => f.ok (specFencex f) false
  | .waitcnt f => f.ok (specWaitcnt f) false
  | .tlook f => f.ok specTlook false
  | .tset f => f.ok specTset false
  | .tclr f => f.ok (specTclr f) false
  | .binit f => f.ok (specBinit f) false
  | .barr f => f.ok (specBarr f) false
  | .barrx f => f.ok (specBarrx f) false
  | .bwait f => f.ok (specBwait f) false
  | .btest f => f.ok (specBtest f) false
  | .bwatch f => f.ok (specBwatch f) false
  | .gdef w => w.ok (specGdef w)
  | .gld w => w.ok (specGldst w false)
  | .gst w => w.ok (specGldst w true)
  | .gmov w => w.ok specGmov
  | .gchain w => w.ok specGchain
  | .gpart w => w.ok specGpart
  | .gtran w => w.ok (specGtran w)
  | .gflat w => w.ok specGflat
  | .gslice w => w.ok specGpart
  | .gswz w => w.ok (specGswz w)
  | .gchk w => w.ok specGchk
  | .gbank w => w.ok specGbank
  | .mma w => w.ok (specMma w false)
  | .mmad w => w.ok (specMmad w)
  | .mmsp w => w.ok (specMma w true)
  | .fbset w => w.ok (specFbset w)
  | .aczero w => w.ok (specAczero w)
  | .acld w => w.ok (specAcmove w)
  | .acst w => w.ok (specAcmove w)
  | .acrd w => w.ok (specAcrd w)
  | .acwr w => w.ok (specAcwr w)
  | .acmax w => w.ok (specAcmax w)
  | .cpy w => w.ok (specCpy w)
  | .cpyg w => w.ok (specCpyg w)
  | .cpys w => w.ok (specCpyg w)
  | .cpyz w => w.ok (specCpyz w)
  | .cpym w => w.ok (specCpy w)
  | .psel w => w.ok (specPsel w)
  | .cpyr w => w.ok (specCpyr w)
  | .strep w => w.ok (specStrep w)
  | .fcoll w => w.ok (specFcoll w)
  | .spawn w => w.ok specSpawn
  | .spawnj w => w.ok specSpawnj
  | .jdec f => f.ok specJdec false
  | .launch w => w.ok specLaunch
  | .tget f => f.ok (specTget f) false
  | .eget f => f.ok (specEget f) false
  | .epost f => f.ok specEpost false
  | .srd f => f.ok (specSrd f) false
  | .swr f => f.ok (specSwr f) false
  | .tlbi f => f.ok (specTlbi f) false
  | .trace f => f.ok specTrace false
  | .tmark f => f.ok specTmark false
  | .perf f => f.ok specPerf false
  | .literalFrame l => l.hasForm && l.toF.ok l.spec true
  | .pairFrame h0 h1 => h0.hasForm && h1.hasForm && (pairCause h0 h1).isNone
  | .haltArrival _ core sub => decide (core < 512) && decide (sub < 4)
  | .idleCycle core sub => decide (core < 512) && decide (sub < 4)
  | .yieldWindowEnd _ _ => true
  | .sleepWake _ _ => true
  | .bwaitPromWake _ _ => true
  | .bwaitComplete _ _ _ => true
  | .throttleDecay core => decide (core < 512)
  | .throttleWindow core => decide (core < 512)
  | .bankServe core bank => decide (core < 512) && decide (bank < 32)
  | .loadResponse core _ => decide (core < 512)
  | .storePerformed core _ => decide (core < 512)
  | .atomicResponse core _ => decide (core < 512)
  | .matrixPassStart core sub => decide (core < 512) && decide (sub < 4)
  | .matrixPassComplete core sub => decide (core < 512) && decide (sub < 4)
  | .commandStart e => engineOk e
  | .engineByteSubtract e _ => engineOk e
  | .commandComplete e => engineOk e
  | .tileTaskReplay e => engineOk e
  | .pselComplete cluster => decide (cluster < 64)
  | .watchRead _ => true
  | .pairMessageArrive _ => true
  | .buddyRequestArrive core _ => decide (core < 512)
  | .pageWalk die => decide (die < 8)
  | .itemQueueEnter cluster => decide (cluster < 64)
  | .couplerCycle cluster => decide (cluster < 64)
  | .couplerIdleTimeout cluster => decide (cluster < 64)
  | .clusterAdmit cluster => decide (cluster < 64)
  | .groupRetire _ => true
  | .swapOut _ => true
  | .contextSave _ => true
  | .faultRecordDeferred _ => true
  | .pagePresentResume _ => true
  | .restore cluster => decide (cluster < 64)
  | .watchdogExpiry _ => true
  | .saveBudgetExpiry _ => true
  | .poisonRead e => engineOk e
  | .distributorStep => true
  | .launchRead _ => true
  | .launchComplete _ => true
  | .energyWindowStart _ => true
  | .regionActivate _ => true
  | .regionDeactivate _ => true
  | .circuitReady => true
  | .faultResume _ _ => true
  | .faultDomainReset _ _ => true
  | .preemptStop _ => true
  | .preemptResume _ => true
  | .stepEnd _ => true
  | .hostRequestTimeout _ => true
  | .portFailure _ => true
  | .attestComplete => true
  | .packageReset => true
  | .exportWait _ => true
  | .fabricRetransmit _ => true
  | .reservedOpcode w => (match decode (wordBytes w) with | .ok (.reservedOpcode v, []) => v == w | _ => false)
  | .fabricRequestArrive _ => true
  | .fabricResponse _ _ => true
  | .fabricRefusal core _ => decide (core < 512)
  | .collLineResend die plane => decide (die < 8) && decide (plane < 48)
  | .droopStretch die => decide (die < 8)
  | .eccError _ _ _ _ => true
  | .dieFail die => decide (die < 8)
  | .wavelengthFail entry => decide (entry < 512)
  | .energyCharge _ _ _ => true
  | .powerMeasure _ => true
  | .ctabWrite entry _ => decide (entry < 512)
  | .debugAttach _ => true
  | .debugDetach _ => true
  | .debugStop _ => true
  | .debugHold _ => true
  | .debugRelease _ => true
  | .debugStep _ _ => true
  | .pushWindowWrite _ _ _ => true
  | .hostRead _ _ _ _ => true
  | .hostWrite _ _ _ => true
  | .hostAtomic _ _ _ _ _ _ => true
  | .heartbeatWrite _ => true
  | .attestGo _ => true
  | .firmwareImageUpload _ => true
  | .registerWrite _ _ _ => true
  | .flitReplay port => decide (port < 48)
  | .censusFlit port vc _ => decide (port < 48) && decide (vc < 4)
  | .linkRetrain port _ _ _ => decide (port < 48)
  | .portEnable port _ _ => decide (port < 48)
  | .syncFlit _ => true
  | .correlationPacket _ _ _ _ _ _ _ => true
  | .collResultArrive die _ _ _ => decide (die < 8)
  | .hostLinkDown _ => true
  | .hostLinkUp _ => true

end Sys2Proof
end

