-- ==== Sys2Proof/Certificates/Slice0/Obligations.lean ====
section
/-!
DEFINITION. The statements for the provers. The tables in front of a statement say, for each instruction it names, what the spec's
own table says of it.
-/
namespace Sys2Proof.Claims
open Sys2Proof.Machine

/-! ### Integer results (R92, R107 to R113) -/

/-- An instruction that is a literal frame, as the F form whose opcode is its L code plus 0x40, with its literal (R45). -/
def asF (i : Instr) : Instr × Option W32 :=
  match i with
  | .literalFrame l => (((lookupCode (l.op.toNat + 0x40) mapF).map (fun k => k l.toF)).getD i, some l.lit)
  | _ => (i, none)

/-- The operations of Tables 4.4 and 4.6 (the V forms of `SLI` and `SMAD` have their own names there). -/
inductive IntOp where
  | add | sub | mul | mulh | mad | and | or | xor | not | shl | shr | sra | min | max | mov | abs | neg | clz | popc | bfx | bfi
  | brev | sel | join | cmp (cond : Nat)
  deriving DecidableEq, Repr

/-- A w-bit operand extended to its type: by sign for the `.s` types, by zeros for the `.u` types (R92). -/
def num (signed : Bool) {w : Nat} (x : BitVec w) : Int := if signed then x.toInt else x.toNat

/-- The conditions of R109. -/
def holds (cond : Nat) (x y : Int) : Bool :=
  match cond with
  | 0 => decide (x = y) | 1 => decide (x ≠ y) | 2 => decide (x < y) | 3 => decide (x ≤ y) | 4 => decide (y < x) | _ => decide (y ≤ x)

/-- `field_len` of R108. -/
def lenOf (pos len w : Nat) : Nat := if len = 0 ∨ w ≤ pos then 0 else min len (w - pos)

/-- The exact result of Tables 4.4 and 4.6 from operands of w bits. -/
def exact (op : IntOp) (signed : Bool) {w : Nat} (a b c : BitVec w) : Int :=
  match op with
  | .add => num signed a + num signed b
  | .sub => num signed a - num signed b
  | .mul => num signed a * num signed b
  | .mulh => (num signed a * num signed b).fdiv (2 ^ w)
  | .mad => num signed a * num signed b + num signed c
  | .and => (a &&& b).toNat
  | .or => (a ||| b).toNat
  | .xor => (a ^^^ b).toNat
  | .not => (~~~b).toNat
  | .shl => if w ≤ b.toNat then 0 else a.toNat * 2 ^ b.toNat
  | .shr => (a >>> b.toNat).toNat
  | .sra => (a.sshiftRight b.toNat).toInt
  | .min => min (num signed a) (num signed b)
  | .max => max (num signed a) (num signed b)
  | .mov => num signed b
  | .abs => (num signed b).natAbs
  | .neg => -(num signed b)
  | .clz => b.clz.toNat
  | .popc => ((List.range w).filter (fun i => b.getLsbD i)).length
  | .bfx => num signed ((a >>> (b.toNat % 256)).setWidth (lenOf (b.toNat % 256) (b.toNat / 256 % 256) w))
  | .bfi =>
    let pos := b.toNat % 256
    let n := lenOf pos (b.toNat / 256 % 256) w
    let m := (BitVec.allOnes w >>> (w - n)) <<< pos
    ((c &&& ~~~m) ||| ((a <<< pos) &&& m)).toNat
  | .brev => b.reverse.toNat
  | .sel => if c = 0 then num signed b else num signed a
  | .join => (a.toNat % 2 ^ 32 + 2 ^ 32 * (b.toNat % 2 ^ 32) : Nat)
  | .cmp cond => if holds cond (num signed a) (num signed b) then 1 else 0

/-- The bounds of a type of w bits. -/
def bounds (signed : Bool) (w : Nat) : Int × Int := if signed then (-(2 ^ (w - 1)), 2 ^ (w - 1) - 1) else (0, 2 ^ w - 1)

/-- An exact result written by R92: modulo 2^w, or with `.sat` the nearest bound of the type and the saturation event when it
clamps. -/
def written (signed : Bool) (w : Nat) (sat : Bool) (x : Int) : BitVec w × Events :=
  let lo := (bounds signed w).1
  let hi := (bounds signed w).2
  if sat ∧ x < lo then (BitVec.ofInt w lo, Events.saturation)
  else if sat ∧ hi < x then (BitVec.ofInt w hi, Events.saturation)
  else (BitVec.ofInt w x, 0)

/-- What Table 4.4 says of a scalar instruction in its F form or, with `lit`, its L form: the frame, what it accepts, its
operation. -/
def scalarOp (lit : Bool) : Instr → Option (FFrame × FSpec × IntOp)
  | .sadd f => some (f, specS 2 true, .add)
  | .ssub f => some (f, specS 2 true, .sub)
  | .smul f => some (f, specS 2 true, .mul)
  | .smulh f => some (f, specS 2 false, .mulh)
  | .sand f => some (f, specS 2 false, .and)
  | .sor f => some (f, specS 2 false, .or)
  | .sxor f => some (f, specS 2 false, .xor)
  | .snot f => some (f, specS 1 false, .not)
  | .sshl f => some (f, specS 2 false, .shl)
  | .sshr f => some (f, specS 2 false, .shr)
  | .ssra f => some (f, specS 2 false, .sra)
  | .smin f => some (f, specS 2 false, .min)
  | .smax f => some (f, specS 2 false, .max)
  | .smov f => some (f, specS 1 false, .mov)
  | .sli f => some (f, specSli lit, if lit then .mov else .join)
  | .scmp f => some (f, specScmp f, .cmp (f.variant.toNat % 8))
  | .ssel f => some (f, specS 3 false, .sel)
  | .sclz f => some (f, specS 1 false, .clz)
  | .spopc f => some (f, specS 1 false, .popc)
  | .sbfx f => some (f, specS 2 false, .bfx)
  | .sbfi f => some (f, specS 3 false, .bfi)
  | _ => none

/-- The three scalar sources of a frame are read, in the order srcA, srcB, srcC (R24); the state after their pops is `t`. -/
def ScalarSources (e : Env) (sp : FSpec) (f : FFrame) (lit : Option W32) (s : State) (a b c : W64) (t : State) : Prop :=
  ∃ s1 s2, srcS? e sp.a f.srcA none s = .ok (a, s1) ∧ srcS? e sp.b f.srcB lit s1 = .ok (b, s2) ∧
    srcS? e sp.c f.srcC none s2 = .ok (c, t)

/-- A w-bit result as the 64 bits of a scalar register: extended by the type's signedness (R107). -/
def scalarOf (signed : Bool) {w : Nat} (x : BitVec w) : W64 := if signed then x.signExtend 64 else x.setWidth 64

/-- What Table 4.6 says of a vector instruction whose lanes follow Table 4.4. -/
def vectorOp : Instr → Option (FFrame × FSpec × IntOp)
  | .vadd f => some (f, specV f 2 true, .add)
  | .vsub f => some (f, specV f 2 true, .sub)
  | .vmul f => some (f, specV f 2 true, .mul)
  | .vmulh f => some (f, specV f 2 false, .mulh)
  | .vmad f => some (f, specV f 3 true, .mad)
  | .vand f => some (f, specV f 2 false, .and)
  | .vor f => some (f, specV f 2 false, .or)
  | .vxor f => some (f, specV f 2 false, .xor)
  | .vnot f => some (f, specV f 1 false, .not)
  | .vshl f => some (f, specV f 2 false, .shl)
  | .vshr f => some (f, specV f 2 false, .shr)
  | .vsra f => some (f, specV f 2 false, .sra)
  | .vmin f => some (f, specV f 2 false, .min)
  | .vmax f => some (f, specV f 2 false, .max)
  | .vabs f => some (f, specV f 1 true, .abs)
  | .vneg f => some (f, specV f 1 true, .neg)
  | .vclz f => some (f, specV f 1 false, .clz)
  | .vpopc f => some (f, specV f 1 false, .popc)
  | .vbfx f => some (f, specV f 2 false, .bfx)
  | .vbfi f => some (f, specV f 3 false, .bfi)
  | .vbrev f => some (f, specV f 1 false, .brev)
  | .vmov f => some (f, specV f 1 false, .mov)
  | .vli f => some (f, specVli f, .mov)
  | _ => none

/-- The value of a lane. -/
def lane (v : Lanes64) (l : Nat) : W64 := (v[l]?).getD 0

/-- Lanes given one by one, with their events: the lanes outside the mask hold 0 and record nothing. -/
def lanesOf (m : W32) (fn : Nat → W64 × Events) : Lanes64 × Events :=
  (tabulate 32 (fun l => if m.getLsbD l then (fn l).1 else 0),
   (List.range 32).foldl (fun ev l => if m.getLsbD l then ev ||| (fn l).2 else ev) 0)

/-! ### Lane results in formats (R68 to R79, R84, R109, R115, R120 to R128) -/

/-- What a table says of a vector instruction whose lanes stand alone: the frame, what it accepts, the types in which its sources are
read, whether the result has 64 bits, and a lane's result with its events. -/
structure LaneOp where
  f    : FFrame
  sp   : FSpec
  ta   : Ty
  tb   : Ty
  tc   : Ty
  wide : Bool
  fn   : Nat → Nat → Nat → Nat × Events

/-- The type of a float instruction: FP32 when none is named (R120). -/
def fty (f : FFrame) : Ty := Ty.ofCode (.fl .f32) f.ty

/-- An exact result of three operands, rounded once to the format by the mode of variant [1:0] or [2:0] and the `.sat` flag (R70,
R120), with the events of the operands (R69), the operation and the rounding. -/
def roundedFn (f : FFrame) (g : Machine.Num → Machine.Num → Machine.Num → Machine.Num × Events) (a b c : Nat) : Nat × Events :=
  let x := readF (fty f).fmt a
  let y := readF (fty f).fmt b
  let z := readF (fty f).fmt c
  let v := g x.1 y.1 z.1
  let r := roundTo (fty f).fmt v.1 (Mode.ofCode f.variant.toNat) (f.flags.getLsbD 0)
  (r.1, x.2 ||| y.2 ||| z.2 ||| v.2 ||| r.2)

/-- A product with the invalid event of zero times infinity (R120). -/
def product (a b : Machine.Num) : Machine.Num × Events := ((mulNum a b).1, Events.when (mulNum a b).2 Events.invalid)

/-- A float instruction of Table 5.1 that reads all its sources in one format. -/
def floatOp (f : FFrame) (sp : FSpec) (fn : Nat → Nat → Nat → Nat × Events) : LaneOp :=
  { f := f, sp := sp, ta := fty f, tb := fty f, tc := fty f, wide := (fty f).wide, fn := fn }

/-- A special function of Table 5.2, computed at FP32 and converted to the type (R126). -/
def specialOp (g : Machine.Num → Nat × Events) (f : FFrame) : LaneOp :=
  { f := f, sp := specSpecial, ta := fty f, tb := fty f, tc := fty f, wide := false,
    fn := fun _ b _ =>
      let x := readF (fty f).fmt b
      let r := g x.1
      if (fty f).fmt = .f32 then (r.1, x.2 ||| r.2)
      else
        let y := roundTo (fty f).fmt (Fmt.f32.decode r.1).1 .rne false
        (y.1, x.2 ||| r.2 ||| y.2) }

/-- The sum of an accumulator and the four products of bytes (R115). -/
def dot4 (signed : Bool) (a b c : Nat) : Int :=
  let p (i : Nat) : Int := num signed (BitVec.ofNat 8 (a / 2 ^ (8 * i))) * num signed (BitVec.ofNat 8 (b / 2 ^ (8 * i)))
  num signed (BitVec.ofNat 32 c) + p 0 + p 1 + p 2 + p 3

/-- The vector instructions whose lanes stand alone and whose result is a value, other than those of Table 4.4's results. -/
def laneOp : Instr → Option LaneOp
  | .vfadd f => some (floatOp f (specF f 2 true) (roundedFn f (fun a b _ => exactSum [a, b])))
  | .vfsub f => some (floatOp f (specF f 2 true) (roundedFn f (fun a b _ => exactSum [a, b.neg])))
  | .vfmul f => some (floatOp f (specF f 2 true) (roundedFn f (fun a b _ => product a b)))
  | .vfma f => some (floatOp f (specF f 3 true) (roundedFn f (fun a b c =>
      ((exactSum [(product a b).1, c]).1, (exactSum [(product a b).1, c]).2 ||| (product a b).2))))
  | .vfmin f => some (floatOp f (specFminmax f) (fun a b _ =>
      (fMinMax false (fty f).fmt a b, (readF (fty f).fmt a).2 ||| (readF (fty f).fmt b).2)))
  | .vfmax f => some (floatOp f (specFminmax f) (fun a b _ =>
      (fMinMax true (fty f).fmt a b, (readF (fty f).fmt a).2 ||| (readF (fty f).fmt b).2)))
  | .vfabs f => some (floatOp f (specF f 1 false) (fun _ b _ =>
      let m := (fty f).fmt
      (if (readF m b).1.isNan then m.nanCode else b % 2 ^ (m.width - 1), (readF m b).2)))
  | .vfneg f => some (floatOp f (specF f 1 false) (fun _ b _ =>
      let m := (fty f).fmt
      (if (readF m b).1.isNan then m.nanCode else m.signed (!b.testBit (m.width - 1)) (b % 2 ^ (m.width - 1)), (readF m b).2)))
  | .vfround f => some (floatOp f (specF f 1 false) (fun _ b _ =>
      let m := (fty f).fmt
      ((roundTo m (fRoundInt (Mode.ofCode f.variant.toNat) (readF m b).1) .rne false).1, (readF m b).2)))
  | .vfscale f => some ⟨f, specFscale f, fty f, .s32, fty f, (fty f).wide, fun a b _ =>
        let x := readF (fty f).fmt a
        let r := roundTo (fty f).fmt (x.1.scale (max (-8192) (min 8192 (num true (BitVec.ofNat 32 b)))))
          (Mode.ofCode f.variant.toNat) (f.flags.getLsbD 0)
        (r.1, x.2 ||| r.2)⟩
  | .vrcp f => some (specialOp sfRcp f)
  | .vrsq f => some (specialOp sfRsq f)
  | .vsqrt f => some (specialOp sfSqrt f)
  | .vexp2 f => some (specialOp sfExp2 f)
  | .vlog2 f => some (specialOp sfLog2 f)
  | .vsin f => some (specialOp sfSin f)
  | .vcos f => some (specialOp sfCos f)
  | .vtanh f => some (specialOp sfTanh f)
  | .vcvt f => 
      let t := Ty.ofCode (.fl .f32) (ty2 f)
      some ⟨f, specCvt f, t, t, t, (fty f).wide, fun _ b _ =>
        convert (fty f) t (Mode.ofCode f.variant.toNat) (f.flags.getLsbD 0) b⟩
  | .vidot4 f => some ⟨f, specVidot, .s32, .s32, .s32, false, fun a b c =>
        let r := written (f.ty != 2) 32 (f.flags.getLsbD 0) (dot4 (f.ty != 2) a b c)
        (r.1.toNat, r.2)⟩
  | _ => none

/-- The vector instructions whose lanes give one predicate bit each: the frame, what it accepts, the types of the two sources, the
bit and its events. -/
def testOp : Instr → Option (FFrame × FSpec × Ty × Ty × (Nat → Nat → Bool × Events))
  | .vcmp f =>
    let t := Ty.ofCode .s32 f.ty
    some (f, specVcmp f, t, t, fun a b =>
      (holds (f.variant.toNat % 8) (num t.signed (BitVec.ofNat t.width a)) (num t.signed (BitVec.ofNat t.width b)), 0))
  | .vfcmp f => some (f, specFcmp f, fty f, fty f, fun a b =>
      let x := readF (fty f).fmt a
      let y := readF (fty f).fmt b
      (fCond (f.variant.toNat / 4 % 8) x.1 y.1, x.2 ||| y.2))
  | .vfclass f => some (f, specFclass f, fty f, .u32, fun a b => (b.testBit (fClass (fty f).fmt a), 0))
  | _ => none

/-- The bits of a mask, given lane by lane. -/
def bitsOf (fn : Nat → Bool) : W32 := maskOf fn

/-! ### Two results, two kinds of source (R112, R114, R125, R116) -/

/-- The sum with carry of `VADDC`, or the difference with borrow of `VSUBB`, of w-bit operands: the w-bit value and the bit that
leaves (R114). -/
def carried (sub : Bool) {w : Nat} (a b : BitVec w) (ci : Bool) : BitVec w × Bool :=
  let x : Int := if sub then a.toNat - b.toNat - ci.toNat else a.toNat + b.toNat + ci.toNat
  (BitVec.ofInt w x, if sub then decide (x < 0) else decide (2 ^ w ≤ x))

/-- `VADDC` and `VSUBB`: does it subtract, and the frame. -/
def carryOp : Instr → Option (Bool × FFrame)
  | .vaddc f => some (false, f)
  | .vsubb f => some (true, f)
  | _ => none

/-- The elements of a 16-bit pair in a lane, as numbers of a format (R125). -/
def half (t : Fmt) (v : Lanes64) (l i : Nat) : Machine.Num × Events := readF t (laneNat v l / 2 ^ (16 * i) % 2 ^ 16)

/-! ### Predicates (R117) -/

/-- The instructions on whole masks: the frame, the number of sources, the function of the two masks. -/
def maskOp : Instr → Option (FFrame × Nat × (W32 → W32 → W32))
  | .pand f => some (f, 2, fun a b => a &&& b)
  | .por f => some (f, 2, fun a b => a ||| b)
  | .pxor f => some (f, 2, fun a b => a ^^^ b)
  | .pnot f => some (f, 1, fun _ b => ~~~b)
  | .pmov f => some (f, 1, fun _ b => b)
  | _ => none

/-- Write a predicate register in the lanes of a mask; the other bits stand (R91). -/
def putP (e : Env) (n : Nat) (m x : W32) (s : State) : State :=
  s.modSlice e.cur.grp e.cur.a (fun sl => { sl with pred := sl.pred.setIfInBounds n ((x &&& m) ||| (sl.p n &&& ~~~m)) })

/-- Does a code name a scalar: an s register, or a queue of scalar entries? -/
abbrev IsScalar (e : Env) (code : BitVec 8) : Prop :=
  RC.of code = .s ∨ (RC.of code = .q ∧ (12 ≤ regNo code ∨ (e.g.queue (regNo code)).scalar = true))

/-! ### Cross-lane results (R130 to R136) -/

/-- The lane that `SHFL` reads (R132). -/
def shuffleLane (mode w l k : Nat) : Nat :=
  let base := l - l % w
  let i := l % w
  if mode = 0 then base + k % w
  else if mode = 1 then (if k ≤ i then l - k else l)
  else if mode = 2 then (if i + k < w then l + k else l)
  else base + (i ^^^ k) % w

/-- The active lanes, ascending. -/
def actives (m : W32) : List Nat := (List.range 32).filter (fun l => m.getLsbD l)

/-- What `VOTE` gives (R134) for the values b of the lanes of a mask. -/
def ballot (mode : Nat) (m : W32) (b : Lanes64) : Nat :=
  let c (l : Nat) : Bool := m.getLsbD l && lane b l != 0
  if mode = 0 then (bitsOf c).toNat
  else if mode = 1 then (if (actives m).any c then 1 else 0)
  else if mode = 2 then (if (actives m).all c then 1 else 0)
  else if (actives m).all (fun l => (actives m).all (fun k => lane b l == lane b k)) then 1 else 0

/-- Do the keys of two lanes agree (R135)? Under `.feq` two numbers that compare equal; a NaN agrees with nothing. -/
def agrees (t : Ty) (feq : Bool) (x y : Nat) : Bool :=
  if feq then
    match (t.fmt.decode x).1, (t.fmt.decode y).1 with
    | .nan, _ => false
    | _, .nan => false
    | a, b => cmpNum a b == .eq
  else x == y

/-- The lanes that `VSCAN` combines for lane l (R136). -/
def scanned (m : W32) (excl : Bool) (l : Nat) : List Nat :=
  (actives m).filter (fun k => if excl then decide (k < l) else decide (k ≤ l))

/-- The stream of `VPACK`: the w-bit element codes of the 32 lanes, an inactive lane's code being 0 (R130). -/
def packed (w : Nat) (m : W32) (code : Nat → Nat) : Nat :=
  (List.range 32).foldl (fun x i => x + (if m.getLsbD i then code i % 2 ^ w else 0) * 2 ^ (w * i)) 0


/-- The code that packing and unpacking give (R130): a float value rounded once to its format, also its own; else a conversion. -/
def repacked (d t : Ty) (mode : Mode) (sat : Bool) (c : Nat) : Nat × Events :=
  match d, t with
  | .fl fd, .fl ft =>
    let x := readF ft c
    let r := roundTo fd x.1 mode sat
    (r.1, x.2 ||| r.2)
  | _, _ => convert d t mode sat c

/-! ### Control flow (R93 to R106) -/

/-- A control frame may execute for the issuing slot: its fields are legal (R56). -/
def CReady (e : Env) (c : CFrame) (form : CForm) (guardable : Bool) (s : State) : Prop :=
  s.env? = some e ∧ c.ok form guardable = true

/-- The s register that a control frame names may be read: nothing outstanding writes it (R33). -/
abbrev RegReady (e : Env) (c : CFrame) (s : State) : Prop := OperandReady e s { pos := .sreg, code := c.reg }

/-- Change the issuing slice. -/
def onSlice (e : Env) (f : Slice → Slice) (s : State) : State := s.modSlice e.cur.grp e.cur.a f

/-- The issuing path goes to a PC. -/
def goTo (e : Env) (pc : Va) (s : State) : State :=
  onSlice e (fun sl => sl.setSlot e.cur.slot1 ((sl.slot e.cur.slot1).map (fun p => { p with pc := pc }))) s

/-- The instruction's own PC plus a signed offset in instruction words (R93). -/
def offsetPc (e : Env) {n : Nat} (off : BitVec n) : Va := e.path.pc + BitVec.ofInt 56 (8 * off.toInt)

/-- The path of the issuing slot is replaced. -/
def putPath (e : Env) (p : Path) (s : State) : State := onSlice e (fun sl => sl.setSlot e.cur.slot1 (some p)) s


/-! ### Loads, stores and atomics (R149, R163, R164, R168 to R184) -/

/-- The group is in its subcore's allowed set (R149). -/
def Allowed (e : Env) (s : State) : Prop := 16 * e.g.sub + e.g.slot ∈ (s.core e.g.core).allowed

/-- An access instruction may execute: its fields are legal and its operands are ready; `ns` says which of them are destinations. -/
def MReady (e : Env) (sp : FSpec) (f : FFrame) (conds : List Cond) (ns : List Named) (s : State) : Prop :=
  s.env? = some e ∧ f.ok sp false = true ∧ conds = [] ∧ ∀ n ∈ ns, OperandReady e s n

/-- The transaction table has room for n lines, at most 32 of them at once, behind the older slots that still wait (R163). -/
def TableRoom (e : Env) (n : Nat) (s : State) : Prop :=
  let k := s.core e.g.core
  let older := (k.ttWait.takeWhile (fun w => w.1 != e.cur)).filter (fun w => s.waitsEntries w.1)
  n = 0 ∨ k.used + (older.map (fun w => w.2)).sum + min 32 n ≤ 256

/-- An access may be entered (R163, R164, R438): its wait counter is below 63, the transaction table has room for its lines, and no
peer's window is full. -/
def EnterRoom (e : Env) (kind : PendKind) (accs : List LaneAcc) (s : State) : Prop :=
  let sl := (s.slice? e.cur.grp e.cur.a).getD e.sl
  (if kind.isLoad then sl.loads else sl.stores) < 63 ∧ TableRoom e (entriesOf accs) s ∧
  ∀ p ∈ accs.filterMap (fun a => match a.place with | .fabric p _ => some p | _ => none),
    s.fabric.unanswered p + entriesOf (accs.filter (fun a => match a.place with | .fabric q _ => q == p | _ => false)) ≤ 4096

/-- The lanes of a global access, ascending, at addresses and places given lane by lane. A lane that goes to a peer has yet to be sent. -/
def lanesAt (m : W32) (size : Nat) (va : Nat → W64) (pl : Nat → Place) (data cmp : Nat → List Byte) : List LaneAcc :=
  (actives m).map (fun l => { lane := l, va := va l, place := pl l, size := size, data := data l, cmp := cmp l, bank := 0,
                              arrived := (match pl l with | .fabric _ _ => false | _ => true), done := false })

/-- The access of a slice made once, as lane 32. -/
def onceAt (size : Nat) (va : W64) (pl : Place) (data : List Byte) : List LaneAcc :=
  [{ lane := 32, va := va, place := pl, size := size, data := data, cmp := [], bank := 0,
     arrived := (match pl with | .fabric _ _ => false | _ => true), done := false }]

/-- The address of a lane (R169): base, offset, and the displacement in units of the access size. -/
def laneVa (a b : Lanes64) (f : FFrame) (size l : Nat) : W64 := lane a l + lane b l + BitVec.ofInt 64 (f.srcC.toInt * (size : Int))

/-- Every active lane's address translates for an access and is a multiple of the size (R172). -/
def Placed (e : Env) (s : State) (m : W32) (size : Nat) (acc : Access) (va : Nat → W64) (pl : Nat → Place) : Prop :=
  ∀ l ∈ actives m, e.xlate s (va l) acc = .place (pl l) ∧ (va l).toNat % size = 0

/-- No active lane reads a poisoned line (R391). -/
def Unpoisoned (s : State) (m : W32) (pl : Nat → Place) : Prop := ∀ l ∈ actives m, ∀ a, pl l = .mem a → s.poisoned a = false

/-- What an access enters: its kind, destination and lanes, with the scope and order of the variant (R53). -/
def access (f : FFrame) (kind : PendKind) (dst : PendDst) (ext : LoadExt) (accs : List LaneAcc) (nc : Bool) : NewPend :=
  ⟨kind, dst, ext, accs, Scope.ofCode (f.variant.toNat % 8), f.variant.toNat / 8 % 4, nc, none⟩


/-! ### Fences, tags and barrier objects (R137, R160, R161, R185 to R196) -/

/-- The outstanding accesses of the issuing slice. -/
def mine (e : Env) (s : State) : List Pending := (s.core e.g.core).pend.filter (fun p => p.grp == e.cur.grp && p.a == e.cur.a)

/-- No access that an earlier acquire or pop of the slice stands for, or for a write a release fence, is outstanding (R34, R185). -/
def Ordered (e : Env) (write : Bool) (s : State) : Prop :=
  let sl := (s.slice? e.cur.grp e.cur.a).getD e.sl
  ∀ p ∈ (s.core e.g.core).pend, p.id ∉ sl.acqIds ∧ (write = true → p.id ∉ sl.relIds)

/-- `tag_hash` of R161: the six bytes of a key combined by exclusive or, modulo the number of sets. -/
def hashOf (k : BitVec 48) (n : Nat) : Nat :=
  ((k.extractLsb' 0 8 ^^^ k.extractLsb' 8 8 ^^^ k.extractLsb' 16 8 ^^^ k.extractLsb' 24 8 ^^^ k.extractLsb' 32 8 ^^^
    k.extractLsb' 40 8).toNat) % n

/-- The tag table of the half that the issuing group lies on. -/
def tagTable (e : Env) (s : State) : List (List TagEntry) :=
  let w := (s.wg? e.w.id).getD e.w
  if e.g.half1 then w.tags1 else w.tags0

/-- Replace that tag table. -/
def putTags (e : Env) (t : List (List TagEntry)) (s : State) : State :=
  s.modWg e.w.id (fun w => if e.g.half1 then { w with tags1 := t } else { w with tags0 := t })

/-- The table after the lanes of a mask have set entries: where lanes name one entry the lowest wins (R188). -/
def tagsSet (t : List (List TagEntry)) (m : W32) (key : Nat → BitVec 48) (slot way : Nat → Nat) : List (List TagEntry) :=
  t.mapIdx (fun i set => set.mapIdx (fun j x =>
    match (actives m).find? (fun l => hashOf (key l) t.length == i && way l == j) with
    | some l => { key := key l, slot := BitVec.ofNat 32 (slot l), valid := true }
    | none => x))

/-- A write of a barrier object in memory meets the watchpoints (R407). -/
def noted (e : Env) (o : BarObj) (rd wr : Bool) (s : State) : State :=
  if o.grid then s.watchHit e.cur.grp e.cur.a [(o.va, 32)] rd wr else s

/-- The object of srcA is found at its place, and holds nothing that the operation refuses (R190). -/
def Found (e : Env) (f : FFrame) (write : Bool) (op : BarOp) (s : State) (o : BarObj) (t : State) : Prop :=
  findObj e f write (e.active f.guard) s = .ok (o, t) ∧ objReason (t.objRead o.ref) op = none


/-! ### Geometry, matrix and accumulators (R204 to R212, R219 to R241) -/

/-- Write a geometry register of the issuing group. -/
def putGeo (e : Env) (code : BitVec 8) (x : BitVec 512) (s : State) : State :=
  s.modGroup e.cur.grp (fun g => { g with geom := g.geom.setIfInBounds (regNo code) x })

/-- A number with the w bits from lo replaced. -/
def withField (x lo w v : Nat) : Nat := x - x / 2 ^ lo % 2 ^ w * 2 ^ lo + v % 2 ^ w * 2 ^ lo

/-- The fields of a geometry register (Table 8.1) that a source names: `zero` has none. -/
def geoOf (e : Env) (code : BitVec 8) : Geom := Geom.ofReg (e.geomReg code)

/-- The pieces of an aligned access made once for the slice, all at places. -/
def PiecesPlaced (e : Env) (s : State) (va : W64) (n : Nat) (acc : Access) (pl : Nat → Place) : Prop :=
  va.toNat % n = 0 ∧ ∀ p ∈ piecesOf va n, e.xlate s p.2.1 acc = .place (pl p.1)

/-- Those pieces as accesses of 8 bytes with their data. -/
def piecesAt (va : W64) (n : Nat) (pl : Nat → Place) (data : List Byte) : List LaneAcc :=
  markPeers ((piecesOf va n).map (fun p => laneAcc 8 (fun l => (data.drop (8 * (l - 32))).take 8) noBytes (p.1, p.2.1, pl p.1)))

/-- No queued pass or move of the group names one of the tiles (R238). -/
def TilesIdle (e : Env) (tiles : List Nat) (s : State) : Prop :=
  ∀ p ∈ ((s.core e.g.core).sub e.g.sub).passes, p.grp = e.cur.grp → ∀ n ∈ p.tiles, n ∉ tiles

/-- A pass may be queued n times (R226, R164). -/
def PassRoom (e : Env) (n : Nat) (s : State) : Prop :=
  ((s.core e.g.core).sub e.g.sub).passes.length + n ≤ 8 ∧ ((s.slice? e.cur.grp e.cur.a).getD e.sl).passes + n ≤ 63

/-- A group whose tile t, or pair from t, has new cells where `change` gives one. -/
def putCells (t : Nat) (wide : Bool) (change : Nat → Nat → Option Nat) (g : Group) : Group :=
  { g with acc := g.acc.mapIdx (fun k tile =>
      if k = t ∨ (wide = true ∧ k = t + 1) then
        tabulate 32 (fun i => tabulate 32 (fun j => match change i j with
          | some x => BitVec.ofNat 32 (if k = t then x else x / 2 ^ 32)
          | none => (tile[i])[j]))
      else tile) }

/-- A multiply instruction meets no condition at decode (R13, R59, R223): the pair of tiles that its type or its descriptor asks for is
allocated, and a descriptor's formats suit its modifiers and its tile. -/
def MulLegal (e : Env) (w : WFrame) (sparse : Bool) : Prop :=
  pairCond e w.f.dst (mmType w == some 7) = [] ∧
  ∀ d, e.descOf w.f.srcC = some d →
    let b := FBlock.of d
    (w.f.variant.getLsbD 2 = true → b.afmt ∈ [1, 2] ∧ b.bfmt ∈ [1, 2]) ∧
    (fblockReason d (if sparse then 2 else 1) = none → b.afmt = 7 → w.f.dst.toNat % 2 = 0 ∧ pairCond e w.f.dst true = [])

/-- A multiply instruction meets no condition of R139's order: A and every class of B are accepted, every place lies in local store,
the descriptor is legal, and under `.chk` no row lies beyond the extent (R222 to R231); no request stands before the metadata that it
reads (R158). -/
def MulReady (e : Env) (w : WFrame) (x : MulIn) (kept : List (Nat × List (BitVec 2))) (s : State) : Prop :=
  let m := e.active w.f.guard
  let a := geoOf e w.srcE
  let b := geoOf e w.srcD
  (x.desc.bind (fun d => fblockReason d (if x.sparse then 2 else 1))) = none ∧
  (x.acceptA a true).reason? = none ∧ (∀ c ∈ x.classes, (x.acceptB b c.1 true).reason? = none) ∧
  (if x.sparse then x.sparseMeta s e m a w.imm = ([], [], kept) ∧ s.fencesTo e .matrix s = .ok ([], s) ∧
      s.placesBehind (x.metaWords s e w.imm) = false
    else kept = []) ∧
  x.stray s e m a b true true = [] ∧
  (w.f.variant.getLsbD 0 = true → ∀ p ∈ x.rows, p.2.toNat < a.rowCount)

/-- The passes that a multiply instruction queues, one for each class of equal B handles (R224, R226). -/
def queuePasses (e : Env) (w : WFrame) (x : MulIn) (kept : List (Nat × List (BitVec 2))) : List (W64 × List Nat) → Exec Unit
  | [] => pure ()
  | c :: l => do
    let a := geoOf e w.srcE
    let b := geoOf e w.srcD
    let rows := x.rows.filter (fun p => decide (p.2.toNat < a.rowCount) && c.2.contains (p.1 / 8))
    let cost (r : Accept) (bits : Nat) : Nat := (r.cost * (bits / 8) + 1023) / 1024
    addPass e (.mma (regNo w.f.dst) rows (e.geomReg w.srcE) (e.geomReg w.srcD) x.hA c.1 (BitVec.ofNat 4 x.fmtA)
        (BitVec.ofNat 4 x.fmtB) x.desc (w.f.variant.getLsbD 1) (w.f.variant.getLsbD 2) (if x.sparse then some kept else none))
      (passCycles x.fmtA + cost (x.acceptA a true) (rows.length * a.rowLen * a.eb) +
        cost (x.acceptB b c.1 true) (32 * b.rowLen * b.eb))
      (tilesOf w.f.dst (x.fmtA == 7)) []
    queuePasses e w x kept l


/-! ### Engine commands, work, system instructions (R242 to R265, R285 to R294, R320 to R324, R445 to R454) -/

/-- The register options of a command are ready: with `.at` and `.rel` both, the second register too (R245). -/
def OptionReady (e : Env) (w : WFrame) (s : State) : Prop :=
  w.wflags.extractLsb' 0 2 = 3 → OperandReady e s { pos := .sreg, code := w.srcF + 1 }

/-- A command may be queued: its queue and the copies counter have room (R242, R164). -/
def QueueRoom (e : Env) (i : EngineId) (prio : Bool) (s : State) : Prop :=
  (if prio then (s.engine i).prio else (s.engine i).normal).length < engineLen i ∧
  ((s.slice? e.cur.grp e.cur.a).getD e.sl).copies < 63

/-- No request stands ahead in the banks that hold the peer list of a descriptor (R158). -/
def ListReady (e : Env) (x : W64) (s : State) : Prop :=
  let n := 4 * (x.toNat / 2 ^ 32 % 2 ^ 7)
  ∀ r, s.lsRef e.w e.g.half1 (x.setWidth 32) n = some r → s.rangeBehind e.g.core r.wg r.half1 r.off n = false

/-- Resolving operands found nothing to wait for and no condition (R247). -/
def Settled (r : Resolve) : Prop := r.walks = [] ∧ r.conds = [] ∧ r.pages = []

/-- The copy commands: kind, frame rules, frame. -/
def copyOp : Instr → Option (CmdKind × WSpec × WFrame)
  | .cpy w => some (.cpy, specCpy w, w)
  | .cpyg w => some (.cpyg, specCpyg w, w)
  | .cpys w => some (.cpys, specCpyg w, w)
  | .cpyz w => some (.cpyz (cpyzForm w) (bit5 w.f), specCpyz w, w)
  | .cpym w => some (.cpym, specCpy w, w)
  | _ => none

/-- What a copy command reads at issue (R248). -/
def copyIn (e : Env) (kind : CmdKind) (w : WFrame) : CopyIn :=
  { kind := kind, w := w, dst := geoOf e w.f.srcA, src := geoOf e w.f.srcC, dstH := e.sl.s (regNo w.f.dst),
    srcH := srcSz e w.f.srcB, m := e.active w.f.guard }

/-- The release of a command: its address, if any, with the immediate (R245, R252). -/
def releaseOf (e : Env) (w : WFrame) : Option (W64 × W32) :=
  if w.wflags.getLsbD 1 then some (e.sl.s (regNo w.srcF + (if w.wflags.getLsbD 0 then 1 else 0)), w.imm) else none

/-- The start instant of a command, if any. -/
def startOf (e : Env) (w : WFrame) : Option W64 := if w.wflags.getLsbD 0 then some (e.sl.s (regNo w.srcF)) else none

/-- The barrier operand of a command, if any. -/
def barrierOf (e : Env) (code : BitVec 8) : Option W64 := if RC.of code = .s then some (e.sl.s (regNo code)) else none

/-- An instruction that reads memory as one load of the slice finds its bytes (R178, R289, R294); its watchpoints see the read
(R407). -/
def Reads (e : Env) (va : W64) (n : Nat) (m : W32) (s : State) (bs : List Byte) (t : State) : Prop :=
  ∃ u, readNow e va n .dev m true false s = .ok (bs, u) ∧ t = u.watchHit e.cur.grp e.cur.a [(va, n)] true false

/-- One more in the stores counter of the slice (R164). -/
def countStore (e : Env) (s : State) : State := onSlice e (fun sl => { sl with stores := sl.stores + 1 }) s

/-- The F instruction that a half of a pair frame stands for: its opcode is the P code plus 0x80 (R48). -/
def halfForm (h : PHalf) : Option Instr := (lookupCode (h.op.toNat + 0x80) mapF).map (fun k => k h.toF)


/-! ### Events -/

/-- A slice of a group that is resident. -/
def Resident (s : State) (grp : Nat) (a : Bool) (g : Group) (sl : Slice) : Prop := s.group? grp = some g ∧ s.slice? grp a = some sl

/-- The present die cycle of a core. -/
def cycleOf (s : State) (core : Nat) : Nat := (s.die (dieOf core)).dcyc

/-- The outstanding access of a number on a core. -/
def pendAt (s : State) (core id : Nat) : Option Pending := (s.core core).pend.find? (fun p => p.id == id)

/-- An access of a core that memory may serve: nothing of it is refused, and nothing of it is at a poisoned line or behind a port that
has been down for 10 ms. -/
def Servable (s : State) (core : Nat) (p : Pending) : Prop :=
  p.refused = none ∧ s.poisonedAcc p = none ∧ s.deadPort p = none

/-- What memory does for such an access: the requests that may leave are sent, and the lanes that may be performed are. -/
def served (s : State) (core : Nat) (p : Pending) : State :=
  let s1 := s.sendReady core p
  if s.readyAt core p = [] then s1.completeIf core p.id else s1.perform core p (s.readyAt core p)

/-- Set the engine of an id. -/
def running (i : EngineId) (c : Command) (s : State) : State := s.modRunning i (fun _ => c)

/-- Set fields of the package controller. -/
def pkgSet (f : Package → Package) (s : State) : State := { s with pkg := f s.pkg }

/-- Set fields of the fabric. -/
def fabricSet (f : Fabric → Fabric) (s : State) : State := { s with fabric := f s.fabric }

/-- The running command of an engine of a die in service. -/
def Runs (i : EngineId) (c : Command) (s : State) : Prop := (s.engine i).running = some c ∧ s.engineOk i = true

/-- The units that one event moves: about as many as asked for, as are left, and as the peers' windows take at once, up to where no
atomic unit is cut (R264, R335). -/
def portion (s : State) (c : Command) (n : Nat) : List Nat :=
  let want := min (min n (s.unitLimit c)) (c.units - c.moved)
  if want = 0 then [] else (List.range (s.portionEnd c want - c.moved)).map (fun k => c.moved + k)

/-- The run of a command over some units, from the state s. -/
def movedBy (s : State) (c : Command) (is_ : List Nat) : Run :=
  is_.foldl (fun (r : Run) i => r.move i)
    { s := s, c := { c with moved := c.moved + is_.length,
                            result := s.noteHost ((is_.map (s.unitReads c)).flatten ++ (is_.map (s.unitWrites c)).flatten) c.result },
      out := [], home := [] }

/-! ### Frames, traps and operands -/

/-- The frame of a register instruction of Tables 4.4, 4.6, 5.1 and 5.2 or of a comparison, and whether its result fills a register
pair. -/
def registerOp (i : Instr) : Option (FFrame × Bool) :=
  match scalarOp false i, vectorOp i, laneOp i, testOp i with
  | some x, _, _, _ => some (x.1, false)
  | none, some x, _, _ => some (x.1, (Ty.ofCode .s32 x.1.ty).wide)
  | none, none, some x, _ => some (x.f, x.wide)
  | none, none, none, some x => some (x.1, false)
  | none, none, none, none => none

/-- The registers that an exception writes (Table 5.4, R165). -/
def causeRegs (sl : Slice) : BitVec 8 × W64 × W64 × Va × BitVec 5 × Va × BitVec 33 :=
  (sl.cause, sl.aux0, sl.aux1, sl.epc, sl.skid, sl.fpc, sl.emask)

/-- The slice does not raise a trap of its own: a sibling has halted its workgroup, and it is not in handler mode; a halt that a
pre-emption or a debugger asked for counts only once it has reached the slice (R166, R378, R406). -/
def muted (e : Env) : Bool := e.w.halted && !e.sl.hmode && !(e.w.asked && e.sl.halt == .running)

/-- The issuing slice may take a trap. -/
def Traps (e : Env) (s : State) : Prop := s.env? = some e ∧ muted e = false

/-- The state after an issue that raised a trap: nothing of the instruction is done. -/
def trapped (e : Env) (m : W32) (t : TrapInfo) (s : State) : State := ((s.dropFaults e.g.core e.w.asn).afterIssue e m).takeTrap e t

/-- A trap at the instruction itself, with no auxiliary word. -/
def plain (e : Env) (cause : BitVec 8) : TrapInfo := ⟨cause, 0, 0, e.path.pc, none⟩

/-- The byte that lanes of a store, in ascending order of lane, put at an address: the highest lane's. -/
def storedAt (l : List LaneAcc) (a : Nat) : Option Byte :=
  l.reverse.findSome? (fun x => match x.place with
    | .mem pa => if pa ≤ a ∧ a < pa + x.size then x.data[a - pa]? else none
    | _ => none)

/-- The instructions whose words decode to nothing else: a reserved word, and a literal or pair frame whose codes have the form. -/
def ownWord (i : Instr) : Prop :=
  (∀ w, i = .reservedOpcode w → wf i = true) ∧ (∀ l, i = .literalFrame l → l.hasForm = true) ∧
  (∀ h0 h1, i = .pairFrame h0 h1 → h0.hasForm = true ∧ h1.hasForm = true)

/-- The union of the lanes of paths. -/
def lanesUnion (ps : Paths) : W32 := ps.all.foldl (fun m p => m ||| p.mask) 0

/-- No lane is on two paths. -/
def Apart (ps : Paths) : Prop := ps.all.Pairwise (fun p q => p.mask &&& q.mask = 0)

/-- The conditions that the registers of the operands in use meet at decode (R13, R25). -/
def namedConds (e : Env) (l : List Named) : List Cond :=
  ((l.filter (fun n => !n.pos.accepts.isEmpty)).map (fun n => regConds e n.pos n.push n.code)).flatten

/-- The 8 bytes at a PC stand at an address of device memory: the page is present, executable and not poisoned (R39, R40). -/
def CanFetch (e : Env) (s : State) (pc : Va) (a : Nat) : Prop :=
  pc.getLsbD 55 = false ∧ (∃ p, e.xlate s (pc.setWidth 64) .load = .place p) ∧
    e.xlate s (pc.setWidth 64) .fetch = .place (.mem a) ∧ s.poisoned a = false

end Sys2Proof.Claims

open Sys2Proof Sys2Proof.Machine Sys2Proof.Claims

/-- Tables 4.4 and R92: every scalar integer instruction, in its F form and its L form, completes with its exact result written
once for the slice. The operands are the values that its sources give under R107; the destination is written as `dstS` says
(OperandForms says what the register codes name). -/
def Obligations.ScalarIntegerResult : Prop :=
  ∀ (i : Instr) (f : FFrame) (sp : FSpec) (op : IntOp) (s t : State) (e : Env) (a b c : W64),
    scalarOp (asF i).2.isSome (asF i).1 = some (f, sp, op) →
    FReady e sp f (asF i).2 s → ScalarSources e sp f (asF i).2 s a b c t → Room e f.dst 1 t →
    let ty := Ty.ofCode .s64 f.ty
    let r := written ty.signed ty.width (f.flags.getLsbD 0)
      (exact op ty.signed (a.setWidth ty.width) (b.setWidth ty.width) (c.setWidth ty.width))
    ∃ u, dstS e (e.active f.guard) f.dst (scalarOf ty.signed r.1) t = .ok ((), u) ∧
      exec i s = .next (done e (e.active f.guard) 8 (if e.active f.guard = 0 then 0 else r.2) u)

/-- Table 4.6: every vector integer instruction whose lanes follow R108, in its F form and its L form, completes with the exact
result of each active lane written by R92. -/
def Obligations.VectorIntegerResult : Prop :=
  ∀ (i : Instr) (f : FFrame) (sp : FSpec) (op : IntOp) (s t : State) (e : Env) (a b c : Lanes64),
    vectorOp (asF i).1 = some (f, sp, op) →
    FReady e sp f (asF i).2 s →
    let ty := Ty.ofCode .s32 f.ty
    vecSources e sp f (asF i).2 ty ty ty s = .ok ((a, b, c), t) → Room e f.dst (if ty.wide then 2 else 1) t →
    let r := Claims.lanesOf (e.active f.guard) (fun l =>
      let x := written ty.signed ty.width (f.flags.getLsbD 0)
        (exact op ty.signed ((lane a l).setWidth ty.width) ((lane b l).setWidth ty.width) ((lane c l).setWidth ty.width))
      (x.1.setWidth 64, x.2))
    ∃ u, dstV e ty.wide (e.active f.guard) f.dst r.1 t = .ok ((), u) ∧
      exec i s = .next (done e (e.active f.guard) 8 r.2 u)

/-- Tables 5.1 and 5.2, R115 and R128: every vector instruction whose lanes stand alone completes with its lane result, in its F form
and its L form; the conversion has no L form.
It rests on the model's choices of log entries 2, 17, 87 and 108. -/
def Obligations.VectorLaneResult : Prop :=
  ∀ (i : Instr) (x : LaneOp) (s t : State) (e : Env) (a b c : Lanes64),
    laneOp (asF i).1 = some x → (∀ l g, i = .literalFrame l → (asF i).1 ≠ .vcvt g) →
    FReady e x.sp x.f (asF i).2 s →
    vecSources e x.sp x.f (asF i).2 x.ta x.tb x.tc s = .ok ((a, b, c), t) → Room e x.f.dst (if x.wide then 2 else 1) t →
    let m := e.active x.f.guard
    let r := Claims.lanesOf m (fun l =>
      let y := x.fn (laneNat a l) (laneNat b l) (laneNat c l)
      (BitVec.ofNat 64 y.1, y.2))
    ∃ u, dstV e x.wide m x.f.dst r.1 t = .ok ((), u) ∧ exec i s = .next (done e m 8 r.2 u)

/-- R109, R116, R123, R124: the comparisons and the class test write one predicate bit for each active lane, and complete. -/
def Obligations.VectorTestResult : Prop :=
  ∀ (i : Instr) (f : FFrame) (sp : FSpec) (ta tb : Ty) (fn : Nat → Nat → Bool × Events) (s t : State) (e : Env)
    (a b c : Lanes64),
    testOp (asF i).1 = some (f, sp, ta, tb, fn) → FReady e sp f (asF i).2 s →
    vecSources e sp f (asF i).2 ta tb ta s = .ok ((a, b, c), t) →
    let m := e.active f.guard
    let r (l : Nat) := fn (laneNat a l) (laneNat b l)
    exec i s = .next (done e m 8 (Claims.lanesOf m (fun l => (0, (r l).2))).2
      (t.modSlice e.cur.grp e.cur.a (fun sl => { sl with
        pred := sl.pred.setIfInBounds (regNo f.dst) ((bitsOf (fun l => (r l).1) &&& m) ||| (sl.p (regNo f.dst) &&& ~~~m)) })))

/-- R114, R116: `VADDC` and `VSUBB` write each active lane's value and its carry or borrow into the predicate that variant [3:0]
names, and complete, in their F forms and L forms. -/
def Obligations.VectorCarryResult : Prop :=
  ∀ (i : Instr) (sub : Bool) (f : FFrame) (s s1 t : State) (e : Env) (a b : Lanes64),
    carryOp (asF i).1 = some (sub, f) → FReady e (specVcarry f) f (asF i).2 s →
    let ty := Ty.ofCode .s32 f.ty
    srcV e ty f.srcA none s = .ok (a, s1) → srcV e ty f.srcB (asF i).2 s1 = .ok (b, t) →
    Room e f.dst (if ty.wide then 2 else 1) t →
    let m := e.active f.guard
    let n := f.variant.toNat % 16
    let r (l : Nat) := carried sub ((lane a l).setWidth ty.width) ((lane b l).setWidth ty.width) ((e.sl.p n).getLsbD l)
    ∃ u, dstV e ty.wide m f.dst (tabulate 32 (fun l => (r l).1.setWidth 64)) t = .ok ((), u) ∧
      exec i s = .next (done e m 8 0 (putP e n m (bitsOf (fun l => (r l).2)) u))

/-- R112: `VSEL` takes each lane's a where its condition holds, a predicate's bit or a nonzero lane, and else its b; it completes. -/
def Obligations.VectorSelectResult : Prop :=
  ∀ (i : Instr) (f : FFrame) (s s1 s2 t : State) (e : Env) (a b c : Lanes64),
    (asF i).1 = .vsel f → FReady e (specVsel f) f (asF i).2 s →
    let ty := Ty.ofCode .s32 f.ty
    srcV e ty f.srcA none s = .ok (a, s1) → srcV e ty f.srcB (asF i).2 s1 = .ok (b, s2) →
    (RC.of f.srcC = .p → t = s2) → (RC.of f.srcC ≠ .p → srcV e ty f.srcC none s2 = .ok (c, t)) →
    Room e f.dst (if ty.wide then 2 else 1) t →
    let m := e.active f.guard
    let cond (l : Nat) : Bool := if RC.of f.srcC = .p then (srcP e f.srcC).getLsbD l else (lane c l).setWidth ty.width != 0
    ∃ u, dstV e ty.wide m f.dst (Claims.lanesOf m (fun l => (if cond l then lane a l else lane b l, 0))).1 t = .ok ((), u) ∧
      exec i s = .next (done e m 8 0 u)

/-- R125: `VFDOT2` rounds c + a0 × b0 + a1 × b1 once to FP32 in every active lane, and completes, in its F form and its L form. -/
def Obligations.DotPairResult : Prop :=
  ∀ (i : Instr) (f : FFrame) (s s1 s2 t : State) (e : Env) (a b c : Lanes64),
    (asF i).1 = .vfdot2 f → FReady e (specFdot f) f (asF i).2 s →
    let ft : Fmt := if f.ty = 10 then .f16 else .bf16
    dotSrc e ft f.srcA none s = .ok (a, s1) →
    (∀ x, (asF i).2 = some x → b = splat (x.setWidth 64) ∧ s2 = s1) → ((asF i).2 = none → dotSrc e ft f.srcB none s1 = .ok (b, s2)) →
    srcV e (.fl .f32) f.srcC none s2 = .ok (c, t) → Room e f.dst 1 t →
    let m := e.active f.guard
    let r := Claims.lanesOf m (fun l =>
      let z := readF .f32 (laneNat c l)
      let p0 := product (half ft a l 0).1 (half ft b l 0).1
      let p1 := product (half ft a l 1).1 (half ft b l 1).1
      let v := exactSum [z.1, p0.1, p1.1]
      let x := roundTo .f32 v.1 (Mode.ofCode f.variant.toNat) (f.flags.getLsbD 0)
      (BitVec.ofNat 64 x.1, z.2 ||| p0.2 ||| p1.2 ||| v.2 ||| x.2 ||| (half ft a l 0).2 ||| (half ft a l 1).2 |||
        (half ft b l 0).2 ||| (half ft b l 1).2))
    ∃ u, dstV e false m f.dst r.1 t = .ok ((), u) ∧ exec i s = .next (done e m 8 r.2 u)

/-- R117: the instructions on predicates. `PAND` to `PMOV` write a mask in the active lanes; `PFROM` takes b ≠ 0 of each lane, or bit l
of a scalar; `PTO` gives 0 or 1 in each lane, or the whole mask to a scalar; `PANY` and `PALL` give one bit over the active lanes.
Each completes. -/
def Obligations.PredicateResult : Prop :=
  ∀ (s : State) (e : Env),
    (∀ (i : Instr) (f : FFrame) (n : Nat) (fn : W32 → W32 → W32), maskOp i = some (f, n, fn) → FReady e (specP n) f none s →
      exec i s = .next (done e (e.active f.guard) 8 0
        (putP e (regNo f.dst) (e.active f.guard) (fn (srcP e f.srcA) (srcP e f.srcB)) s))) ∧
    (∀ (f : FFrame) (x : W64) (t : State), FReady e specPfrom f none s → IsScalar e f.srcB → srcS e f.srcB none s = .ok (x, t) →
      exec (.pfrom f) s = .next (done e (e.active f.guard) 8 0 (putP e (regNo f.dst) (e.active f.guard) (x.setWidth 32) t))) ∧
    (∀ (f : FFrame) (v : Lanes64) (t : State), FReady e specPfrom f none s → ¬ IsScalar e f.srcB →
      srcV e .u32 f.srcB none s = .ok (v, t) →
      exec (.pfrom f) s = .next (done e (e.active f.guard) 8 0
        (putP e (regNo f.dst) (e.active f.guard) (bitsOf (fun l => lane v l != 0)) t))) ∧
    (∀ f : FFrame, FReady e specPto f none s → Room e f.dst 1 s →
      ∃ u, (if IsScalar e f.dst then dstS e (e.active f.guard) f.dst ((srcP e f.srcB).setWidth 64) s
            else dstV e false (e.active f.guard) f.dst (tabulate 32 (fun l => if (srcP e f.srcB).getLsbD l then 1 else 0)) s) =
          .ok ((), u) ∧
        exec (.pto f) s = .next (done e (e.active f.guard) 8 0 u)) ∧
    (∀ (f : FFrame), FReady e specPanyall f none s →
      (∃ u, dstS e (e.active f.guard) f.dst (if e.active f.guard &&& srcP e f.srcB ≠ 0 then 1 else 0) s = .ok ((), u) ∧
        exec (.pany f) s = .next (done e (e.active f.guard) 8 0 u)) ∧
      (∃ u, dstS e (e.active f.guard) f.dst (if e.active f.guard &&& ~~~(srcP e f.srcB) = 0 then 1 else 0) s = .ok ((), u) ∧
        exec (.pall f) s = .next (done e (e.active f.guard) 8 0 u)))

/-- R132 to R136: the cross-lane instructions complete, each with what its rule gives: `SHFL` and `BCAST` a chosen lane's value, `VCOMP`
the active lanes' values in the lowest lanes, `VOTE` one scalar, `MATCH` a mask for each lane, with the events of its keys under `.feq`
(R69, R87), `VRED` one value, `VSCAN` the running combinations.
It rests on the model's choices of log entries 96 and 113. -/
def Obligations.CrossLaneResult : Prop :=
  ∀ (f : FFrame) (s s1 t : State) (e : Env) (a b : Lanes64) (x : W64),
    let ty := Ty.ofCode .u32 f.ty
    let m := e.active f.guard
    let wide := if ty.wide then 2 else 1
    (FReady e (specShfl f) f none s → srcV e ty f.srcA none s = .ok (a, s1) → srcV e .u32 f.srcB none s1 = .ok (b, t) →
      Room e f.dst wide t →
      let w := shflWidth (f.variant.toNat / 4 % 8)
      ∃ u, dstV e ty.wide m f.dst (tabulate 32 (fun l =>
          lane a (shuffleLane (f.variant.toNat % 4) w l (laneNat b l % 2 ^ 32)))) t = .ok ((), u) ∧
        exec (.shfl f) s = .next (done e m 8 0 u)) ∧
    (FReady e (specBcast f) f none s → srcV e ty f.srcA none s = .ok (a, s1) → srcS e f.srcB none s1 = .ok (x, t) →
      Room e f.dst wide t →
      ∃ u, dstV e ty.wide m f.dst (splat (lane a (x.toNat % 32))) t = .ok ((), u) ∧ exec (.bcast f) s = .next (done e m 8 0 u)) ∧
    (FReady e (specVcomp f) f none s → srcV e ty f.srcB none s = .ok (b, t) → Room e f.dst wide t →
      let n := (actives m).length
      ∃ u, dstV e ty.wide (BitVec.ofNat 32 (2 ^ n - 1)) f.dst
          (tabulate 32 (fun i => lane b ((actives m).getD i 0))) t = .ok ((), u) ∧
        exec (.vcomp f) s = .next (done e m 8 0 u)) ∧
    (FReady e (specVote f) f none s → Room e f.dst 1 t →
      (RC.of f.srcB = .p → t = s ∧ b = tabulate 32 (fun l => if (srcP e f.srcB).getLsbD l then 1 else 0)) →
      (RC.of f.srcB ≠ .p → srcV e .u32 f.srcB none s = .ok (b, t)) →
      ∃ u, dstS e m f.dst (BitVec.ofNat 64 (ballot (f.variant.toNat % 4) m b)) t = .ok ((), u) ∧
        exec (.vote f) s = .next (done e m 8 0 u)) ∧
    (FReady e (specMatch f) f none s → srcV e ty f.srcB none s = .ok (b, t) → Room e f.dst 1 t →
      ∃ u, dstV e false m f.dst (tabulate 32 (fun l => (bitsOf (fun k => m.getLsbD k &&
          (k == l.val || agrees ty (f.variant.getLsbD 0) (laneNat b k) (laneNat b l)))).setWidth 64)) t = .ok ((), u) ∧
        exec (.matchLanes f) s = .next (done e m 8 (if f.variant.getLsbD 0 then
        (Claims.lanesOf m (fun l => (0, (readF ty.fmt (laneNat b l % 2 ^ ty.width)).2))).2 else 0) u)) ∧
    (FReady e (specVred f) f none s → srcV e ty f.srcB none s = .ok (b, t) →
      Room e f.dst (if IsScalar e f.dst then 1 else wide) t →
      let r := reduce ty (f.variant.toNat % 8) (Mode.ofCode (f.variant.toNat / 8)) (f.flags.getLsbD 0) b m
      ∃ u, (if IsScalar e f.dst then dstS e m f.dst (scalarOf ty.signed (BitVec.ofNat ty.width r.1)) t
            else dstV e ty.wide m f.dst (splat (BitVec.ofNat 64 r.1)) t) = .ok ((), u) ∧
        exec (.vred f) s = .next (done e m 8 (if m = 0 then 0 else r.2) u)) ∧
    (FReady e (specVscan f) f none s → srcV e ty f.srcB none s = .ok (b, t) → Room e f.dst wide t →
      let r := Claims.lanesOf m (fun l =>
        let y := scanLane ty (f.variant.toNat % 8) (Mode.ofCode (f.variant.toNat / 8)) (f.flags.getLsbD 0)
          ((scanned m (f.variant.getLsbD 5) l).map (laneCode ty b))
        (BitVec.ofNat 64 y.1, y.2))
      ∃ u, dstV e ty.wide m f.dst r.1 t = .ok ((), u) ∧ exec (.vscan f) s = .next (done e m 8 r.2 u))

/-- R129, R130: a block conversion gives every active lane the shared scale code above its element code; packing lays the active
lanes' codes end to end over the low lanes, and unpacking takes them back. Each completes.
It rests on the model's choice of log entry 96. -/
def Obligations.PackResult : Prop :=
  ∀ (f : FFrame) (s t : State) (e : Env) (b : Lanes64),
    let m := e.active f.guard
    let mode := Mode.ofCode f.variant.toNat
    let src := Ty.ofCode (.fl .f32) (ty2 f)
    (FReady e (specCvtb f) f none s → srcV e src f.srcB none s = .ok (b, t) → Room e f.dst 1 t →
      let d := (fty f).fmt
      let val (l : Nat) := readF src.fmt (laneNat b l)
      let scale := blockScale d ((actives m).map (fun l => (val l).1))
      let r := Claims.lanesOf m (fun l =>
        let y := roundTo d ((val l).1.scale (127 - (scale : Int))) mode true
        (BitVec.ofNat 64 (scale * 256 + y.1), y.2 ||| (val l).2))
      ∃ u, dstV e false m f.dst r.1 t = .ok ((), u) ∧ exec (.vcvtb f) s = .next (done e m 8 r.2 u)) ∧
    (let ty := Ty.ofCode .s8 f.ty
     FReady e (specPack f false) f none s → srcV e .u32 f.srcB none s = .ok (b, t) → Room e f.dst 1 t →
      let y (l : Nat) : Nat × Events := if ty2 f = 0 then (laneNat b l, 0) else repacked ty src mode true (laneNat b l)
      let x := packed ty.width m (fun l => (y l).1)
      ∃ u, dstV e false (m &&& BitVec.ofNat 32 (2 ^ ty.width - 1)) f.dst
          (tabulate 32 (fun j => BitVec.ofNat 64 (x / 2 ^ (32 * j.val) % 2 ^ 32))) t = .ok ((), u) ∧
        exec (.vpack f) s = .next (done e m 8 (Claims.lanesOf m (fun l => (0, (y l).2))).2 u)) ∧
    (let ty := Ty.ofCode .s8 f.ty
     FReady e (specPack f true) f none s → srcV e .u32 f.srcB none s = .ok (b, t) → Room e f.dst 1 t →
      let x := (List.range ty.width).foldl (fun x j => x + laneNat b j % 2 ^ 32 * 2 ^ (32 * j)) 0
      let r := Claims.lanesOf m (fun l =>
        let c := x / 2 ^ (ty.width * l) % 2 ^ ty.width
        let y := if ty2 f = 0 then (c, 0) else repacked src ty mode (f.flags.getLsbD 0) c
        (BitVec.ofNat 64 y.1, y.2))
      ∃ u, dstV e false m f.dst r.1 t = .ok ((), u) ∧ exec (.vunpack f) s = .next (done e m 8 r.2 u))

/-- R138: `QCNT`, `QROOM` and `QDRAIN` write the number of entries that a queue holds at the start, or the room it has; `QDRAIN`
removes what was held, each entry as a pop, after which the accesses before its push come first (R34). With no active lane nothing is
written or discarded. Each completes.
It rests on the model's choice of log entry 10. -/
def Obligations.QueueCountResult : Prop :=
  ∀ (i : Instr) (kind : Nat) (f : FFrame) (s : State) (e : Env),
    (i = .qcnt f ∧ kind = 0) ∨ (i = .qroom f ∧ kind = 1) ∨ (i = .qdrain f ∧ kind = 2) →
    s.env? = some e → f.ok specQ false = true → inspectConds e (kind == 2) (regNo f.srcB) = [] →
    s.busy e .sreg f.dst = false → (kind = 2 → SyncIdle e s) →
    let n := regNo f.srcB
    let q := e.g.queue n
    let held := if 12 ≤ n then (e.sl.engq n).length else (q.entries.takeWhile (fun x => x.fill.isNone)).length
    let depth := if 12 ≤ n then 16 else q.depth
    let m := e.active f.guard
    let s1 := if m = 0 then s else
      s.modSlice e.cur.grp e.cur.a (fun sl => sl.setS (regNo f.dst) (BitVec.ofNat 64 (if kind = 1 then depth - held else held)))
    let s2 := if kind ≠ 2 ∨ m = 0 then s1
      else if 12 ≤ n then s1.modSlice e.cur.grp e.cur.a (fun sl => sl.setEngq n ((sl.engq n).drop held))
      else onSlice e (fun sl => { sl with acqIds := addIds sl.acqIds ((q.entries.take held).map (fun x => x.after)).flatten })
        (s1.modGroup e.cur.grp (fun g => g.setQueue n ((g.queue n).drain held)))
    exec i s = .next (done e m 8 0 s2)

/-- Table 4.1, R93, R94, R103, R104: `NOP` moves past its 8 bytes; `BRA`, `BRZ`, `BRNZ` and `BRX` with an active lane and a condition
that holds go to their target, and else past their 8 bytes; `YIELD` lets the slice be passed over in the next 32 die cycles; `SLEEP`
stays at its PC until an instant that lies ahead. Each completes. -/
def Obligations.ControlTransfer : Prop :=
  ∀ (c : CFrame) (s : State) (e : Env),
    let m := e.active c.guard
    let v := e.sl.s (regNo c.reg)
    (CReady e c .none true s → exec (.nop c) s = .next (issued e m (movePast e 8 s))) ∧
    (CReady e c .long true s →
      exec (.bra c) s = .next (issued e m (if m = 0 then movePast e 8 s else goTo e (offsetPc e c.body) s))) ∧
    (CReady e c (.test .s) true s → RegReady e c s →
      exec (.brz c) s = .next (issued e m (if m ≠ 0 ∧ v = 0 then goTo e (offsetPc e c.low) s else movePast e 8 s)) ∧
      exec (.brnz c) s = .next (issued e m (if m ≠ 0 ∧ v ≠ 0 then goTo e (offsetPc e c.low) s else movePast e 8 s))) ∧
    (CReady e c .indirect true s → RegReady e c s → v.toNat % 8 = 0 →
      exec (.brx c) s = .next (issued e m (if m = 0 then movePast e 8 s else goTo e (v.setWidth 56) s))) ∧
    (CReady e c .none true s →
      exec (.yield c) s = .next (issued e m (movePast e 8 (if m = 0 then s else
        onSlice e (fun sl => { sl with yieldEnd := some ((s.die (dieOf e.g.core)).dcyc + 33) }) s)))) ∧
    (CReady e c .indirect true s → RegReady e c s →
      exec (.sleep c) s = .next (issued e m (if m ≠ 0 ∧ s.ptb (dieOf e.g.core) < v.toNat then
        onSlice e (fun sl => { sl with sleep := some v }) s else movePast e 8 s)))

/-- R100, R101: `CALL` and `CALLX` push the return PC and the path's mask and go to their target; `RET` takes the path's lanes out of the
topmost entry that shares a lane with it and goes to that entry's PC. With no active lane each only moves on. Each completes. -/
def Obligations.CallReturn : Prop :=
  ∀ (c : CFrame) (s u w : State) (e : Env) (l l1 : List (Va × W32)) (pc : Va),
    let m := e.active c.guard
    let v := e.sl.s (regNo c.reg)
    let entry := (e.path.pc + 8).toNat + e.path.mask.toNat * 2 ^ 64
    let pushed (target : Va) : State :=
      goTo e target (onSlice e (fun sl => { sl with cstackN := e.sl.cstackN + 1 }) u)
    e.sl.hmode = false →
    (CReady e c .long true s → m = 0 → exec (.call c) s = .next (issued e m (movePast e 8 s))) ∧
    (CReady e c .indirect true s → RegReady e c s → m = 0 → exec (.callx c) s = .next (issued e m (movePast e 8 s))) ∧
    (CReady e c .none true s → m = 0 → exec (.ret c) s = .next (issued e m (movePast e 8 s))) ∧
    (m ≠ 0 → e.sl.cstackN < cstackOf e.w.desc → writeEntry e true e.sl.cstackN entry s = .ok ((), u) →
      (CReady e c .long true s → exec (.call c) s = .next (issued e m (pushed (offsetPc e c.body)))) ∧
      (CReady e c .indirect true s → RegReady e c s → v.toNat % 8 = 0 →
        exec (.callx c) s = .next (issued e m (pushed (v.setWidth 56))))) ∧
    (CReady e c .none true s → m ≠ 0 → readCalls e e.sl.cstackN s = .ok (l, u) → matchReturn e.path.mask l = some (pc, l1) →
      pc.toNat % 8 = 0 → setCalls e l1 u = .ok ((), w) → exec (.ret c) s = .next (issued e m (goTo e pc w)))

/-- R96: `BRD` with no lane whose predicate is set moves on, with every lane set goes to its target, and else splits: the taken lanes
form a new path with the next age of the slice's counter, the others keep the old one at the next PC, each one split deeper. With both
slots occupied the older of the two paths goes to the stack. It completes.
It rests on the model's choices of log entries 8, 116 and 117. -/
def Obligations.SplitResult : Prop :=
  ∀ (c : CFrame) (s u w : State) (e : Env) (ps : Paths),
    let m := e.active c.guard
    let taken := m &&& srcP e c.reg
    let rest := e.path.mask &&& ~~~taken
    let one := e.cur.slot1
    let old : Path := { e.path with pc := e.path.pc + 8, mask := rest, depth := e.path.depth + 1 }
    let new : Path := { pc := offsetPc e c.low, mask := taken, age := e.sl.ageCtr, depth := e.path.depth + 1, parked := false }
    CReady e c (.test .p) true s → e.sl.hmode = false →
    (taken = 0 → exec (.brd c) s = .next (issued e m (movePast e 8 s))) ∧
    (taken ≠ 0 → rest = 0 → exec (.brd c) s = .next (issued e m (goTo e (offsetPc e c.low) s))) ∧
    (taken ≠ 0 → rest ≠ 0 → e.path.depth ≠ 0xFFFF#16 → readPaths e s = .ok (ps, u) →
      (∀ o, e.sl.slot (!one) = some o → e.sl.dstackN < dstackOf e.w.desc) →
      let qs := match e.sl.slot (!one) with
        | none => (ps.setSlot one (some old)).setSlot (!one) (some new)
        | some o =>
          if e.path.age < o.age then { ps.setSlot one (some new) with stack := old :: ps.stack }
          else { (ps.setSlot one (some old)).setSlot (!one) (some new) with stack := o :: ps.stack }
      writePaths e qs.settled u = .ok ((), w) →
      exec (.brd c) s = .next (issued e m (onSlice e (fun sl => { sl with ageCtr := e.sl.ageCtr + 1 }) w)))

/-- R97, R102, R94: `JOIN` at depth 0 moves on and else parks its path, which merges when it may; `EXIT` ends the active lanes, which
leave the slot and the call stack; `BRQ` pops one scalar and branches when it is not 0. Each completes.
It rests on the model's choices of log entries 116 and 117. -/
def Obligations.JoinExitResult : Prop :=
  ∀ (c : CFrame) (s t u w : State) (e : Env) (ps : Paths) (v : W64),
    let m := e.active c.guard
    let p : Path := { e.path with parked := true }
    let parked := ps.setSlot e.cur.slot1 (some p)
    (CReady e c .none false s → e.sl.hmode = false → e.path.depth = 0 →
      exec (.join c) s = .next (issued e m (movePast e 8 s))) ∧
    (CReady e c .none false s → e.sl.hmode = false → e.path.depth ≠ 0 → readPaths e s = .ok (ps, t) →
      writePaths e (if releasable parked p then (release parked p).settled else parked.settled) t = .ok ((), u) →
      exec (.join c) s = .next (issued e m u)) ∧
    (CReady e c .none true s → m = 0 → exec (.exit c) s = .next (issued e m (movePast e 8 s))) ∧
    (CReady e c .none true s → m ≠ 0 → e.sl.hmode = false → e.path.mask &&& ~~~m ≠ 0 → endLanes e m s = .ok ((), t) →
      exec (.exit c) s = .next (issued e m (putPath e { e.path with mask := e.path.mask &&& ~~~m, pc := e.path.pc + 8 } t))) ∧
    (CReady e c .none true s → m ≠ 0 → e.sl.hmode = true ∨ e.path.mask &&& ~~~m = 0 →
      endLanes e (if e.sl.hmode then e.path.mask else m) s = .ok ((), t) → readPaths e t = .ok (ps, u) →
      writePaths e (ps.setSlot e.cur.slot1 none).settled u = .ok ((), w) →
      exec (.exit c) s = .next (issued e m (if e.sl.hmode then w.leaveHandler e else w))) ∧
    (CReady e c (.test .q) true s → e.cur.a = true → brqConds e (regNo c.reg) = [] →
      (e.sl.heldPop = some (.brq, v) ∧ t = s) ∨
        ((∀ x, e.sl.heldPop ≠ some (.brq, x)) ∧ ∃ x, popEntry e (regNo c.reg) s = .ok (x, t) ∧ v = x.scalar) →
      let t1 := (onSlice e (fun sl => { sl with heldPop := sl.heldPop.filter (fun h => h.1 != .brq) }) t).modCore e.g.core
        (fun k => k.count 9 1 (some (e.path.pc, e.w.asn)))
      exec (.brq c) s = .next (issued e m (if m ≠ 0 ∧ v ≠ 0 then goTo e (offsetPc e c.low) t1 else movePast e 8 t1)))

/-- R105, R106, R142: `TRAP` and `BKPT` with an active lane take their trap: 0x50 with the number and the next PC, 0x51 at the
instruction; `ERET` in handler mode resumes at `sys.epc` with the lanes of `sys.emask` that the path held, ends the other lanes and
leaves handler mode. With no active lane each only moves on. Each completes. -/
def Obligations.TrapAndReturn : Prop :=
  ∀ (c : CFrame) (s t u w : State) (e : Env) (ps : Paths),
    let m := e.active c.guard
    let held := (e.sl.frozen.map (fun f => f.mask)).getD e.path.mask
    let keep := e.sl.emask.extractLsb' 0 32 &&& held
    let trapped (x : TrapInfo) : State := ((s.dropFaults e.g.core e.w.asn).afterIssue e m).takeTrap e x
    (CReady e c .code true s → m ≠ 0 → muted e = false →
      exec (.trap c) s = .next (trapped ⟨0x50, c.low.setWidth 64, 0, e.path.pc + 8, none⟩)) ∧
    (CReady e c .none true s → m ≠ 0 → muted e = false →
      exec (.bkpt c) s = .next (trapped ⟨0x51, 0, 0, e.path.pc, none⟩)) ∧
    (m = 0 → (CReady e c .code true s → exec (.trap c) s = .next (issued e m (movePast e 8 s))) ∧
      (CReady e c .none true s → exec (.bkpt c) s = .next (issued e m (movePast e 8 s))) ∧
      (CReady e c .none true s → e.sl.hmode = true → exec (.eret c) s = .next (issued e m (movePast e 8 s)))) ∧
    (CReady e c .none true s → m ≠ 0 → e.sl.hmode = true → e.sl.epc.toNat % 8 = 0 → endLanes e (held &&& ~~~keep) s = .ok ((), t) →
      (keep ≠ 0 → exec (.eret c) s =
        .next (issued e m ((putPath e { e.path with mask := keep, pc := e.sl.epc } t).leaveHandler e))) ∧
      (keep = 0 → readPaths e t = .ok (ps, u) → writePaths e (ps.setSlot e.cur.slot1 none).settled u = .ok ((), w) →
        exec (.eret c) s = .next (issued e m (w.leaveHandler e))))

/-- R169, R170, R172: a vector load or store whose active lanes all translate, are aligned and (for a load) read no poisoned line enters
one access with a lane for each active lane, and completes; with no active lane it enters none, and a queue destination is pushed
zeros.
It rests on the model's choice of log entry 10. -/
def Obligations.VectorAccessIssue : Prop :=
  ∀ (f : FFrame) (s s0 s1 s2 t : State) (e : Env) (a b : Lanes64) (pl : Nat → Place) (d : PendDst) (data : Nat → List Byte),
    let m := e.active f.guard
    let x := vecExt f
    let va := laneVa a b f x.size
    (Allowed e s → MReady e (specLd f) f (v4Conds e f true f.dst) (loadNamed (specLd f) f) s →
      (m = 0 → Room e f.dst (memRegs f) s →
        ∃ u, pushZeros e f s = .ok ((), u) ∧ exec (.ld f) s = .next (done e m 8 0 u)) ∧
      (m ≠ 0 → srcV e .u64 f.srcA none s = .ok (a, s1) → srcV e .u32 f.srcB none s1 = .ok (b, s2) →
        Placed e s2 m x.size .load va pl → Unpoisoned s2 m pl → loadDst e f s2 = .ok (d, t) →
        let accs := lanesAt m x.size va pl (fun _ => []) (fun _ => [])
        EnterRoom e .load accs t →
        ∃ u, enter e (access f .load d x accs (f.flags.getLsbD 1)) t = .ok ((), u) ∧ exec (.ld f) s = .next (done e m 8 0 u))) ∧
    (Allowed e s → MReady e (specSt f) f (v4Conds e f false f.dst) (storeNamed (specSt f) f) s → storeData e f s = .ok (data, s0) →
      (m = 0 → exec (.st f) s = .next (done e m 8 0 s0)) ∧
      (m ≠ 0 → srcV e .u64 f.srcA none s0 = .ok (a, s1) → srcV e .u32 f.srcB none s1 = .ok (b, t) →
        Placed e t m x.size .store va pl →
        let accs := lanesAt m x.size va pl data (fun _ => [])
        EnterRoom e .store accs t →
        ∃ u, enter e (access f .store .none x accs false) t = .ok ((), u) ∧ exec (.st f) s = .next (done e m 8 0 u)))

/-- R169, R170: `LDS` and `STS` make one access for the slice, at their scalar base plus the displacement, when a lane is active. Each
completes.
It rests on the model's choices of log entries 4 and 83. -/
def Obligations.ScalarAccessIssue : Prop :=
  ∀ (f : FFrame) (s s0 t : State) (e : Env) (pl : Place) (d : PendDst) (x : W64),
    let m := e.active f.guard
    let ext := loadExt f.ty
    let va := e.sl.s (regNo f.srcA) + BitVec.ofInt 64 (f.srcC.toInt * (ext.size : Int))
    (Allowed e s → MReady e (specLds f) f [] (loadNamed (specLds f) f) s →
      (m = 0 → Room e f.dst 1 s → ∃ u, dstS e 0 f.dst 0 s = .ok ((), u) ∧ exec (.lds f) s = .next (done e m 8 0 u)) ∧
      (m ≠ 0 → e.xlate s va .load = .place pl → va.toNat % ext.size = 0 → (∀ a, pl = .mem a → s.poisoned a = false) →
        (if RC.of f.dst = .q then reserve e (regNo f.dst) true [QEntry.ofScalar 0] s = .ok (d, t)
         else d = .scalar (regNo f.dst) ∧ t = s) →
        let accs := onceAt ext.size va pl []
        EnterRoom e .load accs t →
        ∃ u, enter e (access f .load d ext accs (f.flags.getLsbD 1)) t = .ok ((), u) ∧ exec (.lds f) s = .next (done e m 8 0 u))) ∧
    (Allowed e s → MReady e (specSts f) f [] (storeNamed (specSts f) f) s → stsData e f s = .ok (x, s0) →
      (m = 0 → exec (.sts f) s = .next (done e m 8 0 s0)) ∧
      (m ≠ 0 → e.xlate s0 va .store = .place pl → va.toNat % ext.size = 0 →
        let accs := onceAt ext.size va pl (toBytes ext.size x.toNat)
        EnterRoom e .store accs s0 →
        ∃ u, enter e (access f .store .none ext accs false) s0 = .ok ((), u) ∧ exec (.sts f) s = .next (done e m 8 0 u)))

/-- R153, R156, R169: `LDL` and `STL` with references that R153 and the lane geometry accept enter one access, put its bank requests in
the queues and write the conflict degree to `sys.gbank`; with no active lane they write 0 there. Each completes. -/
def Obligations.LocalAccessIssue : Prop :=
  ∀ (f : FFrame) (s s0 s1 t : State) (e : Env) (refs : List (Nat × W32 × LsRef)) (g : Option Geom) (d : PendDst)
    (data : Nat → List Byte),
    let m := e.active f.guard
    let x := vecExt f
    let bank (u v : State) (id : Nat) (accs : List LaneAcc) : State :=
      (onSlice e (fun sl => { sl with gbank := BitVec.ofNat 8 (v.degree accs) }) u).enqueueBanks e.g.core id
        (accs.filter (fun a => a.arrived))
    let none0 (v : State) : State := onSlice e (fun sl => { sl with gbank := 0 }) v
    lgeomReady e s = .ok ((), s) → s.banksWait e.g.core e.g.sub = false →
    (MReady e (specLdl f) f (v4Conds e f true f.dst) (loadNamed (specLdl f) f) s →
      (m = 0 → Room e f.dst (memRegs f) (none0 s) →
        ∃ u, pushZeros e f (none0 s) = .ok ((), u) ∧ exec (.ldl f) s = .next (done e m 8 0 u)) ∧
      (m ≠ 0 → lsRefs e f x.size true m s = .ok ((refs, g), s1) → loadDst e f s1 = .ok (d, t) →
        let accs := lsAccs g x.size noBytes noBytes refs
        EnterRoom e .load accs t →
        ∃ u, enter e (access f .load d x accs false) t = .ok ((), u) ∧
          exec (.ldl f) s = .next (done e m 8 0 (bank u t (t.core e.g.core).nextPend accs)))) ∧
    (MReady e (specStl f) f (v4Conds e f false f.dst) (storeNamed (specStl f) f) s → storeData e f s = .ok (data, s0) →
      (m = 0 → exec (.stl f) s = .next (done e m 8 0 (none0 s0))) ∧
      (m ≠ 0 → lsRefs e f x.size true m s0 = .ok ((refs, g), t) →
        let accs := lsAccs g x.size data noBytes refs
        EnterRoom e .store accs t →
        ∃ u, enter e (access f .store .none x accs false) t = .ok ((), u) ∧
          exec (.stl f) s = .next (done e m 8 0 (bank u t (t.core e.g.core).nextPend accs))))

/-- R30, R378: `LDQ` in the A-slice pushes one entry: filled by an access when some lane translates, and with a fault token for the
lanes that do not, a walk that a stop at once finds unfinished among them; with no active lane it pushes zeros. It completes.
It rests on the model's choices of log entries 10 and 88. -/
def Obligations.QueueLoadIssue : Prop :=
  ∀ (f : FFrame) (s s1 s2 t : State) (e : Env) (base : W64) (off : Lanes64) (d : PendDst),
    let n := regNo f.dst
    let scalar := (e.g.queue n).scalar
    let m := e.active f.guard
    let x := loadExt f.ty
    Allowed e s → e.cur.a = true → MReady e (specLdq f) f (ldqConds e f) (loadNamed (specLdq f) f) s →
    (m = 0 → Room e f.dst 1 s → RC.of f.dst = .q →
      ∃ u, pushEntries e n [QEntry.ofLanes Lanes.zero] s = .ok ((), u) ∧ exec (.ldq f) s = .next (done e m 8 0 u)) ∧
    (m ≠ 0 → scalarVa e f x.size s = .ok (base, s1) → srcV e .u32 f.srcB none s1 = .ok (off, s2) →
      let vas := if scalar then [(32, base)] else (actives m).map (fun l => (l, base + lane off l))
      let found (v : W64) : Xlat := match e.xlate s2 v .load with
        | .miss w => if e.w.atOnce then .bad 0x10 0 else .miss w
        | x => x
      let xs := vas.map (fun v => (v.1, v.2, found v.2))
      let ps := xs.filterMap (fun x => match x.2.2 with | .place p => some (x.1, x.2.1, p) | _ => none)
      let s3 := s2.dropFaults e.g.core e.w.asn
      let bad := (xs.filter (fun x => x.2.2.cause?.isSome)).map (fun x => x.1)
      let tok := ldqToken e f base xs scalar
      let entry : QEntry := { QEntry.ofLanes (tabulate 32 (fun l => if l.val ∈ bad then (lane off l.val).setWidth 32 else 0)) with
                              token := if ps = [] then tok else none }
      (∀ v ∈ vas, v.2.toNat % x.size = 0) → missesOf (xs.map (fun x => x.2.2)) = [] → noPoison ps s2 = .ok ((), s2) →
      (ps = [] → Room e f.dst 1 s3 → RC.of f.dst = .q →
        ∃ u, pushEntries e n [entry] s3 = .ok ((), u) ∧ exec (.ldq f) s = .next (done e m 8 0 u)) ∧
      (ps ≠ [] → reserve e n scalar [entry] s3 = .ok (d, t) →
        let accs := markPeers (ps.map (laneAcc x.size noBytes noBytes))
        EnterRoom e .ldq accs t →
        ∃ u, enter e { access f .ldq d x accs false with token := tok } t = .ok ((), u) ∧
          exec (.ldq f) s = .next (done e m 8 0 u)))

/-- R176 to R178: `STC` stores the flat bitmap form of n local-store elements when its bytes fit the capacity; `LDX` expands a
well-formed flat form from memory into local store. With no active lane neither does anything. Each completes. -/
def Obligations.CompressedAccessIssue : Prop :=
  ∀ (f : FFrame) (s : State) (e : Env) (r : LsRef) (pl : Nat → Place) (hb rest : List Byte) (x : FlatHeader) (xs : List Nat),
    let m := e.active f.guard
    let code := if f.ty = 0 then 4 else f.ty.toNat
    let vb := formBytes code
    (Allowed e s → FReady e (specStc f) f none s →
      let dst := e.sl.s (regNo f.dst)
      let src := (e.sl.s (regNo f.srcA)).setWidth 32
      let n := (e.sl.s (regNo f.srcB)).toNat
      (m = 0 → exec (.stc f) s = .next (done e m 8 0 s)) ∧
      (m ≠ 0 → 0 < n → n ≤ 16777215 → dst.toNat % 8 = 0 → s.lsRef e.w e.g.half1 src (n * vb) = some r →
        readReady e [(32, src.setWidth 64, r.place)] (n * vb) true false s = .ok ((), s) →
        s.rangeBehind e.g.core r.wg r.half1 r.off (n * vb) = false →
        let form := flatForm vb code (elementsOf vb n (s.lsRead r.wg r.half1 r.off (n * vb)))
        let pieces := piecesOf dst form.length
        form.length ≤ (e.sl.s (regNo f.srcC)).toNat → (∀ p ∈ pieces, e.xlate s p.2.1 .store = .place (pl p.1)) →
        let accs := markPeers (pieces.map (fun p =>
          { laneAcc p.2.2 (fun l => (form.drop (8 * (l - 32))).take 8) noBytes (p.1, p.2.1, pl p.1) with lane := p.1 }))
        EnterRoom e .store accs s →
        ∃ u, enter e (access f .store .none { size := 8, signed := false } accs false) s = .ok ((), u) ∧
          exec (.stc f) s = .next (done e m 8 0 u))) ∧
    (Allowed e s → FReady e (specLdx f) f none s →
      let dst := (e.sl.s (regNo f.dst)).setWidth 32
      let src := e.sl.s (regNo f.srcA)
      let sc := Scope.ofCode (f.variant.toNat % 8)
      (m = 0 → exec (.ldx f) s = .next (done e m 8 0 s)) ∧
      (m ≠ 0 → s.banksWait e.g.core e.g.sub = false → src.toNat % 8 = 0 → e.xlate s src .load = .place (pl 32) →
        let acq := orderOf f == 1
        let seen (va : W64) (k : Nat) (u : State) : State := u.watchHit e.cur.grp e.cur.a [(va, k)] true false
        ∀ s1 s2, readNow e src 8 sc m false acq s = .ok (hb, s1) →
        flatHeader (ofBytes hb) (e.sl.s (regNo f.srcB)).toNat = some x →
        let nm := (x.n + 63) / 64
        let len := 8 * nm + x.vb * x.m
        readNow e (src + 8) len sc m false acq (seen src 8 s1) = .ok (rest, s2) →
        flatExpand x (elementsOf 8 nm rest) (elementsOf x.vb x.m (rest.drop (8 * nm))) = some xs →
        let s3 := seen (src + 8) len s2
        s3.lsRef e.w e.g.half1 dst (x.n * x.vb) = some r →
        let lines := min 32 ((src.toNat + 8 + len + 127) / 128 - src.toNat / 128)
        TableRoom e lines s3 →
        let s4 := (s3.modCore e.g.core (fun k => { k with ttWait := k.ttWait.filter (fun w => w.1 != e.cur) })).dropStages e
        let accs := lsRange dst r ((xs.map (toBytes x.vb)).flatten) (x.n * x.vb)
        EnterRoom e .expand accs s4 →
        ∃ t, enterLs e (access f .expand .none { size := 16, signed := false } accs false) s4 = .ok ((), t) ∧
          exec (.ldx f) s = .next (done e m 8 0 (if orderOf f = 1 then
            t.acquireL1 e.g.core (match pl 32 with | .fabric _ _ => .sys | _ => sc) else t))))

/-- R179: `PREF` brings the lines that the lanes name into L1 (with variant [5] set into L2 alone, which changes nothing a program sees);
`CCTL` removes them from L1, or empties it. Each completes. -/
def Obligations.CacheControl : Prop :=
  ∀ (f : FFrame) (s t : State) (e : Env) (ls : List Nat),
    let m := e.active f.guard
    (Allowed e s → FReady e (specPref f) f none s → namedLines e f s = .ok (ls, t) →
      exec (.pref f) s = .next (done e m 8 0 (if f.variant.getLsbD 5 then t else
        ls.foldl (fun s line => if s.poisoned (128 * line) then s else
          (s.l1Read e.g.core (16 * e.g.sub + e.g.slot) false (128 * line) 1).1) t))) ∧
    (FReady e (specCctl f) f none s →
      (m = 0 → exec (.cctl f) s = .next (done e m 8 0 s)) ∧
      (m ≠ 0 → f.variant.getLsbD 5 = true →
        exec (.cctl f) s = .next (done e m 8 0 (s.modCore e.g.core (fun k => { k with l1 := [] })))) ∧
      (m ≠ 0 → f.variant.getLsbD 5 = false → namedLines e f s = .ok (ls, t) →
        exec (.cctl f) s = .next (done e m 8 0 (t.modCore e.g.core (fun k =>
          { k with l1 := k.l1.filter (fun x => x.1 ∉ ls) })))))

/-- R180 to R183: `ATOM`, `RED` and `CAS` enter one atomic with a lane for each active lane: on global memory, or on local store with
variant [5] set, where `sys.gbank` takes the conflict degree. `RED` returns nothing; the others need one of 16 slots. With no active
lane nothing is entered. Each completes. -/
def Obligations.AtomicIssue : Prop :=
  ∀ (i : Instr) (f : FFrame) (sp : FSpec) (cas ret : Bool) (s s0 s1 s2 t : State) (e : Env) (data cmp : Nat → List Byte)
    (a b : Lanes64) (pl : Nat → Place) (refs : List (Nat × W32 × LsRef)) (g : Option Geom) (d : PendDst),
    let m := e.active f.guard
    let x : LoadExt := { loadExt f.ty with signed := false }
    let regs := if wideMem f then 2 else 1
    let kind : PendKind := .atomic f.flags f.ty cas ret
    let value (k l : Nat) : List Byte :=
      let r (j : Nat) : Nat := (((e.sl.v (regNo f.srcC + regs * k + j))[l]?).getD 0).toNat
      toBytes x.size (if wideMem f then r 0 + 2 ^ 32 * r 1 else r 0)
    let destination (v t : State) : Prop :=
      if ret then
        ((v.core e.g.core).pend.filter (fun p => p.grp == e.cur.grp && p.a == e.cur.a &&
          (match p.kind with | .atomic _ _ _ ret => ret | _ => false))).length < 16 ∧
        (if RC.of f.dst = .q then reserve e (regNo f.dst) false (List.replicate regs (QEntry.ofLanes Lanes.zero)) v = .ok (d, t)
         else d = .vec (regNo f.dst) regs ∧ t = v)
      else d = .none ∧ t = v
    ((i = .atom f ∧ sp = specAtom f true ∧ cas = false ∧ ret = true ∧ cmp = noBytes ∧ atomData e f s = .ok (data, s0)) ∨
      (i = .red f ∧ sp = specAtom f false ∧ cas = false ∧ ret = false ∧ cmp = noBytes ∧ atomData e f s = .ok (data, s0)) ∨
      (i = .cas f ∧ sp = specCas f ∧ cas = true ∧ ret = true ∧ cmp = value 0 ∧ data = value 1 ∧ s0 = s)) →
    FReady e sp f none s → (bit5 f = false → Allowed e s) →
    let z := if bit5 f then onSlice e (fun sl => { sl with gbank := 0 }) s0 else s0
    (m = 0 → ret = true → Room e f.dst regs z →
      ∃ u, (if RC.of f.dst = .q then pushEntries e (regNo f.dst) (List.replicate regs (QEntry.ofLanes Lanes.zero)) z
            else .ok ((), z)) = .ok ((), u) ∧ exec i s = .next (done e m 8 0 u)) ∧
    (m = 0 → ret = false → exec i s = .next (done e m 8 0 z)) ∧
    (bit5 f = false →
      (m ≠ 0 → srcV e .u64 f.srcA none s0 = .ok (a, s1) → srcV e .u32 f.srcB none s1 = .ok (b, s2) →
        let va (l : Nat) : W64 := lane a l + lane b l
        Placed e s2 m x.size .store va pl → Unpoisoned s2 m pl → destination s2 t →
        let accs := lanesAt m x.size va pl data cmp
        EnterRoom e kind accs t →
        ∃ u, enter e (access f kind d x accs false) t = .ok ((), u) ∧ exec i s = .next (done e m 8 0 u))) ∧
    (bit5 f = true →
      (m ≠ 0 → lgeomReady e s0 = .ok ((), s0) → s0.banksWait e.g.core e.g.sub = false →
        lsRefs e f x.size false m s0 = .ok ((refs, g), s2) → destination s2 t →
        let accs := lsAccs g x.size data cmp refs
        EnterRoom e kind accs t →
        ∃ u, enterLs e (access f kind d x accs false) t = .ok ((), u) ∧ exec i s = .next (done e m 8 0 u)))

/-- R137, R185 to R187: `GFENCE`, `FENCE` and `FENCEX` mark what later accesses wait for, and at a scope wider than the workgroup an
acquire empties the L1; `WAITCNT` goes on once no counter is above its threshold. With no active lane none does anything. Each
completes. -/
def Obligations.FenceResult : Prop :=
  ∀ (f : FFrame) (s : State) (e : Env) (sl : Slice), s.slice? e.cur.grp e.cur.a = some sl →
    let m := e.active f.guard
    let ids (l : List Pending) : List Nat := l.map (fun p => p.id)
    let order := f.variant.toNat / 8 % 4
    let sc := Scope.ofCode (f.variant.toNat % 8)
    let covered := if order = 1 then ids ((mine e s).filter (fun p => p.kind.isLoad)) else ids (mine e s)
    (FReady e specGfence f none s →
      exec (.gfence f) s = .next (done e m 8 0 (if m = 0 then s else
        onSlice e (fun sl => { sl with acqIds := addIds sl.acqIds (ids ((mine e s).filter (fun p => p.kind != .stage))) }) s))) ∧
    (FReady e (specFence f) f none s →
      (m = 0 → exec (.fence f) s = .next (done e m 8 0 s)) ∧
      (m ≠ 0 → (order ≠ 2 → sc.inL1 = false → covered = []) →
        let s1 := if order ≠ 1 then onSlice e (fun sl => { sl with relIds := ids (mine e s) }) s else s
        let s2 := if order ≠ 2 then
            (onSlice e (fun sl => { sl with acqIds := addIds sl.acqIds covered }) s1).acquireL1 e.g.core sc else s1
        exec (.fence f) s = .next (done e m 8 0 s2))) ∧
    (FReady e (specFencex f) f none s →
      let later := PathCode.of f.srcB.toNat
      let p := s.covers e (PathCode.of f.srcA.toNat) later
      (m = 0 → exec (.fencex f) s = .next (done e m 8 0 s)) ∧
      (m ≠ 0 → later = .lsu → s.pointOpen e.g.core e.g.sub p = false →
        exec (.fencex f) s = .next (done e m 8 0 (s.acquireL1 e.g.core sc))) ∧
      (m ≠ 0 → later ≠ .lsu →
        exec (.fencex f) s = .next (done e m 8 0
          (onSlice e (fun sl => { sl with fences := sl.fences.filter (fun q => s.pointOpen e.g.core e.g.sub q) ++ [p] }) s)))) ∧
    (FReady e (specWaitcnt f) f none s →
      m = 0 ∨ (sl.loads ≤ f.dst.toNat ∧ sl.stores ≤ f.srcA.toNat ∧ sl.copies ≤ f.srcB.toNat ∧ sl.passes ≤ f.srcC.toNat) →
      exec (.waitcnt f) s = .next (done e m 8 0 s))

/-- R160, R161, R188: `TLOOK` gives each active lane the slot of the valid entry with its key in the set of its hash, or all ones;
`TSET` writes an entry for each lane, the lowest lane winning; `TCLR` invalidates the entries of the lanes' keys, or all. Each
completes.
It rests on the model's choice of log entry 18. -/
def Obligations.TagResult : Prop :=
  ∀ (f : FFrame) (s s1 t : State) (e : Env) (slot way : Lanes64),
    let m := e.active f.guard
    let tags := tagTable e s
    tags ≠ [] →
    (FReady e specTlook f none s → Ordered e false s →
      let found (l : Nat) : W64 :=
        match (tags.getD (hashOf (keyOf e f.srcA l) tags.length) []).find? (fun x => x.valid && x.key == keyOf e f.srcA l) with
        | some x => x.slot.setWidth 64
        | none => 0xFFFFFFFF
      ∃ u, dstV e false m f.dst (tabulate 32 (fun l => found l)) s = .ok ((), u) ∧
        exec (.tlook f) s = .next (done e m 8 0 u)) ∧
    (FReady e specTset f none s → Ordered e true s → srcV e .u32 f.srcB none s = .ok (slot, s1) → srcV e .u32 f.srcC none s1 = .ok (way, t) →
      (∀ l ∈ actives m, laneNat way l < 8) →
      exec (.tset f) s = .next (done e m 8 0 (putTags e (tagsSet tags m (keyOf e f.srcA) (laneNat slot) (laneNat way)) t))) ∧
    (FReady e (specTclr f) f none s → Ordered e true s →
      (m = 0 → exec (.tclr f) s = .next (done e m 8 0 s)) ∧
      (m ≠ 0 → exec (.tclr f) s = .next (done e m 8 0 (putTags e (tags.map (fun set => set.map (fun x =>
        if f.variant.getLsbD 0 = true ∨ x.key ∈ (actives m).map (keyOf e f.srcA) then { x with valid := false } else x))) s))))

/-- R190 to R193, R317: `BINIT` writes a fresh object of phase 0 with the expected count (on a pair object both halves, each with its own
count, of which the issuing half takes sE[15:0]); `BARR` arrives; `BARRX` adds bytes and arrives, or with `.add` only adds; each update
runs the test of the object's phase. With no active lane nothing happens. Each completes.
It rests on the model's choices of log entries 28, 105, 118 and 123. -/
def Obligations.BarrierUpdate : Prop :=
  ∀ (f : FFrame) (s t : State) (e : Env) (o : BarObj),
    let m := e.active f.guard
    let v := (e.sl.s (regNo f.srcB)).toNat
    let pair := f.flags.getLsbD 2
    let fresh (count : Nat) : Nat := count + (if pair then 2 ^ 58 else 0) + 5 * 2 ^ 61
    (FReady e (specBinit f) f none s → m ≠ 0 → Found e f true .init s o t → (pair = true → e.w.pair = true) →
      v % 2 ^ 16 ≠ 0 → (pair = true → v / 2 ^ 16 % 2 ^ 16 ≠ 0) →
      (∀ w h off, pair = true → o.ref = .ls w h off → ∀ half1, t.rangeBehind e.g.core w half1 off 32 = false) →
      let t1 := { t with watches := t.watches.filter (fun w => !Watch.of o.ref w) }
      let one := t1.objWrite o.ref (fresh (v % 2 ^ 16))
      let t2 := match o.ref with
        | .ls w _ off =>
          if pair then (t1.objWrite (.ls w e.g.half1 off) (fresh (v % 2 ^ 16))).objWrite (.ls w (!e.g.half1) off)
            (fresh (v / 2 ^ 16 % 2 ^ 16))
          else one
        | .mem _ => one
      exec (.binit f) s = .next (done e m 8 0 (noted e o false true t2))) ∧
    (FReady e (specBarr f) f none s → m ≠ 0 → s.pushAfter e = [] → Found e f true .arrive s o t →
      (o.grid = true → descField e.w.desc 26 1 = 1) →
      exec (.barr f) s = .next (done e m 8 0 (noted e o true true (t.objModify o.ref objArrive)))) ∧
    (FReady e (specBarrx f) f none s → m ≠ 0 → (o.grid = true → descField e.w.desc 26 1 = 1) →
      (bit5 f = true → Found e f true (.addOnly v) s o t →
        exec (.barrx f) s = .next (done e m 8 0 (noted e o true true (t.objModify o.ref (objAdd v))))) ∧
      (bit5 f = false → s.pushAfter e = [] → Found e f true (.arriveAdd v) s o t →
        exec (.barrx f) s = .next (done e m 8 0 (noted e o true true (t.objModify o.ref (fun x => objArrive (objAdd v x))))))) ∧
    (m = 0 → (FReady e (specBinit f) f none s → exec (.binit f) s = .next (done e m 8 0 s)) ∧
      (FReady e (specBarr f) f none s → exec (.barr f) s = .next (done e m 8 0 s)) ∧
      (FReady e (specBarrx f) f none s → exec (.barrx f) s = .next (done e m 8 0 s)))

/-- R194 to R196: `BWAIT` goes on when the object's phase is not the one it waits in, and an object of wide scope is acquired; with the
phase open it leaves a wait on its slot, and with `.prom` and an instant ahead it sleeps; one whose instant is past is a promise missed
where the region takes no trap for it, counted and recorded once. `BTEST` writes the phase bit and the phase
count, `BWATCH` arms a watch and has the word read at its peer. Each completes.
It rests on the model's choice of log entry 27. -/
def Obligations.BarrierWait : Prop :=
  ∀ (f : FFrame) (s s1 s2 t : State) (e : Env) (o : BarObj) (b : W64) (ti : Option (W64 × Bool)) (pl : Place),
    let m := e.active f.guard
    let ptb := t.ptb (dieOf e.g.core)
    let w : BWaitRec := { obj := o.ref, va := o.va, bit := b.getLsbD 0, wide := o.wide, held := ti.map (fun x => x.1), asleep := false,
                          missed := (ti.map (fun x => x.2)).getD false }
    let t1 := onSlice e (fun sl => { sl with heldPop := sl.heldPop.filter (fun h => h.1 == .brq) }) t
    let counted (i : W64) (x : State) : State :=
      let y := x.modCore e.g.core (fun k => k.count 10 1 (some (e.path.pc, e.w.asn)))
      if e.sl.corr.getLsbD 31 then
        y.trace e.w.region { type := 0x04, engine := sliceIdent e.g.core, origin := e.g.origin e.cur.a, corr := e.sl.corr,
                             ptb := y.ptb (dieOf e.g.core), payload := i.toNat }
      else y
    let waiting (w : Option BWaitRec) (x : State) : State := onSlice e (fun sl => sl.setWait e.cur.slot1 w) x
    (FReady e (specBwait f) f none s → m ≠ 0 → srcS e f.srcB none s = .ok (b, s1) → Found e f false .look s1 o s2 →
      promInstant e f s2 = .ok (ti, t) →
      ((∀ i, ti = some (i, false) → i.toNat ≤ ptb) → t.phaseOf o.ref ≠ b.getLsbD 0 →
        exec (.bwait f) s = .next (issued e m (movePast e 8 (noted e o true false
          ((waiting none t1).barAcquire e.g.core o.wide))))) ∧
      ((∀ i, ti ≠ some (i, false)) → t.phaseOf o.ref = b.getLsbD 0 → exec (.bwait f) s = .next (issued e m (waiting (some w) t1))) ∧
      (∀ i, ti = some (i, false) → ptb < i.toNat → exec (.bwait f) s = .next (issued e m
        (onSlice e (fun sl => { (sl.setWait e.cur.slot1 (some { w with asleep := true })) with sleep := some i })
          (t1.setProm o.ref true)))) ∧
      (∀ i, ti = some (i, false) → i.toNat ≤ ptb → t.phaseOf o.ref = b.getLsbD 0 → t.rcbOwned 6 e.w.region 93 1 ≠ 1 →
        exec (.bwait f) s = .next (issued e m (waiting (some { w with missed := true }) (counted i t1))))) ∧
    (FReady e (specBwait f) f none s → m = 0 → f.variant.getLsbD 5 = false →
      exec (.bwait f) s = .next (issued e m (movePast e 8 s))) ∧
    (FReady e (specBtest f) f none s → m ≠ 0 → Found e f false .look s o t →
      let x := t.objRead o.ref
      let t2 := onSlice e (fun sl =>
        sl.setS (regNo f.dst) (BitVec.ofNat 64 (x / 2 ^ 56 % 2 + x / 2 ^ 64 % 2 ^ 32 * 2 ^ 32))) t
      exec (.btest f) s = .next (done e m 8 0 (noted e o true false
        (if f.variant.toNat / 8 % 4 = 1 ∧ o.wide then t2.l1Drop e.g.core else t2)))) ∧
    (FReady e (specBwatch f) f none s → m ≠ 0 → e.xlate s (e.sl.s (regNo f.srcB)) .load = .place pl →
      (e.sl.s (regNo f.srcB)).toNat % 8 = 0 → (∀ a, pl = .mem a → s.poisoned a = false) → Found e f true .watch s o t →
      ∀ wg h off, o.ref = .ls wg h off →
        let armed : Watch := { wg := wg, half1 := h, off := off, va := e.sl.s (regNo f.srcB), place := pl, next := ptb + 1000,
                               event := false }
        let t2 := ({ t with watches := t.watches.filter (fun v => !Watch.of o.ref v) ++ [armed] }).objModify o.ref (fun y =>
            setBits (setBits (setBits y 57 1 1) 128 64 (e.sl.s (regNo f.srcB)).toNat) 192 64 (e.sl.s (regNo f.srcC)).toNat)
        exec (.bwatch f) s = .next (done e m 8 0 (match pl with
          | .fabric p a => t2.sendReq p { src := t2.fabric.dev, op := .read, seq := 0, off := BitVec.ofNat 43 a, len := 8, aop := 0,
                                          ty := 0, cas := false, cmp := 0, bytes := (List.range 8).map (fun i => (a + i, 0)) }
              (.watch wg h off)
          | _ => t2))) ∧
    (m = 0 → (FReady e (specBtest f) f none s → exec (.btest f) s = .next (done e m 8 0 s)) ∧
      (FReady e (specBwatch f) f none s → exec (.bwatch f) s = .next (done e m 8 0 s)))

/-- R206 to R211, R219, R220: the geometry instructions write the register, handle or word that their rules give, when a lane is
active; their results come from the evaluation, acceptance and bank functions of the geometry. Each completes.
It rests on the model's choices of log entries 21, 22, 89, 90 and 91. -/
def Obligations.GeometryResult : Prop :=
  ∀ (w : WFrame) (s s1 t : State) (e : Env) (v x : W64) (g : Geom) (d : Int),
    let m := e.active w.f.guard
    let f := w.f
    let a := geoOf e f.srcA
    let old := (e.geomReg f.srcA).toNat
    (WReady e (specGdef w) w false s →
      (m = 0 → exec (.gdef w) s = .next (doneW e m 16 s)) ∧
      (m ≠ 0 → srcS e f.srcB w.lit s = .ok (v, t) →
        let n := w.wflags.toNat
        let y := v.toNat
        let new := if n < 8 then withField (withField old (16 * n) 16 y) (128 + 32 * n) 32 (y / 2 ^ 16)
          else withField (withField (withField (withField (withField old 490 8 y) 498 6 (y / 2 ^ 8)) 504 3 (y / 2 ^ 14))
            507 1 (y / 2 ^ 17)) 508 3 (y / 2 ^ 18)
        exec (.gdef w) s = .next (doneW e m 16 (putGeo e f.dst (BitVec.ofNat 512 new) t)))) ∧
    (WReady e specGmov w false s →
      exec (.gmov w) s = .next (doneW e m 16 (if m = 0 then s else putGeo e f.dst (e.geomReg f.srcB) s))) ∧
    (WReady e specGchain w false s → m ≠ 0 → a.ok = true → (geoOf e f.srcB).ok = true → a.chain (geoOf e f.srcB) = .ok g →
      exec (.gchain w) s = .next (doneW e m 16 (putGeo e f.dst g.toReg s))) ∧
    (WReady e (specGtran w) w false s → m ≠ 0 → a.ok = true → a.tran w.imm.toNat = .ok g →
      exec (.gtran w) s = .next (doneW e m 16 (putGeo e f.dst g.toReg s))) ∧
    (WReady e specGflat w false s → m ≠ 0 → a.ok = true → a.flat w.wflags.toNat = .ok g →
      exec (.gflat w) s = .next (doneW e m 16 (putGeo e f.dst g.toReg s))) ∧
    (WReady e specGpart w false s → m ≠ 0 → a.ok = true → srcS e f.srcB w.lit s = .ok (v, s1) →
      srcS e f.srcC none s1 = .ok (x, t) →
      let u := onSlice e (fun sl => sl.setS (regNo w.srcE) (e.sl.s (regNo w.srcE) + BitVec.ofInt 64 d)) (putGeo e f.dst g.toReg t)
      (a.slice v.toNat x.toNat w.wflags.toNat = .ok (g, d) → exec (.gslice w) s = .next (doneW e m 16 u)) ∧
      (a.part v.toNat x.toNat w.wflags.toNat = .ok (g, d) → exec (.gpart w) s = .next (doneW e m 16 u))) ∧
    (WReady e (specGswz w) w false s → m ≠ 0 →
      let new := if f.variant.getLsbD 0 then
          swzRaw (e.geomReg f.srcA) (e.sl.s (regNo f.srcB)).toNat (e.sl.s (regNo f.srcC)).toNat
        else swzPreset (e.geomReg f.srcA) w.imm.toNat
      exec (.gswz w) s = .next (doneW e m 16 (putGeo e f.dst new s))) ∧
    (m ≠ 0 → srcS e f.srcB w.lit s = .ok (v, t) →
      (WReady e specGchk w false s → exec (.gchk w) s =
        .next (doneW e m 16 (onSlice e (fun sl => sl.setS (regNo f.dst) (a.accept v w.wflags.toNat).word) t))) ∧
      (WReady e specGbank w false s → exec (.gbank w) s =
        .next (doneW e m 16 (onSlice e (fun sl => sl.setS (regNo f.dst) (a.conflicts v)) t)))) ∧
    (m = 0 → (WReady e specGchain w false s → exec (.gchain w) s = .next (doneW e m 16 s)) ∧
      (WReady e (specGtran w) w false s → exec (.gtran w) s = .next (doneW e m 16 s)) ∧
      (WReady e specGflat w false s → exec (.gflat w) s = .next (doneW e m 16 s)) ∧
      (WReady e specGpart w false s → exec (.gslice w) s = .next (doneW e m 16 s) ∧ exec (.gpart w) s = .next (doneW e m 16 s)) ∧
      (WReady e (specGswz w) w false s → exec (.gswz w) s = .next (doneW e m 16 s)) ∧
      (WReady e specGchk w false s → exec (.gchk w) s = .next (doneW e m 16 s)) ∧
      (WReady e specGbank w false s → exec (.gbank w) s = .next (doneW e m 16 s)))

/-- R206, R232: `GLD`, `GST` and the load form of `FBSET` enter one access for the 64-byte or 32-byte image, at srcA plus the immediate,
in memory or in local store; the register form of `FBSET` writes the descriptor. Each completes. -/
def Obligations.ImageMove : Prop :=
  ∀ (w : WFrame) (s t : State) (e : Env) (pl : Nat → Place) (r : LsRef) (mid : W64),
    let m := e.active w.f.guard
    let va := e.sl.s (regNo w.f.srcA) + w.imm.signExtend 64
    let image := toBytes 64 ((e.geomReg w.f.dst).toNat % 2 ^ 511)
    let wide : LoadExt := { size := 16, signed := false }
    let eight : LoadExt := { size := 8, signed := false }
    let local64 := bit5 w.f = true ∧ s.banksWait e.g.core e.g.sub = false ∧ s.lsRef e.w e.g.half1 (va.setWidth 32) 64 = some r ∧
      (va.setWidth 32).toNat % 64 = 0
    (WReady e (specGldst w false) w false s → m ≠ 0 →
      (bit5 w.f = false → PiecesPlaced e s va 64 .load pl → (∀ p ∈ piecesOf va 64, ∀ a, pl p.1 = .mem a → s.poisoned a = false) →
        EnterRoom e .load (piecesAt va 64 pl []) s →
        ∃ u, enter e (access w.f .load (.geom (regNo w.f.dst)) eight (piecesAt va 64 pl []) false) s = .ok ((), u) ∧
          exec (.gld w) s = .next (doneW e m 16 u)) ∧
      (local64 → EnterRoom e .load (lsRange (va.setWidth 32) r [] 64) s →
        ∃ u, enterLs e (access w.f .load (.geom (regNo w.f.dst)) wide (lsRange (va.setWidth 32) r [] 64) false) s = .ok ((), u) ∧
          exec (.gld w) s = .next (doneW e m 16 u))) ∧
    (WReady e (specGldst w true) w false s → m ≠ 0 →
      (bit5 w.f = false → PiecesPlaced e s va 64 .store pl → EnterRoom e .store (piecesAt va 64 pl image) s →
        ∃ u, enter e (access w.f .store .none eight (piecesAt va 64 pl image) false) s = .ok ((), u) ∧
          exec (.gst w) s = .next (doneW e m 16 u)) ∧
      (local64 → EnterRoom e .store (lsRange (va.setWidth 32) r image 64) s →
        ∃ u, enterLs e (access w.f .store .none wide (lsRange (va.setWidth 32) r image 64) false) s = .ok ((), u) ∧
          exec (.gst w) s = .next (doneW e m 16 u))) ∧
    (WReady e (specFbset w) w true s → m ≠ 0 →
      (bit5 w.f = false → srcS e w.f.srcB w.lit s = .ok (mid, t) →
        exec (.fbset w) s = .next (doneW e m 16 (t.modGroup e.cur.grp (fun g => { g with
          fb := g.fb.setIfInBounds (regNo w.f.dst) (BitVec.ofNat 256 ((e.sl.s (regNo w.f.srcA)).toNat + mid.toNat * 2 ^ 64 +
            (srcSz e w.f.srcC).toNat * 2 ^ 128)) })))) ∧
      (bit5 w.f = true → w.wflags.getLsbD 0 = false → PiecesPlaced e s va 32 .load pl →
        (∀ p ∈ piecesOf va 32, ∀ a, pl p.1 = .mem a → s.poisoned a = false) → EnterRoom e .load (piecesAt va 32 pl []) s →
        ∃ u, enter e (access w.f .load (.fblock (regNo w.f.dst)) eight (piecesAt va 32 pl []) false) s = .ok ((), u) ∧
          exec (.fbset w) s = .next (doneW e m 16 u)) ∧
      (bit5 w.f = true → w.wflags.getLsbD 0 = true → s.fencesTo e .matrix s = .ok ([], s) →
        s.banksWait e.g.core e.g.sub = false → s.lsRef e.w e.g.half1 (va.setWidth 32) 32 = some r →
        (va.setWidth 32).toNat % 32 = 0 → EnterRoom e .load (lsRange (va.setWidth 32) r [] 32) s →
        ∃ u, enterLs e (access w.f .load (.fblock (regNo w.f.dst)) wide (lsRange (va.setWidth 32) r [] 32) false) s = .ok ((), u) ∧
          exec (.fbset w) s = .next (doneW e m 16 u))) ∧
    (m = 0 → (WReady e (specGldst w false) w false s → exec (.gld w) s = .next (doneW e m 16 s)) ∧
      (WReady e (specGldst w true) w false s → exec (.gst w) s = .next (doneW e m 16 s)) ∧
      (WReady e (specFbset w) w true s → exec (.fbset w) s = .next (doneW e m 16 s)))

/-- R222 to R228: `MMA` and `MMSP` queue one pass for each class of equal B handles of the quarters with an active lane, `MMAD` one pass
for its single B handle, when no condition is met and the queue has room; each completes.
It rests on the model's choice of log entry 25. -/
def Obligations.MatrixIssue : Prop :=
  ∀ (w : WFrame) (s s1 t : State) (e : Env) (r0 hB : W64) (kept : List (Nat × List (BitVec 2))),
    let m := e.active w.f.guard
    let desc := e.descOf w.f.srcC
    let fmt := mulFormats w desc
    let row (l : Nat) : W64 := (((e.sl.v (regNo w.f.srcA))[l]?).getD 0).setWidth 64
    let handle (q : Nat) : W64 := (((e.sl.v (regNo w.f.srcB))[8 * q]?).getD 0).setWidth 64
    let quarters := (List.range 4).filter (fun q => (actives m).any (fun l => l / 8 == q))
    let x (sparse : Bool) : MulIn :=
      { rows := (actives m).map (fun l => (l, row l)), classes := classesOf handle quarters, hA := srcSz e w.srcF, desc := desc,
        fmtA := fmt.1, fmtB := fmt.2, sparse := sparse }
    let y : MulIn :=
      { rows := (actives m).map (fun l => (l, r0 + BitVec.ofNat 64 l)), classes := [(hB, quarters)], hA := srcSz e w.srcF,
        desc := desc, fmtA := fmt.1, fmtB := fmt.2, sparse := false }
    (∀ sparse : Bool, WReady e (specMma w sparse) w true s → MulLegal e w sparse →
      let i : Instr := if sparse then .mmsp w else .mma w
      (m = 0 → exec i s = .next (doneW e m 16 s)) ∧
      (m ≠ 0 → MulReady e w (x sparse) kept s → PassRoom e (x sparse).classes.length s →
        ∃ u, queuePasses e w (x sparse) kept (x sparse).classes s = .ok ((), u) ∧ exec i s = .next (doneW e m 16 u))) ∧
    (WReady e (specMmad w) w true s → MulLegal e w false →
      (m = 0 → exec (.mmad w) s = .next (doneW e m 16 s)) ∧
      (m ≠ 0 → srcS e w.f.srcA none s = .ok (r0, s1) → srcS e w.f.srcB w.lit s1 = .ok (hB, t) → MulReady e w y [] t →
        PassRoom e 1 t → ∃ u, queuePasses e w y [] y.classes t = .ok ((), u) ∧ exec (.mmad w) s = .next (doneW e m 16 u)))

/-- R233 to R237: `ACZERO` clears the cells of the active rows; `ACRD` reads a row or a column, `ACWR` writes the active lanes' part of
one, `ACMAX` gives the largest magnitude; `ACLD` and `ACST` queue a move. Each completes.
It rests on the model's choices of log entries 5, 26 and 92. -/
def Obligations.AccumulatorResult : Prop :=
  ∀ (w : WFrame) (s s1 t : State) (e : Env) (v : Lanes64) (x : W64),
    let m := e.active w.f.guard
    let f := w.f
    let wide := (cellTyOf w).wide
    let put (n : Nat) (change : Nat → Nat → Option Nat) (u : State) : State := u.modGroup e.cur.grp (putCells n wide change)
    (WReady e (specAczero w) w true s → pairCond e f.dst wide = [] →
      (m = 0 → exec (.aczero w) s = .next (doneW e m 16 s)) ∧
      (m ≠ 0 → TilesIdle e (tilesOf f.dst wide) s →
        exec (.aczero w) s = .next (doneW e m 16 (put (regNo f.dst) (fun i _ => if m.getLsbD i then some 0 else none) s)))) ∧
    (WReady e (specAcrd w) w true s → pairCond e f.srcA wide = [] → (m ≠ 0 → TilesIdle e (tilesOf f.srcA wide) s) →
      srcS e f.srcB w.lit s = .ok (x, t) → Room e f.dst (if wide then 2 else 1) t →
      let r := x.toNat % 32
      let cell (i j : Nat) : W64 := BitVec.ofNat 64 (e.g.cell (regNo f.srcA) wide i j)
      ∃ u, dstV e wide m f.dst (tabulate 32 (fun l => if f.variant.getLsbD 3 then cell l.val r else cell r l.val)) t = .ok ((), u) ∧
        exec (.acrd w) s = .next (doneW e m 16 u)) ∧
    (WReady e (specAcwr w) w true s → pairCond e f.dst wide = [] → (m ≠ 0 → TilesIdle e (tilesOf f.dst wide) s) →
      srcV e (cellTyOf w) f.srcA none s = .ok (v, s1) → srcS e f.srcB w.lit s1 = .ok (x, t) →
      let r := x.toNat % 32
      exec (.acwr w) s = .next (doneW e m 16 (put (regNo f.dst) (fun i j =>
        if f.variant.getLsbD 3 then (if m.getLsbD i ∧ j = r then some (laneNat v i) else none)
        else if i = r ∧ m.getLsbD j then some (laneNat v j) else none) t))) ∧
    (WReady e (specAcmax w) w true s → pairCond e f.srcB wide = [] →
      (m = 0 → exec (.acmax w) s = .next (doneW e m 16 s)) ∧
      (m ≠ 0 → TilesIdle e (tilesOf f.srcB wide) s →
        let cells := ((List.range 32).map (fun i => (List.range 32).map (e.g.cell (regNo f.srcB) wide i))).flatten
        let best := match (cellTyOf w) with
          | .fl t => if cells.any (fun c => (t.decode c).1.isNan) then t.nanCode
                     else cells.foldl (fun a c => max a (c % 2 ^ (t.width - 1))) 0
          | _ => cells.foldl (fun a c => max a (BitVec.ofNat 32 c).toInt.natAbs) 0
        exec (.acmax w) s = .next (doneW e m 16 (onSlice e (fun sl => sl.setS (regNo f.dst) (BitVec.ofNat 64 best)) s)))) ∧
    (∀ load : Bool, WReady e (specAcmove w) w true s → pairCond e f.dst wide = [] →
      let i : Instr := if load then .acld w else .acst w
      let reg := e.geomReg w.srcD
      let g := Geom.ofReg reg
      let h := srcSz e f.srcA
      let code : BitVec 4 := if f.ty = 0 then 8 else f.ty
      let regs := if g.space = 5 then ((rowsElems m).filterMap (fun k => match g.eval h k with
        | .reg n _ => some n
        | _ => none)).eraseDups else []
      let op := if load then PassOp.acld (regNo f.dst) m reg h code (w.imm.setWidth 8).toInt (f.variant.extractLsb' 0 2) (f.variant.getLsbD 2)
        else PassOp.acst (regNo f.dst) m reg h code (w.imm.setWidth 8).toInt (f.variant.extractLsb' 0 2) (f.variant.getLsbD 2)
      (m = 0 → exec i s = .next (doneW e m 16 s)) ∧
      (m ≠ 0 → PassRoom e 1 s → moveReason g h (cellTyOf w) = none → moveConds s e g h m = [] →
        (∀ n ∈ regs, s.busy e (.vreg false) (BitVec.ofNat 8 n) = false) →
        ∃ u, addPass e op (if wide then 32 else 16) (tilesOf f.dst wide ++ (if g.space = 4 then [h.toNat % 16] else [])) regs s =
            .ok ((), u) ∧ exec i s = .next (doneW e m 16 u)))

/-- R243 to R249, R254 to R261: the copy commands with room, accepted operands, a legal shape and operands that translate are queued with
what they read at issue; the index list is read even with no active lane. Each completes.
It rests on the model's choices of log entries 6, 7, 30, 93, 94, 95 and 125. -/
def Obligations.CopyIssue : Prop :=
  ∀ (i : Instr) (kind : CmdKind) (sp : WSpec) (w : WFrame) (s s1 t : State) (e : Env) (idx : List W32) (form : List Nat),
    copyOp i = some (kind, sp, w) → WReady e sp w false s → OptionReady e w s → indexList e kind w s = .ok (idx, s1) →
    let m := e.active w.f.guard
    let prio := w.wflags.getLsbD 2
    let tail (u : Nat) : Nat := (s1.engine (.copy e.g.core u)).tail prio
    let sel := (w.wflags.extractLsb' 5 2).toNat
    let eng : EngineId := .copy e.g.core (if sel = 1 then 0 else if sel = 2 then 1 else if tail 0 ≤ tail 1 then 0 else 1)
    let x := copyIn e kind w
    let sh := x.shape idx
    let rd := s1.resolveTile e m x.dst x.dstH .store (x.dstIx idx)
    let rs := s1.resolveTile e m x.src x.srcH .load (x.srcIx idx)
    let r := (rd.and rs).and (s1.resolveRelease e m ((releaseOf e w).map (fun p => p.1)))
    let ad := x.dst.acceptCopy x.dstH
    let as_ := x.src.acceptCopy x.srcH
    let rank := latW (max rd.rank rs.rank)
    let cost := rank.1 + (ad.cost * sh.dstB + 1023) / 1024 + (as_.cost * sh.srcB + 1023) / 1024 +
      (max x.dst.byteSize x.src.byteSize + rank.2 - 1) / rank.2
    let c : Command := { blankCommand e eng kind prio with
      dstG := e.geomReg w.f.srcA, srcG := e.geomReg w.f.srcC, dstH := x.dstH, srcH := x.srcH,
      rounding := w.f.variant.extractLsb' 0 2, sat := w.f.variant.getLsbD 2, idx := idx, form := form.map (BitVec.ofNat 64),
      option := srcSz e w.srcE, listN := idx.length, barrier := barrierOf e w.srcD, startAt := startOf e w,
      release := releaseOf e w, sysScope := w.wflags.getLsbD 4, bytes := sh.bytes, xlat := r.xlat,
      result := (match kind with
        | .cpyg => indexResult x.src.rowCount idx
        | .cpys => indexResult x.dst.rowCount idx
        | _ => { ev := 0, cnt := 0, val := 0, out := 0 }) }
    (m = 0 → exec i s = .next (doneW e m 16 s1)) ∧
    (m ≠ 0 → QueueRoom e eng prio s1 → ad.reason? = none → as_.reason? = none → sh.conds = [] → Settled r →
      barrierConds s1 e m (barrierOf e w.srcD) = [] →
      (kind.readsForm = true → s1.fencesTo e .copy s1 = .ok ([], s1) ∧
        s1.writtenAhead { blankCommand e eng kind prio with srcG := e.geomReg w.f.srcC, srcH := x.srcH, xlat := r.xlat } = false) →
      formIssue e x s1 = .ok (form, t) →
      ∃ u, submit e c cost (t.dropStages e) = .ok ((), u) ∧ exec i s = .next (doneW e m 16 u))

/-- R320, R321, R445 to R453: `PSEL`, `CPYR`, `STREP` and `FCOLL` with room, legal parameters, a legal peer list and operands that
translate are queued at their engine; a collective takes its instance number at issue. With no active lane nothing is queued. Each
completes.
It rests on the model's choices of log entries 28 and 35. -/
def Obligations.FabricIssue : Prop :=
  ∀ (w : WFrame) (s s1 t : State) (e : Env) (len id : W64),
    let m := e.active w.f.guard
    let prio := w.wflags.getLsbD 2
    let out := (e.sl.s (regNo w.f.dst)).setWidth 32
    let q : W32 := (e.sl.s (regNo w.f.srcA)).setWidth 32
    let np := e.sl.s (regNo w.f.srcC)
    let k := e.sl.s (regNo w.srcD)
    let tab := e.sl.s (regNo w.f.srcB)
    let pages := s.resolvePages e .load ((List.range np.toNat).map (fun i => (tab + BitVec.ofNat 64 (i * w.imm.toNat), 512)))
    let list := peerList s e m (e.sl.s (regNo w.srcE))
    let n := list.2.length
    let x : FabIn := { prio := prio, startAt := startOf e w, rel := (releaseOf e w).map (fun p => p.1), bar := barrierOf e w.srcD, each := bit5 w.f }
    let dst := geoOf e w.f.srcA
    let src := geoOf e w.f.srcC
    let dstH := e.sl.s (regNo w.f.dst)
    let srcH := srcSz e w.f.srcB
    (WReady e (specPsel w) w false s → onGCluster e.g.core = true →
      let eng : EngineId := .psel (clusterOf e.g.core)
      (m = 0 → exec (.psel w) s = .next (doneW e m 16 s)) ∧
      (m ≠ 0 → QueueRoom e eng false s → 0 < k.toNat → k.toNat ≤ 1024 → 0 < np.toNat → np.toNat ≤ 65536 →
        out.toNat % 8 = 0 → q.toNat % 16 = 0 → tab.toNat % 256 = 0 → barrierConds s e m (barrierOf e w.srcE) = [] →
        rangeConds s e m out (8 * k.toNat) = [] → rangeConds s e m q 256 = [] → Settled pages →
        ∃ u, submit e { blankCommand e eng .psel false with
            dstH := out.setWidth 64, srcH := tab, option := q.setWidth 64, listN := k.toNat, barrier := barrierOf e w.srcE,
            startAt := startOf e w, bytes := 8 * k.toNat, xlat := pages.xlat, form := [np, w.imm.setWidth 64] }
            (800 + 8 * np.toNat + k.toNat) s = .ok ((), u) ∧ exec (.psel w) s = .next (doneW e m 16 u))) ∧
    (WReady e (specCpyr w) w false s → OptionReady e w s →
      let ix := (List.range dst.size).filterMap (fun i => match dst.eval dstH i with
        | .global va bit => some (va, elemBytes bit dst.eb)
        | _ => none)
      let r := (s.resolveTile e m src srcH .load (List.range src.size)).and (x.release s e m list.2)
      (m = 0 → exec (.cpyr w) s = .next (doneW e m 16 s)) ∧
      (m ≠ 0 → QueueRoom e (.egress (dieOf e.g.core)) prio s → ListReady e (e.sl.s (regNo w.srcE)) s →
        (dst.acceptCopy dstH).reason? = none →
        (src.acceptCopy srcH).reason? = none → dst.space = 0 → dst.size = src.size → convOk dst.fmt src.fmt = true →
        list.1 = [] → windowConds s list.2 ix = [] → barrierConds s e m x.bar = [] → Settled r →
        ∃ u, submit e { blankCommand e (.egress (dieOf e.g.core)) .cpyr prio with
            dstG := e.geomReg w.f.srcA, srcG := e.geomReg w.f.srcC, dstH := dstH, srcH := srcH,
            rounding := w.f.variant.extractLsb' 0 2, sat := w.f.variant.getLsbD 2, peers := list.2, each := bit5 w.f,
            barrier := x.bar, startAt := startOf e w, release := releaseOf e w, sysScope := true, bytes := dst.byteSize * n,
            xlat := r.xlat }
            (2500 + permuteCycles (dst.acceptCopy dstH).cost (8 * dst.byteSize) +
              permuteCycles (src.acceptCopy srcH).cost (8 * src.byteSize) + (dst.byteSize * n + 63) / 64) s = .ok ((), u) ∧
          exec (.cpyr w) s = .next (doneW e m 16 u))) ∧
    (WReady e (specStrep w) w false s → OptionReady e w s →
      let r := x.release s e m list.2
      (m = 0 → exec (.strep w) s = .next (doneW e m 16 s)) ∧
      (m ≠ 0 → QueueRoom e (.egress (dieOf e.g.core)) prio s → ListReady e (e.sl.s (regNo w.srcE)) s →
        srcS e w.f.srcB w.lit s = .ok (len, t) →
        0 < len.toNat → len.toNat ≤ 65536 → rangeConds s e m q len.toNat = [] → windowConds s list.2 [(dstH, len.toNat)] = [] →
        list.1 = [] → barrierConds s e m x.bar = [] → Settled r →
        ∃ u, submit e { blankCommand e (.egress (dieOf e.g.core)) .strep prio with
            dstH := dstH, srcH := q.setWidth 64, listN := len.toNat, peers := list.2, each := bit5 w.f, barrier := x.bar,
            startAt := startOf e w, release := releaseOf e w, sysScope := true, bytes := len.toNat * n, xlat := r.xlat }
            (2500 + (len.toNat * n + 63) / 64) t = .ok ((), u) ∧ exec (.strep w) s = .next (doneW e m 16 u))) ∧
    (WReady e (specFcoll w) w false s → OptionReady e w s →
      let op := w.f.variant.toNat % 4
      let from_ : W32 := (srcSz e w.f.srcA).setWidth 32
      let r := s.resolveRelease e m x.rel
      (m = 0 → exec (.fcoll w) s = .next (doneW e m 16 s)) ∧
      (m ≠ 0 → QueueRoom e (.egress (dieOf e.g.core)) prio s → srcS e w.f.srcB w.lit s = .ok (len, s1) →
        srcS e w.f.srcC none s1 = .ok (id, t) →
        let bytes := len.toNat * collSize op w.f.ty.toNat
        let entry := s.fabric.collOf id.toNat
        let gives := op != 3 || bitsAt entry 13 12 == 0
        let no := s.fabric.instance_ id.toNat
        0 < len.toNat → bytes ≤ 65536 → rangeConds s e m out bytes = [] → (gives = true → rangeConds s e m from_ bytes = []) →
        id.toNat < 1024 → entry % 2 = 1 → barrierConds s e m x.bar = [] → Settled r →
        ∃ u, submit e { blankCommand e (.egress (dieOf e.g.core)) (.fcoll (BitVec.ofNat 2 op) w.f.ty) prio with
            dstH := out.setWidth 64, srcH := from_.setWidth 64, option := no.setWidth 64, listN := id.toNat, barrier := x.bar,
            startAt := startOf e w, release := releaseOf e w, sysScope := true, bytes := bytes, xlat := r.xlat,
            form := [BitVec.ofNat 64 len.toNat, BitVec.ofNat 64 gives.toNat] } (4000 + (bytes + 63) / 64)
            { t with fabric := { t.fabric with collNo := (id.toNat, no + 1) :: t.fabric.collNo.filter (fun p => p.1 != id.toNat) } } =
            .ok ((), u) ∧ exec (.fcoll w) s = .next (doneW e m 16 u)))

/-- R285 to R294, R366: `SPAWN` puts n records of a valid item descriptor into the cluster's item queue, `SPAWNJ` stores a join record,
`JDEC` counts one down, `LAUNCH` appends a launch record to a region's launch queue; under a single step the work waits with the
workgroup. With no active lane none does anything. Each completes.
It rests on the model's choices of log entries 36 and 38. -/
def Obligations.WorkCreation : Prop :=
  ∀ (w : WFrame) (f : FFrame) (s s0 s1 s2 : State) (e : Env) (n : W64) (p : Place) (pl : Nat → Place) (bs : List Byte),
    let m := e.active w.f.guard
    let code := e.sl.s (regNo w.f.srcA)
    let frame := srcSz e w.f.srcB
    let join := srcSz e w.srcD
    let cl := clusterOf e.g.core
    let stores (s : State) : Nat := ((s.slice? e.cur.grp e.cur.a).getD e.sl).stores
    let rec_ (i : Nat) : BitVec 256 := contRecord code (frame + BitVec.ofNat 64 (i * w.imm.toNat)) join e.w.region e.sl.corr
    (WReady e specSpawn w false s →
      (m = 0 → exec (.spawn w) s = .next (doneW e m 16 s)) ∧
      (m ≠ 0 → srcS e w.f.srcC none s = .ok (n, s0) → code.toNat % 128 = 0 → Reads e code 128 m s0 bs s1 →
        itemDescOk (BitVec.ofNat 1024 (ofBytes bs)) = true → n.toNat ≤ 65535 → joinOk join = true → s1.pushAfter e = [] →
        (n = 0 → exec (.spawn w) s = .next (doneW e m 16 (s1.dropStages e))) ∧
        (n ≠ 0 → s1.itemsFull cl = false → stores s1 < 63 →
          let recs := (List.range n.toNat).map rec_
          exec (.spawn w) s = .next (doneW e m 16 ((countStore e (s1.startWork e (heldBy e recs none true)
            (fun s => s.spawnInto cl (some (e.cur.grp, e.cur.a)) recs))).dropStages e))))) ∧
    (WReady e specSpawnj w false s →
      let at_ := e.sl.s (regNo w.srcE)
      (m = 0 → exec (.spawnj w) s = .next (doneW e m 16 s)) ∧
      (m ≠ 0 → srcS e w.f.srcC none s = .ok (n, s0) → code.toNat % 128 = 0 → Reads e code 128 m s0 bs s1 →
        itemDescOk (BitVec.ofNat 1024 (ofBytes bs)) = true → joinOk join = true → joinOk at_ = true →
        (∀ q ∈ piecesOf at_ 64, e.xlate s1 q.2.1 .store = .place (pl q.1)) →
        let count := n.toNat % 2 ^ 32
        let cont := contRecord code frame join e.w.region e.sl.corr
        let record := toBytes 64 (cont.toNat + count * 2 ^ 256 + cl % 8 * 2 ^ 288 + cl / 8 * 2 ^ 291 + (if count = 0 then 2 else 1) * 2 ^ 294)
        let accs := piecesAt at_ 64 pl record
        (count = 0 → s1.itemsFull cl = false) → EnterRoom e .store accs (s1.dropStages e) →
        ∃ u, enter e ⟨.store, .none, { size := 8, signed := false }, accs, .dev, 0, false, none⟩ (s1.dropStages e) = .ok ((), u) ∧
          exec (.spawnj w) s = .next (doneW e m 16 (if count = 0 then
            u.startWork e (heldBy e [cont] none false) (fun s => s.spawnInto cl none [cont]) else u)))) ∧
    (FReady e specJdec f none s → srcS e f.srcB none s = .ok (n, s0) →
      let m := e.active f.guard
      let a := n.toNat % 2 ^ 32
      let va := e.sl.s (regNo f.srcA)
      (m = 0 ∨ (s0.pushAfter e = [] ∧ a = 0) → exec (.jdec f) s = .next (done e m 8 0 s0)) ∧
      (m ≠ 0 → s0.pushAfter e = [] → a ≠ 0 → e.xlate s0 va .store = .place p → va.toNat % 64 = 0 →
        (∀ x, p = .mem x → s0.poisoned x = false) → (∀ q off, p ≠ .fabric q off) → (∀ x, p = .host x → s0.portUp x = true) →
        s0.joinStep e.g.core p a = some s1 →
        exec (.jdec f) s = .next (done e m 8 0 (s1.watchHit e.cur.grp e.cur.a [(va, 64)] true true)))) ∧
    (WReady e specLaunch w false s →
      let target := if RC.of w.f.srcB = .s then (e.sl.s (regNo w.f.srcB)).toNat else e.w.region
      (m = 0 → exec (.launch w) s = .next (doneW e m 16 s)) ∧
      (m ≠ 0 → target < 2 ^ 16 → (s.chain s.climb target).contains e.w.region = true → code.toNat % 128 = 0 →
        (∀ q ∈ piecesOf code 128, e.xlate s q.2.1 .load = .place (pl q.1)) → s.pushAfter e = [] → stores s < 63 →
        Reads e code 128 m s bs s1 → s1.appendLaunch target bs = some s2 →
        exec (.launch w) s = .next (doneW e m 16 (if e.w.stepping then
          countStore e ((s1.startWork e (heldBy e [] (some (target, bs)) true) (fun s => s)).dropStages e) else s2.dropStages e))))

/-- R17, R88, R311, R312, R359, R365, R395, R400, R404: the system instructions. `TGET` gives the time or a deadline, `EGET` an energy
value, `EPOST` sets the launch's estimate, `SRD` and `SWR` read and write a system register, `TLBI` removes translations, `TRACE` and
`TMARK` write records, `PERF` reads a snapshot counter. Each completes.
It rests on the model's choices of log entries 24, 42 and 124. -/
def Obligations.SystemResult : Prop :=
  ∀ (f : FFrame) (s s1 t : State) (e : Env) (a b : W64),
    let m := e.active f.guard
    let written (x : W64) (t u : State) : Prop := dstS e m f.dst x t = .ok ((), u)
    (FReady e (specTget f) f none s →
      (f.variant.getLsbD 0 = false → Room e f.dst 1 s →
        ∃ u, written (BitVec.ofNat 64 (s.ptb (dieOf e.g.core))) s u ∧ exec (.tget f) s = .next (done e m 8 0 u)) ∧
      (f.variant.getLsbD 0 = true → srcS e f.srcB none s = .ok (b, t) → Room e f.dst 1 t →
        ∃ u, written (BitVec.ofNat 64 (min (t.ptb (dieOf e.g.core) + (9 * b.toNat + 9) / 10) (2 ^ 63 - 1))) t u ∧
          exec (.tget f) s = .next (done e m 8 0 u))) ∧
    (FReady e (specEget f) f none s → Room e f.dst 1 s →
      ∃ u, written (s.energyValue e.w f.variant.toNat) s u ∧ exec (.eget f) s = .next (done e m 8 0 u)) ∧
    (FReady e specEpost f none s →
      exec (.epost f) s = .next (done e m 8 0 (match e.w.launch with
        | some l => if m = 0 then s else s.modLaunch l (fun y => { y with est := min (e.sl.s (regNo f.srcA)).toNat (2 ^ 48 - 1) })
        | none => s))) ∧
    (FReady e (specSrd f) f none s → Room e f.dst 1 s →
      ∃ u, written (BitVec.ofNat 64 (s.sysRead e f.srcC.toNat)) s u ∧ exec (.srd f) s = .next (done e m 8 0 u)) ∧
    (FReady e (specSwr f) f none s → (f.srcC.toNat ∈ sysHandler → e.sl.hmode = true) → srcS e f.srcB none s = .ok (b, t) →
      exec (.swr f) s = .next (done e m 8 0 (if m = 0 then t
        else if f.srcC = 0x22 then t.modCore e.g.core (fun k => { k with lothr := b.setWidth 32 })
        else onSlice e (fun sl => sl.sysWrite f.srcC.toNat b) t))) ∧
    (FReady e (specTlbi f) f none s → e.sl.hmode = true →
      let op := tlbiOp e f
      let dies := if f.variant.getLsbD 2 then [dieOf e.g.core] else List.range 8
      let gone := dies.foldl (fun s d => s.tlbiDie op d) s
      (m = 0 → exec (.tlbi f) s = .next (done e m 8 0 s)) ∧
      (m ≠ 0 → e.sl.tlbi = none → (∀ p ∈ mine e s, p.kind.writes = false) →
        gone.tlbiOpen { slot1 := e.cur.slot1, pend := (dies.map (s.tlbiPend op)).flatten, cmds := (dies.map (s.tlbiCmds op)).flatten } =
          false → exec (.tlbi f) s = .next (done e m 8 0 gone)) ∧
      (∀ w, m ≠ 0 → e.sl.tlbi = some w → w.slot1 = e.cur.slot1 → s.tlbiOpen w = false →
        exec (.tlbi f) s = .next (done e m 8 0 (onSlice e (fun sl => { sl with tlbi := none }) s)))) ∧
    (FReady e specTrace f none s → srcS e f.srcA none s = .ok (a, s1) → srcS e f.srcB none s1 = .ok (b, t) →
      exec (.trace f) s = .next (done e m 8 0 (if m = 0 then t else t.traceSlice e 0x10 (b.toNat % 256) e.sl.corr a))) ∧
    (FReady e specTmark f none s → srcS e f.srcB none s = .ok (b, t) →
      let t1 := onSlice e (fun sl => { sl with corr := b.setWidth 32 }) t
      exec (.tmark f) s = .next (done e m 8 0 (if m = 0 then t
        else if e.sl.corr.getLsbD 31 || b.getLsbD 31 then t1.traceSlice e 0x0F 0 (b.setWidth 32) (e.sl.corr.setWidth 64) else t1))) ∧
    (FReady e specPerf f none s → srcS e f.srcB none s = .ok (b, t) → Room e f.dst 1 t →
      ∃ u, written (BitVec.ofNat 64 ((t.core e.g.core).perf b)) t u ∧ exec (.perf f) s = .next (done e m 8 0 u))

/-- R47 to R50: each half of a pair frame means what its F form means, and the two halves, both reading the state before the frame, are
done in one issue, which records their events together and moves past 8 bytes. It completes.
It rests on the model's choices of log entries 110 and 111. -/
def Obligations.PairResult : Prop :=
  (∀ (h : PHalf) (s : State), h.hasForm = true → ∃ i, halfForm h = some i ∧ exec i s = issueF h.fguard (halfBody h) s) ∧
  ∀ (h0 h1 : PHalf) (s s1 t : State) (e : Env) (ev0 ev1 : Events), h0.hasForm = true → h1.hasForm = true →
    pairCause h0 h1 = none → s.env? = some e → halfBody h0 e s = .ok (ev0, s1) → halfBody h1 e s1 = .ok (ev1, t) →
    exec (.pairFrame h0 h1) s = .next (done e (e.active h0.fguard ||| e.active h1.fguard) 8 (ev0 ||| ev1) t)

/-- R104, R103, R194, R196, R318: a slice whose window, instant or phase has come goes on: an exclusion of `YIELD` ends, a `SLEEP` and
a `BWAIT` move past their frames, a `BWAIT.prom` whose phase is still open at its instant raises 0x38 where the region takes it and is
else counted and recorded as missed; the object's prom bit stays set only while another slice still sleeps on it; the
watch unit reads its word, from a peer by a request, and a message of a pair reaches its object. Each completes.
It rests on the model's choice of log entry 27. -/
def Obligations.WakeEvents : Prop :=
  ∀ (grp : Nat) (a one : Bool) (s : State) (g : Group) (sl : Slice), Resident s grp a g sl →
    let ptb := s.ptb (dieOf g.core)
    (∀ d, sl.yieldEnd = some d → d ≤ cycleOf s g.core →
      exec (.yieldWindowEnd grp a) s = .next (s.modSlice grp a (fun sl => { sl with yieldEnd := none }))) ∧
    (∀ t, sl.sleep = some t → sl.promSlot = none → sl.runs sl.last1 = true → t.toNat ≤ ptb →
      exec (.sleepWake grp a) s = .next (s.modSlice grp a (fun sl =>
        { (sl.setSlot sl.last1 ((sl.slot sl.last1).map (fun p => { p with pc := p.pc + 8 }))) with sleep := none }))) ∧
    (∀ w, sl.wait one = some w → sl.runs one = true → w.asleep = false → s.phaseOf w.obj ≠ w.bit →
      exec (.bwaitComplete grp a one) s = .next (s.endWait g a one w)) ∧
    (∀ w t, sl.promSlot = some (one, w) → sl.sleep = some t → sl.runs one = true → t.toNat ≤ ptb →
      let s0 := s.modSlice grp a (fun sl => { (sl.setWait one (some { w with asleep := false })) with sleep := none })
      let s1 := s0.setProm w.obj (s0.promOn w.obj)
      let counted (e : Env) : State :=
        let y := s1.modCore e.g.core (fun k => k.count 10 1 (some (e.path.pc, e.w.asn)))
        if e.sl.corr.getLsbD 31 then
          y.trace e.w.region { type := 0x04, engine := sliceIdent e.g.core, origin := e.g.origin e.cur.a, corr := e.sl.corr,
                               ptb := y.ptb (dieOf e.g.core), payload := t.toNat }
        else y
      (s1.phaseOf w.obj ≠ w.bit → exec (.bwaitPromWake grp a) s = .next (s1.endWait g a one w)) ∧
      (∀ e, s1.phaseOf w.obj = w.bit → { s1 with cur := some { grp := grp, a := a, slot1 := one } }.env? = some e →
        exec (.bwaitPromWake grp a) s = .next (if s.rcbOwned 6 e.w.region 93 1 = 1 then
          (s1.modSlice grp a (fun sl => { (sl.setWait one none) with heldPop := some (.bwaitProm, t) })).takeTrap e
            { cause := 0x38, aux0 := t, aux1 := BitVec.ofNat 64 ptb, epc := e.path.pc, fpc := none }
          else (counted e).modSlice grp a (fun sl => sl.setWait one (some { w with asleep := false, missed := true }))))) ∧
    (∀ i w wg, s.watches[i]? = some w → s.wg? w.wg = some wg →
      let core := wg.coreOf w.half1
      let s1 := { s with watches := s.watches.set i { w with next := s.ptb (dieOf core) + 1000, event := false } }
      exec (.watchRead i) s = .next (match w.place with
        | .fabric p off => s1.sendReq p { src := s.fabric.dev, op := .read, seq := 0, off := BitVec.ofNat 43 off, len := 8, aop := 0,
                                          ty := 0, cas := false, cmp := 0, bytes := (List.range 8).map (fun i => (off + i, 0)) }
            (.watch w.wg w.half1 w.off)
        | _ => s1.objModify (.ls w.wg w.half1 w.off) (fun x => x))) ∧
    (∀ i m, s.pairMsgs[i]? = some m →
      (∀ n ∈ s.pairMsgs.take i, ¬(n.wg = m.wg ∧ n.half1 = m.half1 ∧ n.off = m.off)) →
      let o : ObjRef := .ls m.wg m.half1 m.off
      let x := s.objRead o
      let s1 := { s with pairMsgs := s.pairMsgs.eraseIdx i }
      exec (.pairMessageArrive i) s = .next (if bitsAt x 61 3 = 5 ∧ bitAt x 58 = true then
          s1.objUpdate o (setBits (setBits x 97 1 1) 112 16 m.count.toNat)
        else s1.objWrite o (setBits x 60 1 1)))

/-- R165, R167, R401, R402, R151, R242, R241, R313: what a core and its die do by themselves: a halt that has come reaches the slices of
its subcore, a subcore that issued nothing is classified, the throttle halves its scores every 4,096 die cycles and sets its limit
every 1,024, a matrix unit takes its next pass and completes it, a die cycle is stretched. Each completes.
It rests on the model's choices of log entries 60, 61 and 104. -/
def Obligations.CoreCycleEvents : Prop :=
  ∀ (core sub : Nat) (s : State),
    let now := cycleOf s core
    let unit := (s.core core).sub sub
    (∀ h w, h ∈ s.halts → h.core = core → h.sub = sub → h.due ≤ now → s.wg? h.wg = some w →
      ∃ t, exec (.haltArrival h.wg core sub) s = .next t ∧ t.halts.length + 1 = s.halts.length ∧
        t.groups = s.groups.map (fun g => if g.wg = h.wg ∧ g.core = core ∧ g.sub = sub then
          { g with x := g.x.haltAt w.stop.isSome w.atOnce, a := g.a.map (fun sl => sl.haltAt w.stop.isSome w.atOnce) } else g)) ∧
    (s.hasIssued core sub = false →
      (∀ g a sl j one, (s.slicesOn core sub).find? (fun x => x.2.2.going) = some (g, a, sl) → sl.idleBin = (j, one) →
        exec (.idleCycle core sub) s = .next (s.modCore core (fun k =>
          (k.count j 32 ((sl.slot one).map (fun p => (p.pc, s.asnOf g.id)))).modSub sub (fun u => { u with issued := true })))) ∧
      ((∀ x ∈ s.slicesOn core sub, x.2.2.going = false) →
        exec (.idleCycle core sub) s = .next (s.modCore core (fun k =>
          (k.count 4 32 none).modSub sub (fun u => { u with issued := true }))))) ∧
    (now % 4096 = 0 → (s.core core).decayAt ≠ now → core < 512 →
      ∃ t, exec (.throttleDecay core) s = .next t ∧ (t.core core).decayAt = now ∧
        ∀ i : Fin 64, (((t.core core).slots[i]).score : BitVec 16) = BitVec.ushiftRight ((s.core core).slots[i]).score 1) ∧
    (now % 1024 = 0 → (s.core core).windowAt ≠ now → (now % 4096 = 0 → (s.core core).decayAt = now) →
      exec (.throttleWindow core) s = .next (s.modCore core (fun k =>
        k.window (s.candidates core) ((s.groupsOn core).map Group.coreNo) now))) ∧
    (∀ p l, unit.running = none → unit.waiting = p :: l → (∀ q ∈ p.fences, s.pointOpen core sub q = false) →
      exec (.matrixPassStart core sub) s = .next (s.modCore core (fun k => k.modSub sub (fun b =>
        { b with running := some (p, now + p.cycles), waiting := l })))) ∧
    (∀ p due g w s2 ev, unit.running = some (p, due) → due ≤ now → s.passBehind p = false → s.group? p.grp = some g → s.wg? g.wg = some w →
      (s.modCore core (fun k => k.modSub sub (fun b => { b with running := none }))).runPass w g p.op = (s2, ev) →
      exec (.matrixPassComplete core sub) s =
        .next ((s2.modSlice g.id false (fun sl => { sl with passes := sl.passes - 1 })).record g false w.region ev p.pc)) ∧
    (∀ die, let d := s.die die
      let recent := d.recent.filter (fun c => decide (d.dcyc < c + 64))
      d.present = true → d.fenced = false → d.stretch = false → recent.length < 8 →
      exec (.droopStretch die) s = .next (s.modDie die (fun d =>
        { d with stretch := true, stretched := d.stretched + 1, recent := d.dcyc :: recent, nextEdge := d.nextEdge + 8 })))

/-- R156 to R158, R163, R307, R308, R316, R435: the memory side of accesses. A bank serves the head of its queue,
requests that cross to the buddy core arrive, memory answers loads, performs stores and atomics, a page is walked, and an access that
a peer or a dead port refused stops its workgroup. Each completes.
It rests on the model's choices of log entries 14, 74 and 104. -/
def Obligations.MemoryEvents : Prop :=
  ∀ (core id : Nat) (s : State) (p : Pending),
    (∀ bank r, bank ∉ (s.core core).served →
      (s.core core).bankq.find? (fun r => r.entered && r.bank == bank) = some r → s.bankReady r = true → s.reqPend r = some p →
      let s1 := s.modCore core (fun k => { k with bankq := k.bankq.erase r, served := k.served ++ [bank] })
      exec (.bankServe core bank) s = .next (s1.perform r.core p (p.lanesOf r))) ∧
    (∀ l, (s.core core).pend.filter (fun p => p.accs.any LaneAcc.travels) = p :: l → p.id = id →
      exec (.buddyRequestArrive core id) s = .next ((s.setAccs core id (fun a =>
        if a.travels then { a with arrived := true } else a)).enqueueBanks core id (p.accs.filter LaneAcc.travels))) ∧
    (pendAt s core id = some p → p.id = id → Servable s core p →
      (p.kind = .load ∨ p.kind = .ldq ∨ p.kind = .reload ∨ p.kind = .stage → exec (.loadResponse core id) s = .next (served s core p)) ∧
      (p.kind = .store → exec (.storePerformed core id) s = .next (served s core p)) ∧
      (∀ op ty cas ret, p.kind = .atomic op ty cas ret →
        (ret = false → exec (.storePerformed core id) s = .next (served s core p)) ∧
        (ret = true → exec (.atomicResponse core id) s = .next (served s core p)))) ∧
    (∀ a, pendAt s core id = some p → p.id = id → p.refused = none → s.readyAt core p ≠ [] → s.poisonedAcc p = some a → p.kind = .load →
      exec (.loadResponse core id) s = .next (s.poisonStop core p a.va)) ∧
    (∀ die, exec (.pageWalk die) s = .next (s.pageWalk die)) ∧
    (∀ va who reason g w, (s.core core).pend.find? (fun p => p.id == id && p.refused.isSome) = some p →
      p.refused = some (va, who, reason) → s.pendOwner p = some (g, w) → reason ≠ 0 →
      let sl := ((g.slice? p.a).getD g.x).haltAt true true
      let i : StopInfo :=
        { reason := .refusedRemote, grp := g.num, slice := p.a, epc := sl.epc, aux0 := va,
          aux1 := BitVec.ofNat 64 (who.toNat + reason.toNat * 2 ^ 12), corr := p.corr, pages := [], since := s.ptb (dieOf core),
          onReservedPath := false, record := none }
      let s1 := if w.phase = .running ∨ w.unreported = true then (s.modSleeper g.id p.a (fun sl => sl.haltAt true true)).stopSlice w g p.a i
        else s
      exec (.fabricRefusal core id) s = .next (if p.kind = .store then
        (s1.setAccs core id (fun a => { a with done := true })).completeIf core id else s1))

/-- R242, R250 to R252, R264, R265, R321 to R323, R335, R391, R440, R450 to R454: the engines. A command starts once its instant and
fences allow, the priority queue before the normal one; a chunk of its units moves and its bytes are subtracted, and where the peers'
windows do not bound it the chunk cuts no 8-byte quantity and no 16-byte bank word; when all it writes is performed its
release is made and its status pushed; a replay sends it back to its boundary, a poisoned line stops it there; a page selection writes
its output; a collective takes its combined lines and sends open ones again on another plane. Each completes.
It rests on the model's choices of log entries 29, 31 and 35. -/
def Obligations.EngineEvents : Prop :=
  ∀ (i : EngineId) (s : State) (c : Command) (q : Engine),
    (s.pickCmd i = some (c, q) →
      let c1 := { c with started := true }
      let s1 := (s.modEngine i (fun _ => { q with running := some c1 })).traceCmdIf c1 0x02 c1.bytes
      exec (.commandStart i) s = .next (match c.kind with
        | .psel => s1.modRunning i (fun c => { c with query := (s.cmdLs c (c.option.setWidth 32) 256).map (s.cmdByte c) })
        | .fcoll _ _ => s1.startColl i c1
        | _ => s1.sendCorr c1)) ∧
    (Runs i c s → c.ready = true → ∀ n, let is_ := portion s c n
      let r := movedBy s c is_
      is_ ≠ [] → s.poisonAmong ((is_.map (s.unitReads c)).flatten) = none →
      s.portWait ((is_.map (s.unitReads c)).flatten ++ (is_.map (s.unitWrites c)).flatten) = false →
      s.placesBehind ((is_.map (s.unitReads c)).flatten ++ (is_.map (s.unitWrites c)).flatten) = false → s.windowFull r.out = false →
      exec (.engineByteSubtract i n) s =
        .next ((((running i r.c r.s).clearPoison (homeLines r.home)).cmdSend i false r.out).landSome i)) ∧
    (∀ n, s.unitLimit c = c.units → ∀ j ∈ portion s c n, ∀ k, c.moved + (portion s c n).length ≤ k → k < c.units →
      (∀ p ∈ s.unitReads c j, ∀ q ∈ s.unitReads c k, p.unit ≠ q.unit) ∧
      (∀ p ∈ s.unitWrites c j, ∀ q ∈ s.unitWrites c k, p.unit ≠ q.unit)) ∧
    (Runs i c s → c.kind ≠ .psel → (∀ op ty, c.kind ≠ .fcoll op ty) → c.ready = true → c.units ≤ c.moved →
      ∀ c1, let s1 := (s.makeReleases i c).landSome i
      (s1.engine i).running = some c1 → c1.waiting = 0 → c1.released = true →
      exec (.commandComplete i) s = .next (s1.finishCmd c1 none)) ∧
    ((s.engine i).running = some c → (∀ op ty, c.kind ≠ .fcoll op ty) →
      exec (.tileTaskReplay i) s = .next (s.modRunning i Command.atBoundary)) ∧
    (∀ va, (s.engine i).running = some c → s.poisonVa c = some va → s.faultFull c.region = false →
      ∃ t, exec (.poisonRead i) s = .next t ∧ (t.engine i).running = none ∧
        t.pkg.heldCmds = s.pkg.heldCmds ++ [(.poison (s.faultSlot c.region).1, c.atBoundary)]) ∧
    (∀ n c0 c1 xs ev, i = .psel n → Runs i c s → c.ready = true →
      s.placesBehind (s.cmdLs c (c.dstH.setWidth 32) (8 * c.listN)) = false → s.pselScores c = (xs, ev) →
      let s2 := match (s.cmdLs c (c.dstH.setWidth 32) (8 * c.listN)).head? with
        | some (.ls w h off) => s.lsWrite w h off (pselOutput c.listN xs)
        | _ => s
      let s3 := s2.modRunning i (fun c => { c with result := { c.result with ev := ev } })
      let s4 := s3.landSome i
      (s3.engine i).running = some c0 → c0.kind = .psel → c0.ready = true → c0.release = none →
      (s4.engine i).running = some c1 → c1.waiting = 0 → c1.release = none →
      exec (.pselComplete n) s = .next (s4.finishCmd c1 (some c1.selection))) ∧
    (∀ die op ty line leaves, i = .egress die → (s.engine i).running = some c → c.kind = .fcoll op ty →
      let r := collLine op ty (c.lineLen line) leaves
      (exec (.collResultArrive die line leaves true) s =
        .next (s.modRunning i (fun c => { c with lines := List.range c.collLines, result := c.result.note 4 0 0 }))) ∧
      (line < c.collLines → line ∉ c.lines → r.1.length = c.lineLen line → (∀ l ∈ leaves, ∀ b ∈ l, b.length = c.lineLen line) →
        exec (.collResultArrive die line leaves false) s = .next (s.modRunning i (fun c =>
          { c with lines := c.lines ++ [line], fetched := c.fetched.writeBytes (128 * line) r.1,
                   result := { c.result with ev := c.result.ev ||| r.2 } })))) ∧
    (∀ die op ty plane p up, i = .egress die → (s.engine i).running = some c → c.kind = .fcoll op ty →
      s.fabric.ports[plane]? = some p → p.up = false → p.downAt + 200000 ≤ s.time →
      nextPlane (s.fabric.upPlanes (bitsAt (s.fabric.collOf c.listN) 32 48)) plane = some up →
      let left := (List.range c.collLines).filter (fun j => !c.lines.contains j && c.planeOf j == plane)
      let form := c.form.take 2 ++ (c.form.drop 2).map (fun w => if w.toNat = plane then BitVec.ofNat 64 up else w)
      left ≠ [] → exec (.collLineResend die plane) s = .next (fabricSet (fun f =>
        { f with sent := s.fabric.sent ++ left.map (fun j => c.contribute j up) }) (s.modRunning i (fun c => { c with form := form }))))

/-- R284, R286, R293, R295, R297, R366 to R371: the cluster and the distributor. Records enter the item queue, four in a die cycle and
not before the one after their issue, and are packed into groups, which close when 256 die cycles pass; a set, an item group or a saved
unit that fits is admitted; a group that has ended retires; the head of a launch queue is read and rejected, with the lowest reason that
fails, or accepted; a set is handed out; a launch completes. Each completes.
It rests on the model's choices of log entries 39, 49, 71, 97, 98, 99, 100, 101 and 106. -/
def Obligations.WorkEvents : Prop :=
  ∀ (n : Nat) (s t : State),
    let c := s.cluster n
    let now := (s.die (n / 8)).dcyc
    let go := (c.entering.takeWhile (fun x => decide (x.2.2 < now))).take (min 4 (s.itemRoom n - c.queued))
    (go ≠ [] → c.enterAt ≠ now → (c.packAt = now ∨ (c.itemq = [] ∧ c.opened = [])) →
      exec (.itemQueueEnter n) s = .next (go.foldl (fun s x => match x.2.1 with
          | some (g, a) => s.modSlice g a (fun sl => { sl with stores := sl.stores - 1 })
          | none => s) (go.foldl (fun s x => s.queueItem n x.1)
        (s.modCluster n (fun c => { c with entering := c.entering.drop go.length, enterAt := now }))))) ∧
    (c.packAt ≠ now → ¬(c.itemq = [] ∧ c.opened = []) → (∀ g ∈ c.opened, g.idle < 256) →
      let c1 := (c.itemq.take 4).foldl (fun c r => c.pack now r) { c with itemq := c.itemq.drop 4, packAt := now }
      let c2 := { c1 with opened := c1.opened.map (fun g => { g with idle := g.idle + 1 }) }
      exec (.couplerCycle n) s = .next ((s.modCluster n (fun _ =>
        if c2.itemq = [] ∧ c2.entering = [] then c2.opened.foldl (fun c g => c.makeReady now g) c2 else c2)).refillItems n 4)) ∧
    (exec (.couplerIdleTimeout n) s = .next (s.modCluster n (fun _ =>
      (c.opened.filter (fun g => decide (256 ≤ g.idle))).foldl (fun c g => c.makeReady now g) c))) ∧
    (s.clusterOk n = true →
      (s.tryAdmit n = some (false, t) → exec (.clusterAdmit n) s = .next t) ∧
      (s.tryAdmit n = none → exec (.clusterAdmit n) s = .next (s.modCluster n (fun c => { c with tryAdmit := false }))) ∧
      (s.tryAdmit n = some (true, t) → exec (.restore n) s = .next t)) ∧
    (∀ g w, s.group? n = some g → s.wg? g.wg = some w → s.groupDone g = true →
      let s1 := { s with groups := s.groups.filter (fun x => x.id != g.id) }.freed w
      exec (.groupRetire n) s = .next ((if w.item then s1.itemJoins w g.x.corr else s1).sweepWgs)) ∧
    (s.pkg.power ≤ 1000 * s.pkg.pwr.toNat → (∀ t, s.pkg.lastSet = some t → t + 2 ≤ s.ptb0) →
      let tops := s.tops s.round
      let s1 := s.markTops (tops.map (fun y => y.2.2.1.id))
      exec .distributorStep s = .next (s1.serve (s1.keeper tops) s1.round)) ∧
    (∀ l, s.launch? n = some l → l.total ≤ l.retired → (∀ w ∈ s.wgs, w.launch ≠ some n) → (∀ c ∈ s.ctxs, c.launch ≠ some n) →
      (∀ c ∈ s.allCommands, c.launch ≠ some n) → exec (.launchComplete n) s = .next (s.finishLaunch l 0 0)) ∧
    (∀ x d, s.region? n = some x → x.stopped = false →
      let head := s.rcb n 784 16
      let addr := s.rcb n 704 64 + 128 * head
      let img : BitVec 1024 := BitVec.ofNat 1024 (s.peek addr 128)
      let l := s.newLaunch n addr img d
      let past := ((s.setRcb n 784 16 ((head + 1) % s.rcb n 768 16)).modRegion n (fun x => { x with headSince := none })).releaseWork
        (fun h => (match h.launch with | some (r, _) => r == n | none => false) && s.wgs.any (fun w => w.id == h.wg && !w.stepping))
      head ≠ s.rcb n 800 16 → s.rcb n 768 16 ≠ 0 → (img.extractLsb' 448 64).toNat ≤ s.ptb0 →
      (s.readDescAt n (img.extractLsb' 0 56).toNat = (some d, none) →
        let reason := (descReason d).or (if descField d 16 4 = 1 then some 2 else s.launchReason l)
        (∀ r, reason = some r → exec (.launchRead n) s = .next (past.finishLaunch l (if r < 16 then 1 else 2) r)) ∧
        (reason = none → x.launches.length < 4 → (l.field 255 1 = 0 →
          exec (.launchRead n) s = .next ({ past with launches := s.launches ++ [l], nextId := s.nextId + 1 }.modRegion n
            (fun x => { x with launches := x.launches ++ [l.id] }))))) ∧
      (s.readDescAt n (img.extractLsb' 0 56).toNat = (none, none) →
        let l0 := s.newLaunch n addr img 0
        let bits : BitVec 1024 := BitVec.ofNat 1024 ((img.extractLsb' 201 2).toNat * 2 ^ 25)
        let r := (s.launchReason { l0 with desc := bits }).getD 24
        exec (.launchRead n) s = .next (past.finishLaunch l0 (if r < 16 then 1 else 2) r)))

/-- R360 to R364, R373, R375: energy and regions. Quanta are charged to an entry against its reservation, to a region's windows, or, of a
peer's request, to those of the region that owns the exported window, and to the package's total; the power of the last millisecond is
the energy metered in it; a window that has passed gives way to the next, and values of a root that would break the package's sum give
way to the old ones; a region whose block is valid becomes active, and an idle one inactive; a fault record that waited is written with
the PTB of its writing. Each completes.
It rests on the model's choices of log entries 61, 62, 63, 68, 102 and 103. -/
def Obligations.EnergyEvents : Prop :=
  ∀ (r n m : Nat) (s : State) (x : Region),
    let add := pkgSet (fun g => { g with etot := g.etot + BitVec.ofNat 48 m }) s
    (∀ w, s.wg? n = some w → exec (.energyCharge n 0 m) s = .next ((add.chargeEntry w m).launchEnergy w.launch m)) ∧
    (r ≠ 0 → r ≤ 65535 → exec (.energyCharge n r m) s = .next ((add.takeErem (add.meters r) m).launchEnergy (s.launchOf n) m)) ∧
    (65535 < r → exec (.energyCharge n r m) s = .next (match s.exportRegion with
      | some y => add.takeErem (add.meters y) m
      | none => add)) ∧
    (s.pkg.powerAt + 1000000 ≤ s.ptb0 → exec (.powerMeasure (s.pkg.powerAt + 1000000)) s = .next (pkgSet (fun g =>
      { g with power := (g.etot - g.powerBase).toNat, powerAt := g.powerAt + 1000000, powerBase := g.etot }) s)) ∧
    (s.region? r = some x → s.owns 5 r = true →
      let start := s.rcb r 384 64 + x.win
      let ebud := s.rcb r 192 48
      let win := s.rcb r 256 48
      start ≤ s.ptb0 →
      ((ebud = x.ebud ∧ win = x.win) ∨ (1000 ≤ win ∧ (s.rcb r 32 32 ≠ 0 ∨ s.powerOk r ebud win = true)) →
        exec (.energyWindowStart r) s =
          .next (((s.modRegion r (fun x => { x with ebud := ebud, win := win })).setRcb r 384 64 start).setErem r ebud)) ∧
      (¬(ebud = x.ebud ∧ win = x.win) → ¬(1000 ≤ win ∧ (s.rcb r 32 32 ≠ 0 ∨ s.powerOk r ebud win = true)) →
        exec (.energyWindowStart r) s = .next
          (((((s.setRcb r 192 48 x.ebud).setRcb r 256 48 x.win).trace r { type := 0x0D, ptb := s.ptb0, payload := ebud }).setRcb
            r 384 64 start).setErem r x.ebud))) ∧
    (exec (.regionActivate r) s = .next (
      if s.regionNumber r = false then s.rstatWrite r 1
      else if (s.region? r).isSome then s.rstatWrite r 0
      else if s.blockOk r = false then s.rstatWrite r 3
      else if s.rcb r 32 32 = 0 ∧ s.powerOk r (s.rcb r 192 48) (s.rcb r 256 48) = false ∧ s.rcb r 192 48 ≠ 2 ^ 48 - 1 then s.rstatWrite r 2
      else
        let s1 := ((((((s.setRcb r 94 1 1).setErem r (s.rcb r 192 48)).setRcb r 384 64 s.ptb0).setRcb r 672 32 0).setRcb
          r 784 16 0).setRcb r 800 16 0).setRcb r 928 16 0
        let x : Region := ⟨r, [], false, false, false, [], none, s.rcb r 192 48, s.rcb r 256 48, false, []⟩
        { s1 with regions := s1.regions ++ [x] }.rstatWrite r 0)) ∧
    (exec (.regionDeactivate r) s = .next (
      if s.regionNumber r = false then s.rstatWrite r 1
      else if (s.region? r).isNone then s.rstatWrite r 0
      else if s.regionBusy r then s.rstatWrite r 4
      else ({ s with regions := s.regions.filter (fun x => x.num != r) }.setRcb r 94 1 0).rstatWrite r 0)) ∧
    (∀ y l, s.region? r = some x → x.deferred = y :: l → s.faultFull r = false →
      exec (.faultRecordDeferred r) s = .next ((s.modRegion r (fun x => { x with deferred := l })).appendFault r (s.stampFault y.toNat))) ∧
    (∀ c, s.region? r = some x → x.deferred = [] → s.unrecorded r = some c → s.faultFull r = false →
      exec (.faultRecordDeferred r) s = .next (s.debugRecord c))

/-- R297, R310, R374 to R378, R380 to R388: stops, saves and their resolution. A stopped workgroup that has drained is saved with its
unit; a context or a workgroup held in place whose pages are present, and what a record that `pkg.fres` names holds, goes on, unless an
image of its set fails its checks: its launch is then reset; a fault domain is reset; `pkg.pre` stops the work of a
region and of those under it and lets it go on; a workgroup without progress, and a save beyond its budget, are dealt with. Each
completes.
It rests on the model's choices of log entries 40, 56, 59, 66, 85, 86 and 124. -/
def Obligations.StopEvents : Prop :=
  ∀ (r n : Nat) (s : State) (w : Wg),
    (s.wg? n = some w → exec (.contextSave n) s = .next (s.saveUnit w)) ∧
    (∀ i, s.wg? n = some w → w.stop = some i → i.reason ≠ .preempt → exec (.swapOut n) s = .next (s.saveUnit w)) ∧
    (∀ c, s.ctxs.find? (fun c => c.id == n) = some c → c.phase = .waitingPages → (∀ a ∈ c.needed, s.rangePresent c.shell.root a = true) →
      ((∀ x ∈ s.ctxs, x.setId = c.setId → s.imageOk x = true) → exec (.pagePresentResume n) s = .next (s.resumeCtx c false)) ∧
      (∀ l, (∃ x ∈ s.ctxs, x.setId = c.setId ∧ s.imageOk x = false) → c.launch = some l → exec (.pagePresentResume n) s =
        .next ((s.wipeLaunch l true).deferFault { kind := 6, region := c.region }))) ∧
    (∀ i, (∀ c ∈ s.ctxs, c.id ≠ n) → s.wg? n = some w → w.phase = .heldInPlace true → w.stop = some i → i.reason = .pages →
      (∀ a ∈ i.pages, s.rangePresent w.root a = true) →
      exec (.pagePresentResume n) s = .next ((s.unitOf w).foldl (fun s v => s.unhold v false) s)) ∧
    ((s.recordAt r n = false →
        exec (.faultResume r n) s = .next (s.fdstWrite r 1) ∧ exec (.faultDomainReset r n) s = .next (s.fdstWrite r 1)) ∧
      (∀ x, s.region? r = some x → n ∈ x.recs →
        (s.resumeRecord r n false = none → exec (.faultResume r n) s = .next (s.fdstWrite r 2)) ∧
        (∀ t, s.resumeRecord r n false = some t → exec (.faultResume r n) s = .next (t.fdstWrite r 0)) ∧
        exec (.faultDomainReset r n) s = .next ((s.resetDomain (s.fdomOf r) false).fdstWrite r 0))) ∧
    ((s.region? r).isNone = true →
      exec (.preemptStop r) s = .next (s.pstatWrite r 1 false) ∧ exec (.preemptResume r) s = .next (s.pstatWrite r 1 false)) ∧
    ((s.region? r).isSome = true →
      let under := s.regionsUnder r
      let mark (b : Bool) : State := { s with regions := s.regions.map (fun x => if under.contains x.num then { x with stopped := b } else x) }
      exec (.preemptStop r) s = .next ((((mark true).recallSets (fun h => s.launches.any (fun l => l.id == h.launch && under.contains l.region))).stopAllOf
        under .preempt).pstatWrite r 0 true).settlePstat ∧
      let held := (mark false).wgs.filter (fun w => under.contains w.region &&
        (match w.stop with | some i => i.reason == .preempt | none => false))
      let saved := s.ctxs.filter (fun c => under.contains c.region && c.reason == .preempt && c.phase == .saved)
      exec (.preemptResume r) s = .next (((held.foldl (fun s w => s.unhold w false) (mark false)).sendAllBack
        saved.reverse).pstatWrite r 0 true).settlePstat) ∧
    (s.wg? n = some w →
      let period := s.rcbOwned 9 w.region 1088 64
      let now := s.ptb (dieOf w.core)
      (∀ g a sl, s.lowestSlice w = some (g, a, sl) → period ≠ 0 → w.phase = .running → w.progress + period ≤ now →
        let st := sl.haltAt true true
        let pc := (st.nextSlot.bind (fun one => st.slot one)).map (fun p => p.pc)
        let epc := if sl.hmode then pc.getD sl.epc else st.epc
        let t : TrapInfo := { cause := 0x61, aux0 := 0, aux1 := 0, epc := epc, fpc := none }
        let at_ : StopInfo := stopOf w (.cause1 0x61 (if sl.hmode then sl.cause else 0)) now
        exec (.watchdogExpiry n) s = .next ((s.modSleeper g.id a (fun sl => (sl.haltAt true true).writeCause t)).stopSlice w g a
          { at_ with grp := g.num, slice := a, epc := epc, corr := sl.corr })) ∧
      (∀ i, w.stop = some i → w.phase = .draining → (∃ v ∈ s.unitOf w, s.drained v = false) →
        i.since + (if period = 0 then 100000 else period) ≤ now →
        (i.onReservedPath = false → exec (.saveBudgetExpiry n) s =
          .next (s.modWg n (fun w => { w with stop := some { i with since := now, onReservedPath := true } }))) ∧
        (i.onReservedPath = true → let (at_, s1) := s.tornImage w
          let s2 := s1.resetDomain (s.fdomOf w.region) true
          exec (.saveBudgetExpiry n) s = .next (match stopRecord w i at_ (if at_ = 0 then 0 else imagePages w) 2 with
            | some r => s2.deferFault r
            | none => s2))))

/-- R350, R351, R356, R389 to R392: hardware errors and the connection table. A corrected error is counted; an uncorrectable one resets
the fault domain of the workgroup whose state it met, drops a clean line, a translation, a table entry or a victim tag, poisons a dirty or stored line, or replays a
command; a lost wavelength is noted; a die that fails is fenced; a table write is checked, and the circuits it moves come ready in
order. Each completes.
It rests on the model's choices of log entries 51, 64 and 65. -/
def Obligations.ErrorEvents : Prop :=
  ∀ (n a : Nat) (s : State) (x : BitVec 64),
    (∀ site, exec (.eccError site n a true) s = .next (pkgSet (fun g => { g with cerr := g.cerr + 1 }) s)) ∧
    (∀ w, s.wg? a = some w → exec (.eccError .coreState n a false) s = .next (s.resetDomain (s.fdomOf w.region) true)) ∧
    (exec (.eccError .l1Line n a false) s =
      .next (s.modCore n (fun k => { k with l1 := k.l1.filter (fun x => x.1 != a / 128) }))) ∧
    (n < 512 → exec (.eccError .tlbEntry n a false) s = .next (s.modCore n (fun k =>
      { k with tlb := k.tlb.filter (fun t => t.vbase / 2 ^ t.bits != a / 2 ^ t.bits) }))) ∧
    (exec (.eccError .tlbEntry (512 + n) a false) s = .next (s.modDie n (fun d =>
      { d with tlb := d.tlb.filter (fun t => t.vbase / 2 ^ t.bits != a / 2 ^ t.bits) }))) ∧
    (exec (.eccError .walkCache n a false) s = .next (s.modDie n (fun d => { d with wcache := d.wcache.filter (fun c =>
      c.vbase != a / 2 ^ levelBits c.level * 2 ^ levelBits c.level) }))) ∧
    (exec (.eccError .victimTag n a false) s =
      .next (s.modCore n (fun k => { k with victims := k.victims.filter (fun x => x.1 != a / 128) }))) ∧
    (exec (.eccError .l2Clean n a false) s = .next s) ∧
    (∀ p, s.canonPa a = some p → p < 2 ^ 51 → (homeDie p).isSome = true → s.inGuard p = false → ∀ site, site = .l2Dirty ∨ site = .dram →
      ∃ t, exec (.eccError site n a false) s = .next t ∧ t.poisoned p = true ∧ t.mem = s.mem) ∧
    (exec (.eccError .engineBuffer n a false) s = exec (.tileTaskReplay (engineAt n)) s) ∧
    (s.pkg.ctab[n]? = some x → x.getLsbD 18 = true → (s.pkg.lostWl.filter (fun e => e == n)).length < (x.extractLsb' 8 7).toNat →
      exec (.wavelengthFail n) s = .next (pkgSet (fun g => { g with lostWl := g.lostWl ++ [n] }) s)) ∧
    ((s.die n).present = true → (s.die n).fenced = false → n < 8 →
      ∃ t, exec (.dieFail n) s = .next t ∧ t.pkg.dies.getLsbD (16 + n) = true) ∧
    (∀ old, s.pkg.ctab[n]? = some old →
      let v := x &&& 0x77FFF
      let t := (s.pkg.ctab.setIfInBounds n v).toList
      (s.ctabEnds v = false → exec (.ctabWrite n x) s = .next (s.cstatWrite n 3)) ∧
      (s.ctabEnds v = true → (∃ d, d < 8 ∧ 60 < dieWl t d) → exec (.ctabWrite n x) s = .next (s.cstatWrite n 1)) ∧
      (s.ctabEnds v = true → (∀ d, d < 8 → dieWl t d ≤ 60) →
        (∀ d ∈ [0, 2, 4, 6], s.inService d = true → s.inService (d + 1) = true → 16 ≤ buddyWl t d) →
        let moved := v != old && (ctabValid v || ctabValid old)
        exec (.ctabWrite n x) s = .next ((pkgSet (fun g => { g with
          ctab := g.ctab.setIfInBounds n v,
          circuits := if moved && !g.circuits.contains n then g.circuits ++ [n] else g.circuits,
          lostWl := if moved then g.lostWl.filter (fun e => e != n) else g.lostWl }) s).cstatWrite n 0))) ∧
    (∀ c l, s.pkg.circuits = c :: l → exec .circuitReady s = .next (pkgSet (fun g =>
      { g with circuits := l, cstat := BitVec.ofNat 13 (setBits g.cstat.toNat 12 1 (!l.isEmpty).toNat) }) s))

/-- R405 to R409: `pkg.dctl` attaches to a region and leaves it, stops its workgroups, holds and releases its tile tasks and steps the
workgroup of a kind-7 record; each answer stands in `pkg.dstat`, busy while a stop or a step goes on. A step that is over ends, and
each slice that has issued holds 0x52. Each completes.
It rests on the model's choice of log entry 56. -/
def Obligations.DebugEvents : Prop :=
  ∀ (r n : Nat) (s : State),
    ((s.region? r).isNone = true →
      ∀ i ∈ [Instr.debugAttach r, .debugDetach r, .debugStop r, .debugHold r, .debugRelease r, .debugStep r n],
        exec i s = .next (s.dstatWrite r 1)) ∧
    ((s.region? r).isSome = true →
      (exec (.debugAttach r) s = .next ((s.modRegion r (fun x => { x with attached := true })).dstatWrite r 0)) ∧
      (s.attached r = false → ∀ i ∈ [Instr.debugDetach r, .debugStop r, .debugHold r, .debugRelease r],
        exec i s = .next (s.dstatWrite r 2)) ∧
      (s.attached r = true →
        (let s1 := s.modRegion r (fun x => { x with attached := false })
          let held := s1.wgs.filter (fun w => w.region == r && (match w.stop with
            | some i => i.reason.isDebug && i.record.isSome
            | none => false))
          let saved := s.ctxs.filter (fun c => c.region == r && c.reason.isDebug && c.phase == .saved)
          exec (.debugDetach r) s = .next (((held.foldl (fun s w => s.unhold w false) s1).sendAllBack saved.reverse).dstatWrite r 0)) ∧
        (let s1 := s.stopAllOf [r] (.debug 0)
          let turned := s1.wgs.map (fun (w : Wg) => match w.stop with
            | some i => if w.region = r ∧ i.reason = OutReason.preempt then
                { w with phase := .draining, stop := some { i with reason := .debug 0 } } else w
            | none => w)
          let saved := s1.ctxs.filter (fun c => c.region == r && c.reason == .preempt && c.phase == .saved)
          exec (.debugStop r) s =
            .next (((saved.foldl (fun (s : State) c => s.debugRecord c) { s1 with wgs := turned }).dstatWrite r 0 true).settleDstat)) ∧
        (exec (.debugHold r) s = .next ((allEngines.foldl (fun s i => s.holdTasksOf r i)
          (s.modRegion r (fun x => { x with holdTasks := true }))).dstatWrite r 0)) ∧
        (let task (h : CmdHold × Command) : Bool := h.1 == .task && h.2.region == r
          let back := s.pkg.heldCmds.filter task
          let s1 := pkgSet (fun _ => { s.pkg with heldCmds := s.pkg.heldCmds.filter (fun h => !task h) })
            (s.modRegion r (fun x => { x with holdTasks := false }))
          let s2 := back.foldl (fun s h => s.traceCmd h.2 0x13 0) (back.reverse.foldl (fun s h => s.returnTask h.2) s1)
          let wgs := ((s2.pkg.heldCmds.filter (fun h => h.1 == .step && h.2.region == r)).map (fun h => h.2.wg)).eraseDups
          exec (.debugRelease r) s = .next (((wgs.foldl (fun s w => s.requeueHeld w) s2).releaseWork (fun h =>
            match s.anyWg? h.wg with | some w => w.region == r | none => false)).dstatWrite r 0)) ∧
        (s.recordAt r n = true → s.peek (s.rcb r 832 64 + 512 * n) 1 = 7 → ∀ t, s.resumeRecord r n true = some t →
          exec (.debugStep r n) s = .next ((t.dstatWrite r 0 true).settleDstat)))) ∧
    (∀ w, s.wg? n = some w → s.stepOver w = true →
      let stop (sl : Slice) : Slice := if sl.ended || sl.hmode then { sl with halt := .stopped }
        else if sl.stepped then { sl.stopAt 0 with cause := 0x52, aux0 := 0, aux1 := 0 } else sl.stopAt 0
      let s2 := (s.modSleepers (fun g => g.wg == n) stop).modWg n (fun w => { w with stepping := false })
      ∀ g a sl, s2.stepSlice w = some (g, a, sl) →
        let at_ : StopInfo := stopOf w (.debug 0x52) (s.ptb (dieOf w.core))
        exec (.stepEnd n) s = .next (s2.stopSlice { w with stepping := false } g a
          { at_ with grp := g.num, slice := a, epc := sl.epc, corr := sl.corr }))

/-- R411 to R417: what hosts do. A read of BAR 0 or BAR 2 is completed with the bytes there, a posted write lands, an atomic returns the
old value; a push is appended to its region's launch queue or discarded and noted; a heartbeat and the links are noted, and with a link
the part's own held writes land; the registers behind BAR 0 are written, the MSI-X table's 4 bytes at a time too; a port that fails is
adopted by the other, a region in a step; what waits for a port that has been down for 10 ms is refused or dropped. Each completes.
It rests on the model's choices of log entries 13, 41, 50, 52, 53 and 54. -/
def Obligations.HostEvents : Prop :=
  ∀ (p1 : Bool) (off n : Nat) (s : State),
    let at_ := s.bar2 p1 off
    (s.bar0Ok p1 = true → off % 8 = 0 →
      exec (.hostRead p1 true off 8) s = .next (s.complete p1 (toBytes 8 (s.bar0Read p1 off).toNat)) ∧
      ∀ v, exec (.registerWrite p1 off v) s = .next (
        if 0x400000 ≤ off ∧ off < 0x408000 then s.modPort p1 (fun p => p.msixWrite off v)
        else if off < 0x2000 then s.pkgWrite p1 off v
        else if 0x100000 ≤ off ∧ off < 0x300000 then s.debugWrite ((off - 0x100000) / 0x1000) (off % 0x1000) v
        else if 0x600000 ≤ off ∧ off < 0x704000 then s.fabWrite (off - 0x600000) v
        else s)) ∧
    (s.bar0Ok p1 = true → 0x400000 ≤ off → off < 0x408000 → off % 4 = 0 →
      (∀ v, exec (.registerWrite p1 off v) s = .next (s.modPort p1 (fun p => p.msixWrite off v))) ∧
      (∀ bs, (s.port p1).msixRead off 4 = some bs → exec (.hostRead p1 true off 4) s = .next (s.complete p1 bs))) ∧
    (s.bar2Ok p1 = true →
      (∀ pa, s.hostPlace at_ n = .mem pa → s.poisoned pa = false →
        exec (.hostRead p1 false off n) s = .next (s.complete p1 (s.mem.readBytes pa n)) ∧
        (∀ data, data.length = n → exec (.hostWrite p1 off data) s = .next ((s.homeWrite pa data).fillCode pa data)) ∧
        (n = 4 ∨ n = 8 → ∀ op v cmp,
          let old := ofBytes (s.mem.readBytes pa n)
          let new := match op with
            | .fetchAdd => (old + v.toNat) % 2 ^ (8 * n)
            | .swap => v.toNat % 2 ^ (8 * n)
            | .cas => if old = cmp.toNat % 2 ^ (8 * n) then v.toNat % 2 ^ (8 * n) else old
          exec (.hostAtomic p1 op off n v cmp) s =
            .next ((s.homeWrite pa (toBytes n new)).complete p1 (s.mem.readBytes pa n)))) ∧
      (s.hostPlace at_ n = .none →
        exec (.hostRead p1 false off n) s = .next (s.complete p1 (List.replicate n 0xFF)) ∧
        ∀ data, data.length = n → exec (.hostWrite p1 off data) s = .next s) ∧
      (∀ image, 0 < n → n ≤ 65535 →
        let drop (reason : Nat) : State := s.modPort p1 (fun p => p.drop n reason)
        ((s.region? n).isNone = true → exec (.pushWindowWrite p1 n image) s = .next (drop 1)) ∧
        ((s.region? n).isSome = true →
          (s.port p1).adoptedFrom = true ∨ ((s.port p1).adopting = true ∧ (s.rcb n 92 1 == 1) ≠ p1) →
          exec (.pushWindowWrite p1 n image) s = .next (drop 3)) ∧
        ((s.region? n).isSome = true → (s.port p1).adoptedFrom = false → ((s.port p1).adopting = true → (s.rcb n 92 1 == 1) = p1) →
          ((s.rcb n 92 1 == 1) ≠ p1 → exec (.pushWindowWrite p1 n image) s = .next (drop 2)) ∧
          ((s.rcb n 92 1 == 1) = p1 → exec (.pushWindowWrite p1 n image) s = .next (
            match s.appendLaunch n (toBytes 128 image.toNat) with
            | some t => t
            | none => drop 4))))) ∧
    (s.bar0Ok p1 = true → exec (.heartbeatWrite p1) s = .next (s.modPort p1 (fun p => ({ p with beat := s.ptb0 } : Port).recover))) ∧
    (exec (.hostLinkDown p1) s = .next (s.modPort p1 (fun p => if p.up then { p with up := false, downSince := s.time } else p))) ∧
    ((s.port p1).up = false →
      let go := s.pkg.heldHost.filter (fun h => bitAt h.1 50 == p1)
      let late := s.hostRefused (if p1 then 2 ^ 51 + 2 ^ 50 else 2 ^ 51)
      let s1 := pkgSet (fun g => { g with heldHost := g.heldHost.filter (fun h => !(bitAt h.1 50 == p1)) })
        { s with mem := if late then s.mem else go.foldl (fun m h => m.writeBytes h.1 h.2) s.mem }
      exec (.hostLinkUp p1) s = .next (s1.modPort p1 (fun p =>
        if s.beatLate p then { p with up := true } else ({ p with up := true } : Port).recover))) ∧
    (let go := s.alivePort (s.port (!p1));
      (s.failing (s.port p1) = true → (s.port p1).adopting = false →
        (s.port p1).failed = false ∨ (go = true ∧ (s.port p1).adoptedFrom = false) →
        exec (.portFailure p1) s = .next (s.modPort p1 (fun p =>
          { p with failed := true, adopting := go, adoptedFrom := p.adoptedFrom && !go }))) ∧
      ((s.port p1).adopting = true →
        (∀ x, s.regions.find? (fun x => (s.rcb x.num 92 1 == 1) == p1) = some x →
          exec (.portFailure p1) s = .next (s.adoptRegion p1 x.num)) ∧
        ((∀ x ∈ s.regions, (s.rcb x.num 92 1 == 1) ≠ p1) →
          exec (.portFailure p1) s = .next ((s.modPort p1 (fun p => { p with adopting := false, adoptedFrom := true })).modPort (!p1)
            (fun p => ({ p with adopted := true } : Port).raiseVector 0))))) ∧
    ((s.port p1).up = false → (s.port p1).downSince + 100000000 ≤ s.time →
      ∃ t, exec (.hostRequestTimeout p1) s = .next t ∧ (∀ h ∈ t.pkg.heldHost, bitAt h.1 50 ≠ p1) ∧
        ∀ core p, core < 512 → p ∈ (t.core core).pend → p.waitsFor p1 = none)

/-- R357, R418 to R420: the package: attestation, firmware images, and the boot, step by step, of Table 19.4; a part that has booted, or
that failed to, boots again. Each completes.
It rests on the model's choices of log entries 3, 32, 33 and 55. -/
def Obligations.PackageEvents : Prop :=
  ∀ (p1 b : Bool) (s : State),
    let a := s.pkg.attAddr.toNat
    (s.bar0Ok p1 = true → s.pkg.attBusy = false → exec (.attestGo p1) s = .next (pkgSet (fun g =>
      if 2 ^ 20 ≤ g.leaf then { g with attResult := 2 }
      else if s.hostWritable a reportLen = false then { g with attResult := 3 }
      else { g with attBusy := true, attPort1 := p1, attResult := 1, leaf := g.leaf + 1 }) s)) ∧
    (s.pkg.attBusy = true → s.hostWritable a reportLen = true → (s.port (bitAt a 50)).up = true →
      let s1 := pkgSet (fun g => { g with attBusy := false, attResult := 0 })
        { s with mem := s.mem.writeBytes a (s.report (s.pkg.leaf - 1)) }
      exec .attestComplete s = .next (s1.modPort s.pkg.attPort1 (fun p => p.raiseVector 1))) ∧
    (s.pkg.attBusy = true → s.hostWritable a reportLen = false →
      exec .attestComplete s = .next (pkgSet (fun g => { g with attBusy := false, attResult := 3 }) s)) ∧
    (exec (.firmwareImageUpload b) s = .next (pkgSet (fun g =>
      { g with images := if g.slotB then { g.images with imageA := b } else { g.images with imageB := b },
               uploads := if g.slotB then (g.uploads.1 + 1, g.uploads.2) else (g.uploads.1, g.uploads.2 + 1) }) s)) ∧
    (s.pkg.stage = 0 → exec .packageReset s = .next (pkgSet (fun g =>
      if g.images.imageA then { g with stage := 1, slotB := false }
      else if g.images.imageB then { g with stage := 1, slotB := true }
      else { g with stage := 15 }) s)) ∧
    (s.pkg.stage = 1 → ∃ t, exec .packageReset s = .next t ∧ t.pkg.stage = (if s.pkg.images.trained then 2 else 15) ∧ t.mem = s.mem ∧
      (s.pkg.images.trained = true → ∀ d, d < 8 → s.pkg.images.diesAuth.getLsbD d = false →
        ∀ (n : Nat) x, t.pkg.ctab[n]? = some x → ctabNames x d = false)) ∧
    (s.pkg.stage = 2 → ∃ t, exec .packageReset s = .next t ∧ t.pkg.stage = 3 ∧ t.time = 0 ∧ t.mem = s.mem ∧
      (∀ d, d < 8 → (t.die d).present = s.pkg.images.diesAuth.getLsbD d ∧ (t.die d).fenced = false ∧ (t.die d).dcyc = 0 ∧
        t.pkg.dies.getLsbD d = s.pkg.images.diesAuth.getLsbD d)) ∧
    (3 ≤ s.pkg.stage.toNat → exec .packageReset s = .next s.again)

/-- R196, R434 to R444, R450, R455: the fabric. A peer's request is performed at the exported window, refused, or held until its page
is present, and the first data of a command of this part's own is recorded; one that was performed is answered as before; an answer completes what asked for it, "wait" starts the count of tries
again, and a request without an answer is sent again and fails the fourth time. Correlation packets are traced; a port comes up,
retrains and restores its credits; a sync flit sets the rate. Each completes.
It rests on the model's choices of log entries 20, 41, 73, 74, 75 and 77. -/
def Obligations.FabricEvents : Prop :=
  ∀ (n m : Nat) (s : State) (r : FabReq) (o : FabOut) (p : FabPort),
    let f := s.fabric
    (s.pkg.stage = 3 →
      (∀ x, f.answerTo r.src r.seq = some x → r.src ≠ f.dev →
        exec (.fabricRequestArrive r) s = .next (fabricSet (fun f => { f with sent := f.sent ++ [.answer r.src r.seq x] }) s)) ∧
      (f.answerTo r.src r.seq = none → (∀ h ∈ f.held, ¬(h.1.src = r.src ∧ h.1.seq = r.seq)) →
        let s1 := s.corrArrive r
        ((∃ h ∈ f.held, h.1.src = r.src ∧ reqLine h.1 = reqLine r) →
          exec (.fabricRequestArrive r) s = .next (fabricSet (fun f => { f with held := f.held ++ [(r, s.time, true)] }) s1)) ∧
        ((∀ h ∈ f.held, ¬(h.1.src = r.src ∧ reqLine h.1 = reqLine r)) →
          (∀ pa, s1.exportPlace r.off.toNat (reqWrites r) = .place pa →
            exec (.fabricRequestArrive r) s = .next ((s1.exportDo r pa).1.sendAnswer r (s1.exportDo r pa).2)) ∧
          (s1.exportPlace r.off.toNat (reqWrites r) = .refuse →
            exec (.fabricRequestArrive r) s = .next (s1.sendAnswer r .refused)) ∧
          (∀ e, s1.exportPlace r.off.toNat (reqWrites r) = .wait e →
            exec (.fabricRequestArrive r) s = .next (fabricSet (fun f =>
              { f with held := f.held ++ [(r, s.time, (s1.exportRecord e).2)] }) (s1.exportRecord e).1))))) ∧
    (∀ t0 ok, f.held[n]? = some (r, t0, ok) → (∀ h ∈ f.held.take n, ¬(h.1.src = r.src ∧ reqLine h.1 = reqLine r)) →
      (∀ pa, s.exportPlace r.off.toNat (reqWrites r) = .place pa →
        exec (.exportWait n) s = .next ((fabricSet (fun f => { f with held := f.held.eraseIdx n }) s).exportServe r)) ∧
      (∀ e, s.exportPlace r.off.toNat (reqWrites r) = .wait e → t0 + 100000 ≤ s.time → ok = true →
        exec (.exportWait n) s = .next (((fabricSet (fun f =>
          { f with held := f.held.set n (r, s.time, true) }) s).sendAnswer r .wait).waited r))) ∧
    (∀ x first corr engine queue seq kind payload, s.exportRegion = some x →
      exec (.correlationPacket first corr engine queue seq kind payload) s = .next (s.trace x
        ⟨if first then 0x02 else 0x03, kind.toNat, queue.toNat, engine.toNat, 0, seq.toNat, corr, s.ptb0, payload.toNat⟩)) ∧
    (f.outs.find? (fun o => o.id == n) = some o →
      (exec (.fabricResponse n .wait) s = .next (fabricSet (fun f => { f with outs := f.outs.map (fun x =>
        if x.id = n then { x with sent := s.time, tries := 0 } else x) }) s)) ∧
      (exec (.fabricResponse n .refused) s = .next (s.requestBad o false)) ∧
      (∀ bs, let s1 := s.dropOut n
        exec (.fabricResponse n (.data bs)) s = .next (match o.owner with
          | .access core pend lanes => s1.accessAnswer core pend lanes bs
          | .command e _ _ => s1.commandAnswer e o.peer o.req bs
          | .releaseOf e => s1.answered e (fun c => c)
          | .watch wg half1 off => s1.watchAnswer wg half1 off (ofBytes bs)
          | .part => s1)) ∧
      (o.peer ≠ f.dev → o.sent + 200000 ≤ s.time →
        (3 ≤ o.tries → exec (.fabricRetransmit n) s = .next (s.requestBad o true)) ∧
        (o.tries < 3 → let plane := f.otherPlane o.plane
          exec (.fabricRetransmit n) s = .next (fabricSet (fun f => { f with
            outs := f.outs.map (fun x => if x.id = n then { x with sent := s.time, tries := x.tries + 1, plane := plane } else x),
            sent := f.sent ++ [.request o.req o.peer plane] }) s)))) ∧
    (exec (.flitReplay n) s = .next s) ∧
    (f.ports[n]? = some p →
      let put (q : FabPort) : State := fabricSet (fun f => { f with ports := f.ports.setIfInBounds n q }) s
      (∀ vc c k count, p.credits[vc]? = some c → p.returns[vc]? = some k →
        exec (.censusFlit n vc count) s = .next (put { p with
          credits := p.credits.setIfInBounds vc (c + (count - k).toNat), returns := p.returns.setIfInBounds vc count })) ∧
      (p.up = true → 1 ≤ m → m ≤ 3 → ∀ lanes, lanes ≤ 4 →
        let q : FabPort := { p with retrains := p.retrains + 1, rounds := BitVec.ofNat 2 m }
        exec (.linkRetrain n m lanes true) s = .next (put { q with lanes := BitVec.ofNat 3 lanes }) ∧
        (m = 3 → exec (.linkRetrain n m lanes false) s =
          .next (put { q with up := false, dis := true, lanes := 0, downAt := s.time }))) ∧
      (s.pkg.stage = 3 → p.en = true → p.dis = false → p.up = false → ∀ lport off,
        exec (.portEnable n lport off) s = .next (fabricSet (fun f => { f with ftoff := if f.joined then f.ftoff else off, joined := true })
          (put { p with up := true, lanes := 4, lport := lport })))) ∧
    (∀ slew : Int, exec (.syncFlit slew) s = .next { s with rate := max (-10000) (min 10000 slew) })

/-- R163, R164, R226, R242, R243, R249, R394: what the shared operations of the memory, matrix and copy instructions do. Entering an
access with room appends exactly one entry to the core's table, with the next id and every lane still to be performed, and raises one
wait counter by one: loads for what returns a value, stores for the rest. Queuing a pass puts it behind the subcore's other passes and
raises the passes counter; no cell changes. A command that nothing holds back takes the next sequence number of its queue and the
promise S plus its duration, goes to the end of the queue, pushes its promise to q12 and raises the copies counter. None writes
memory.
It rests on the model's choice of log entry 30. -/
def Obligations.WorkEntered : Prop :=
  (∀ (e : Env) (x : NewPend) (s : State) (k : PendKind), x.kind = k → k ≠ .stage → k ≠ .reload → EnterRoom e k x.accs s →
     ∃ (u : State) (deps : List Nat) (p : Pending), enter e x s = .ok ((), u) ∧
       (e.g.core < s.cores.size → (u.core e.g.core).pend = (s.core e.g.core).pend ++ [p]) ∧
       p.id = (s.core e.g.core).nextPend ∧ p.grp = e.cur.grp ∧ p.a = e.cur.a ∧ p.pc = e.path.pc ∧ p.kind = k ∧ p.dst = x.dst ∧
       p.ext = x.ext ∧ p.accs = x.accs ∧ p.scope = x.scope ∧ p.deps = deps ∧ u.mem = s.mem ∧
       (∀ i ∈ deps, ∃ q ∈ (s.core e.g.core).pend, q.id = i) ∧
       (∀ sl, s.slice? e.cur.grp e.cur.a = some sl → ∃ sl', u.slice? e.cur.grp e.cur.a = some sl' ∧
         sl'.loads = (if k.isLoad then sl.loads + 1 else sl.loads) ∧ sl'.stores = (if k.isLoad then sl.stores else sl.stores + 1))) ∧
  (∀ (e : Env) (op : PassOp) (cycles : Nat) (tiles vregs : List Nat) (s : State), e.g.core < s.cores.size →
     e.g.sub < (s.core e.g.core).subs.size →
     ∃ (u : State) (p : Pass), addPass e op cycles tiles vregs s = .ok ((), u) ∧
       ((u.core e.g.core).sub e.g.sub).passes = ((s.core e.g.core).sub e.g.sub).passes ++ [p] ∧
       p.op = op ∧ p.grp = e.cur.grp ∧ p.pc = e.path.pc ∧ p.cycles = cycles ∧ p.tiles = tiles ∧ p.serial = s.nextId ∧
       (∀ sl, s.slice? e.cur.grp e.cur.a = some sl →
         ∃ sl', u.slice? e.cur.grp e.cur.a = some sl' ∧ sl' = { sl with passes := sl.passes + 1 }) ∧
       (∀ g, s.group? e.cur.grp = some g → ∃ g', u.group? e.cur.grp = some g' ∧ g'.acc = g.acc) ∧ u.mem = s.mem) ∧
  (∀ (e : Env) (c : Command) (cost : Nat) (s : State) (unit : Nat), c.engine = .copy e.g.core unit → unit < 2 →
     e.g.core < s.cores.size → (s.core e.g.core).eng.size = 2 → e.w.stepping = false → c.corr.getLsbD 31 = false →
     (∀ r ∈ s.regions, r.num = c.region → r.holdTasks = false) → ∀ fs, s.fencesTo e .copy s = .ok (fs, s) →
     let q := s.engine c.engine
     let p : W64 := BitVec.ofNat 64 (q.startAfter c.prio (s.ptb (dieOf e.g.core)) c.startAt fs + cost)
     let c1 : Command := { c with serial := s.nextId, seq := if c.prio then q.seqP else q.seqN, promise := p, fences := fs }
     ∃ u, submit e c cost s = .ok ((), u) ∧
       u.engine c.engine = (if c.prio then { q with prio := q.prio ++ [c1], seqP := q.seqP + 1 }
         else { q with normal := q.normal ++ [c1], seqN := q.seqN + 1 }) ∧
       (∀ sl, s.slice? e.cur.grp e.cur.a = some sl →
         u.slice? e.cur.grp e.cur.a = some { sl.arrive 12 p with copies := sl.copies + 1 }) ∧ u.mem = s.mem)

/-- R139 to R141, R143, R165 to R167, R378: taking a trap. A sibling of a halted workgroup stops before its instruction, once a halt
that a pre-emption or a debugger asked for has reached it. Otherwise the cause
registers are written and no other register of the slice is; the region's handler is entered with the path's slot and mask in
`sys.emask`; in handler mode, under a debugger that takes the cause, or without a handler, the slice stops and its workgroup begins to
drain with the cause or causes that the fault record will name.
It rests on the model's choices of log entries 16, 72, 84 and 85. -/
def Obligations.TrapTaken : Prop :=
  ∀ (s : State) (e : Env) (t : TrapInfo) (sl : Slice) (p : Path), s.slice? e.cur.grp e.cur.a = some sl →
    sl.slot e.cur.slot1 = some p → e.g.id = e.cur.grp →
    let u := s.takeTrap e t
    let one := e.cur.slot1
    (muted e = true → u.slice? e.cur.grp e.cur.a = some
      { sl.stopAt (match sl.halt with | .skid n => n | _ => 0) with epc := e.path.pc }) ∧
    (muted e = false → ∃ sl', u.slice? e.cur.grp e.cur.a = some sl' ∧
      sl'.cause = t.cause ∧ sl'.aux0 = t.aux0 ∧ sl'.aux1 = t.aux1 ∧ sl'.epc = t.epc ∧ sl'.fpc = t.fpc.getD sl.fpc ∧
      sl'.sreg = sl.sreg ∧ sl'.vreg = sl.vreg ∧ sl'.pred = sl.pred ∧ sl'.slot (!one) = sl.slot (!one) ∧
      sl'.dstackN = sl.dstackN ∧ sl'.cstackN = sl.cstackN ∧ sl'.hscr0 = sl.hscr0 ∧ sl'.hscr1 = sl.hscr1 ∧
      (e.sl.hmode = false → (resolutionD t.cause && s.attached e.w.region) = false → s.hpc e.w.region ≠ 0 →
        sl'.hmode = true ∧ sl'.emask = BitVec.ofBool one ++ e.path.mask ∧
        sl'.slot one = some { p with pc := BitVec.ofNat 56 (s.hpc e.w.region) } ∧
        (e.sl.corr.getLsbD 31 = false → u.mem = s.mem)) ∧
      (e.sl.hmode = true ∨ (resolutionD t.cause && s.attached e.w.region) = true ∨ s.hpc e.w.region = 0 →
        sl'.halt = .stopped ∧ sl'.hmode = sl.hmode ∧ sl'.emask = sl.emask ∧ u.mem = s.mem ∧
        (∀ w, s.wg? e.w.id = some w → w.phase = .running → ∃ w' i, u.wg? e.w.id = some w' ∧ w'.halted = true ∧
          w'.phase = .draining ∧ w'.stop = some i ∧ i.epc = t.epc ∧ i.aux0 = t.aux0 ∧ i.aux1 = t.aux1 ∧
          i.reason = (if e.sl.hmode then .cause1 t.cause e.sl.cause
            else if resolutionD t.cause && s.attached e.w.region then .debug t.cause else .cause1 t.cause 0))))

/-- R12, R13, R17, R25, R44, R48, R57, R59, R141, R312: where instructions trap instead of completing. A reserved code raises 0x01, an
illegal field 0x02, a control instruction that handler mode does not allow 0x04, a privileged one in user mode 0x05, a misaligned
target 0x07, and of the conditions of the registers that a legal frame names the lowest is raised.
It rests on the model's choices of log entries 16, 19, 110 and 111. -/
def Obligations.TrapCauses : Prop :=
  ∀ (s : State) (e : Env), Traps e s →
    (∀ w, exec (.reservedOpcode w) s = .next (trapped e (e.active 0) (plain e 0x01) s)) ∧
    (∀ l, l.hasForm = false → exec (.literalFrame l) s = .next (trapped e (e.active l.guard) (plain e 0x01) s)) ∧
    (∀ h0 h1, (h0.hasForm && h1.hasForm) = false →
      exec (.pairFrame h0 h1) s = .next (trapped e (e.active h0.fguard ||| e.active h1.fguard) (plain e 0x01) s)) ∧
    (∀ h0 h1, (h0.hasForm && h1.hasForm) = true → pairCause h0 h1 = some 0x02 →
      exec (.pairFrame h0 h1) s = .next (trapped e (e.active h0.fguard ||| e.active h1.fguard) (plain e 0x02) s)) ∧
    (∀ i f sp op, scalarOp false i = some (f, sp, op) →
      (f.ok sp false = false → exec i s = .next (trapped e (e.active f.guard) (plain e 0x02) s)) ∧
      (∀ c, f.ok sp false = true →
        lowest (namedConds e (operandsOf sp f none)) = some c →
        exec i s = .next (trapped e (e.active f.guard) ⟨c.cause, c.aux0, c.aux1, e.path.pc, none⟩ s))) ∧
    (∀ i f sp op, vectorOp i = some (f, sp, op) →
      (f.ok sp false = false → exec i s = .next (trapped e (e.active f.guard) (plain e 0x02) s)) ∧
      (∀ c, f.ok sp false = true →
        lowest (namedConds e (operandsOf sp f none)) = some c →
        exec i s = .next (trapped e (e.active f.guard) ⟨c.cause, c.aux0, c.aux1, e.path.pc, none⟩ s))) ∧
    (∀ c : CFrame, let m := e.active c.guard
      (c.ok .none true = false →
        ∀ i ∈ [Instr.nop c, .ret c, .exit c, .yield c, .bkpt c, .eret c], exec i s = .next (trapped e m (plain e 0x02) s)) ∧
      (e.sl.hmode = true →
        (c.ok (.test .p) true = true → exec (.brd c) s = .next (trapped e m (plain e 0x04) s)) ∧
        (c.ok .none false = true → exec (.join c) s = .next (trapped e m (plain e 0x04) s)) ∧
        (c.ok .long true = true → exec (.call c) s = .next (trapped e m (plain e 0x04) s)) ∧
        (c.ok .indirect true = true → exec (.callx c) s = .next (trapped e m (plain e 0x04) s)) ∧
        (c.ok .none true = true → exec (.ret c) s = .next (trapped e m (plain e 0x04) s))) ∧
      (e.sl.hmode = false → c.ok .none true = true → exec (.eret c) s = .next (trapped e m (plain e 0x05) s)) ∧
      (∀ x, CReady e c .indirect true s → RegReady e c s → m ≠ 0 → RC.of c.reg = .s → e.sl.s (regNo c.reg) = x → x.toNat % 8 ≠ 0 →
        exec (.brx c) s = .next (trapped e m ⟨0x07, x, 0, e.path.pc, none⟩ s))) ∧
    (∀ f : FFrame, e.sl.hmode = false →
      (f.ok (specSwr f) false = true → f.srcC.toNat ∈ sysHandler → RC.of f.srcB = .s →
        exec (.swr f) s = .next (trapped e (e.active f.guard) (plain e 0x05) s)) ∧
      (f.ok (specTlbi f) false = true → exec (.tlbi f) s = .next (trapped e (e.active f.guard) (plain e 0x05) s)))

/-- R24, R45, R54, R91, Table 2.7: what the register codes name. A vector source gives each lane its register, of a 64-bit type the pair
with the low half first; a scalar register, a literal and the constants give every lane the same value; a pop takes the head of its
queue. A vector destination takes the active lanes and keeps the others; a scalar destination is written once. -/
def Obligations.OperandForms : Prop :=
  ∀ (e : Env) (s : State) (t : Ty) (n : Nat),
    let code (c : Nat) : BitVec 8 := BitVec.ofNat 8 c
    (n < 128 → ∃ v, srcV e t (code n) none s = .ok (v, s) ∧ ∀ l, l < 32 → lane v l =
      (if t.wide then ((e.sl.v (n + 1))[l]?).getD 0 ++ ((e.sl.v n)[l]?).getD 0 else (((e.sl.v n)[l]?).getD 0).setWidth 64)) ∧
    (n < 32 → srcS e (code (0x80 + n)) none s = .ok (e.sl.s n, s) ∧ ∃ v, srcV e t (code (0x80 + n)) none s = .ok (v, s) ∧
      ∀ l, l < 32 → lane v l = if t.wide then e.sl.s n else ((e.sl.s n).setWidth 32).setWidth 64) ∧
    (srcS e 0xF8 none s = .ok (0, s) ∧ srcS e 0xF9 none s = .ok (1, s) ∧ srcS e 0xFB none s = .ok (BitVec.allOnes 64, s)) ∧
    (∃ z o i a, srcV e t 0xF8 none s = .ok (z, s) ∧ srcV e t 0xF9 none s = .ok (o, s) ∧ srcV e t 0xFA none s = .ok (i, s) ∧
      srcV e t 0xFB none s = .ok (a, s) ∧ ∀ l, l < 32 → lane z l = 0 ∧ lane o l = BitVec.ofNat 64 (t.ofNat 1) ∧
        lane i l = BitVec.ofNat 64 (t.ofNat l) ∧ lane a l = BitVec.allOnes 64) ∧
    (∀ (x : W32) c, srcS e c (some x) s = .ok (x.signExtend 64, s) ∧ ∃ v, srcV e t c (some x) s = .ok (v, s) ∧
      ∀ l, l < 32 → lane v l = x.setWidth 64) ∧
    (∀ g x r, n < 12 → s.group? e.cur.grp = some g → (g.queue n).entries = x :: r → x.fill = none → x.token = none →
      SyncIdle e s → n < g.queues.size →
      ∃ u g', srcS e (code (0xA0 + n)) none s = .ok (x.scalar, u) ∧ u.group? e.cur.grp = some g' ∧ (g'.queue n).entries = r ∧
        u.mem = s.mem ∧ (∀ k, k ≠ n → g'.queue k = g.queue k)) ∧
    (∀ sl (m : W32) (x : Lanes64), s.slice? e.cur.grp e.cur.a = some sl → n < 128 → n < sl.vreg.length →
      ∃ u sl', dstV e false m (code n) x s = .ok ((), u) ∧ u.slice? e.cur.grp e.cur.a = some sl' ∧ u.mem = s.mem ∧
        sl'.sreg = sl.sreg ∧ sl'.pred = sl.pred ∧ (∀ k, k ≠ n → sl'.v k = sl.v k) ∧
        ∀ l, l < 32 → ((sl'.v n)[l]?).getD 0 = if m.getLsbD l then (lane x l).setWidth 32 else ((sl.v n)[l]?).getD 0) ∧
    (∀ sl (m : W32) (x : W64), s.slice? e.cur.grp e.cur.a = some sl → n < 32 →
      ∃ u sl', dstS e m (code (0x80 + n)) x s = .ok ((), u) ∧ u.slice? e.cur.grp e.cur.a = some sl' ∧ u.mem = s.mem ∧
        sl'.vreg = sl.vreg ∧ sl'.pred = sl.pred ∧ (∀ k, k ≠ n → sl'.s k = sl.s k) ∧ sl'.s n = if m = 0 then sl.s n else x) ∧
    (∀ sl (m x : W32), s.slice? e.cur.grp e.cur.a = some sl → n < 16 →
      ∃ u sl', dstP e m (code (0xB0 + n)) x s = .ok ((), u) ∧ u.slice? e.cur.grp e.cur.a = some sl' ∧ u.mem = s.mem ∧
        sl'.vreg = sl.vreg ∧ sl'.sreg = sl.sreg ∧ (∀ k, k ≠ n → sl'.p k = sl.p k) ∧ sl'.p n = (x &&& m) ||| (sl.p n &&& ~~~m))

/-- R7, R91, R92, R139: the frame of the register instructions, however they end (completed, held, trapped or stopped). Of the issuing
slice only the destination registers change among the general registers; every other slice, every geometry register, format-block
descriptor and accumulator, and every local store is as before; the exception registers change only where a trap is taken; and memory
is as before where no trace record is written. -/
def Obligations.RegisterFrame : Prop :=
  ∀ (i : Instr) (f : FFrame) (wide : Bool) (s t : State) (e : Env), registerOp (asF i).1 = some (f, wide) → s.env? = some e →
    exec i s = .next t →
    (∀ grp a, ¬(grp = e.cur.grp ∧ a = e.cur.a) → t.slice? grp a = s.slice? grp a) ∧
    (∃ sl, t.slice? e.cur.grp e.cur.a = some sl ∧
      (∀ n, ¬(RC.of f.dst = .s ∧ regNo f.dst = n) → sl.s n = e.sl.s n) ∧
      (∀ n, ¬(RC.of f.dst = .v ∧ (regNo f.dst = n ∨ (wide = true ∧ regNo f.dst + 1 = n))) → sl.v n = e.sl.v n) ∧
      (∀ n, ¬(RC.of f.dst = .p ∧ regNo f.dst = n) → sl.p n = e.sl.p n) ∧
      sl.hscr0 = e.sl.hscr0 ∧ sl.hscr1 = e.sl.hscr1 ∧ sl.gbank = e.sl.gbank ∧ sl.lgeom = e.sl.lgeom ∧ sl.corr = e.sl.corr ∧
      (e.sl.halt = .running → e.sl.hmode = false → e.w.phase = .running → e.w.halted = false → sl.hmode = false →
        (∀ w, t.wg? e.w.id = some w → w.phase = .running) → causeRegs sl = causeRegs e.sl)) ∧
    (∀ grp g, s.group? grp = some g → ∃ g', t.group? grp = some g' ∧ g'.geom = g.geom ∧ g'.fb = g.fb ∧ g'.acc = g.acc) ∧
    t.wgs.map (fun w => (w.id, w.ls0, w.ls1)) = s.wgs.map (fun w => (w.id, w.ls0, w.ls1)) ∧
    (e.sl.corr.getLsbD 31 = false → e.sl.evctl.extractLsb' 6 6 = 0 → ∀ a, t.mem.read a = s.mem.read a)

/-- R35, R163, R164, R168, R300: what an access does when memory performs it. A store whose lanes lie in device memory puts its bytes at
their addresses, the highest lane's where lanes meet, and every other byte reads as before. A load of one scalar, and of one vector
register, at `.clu` scope or wider gives the bytes there, extended by its type, to its register, keeps the other lanes, and leaves
memory as it was.
It rests on the model's choice of log entry 14. -/
def Obligations.AccessPerformed : Prop :=
  ∀ (core id : Nat) (s : State) (p : Pending), core < 512 → pendAt s core id = some p → p.id = id → Servable s core p →
    (p.kind = .store → s.mem.wf = true →
      (∀ x ∈ s.readyAt core p, (∃ pa, x.place = .mem pa) ∧ x.data.length = x.size) →
      ∃ t, exec (.storePerformed core id) s = .next t ∧
        ∀ a, t.mem.read a = (storedAt (s.readyAt core p) a).getD (s.mem.read a)) ∧
    (∀ x pa n sl, p.kind = .load → p.accs = [x] → x.done = false → x.place = .mem pa → p.scope.inL1 = false →
      (s.core core).mayPerform p x = true → p.dst = .scalar n → n < 32 → s.slice? p.grp p.a = some sl →
      ∃ t sl', exec (.loadResponse core id) s = .next t ∧ t.slice? p.grp p.a = some sl' ∧ t.mem = s.mem ∧
        sl'.s n = BitVec.ofNat 64 (p.ext.value (s.mem.readBytes pa x.size)) ∧ (∀ k, k ≠ n → sl'.s k = sl.s k) ∧
        sl'.vreg = sl.vreg ∧ sl'.pred = sl.pred ∧ sl'.loads = sl.loads - 1) ∧
    (∀ n sl, p.kind = .load → p.scope.inL1 = false → p.dst = .vec n 1 → n < sl.vreg.length → s.slice? p.grp p.a = some sl →
      (p.accs.map (fun x => x.lane)).Nodup →
      (∀ x ∈ p.accs, x.done = false ∧ (∃ pa, x.place = .mem pa) ∧ (s.core core).mayPerform p x = true ∧ x.lane < 32) → p.accs ≠ [] →
      ∃ t sl', exec (.loadResponse core id) s = .next t ∧ t.slice? p.grp p.a = some sl' ∧ t.mem = s.mem ∧
        (∀ x ∈ p.accs, ∀ pa, x.place = .mem pa →
          ((sl'.v n)[x.lane]?).getD 0 = BitVec.ofNat 32 (p.ext.value (s.mem.readBytes pa x.size))) ∧
        (∀ l, l < 32 → (∀ x ∈ p.accs, x.lane ≠ l) → ((sl'.v n)[l]?).getD 0 = ((sl.v n)[l]?).getD 0) ∧
        (∀ k, k ≠ n → sl'.v k = sl.v k) ∧ sl'.sreg = sl.sreg ∧ sl'.pred = sl.pred ∧ sl'.loads = sl.loads - 1)

/-- R96 to R98: releasing parked paths and restoring slots from the stack lose no lane, add none, and put none on two paths. -/
def Obligations.PathLanesKept : Prop :=
  ∀ ps : Paths, lanesUnion ps.settled = lanesUnion ps ∧ (Apart ps → Apart ps.settled)

/-- R17, R150, R349, R352, R376, R405, R418, R431, Tables 1.2, 16.1, 16.2, 17.2, 18.5, 19.2 and 21.1: the reset values that the spec
gives. Nothing is resident; the package controller is in its boot ROM. -/
def Obligations.ResetState : Prop :=
  let s := State.reset
  let g := s.pkg
  s.mem.wf = true ∧ s.groups = [] ∧ s.wgs = [] ∧ s.regions = [] ∧ s.launches = [] ∧ g.stage = 0 ∧ g.pwr = 3200 ∧ g.etot = 0 ∧
  g.rtab = 0 ∧ g.rmax = 0 ∧ g.rstat = 0 ∧ g.cstat = 0 ∧ g.gres = 0 ∧ g.fdst = 0 ∧ g.pstat = 0 ∧ g.cerr = 0 ∧ g.dstat = 0 ∧
  g.hbper = 100000000 ∧ g.attResult = 0 ∧ g.attBusy = false ∧
  (∀ (i : Fin 512), (s.cores[i]).limit = 64 ∧ (s.cores[i]).lothr = 256) ∧
  (∀ (i : Fin 512), g.ctab[i] = BitVec.ofNat 64 (ctabDefault.getD i.val 0)) ∧
  (∀ (i : Fin 4), (g.bps[i]).en = false ∧ (g.wps[i]).en = false) ∧
  (∀ (i : Fin 48), (s.fabric.ports[i]).up = false ∧ (s.fabric.ports[i]).en = false) ∧
  s.fabric.dev = 0 ∧ s.fabric.xroot = 0 ∧ s.fabric.part = [] ∧ s.fabric.coll = [] ∧
  ∀ (i : Fin 32), (Slice.reset.sreg[i]) = 0

/-- The memory list is in its one canonical form (strictly rising addresses, no byte equal to what an unlisted address reads as) after
every step that starts from one that is.
It rests on the model's choice of log entry 1. -/
def Obligations.MemoryCanonical : Prop := ∀ s t : State, s.mem.wf = true → step s = .next t → t.mem.wf = true

/-- R5, R38 to R57: decoding an instruction's bytes gives it back, whatever bytes follow and whatever its fields hold, and the bytes that
decode to an instruction are its encoding: no bit of a word is dropped or made up. -/
def Obligations.EncodingRoundTrip : Prop :=
  (∀ (i : Instr) (bs rest : List Byte), ownWord i → encodeBytes i = some bs → decode (bs ++ rest) = .ok (i, rest)) ∧
  (∀ (i : Instr) (bs rest : List Byte), decode bs = .ok (i, rest) → ∃ pre, encodeBytes i = some pre ∧ bs = pre ++ rest)

/-- R18, R19, R38 to R40, R147: when no input, arrival or wake comes first and the slot to be tried meets no due trap, the frame whose
bytes stand at its PC is fetched, and a step is `exec` of it in that slot, unless the slot is held or it traps among others.
It rests on the model's choices of log entries 13, 16 and 43. -/
def Obligations.StepRuns : Prop :=
  (∀ (s : State) (e : Env) (a : Nat) (i : Instr) (r : List Byte), s.env? = some e → e.path.pc.toNat % 8 = 0 →
    CanFetch e s e.path.pc a →
    (decode ((s.codeMem e).readBytes a 8) = .ok (i, r) → fetch s e = .ok i) ∧
    (∀ b, (∀ x, decode ((s.codeMem e).readBytes a 8) ≠ .ok x) → CanFetch e s (e.path.pc + 8) b →
      decode ((s.codeMem e).readBytes a 8 ++ (s.codeMem e).readBytes b 8) = .ok (i, r) → fetch s e = .ok i)) ∧
  (∀ (s t : State) (e : Env) (i : Instr) (k : Nat) (l : List Nat) (x : Group × Bool × Slice) (xs : List (Group × Bool × Slice))
    (c : Cursor) (cs : List Cursor), s.inputs = [] → s.earlyDue = none → s.openSubs = k :: l →
    s.order (k / 4) (k % 4) = x :: xs → s.cursorsOf x = c :: cs →
    let s1 : State := { s with cur := some c }
    s1.env? = some e → s1.earlyTrap e = none → fetch s1 e = .ok i → exec i s1 = .next t → t.heldAt c = false →
    s.trapRank c { t with cur := none } = none → step s = .next { t with cur := none })

/-- Tables 2.2 to 2.10, Table 2.9: words written out from the encodings decode to the instructions they stand for. -/
def Obligations.DecodedWords : Prop :=
  decode (wordBytes 0x0808C10141800C00) = .ok (.vadd ⟨0x23, 0x04, 0x05, 0x06, 0x00, 3, 0, 0⟩, []) ∧
  decode (wordBytes 0x003000217FFFFFFD) = .ok (.brnz ⟨0, 0x00, 0x217FFFFFFD⟩, []) ∧
  decode (wordBytes 0x310020C021000010) = .ok (.tget ⟨0, 0x83, 0x00, 0x84, 0x00, 0, 1, 0⟩, []) ∧
  decode (wordBytes 0x688008093F000000) = .ok (.literalFrame ⟨0xA2, 0, 0x08, 0x09, 0x3F000000⟩, []) ∧
  decode (wordBytes 0xE8003882027E2C00 ++ wordBytes 0xC4C5860000000000) =
    .ok (.mma ⟨⟨0, 0xE2, 0x08, 0x09, 0xF8, 11, 0, 0⟩, 0xC4, 0xC5, 0x86, 0, 0⟩, [])
end

