-- ==== Sys2Proof/Laws/Exec.lean ====
section
/-!
SUPPORT. What the shared operations of an issue do, said once: sequencing, the checks at the start of a frame, a destination write,
and the completion of an issue.
-/
namespace Sys2Proof.Laws
open Sys2Proof.Machine Sys2Proof.Claims

/-- A step of a meaning that succeeds hands its value and state on. -/
theorem exec_bind_ok {α β : Type} {m : Exec α} {k : α → Exec β} {s s1 : State} {x : α} (h : m s = .ok (x, s1)) :
    (m >>= k) s = k x s1 := by
  show (Except.bind (m s) _) = _
  rw [h]; rfl

/-- A step that stops ends the meaning. -/
theorem exec_bind_error {α β : Type} {m : Exec α} {k : α → Exec β} {s : State} {x : Stop} (h : m s = .error x) :
    (m >>= k) s = .error x := by
  show (Except.bind (m s) _) = _
  rw [h]; rfl

theorem trapIf_false (e : Env) (c : BitVec 8) (a0 a1 : W64) (s : State) : trapIf e false c a0 a1 s = .ok ((), s) := rfl

theorem holdIf_false (h : Hold) (s : State) : holdIf false h s = .ok ((), s) := rfl

/-- A body that completes: the events are recorded, the path moves past 8 bytes, the issue is counted. -/
theorem issueF_ok {g : BitVec 6} {body : Body} {s s1 : State} {e : Env} {ev : Events} (he : s.env? = some e)
    (hb : body e s = .ok (ev, s1)) : issueF g body s = .next (done e (e.active g) 8 ev s1) := by
  have hrun : (do let ev ← body e; recordEv e ev; advance e 8 : Exec Unit) s =
      .ok ((), movePast e 8 (s1.record e.g e.cur.a e.w.region ev e.path.pc)) := by
    rw [exec_bind_ok hb]; rfl
  unfold issueF issue
  rw [he]
  simp only [hrun, done, issued]
  simp

/-- The same for a W frame. -/
theorem issueW_ok {g : BitVec 6} {body : Env → Exec Unit} {s s1 : State} {e : Env} (he : s.env? = some e)
    (hb : body e s = .ok ((), s1)) : issueW g body s = .next (doneW e (e.active g) 16 s1) := by
  have hrun : (do body e; advance e 16 : Exec Unit) s = .ok ((), movePast e 16 s1) := by
    rw [exec_bind_ok hb]; rfl
  unfold issueW issue
  rw [he]
  simp only [hrun, doneW, issued]
  simp

/-- No decode condition is raised when none is met. -/
theorem raiseLowest_nil (e : Env) (s : State) : raiseLowest e [] s = .ok ((), s) := rfl

/-- Operands that are ready pass the checks at decode. -/
theorem checkNamed_ok {e : Env} {s : State} {l : List Named} (h : ∀ n ∈ l, OperandReady e s n) :
    checkNamed e [] l s = .ok ((), s) := by
  have hu : ∀ n ∈ l.filter (fun n => !n.pos.accepts.isEmpty),
      regConds e n.pos n.push n.code = [] ∧ s.splitPhase e n.pos n.code = false ∧ s.busy e n.pos n.code = false := by
    intro n hn
    rw [List.mem_filter] at hn
    rcases h n hn.1 with h0 | h0
    · simp [h0] at hn
    · exact h0
  have hc : ((l.filter (fun n => !n.pos.accepts.isEmpty)).map (fun n => regConds e n.pos n.push n.code)).flatten = [] := by
    rw [List.flatten_eq_nil_iff]
    intro x hx
    obtain ⟨n, hn, rfl⟩ := List.mem_map.1 hx
    exact (hu n hn).1
  have hs : (l.filter (fun n => !n.pos.accepts.isEmpty)).any (fun n => s.splitPhase e n.pos n.code) = false := by
    rw [List.any_eq_false]; intro n hn; simp [(hu n hn).2.1]
  have hb : (l.filter (fun n => !n.pos.accepts.isEmpty)).any (fun n => s.busy e n.pos n.code) = false := by
    rw [List.any_eq_false]; intro n hn; simp [(hu n hn).2.2]
  unfold checkNamed
  simp only [hc, List.append_nil]
  rw [exec_bind_ok (raiseLowest_nil e s), exec_bind_ok (show (get : Exec State) s = .ok (s, s) from rfl), hs,
    exec_bind_ok (holdIf_false _ s), hb]
  rfl

/-- A frame that is ready passes `begin_`. -/
theorem begin_ok {e : Env} {sp : FSpec} {f : FFrame} {lit : Option W32} {s : State} (h : FReady e sp f lit s) :
    begin_ e sp f lit [] s = .ok ((), s) := by
  unfold begin_
  rw [h.2.1]
  show (trapIf e false 0x02 >>= _) s = _
  rw [exec_bind_ok (trapIf_false e _ _ _ s)]
  exact checkNamed_ok h.2.2

/-- A W frame that is ready passes `beginW`. -/
theorem beginW_ok {e : Env} {sp : WSpec} {w : WFrame} {x : Bool} {s : State} (h : WReady e sp w x s) :
    beginW e sp w x [] s = .ok ((), s) := by
  unfold beginW
  have hc : ((if w.ok sp then [] else [{ cause := 0x02 }]) ++ (if x && e.cur.a then [{ cause := 0x04 }] else []) : List Cond) = [] := by
    simp [h.2.1, h.2.2.1]
  rw [hc, exec_bind_ok (raiseLowest_nil e s)]
  exact checkNamed_ok h.2.2.2

/-- A push or pop that no synchronising access holds goes on. -/
theorem syncReady_ok {e : Env} {s : State} (h : SyncIdle e s) : syncReady e s = .ok ((), s) := by
  unfold syncReady
  rw [exec_bind_ok (show (get : Exec State) s = .ok (s, s) from rfl), h]
  rfl

/-- A push with room succeeds. -/
theorem pushEntries_ok {e : Env} {code : BitVec 8} {xs : List QEntry} {s : State} (hq : RC.of code = .q)
    (h : Room e code xs.length s) : ∃ t, pushEntries e (regNo code) xs s = .ok ((), t) := by
  have h := h hq
  unfold pushEntries
  rw [exec_bind_ok (show curGroup e s = .ok ((s.group? e.cur.grp).getD e.g, s) from rfl)]
  by_cases hp : ((s.group? e.cur.grp).getD e.g).popperEnded (((s.group? e.cur.grp).getD e.g).queue (regNo code)) = true
  · exact ⟨s, by simp only [hp, if_true]; rfl⟩
  · have hd : ¬ (((s.group? e.cur.grp).getD e.g).queue (regNo code)).depth <
        (((s.group? e.cur.grp).getD e.g).queue (regNo code)).entries.length + xs.length := by
      rcases h with h | h
      · exact absurd h hp
      · omega
    have hs : SyncIdle e s := by
      rcases h with h | h
      · exact absurd h hp
      · exact h.2
    simp only [hp, hd, if_false, Bool.false_eq_true]
    rw [exec_bind_ok (syncReady_ok hs)]
    exact ⟨_, rfl⟩

/-- A vector destination with room is written. -/
theorem dstV_ok {e : Env} {wide : Bool} {m : W32} {code : BitVec 8} {x : Lanes64} {s : State}
    (h : Room e code (if wide then 2 else 1) s) : ∃ t, dstV e wide m code x s = .ok ((), t) := by
  unfold dstV
  cases hc : RC.of code
  case v => exact ⟨_, rfl⟩
  case q => exact pushEntries_ok hc (by cases wide <;> simpa using h)
  all_goals exact ⟨s, rfl⟩

/-- A scalar destination with room is written. -/
theorem dstS_ok {e : Env} {m : W32} {code : BitVec 8} {x : W64} {s : State} (h : Room e code 1 s) :
    ∃ t, dstS e m code x s = .ok ((), t) := by
  unfold dstS
  cases hc : RC.of code
  case s => by_cases hm : m = 0
            · exact ⟨s, by rw [if_pos hm]; rfl⟩
            · exact ⟨_, by rw [if_neg hm]; rfl⟩
  case q => exact pushEntries_ok hc (by simpa using h)
  all_goals exact ⟨s, rfl⟩

end Sys2Proof.Laws
end

