-- ==== Sys2Proof/Laws/Lanes.lean ====
section
/-!
SUPPORT. Vectors given by a function, and the lane results of a mask.
-/
namespace Sys2Proof.Laws
open Sys2Proof Sys2Proof.Machine

@[simp] theorem tabulate_getElem {α : Type} (n : Nat) (f : Fin n → α) (i : Nat) (h : i < n) : (tabulate n f)[i] = f ⟨i, h⟩ := by
  simp [tabulate]

@[simp] theorem tabulate_getElem? {α : Type} (n : Nat) (f : Fin n → α) (i : Nat) :
    (tabulate n f)[i]? = if h : i < n then some (f ⟨i, h⟩) else none := by
  split
  · next h => rw [Vector.getElem?_eq_getElem h, tabulate_getElem]
  · next h => exact Vector.getElem?_eq_none (by omega)

theorem tabulate_toList {α : Type} (n : Nat) (f : Fin n → α) : (tabulate n f).toList = List.ofFn f := by
  apply List.ext_getElem
  · simp
  · intro i h1 h2; simp

/-- The values of lane results: computed in the lanes of the mask, 0 elsewhere. -/
theorem laneValues_laneResults (m : W32) (fn : Nat → Nat × Events) :
    laneValues (laneResults m fn) = tabulate 32 (fun l => if m.getLsbD l then BitVec.ofNat 64 (fn l).1 else 0) := by
  apply Vector.ext
  intro i hi
  simp only [laneValues, laneResults, tabulate_getElem, Fin.getElem_fin]
  split <;> rfl

/-- The events of lane results: those of the lanes of the mask. -/
theorem laneEvents_laneResults (m : W32) (fn : Nat → Nat × Events) :
    laneEvents (laneResults m fn) = (List.range 32).foldl (fun ev l => if m.getLsbD l then ev ||| (fn l).2 else ev) 0 := by
  have h : (laneResults m fn).toList = (List.range 32).map (fun l => if m.getLsbD l then fn l else (0, 0)) := by
    rw [laneResults, tabulate_toList]
    rfl
  unfold laneEvents
  rw [h, List.foldl_map]
  congr 1
  funext ev l
  split
  · rfl
  · simp

end Sys2Proof.Laws
end

