-- ==== Sys2Proof/Laws/State.lean ====
section
/-!
SUPPORT. The small lemmas of the state record: one for each field under each named update, so that no later proof
unfolds a record update.
-/
namespace Sys2Proof.Machine

/-! ### One core changes -/

@[simp] theorem State.modCore_mem (s : State) (i : Nat) (f : Core → Core) :
    (s.modCore i f).mem = s.mem := rfl
@[simp] theorem State.modCore_poison (s : State) (i : Nat) (f : Core → Core) :
    (s.modCore i f).poison = s.poison := rfl
@[simp] theorem State.modCore_restored (s : State) (i : Nat) (f : Core → Core) :
    (s.modCore i f).restored = s.restored := rfl
@[simp] theorem State.modCore_groups (s : State) (i : Nat) (f : Core → Core) :
    (s.modCore i f).groups = s.groups := rfl
@[simp] theorem State.modCore_wgs (s : State) (i : Nat) (f : Core → Core) :
    (s.modCore i f).wgs = s.wgs := rfl
@[simp] theorem State.modCore_cores (s : State) (i : Nat) (f : Core → Core) :
    (s.modCore i f).cores = s.cores.setIfInBounds i (f (s.core i)) := rfl
@[simp] theorem State.modCore_clusters (s : State) (i : Nat) (f : Core → Core) :
    (s.modCore i f).clusters = s.clusters := rfl
@[simp] theorem State.modCore_dies (s : State) (i : Nat) (f : Core → Core) :
    (s.modCore i f).dies = s.dies := rfl
@[simp] theorem State.modCore_pkg (s : State) (i : Nat) (f : Core → Core) :
    (s.modCore i f).pkg = s.pkg := rfl
@[simp] theorem State.modCore_regions (s : State) (i : Nat) (f : Core → Core) :
    (s.modCore i f).regions = s.regions := rfl
@[simp] theorem State.modCore_launches (s : State) (i : Nat) (f : Core → Core) :
    (s.modCore i f).launches = s.launches := rfl
@[simp] theorem State.modCore_ctxs (s : State) (i : Nat) (f : Core → Core) :
    (s.modCore i f).ctxs = s.ctxs := rfl
@[simp] theorem State.modCore_halts (s : State) (i : Nat) (f : Core → Core) :
    (s.modCore i f).halts = s.halts := rfl
@[simp] theorem State.modCore_pairMsgs (s : State) (i : Nat) (f : Core → Core) :
    (s.modCore i f).pairMsgs = s.pairMsgs := rfl
@[simp] theorem State.modCore_watches (s : State) (i : Nat) (f : Core → Core) :
    (s.modCore i f).watches = s.watches := rfl
@[simp] theorem State.modCore_fabric (s : State) (i : Nat) (f : Core → Core) :
    (s.modCore i f).fabric = s.fabric := rfl
@[simp] theorem State.modCore_time (s : State) (i : Nat) (f : Core → Core) :
    (s.modCore i f).time = s.time := rfl
@[simp] theorem State.modCore_ptbFine (s : State) (i : Nat) (f : Core → Core) :
    (s.modCore i f).ptbFine = s.ptbFine := rfl
@[simp] theorem State.modCore_rate (s : State) (i : Nat) (f : Core → Core) :
    (s.modCore i f).rate = s.rate := rfl
@[simp] theorem State.modCore_nextId (s : State) (i : Nat) (f : Core → Core) :
    (s.modCore i f).nextId = s.nextId := rfl
@[simp] theorem State.modCore_inputs (s : State) (i : Nat) (f : Core → Core) :
    (s.modCore i f).inputs = s.inputs := rfl
@[simp] theorem State.modCore_cur (s : State) (i : Nat) (f : Core → Core) :
    (s.modCore i f).cur = s.cur := rfl
@[simp] theorem State.modCore_fresh (s : State) (i : Nat) (f : Core → Core) :
    (s.modCore i f).fresh = s.fresh := rfl

/-! ### One cluster changes -/

@[simp] theorem State.modCluster_mem (s : State) (i : Nat) (f : Cluster → Cluster) :
    (s.modCluster i f).mem = s.mem := rfl
@[simp] theorem State.modCluster_poison (s : State) (i : Nat) (f : Cluster → Cluster) :
    (s.modCluster i f).poison = s.poison := rfl
@[simp] theorem State.modCluster_restored (s : State) (i : Nat) (f : Cluster → Cluster) :
    (s.modCluster i f).restored = s.restored := rfl
@[simp] theorem State.modCluster_groups (s : State) (i : Nat) (f : Cluster → Cluster) :
    (s.modCluster i f).groups = s.groups := rfl
@[simp] theorem State.modCluster_wgs (s : State) (i : Nat) (f : Cluster → Cluster) :
    (s.modCluster i f).wgs = s.wgs := rfl
@[simp] theorem State.modCluster_cores (s : State) (i : Nat) (f : Cluster → Cluster) :
    (s.modCluster i f).cores = s.cores := rfl
@[simp] theorem State.modCluster_clusters (s : State) (i : Nat) (f : Cluster → Cluster) :
    (s.modCluster i f).clusters = s.clusters.setIfInBounds i (f (s.cluster i)) := rfl
@[simp] theorem State.modCluster_dies (s : State) (i : Nat) (f : Cluster → Cluster) :
    (s.modCluster i f).dies = s.dies := rfl
@[simp] theorem State.modCluster_pkg (s : State) (i : Nat) (f : Cluster → Cluster) :
    (s.modCluster i f).pkg = s.pkg := rfl
@[simp] theorem State.modCluster_regions (s : State) (i : Nat) (f : Cluster → Cluster) :
    (s.modCluster i f).regions = s.regions := rfl
@[simp] theorem State.modCluster_launches (s : State) (i : Nat) (f : Cluster → Cluster) :
    (s.modCluster i f).launches = s.launches := rfl
@[simp] theorem State.modCluster_ctxs (s : State) (i : Nat) (f : Cluster → Cluster) :
    (s.modCluster i f).ctxs = s.ctxs := rfl
@[simp] theorem State.modCluster_halts (s : State) (i : Nat) (f : Cluster → Cluster) :
    (s.modCluster i f).halts = s.halts := rfl
@[simp] theorem State.modCluster_pairMsgs (s : State) (i : Nat) (f : Cluster → Cluster) :
    (s.modCluster i f).pairMsgs = s.pairMsgs := rfl
@[simp] theorem State.modCluster_watches (s : State) (i : Nat) (f : Cluster → Cluster) :
    (s.modCluster i f).watches = s.watches := rfl
@[simp] theorem State.modCluster_fabric (s : State) (i : Nat) (f : Cluster → Cluster) :
    (s.modCluster i f).fabric = s.fabric := rfl
@[simp] theorem State.modCluster_time (s : State) (i : Nat) (f : Cluster → Cluster) :
    (s.modCluster i f).time = s.time := rfl
@[simp] theorem State.modCluster_ptbFine (s : State) (i : Nat) (f : Cluster → Cluster) :
    (s.modCluster i f).ptbFine = s.ptbFine := rfl
@[simp] theorem State.modCluster_rate (s : State) (i : Nat) (f : Cluster → Cluster) :
    (s.modCluster i f).rate = s.rate := rfl
@[simp] theorem State.modCluster_nextId (s : State) (i : Nat) (f : Cluster → Cluster) :
    (s.modCluster i f).nextId = s.nextId := rfl
@[simp] theorem State.modCluster_inputs (s : State) (i : Nat) (f : Cluster → Cluster) :
    (s.modCluster i f).inputs = s.inputs := rfl
@[simp] theorem State.modCluster_cur (s : State) (i : Nat) (f : Cluster → Cluster) :
    (s.modCluster i f).cur = s.cur := rfl
@[simp] theorem State.modCluster_fresh (s : State) (i : Nat) (f : Cluster → Cluster) :
    (s.modCluster i f).fresh = s.fresh := rfl

/-! ### One die changes -/

@[simp] theorem State.modDie_mem (s : State) (i : Nat) (f : Die → Die) :
    (s.modDie i f).mem = s.mem := rfl
@[simp] theorem State.modDie_poison (s : State) (i : Nat) (f : Die → Die) :
    (s.modDie i f).poison = s.poison := rfl
@[simp] theorem State.modDie_restored (s : State) (i : Nat) (f : Die → Die) :
    (s.modDie i f).restored = s.restored := rfl
@[simp] theorem State.modDie_groups (s : State) (i : Nat) (f : Die → Die) :
    (s.modDie i f).groups = s.groups := rfl
@[simp] theorem State.modDie_wgs (s : State) (i : Nat) (f : Die → Die) :
    (s.modDie i f).wgs = s.wgs := rfl
@[simp] theorem State.modDie_cores (s : State) (i : Nat) (f : Die → Die) :
    (s.modDie i f).cores = s.cores := rfl
@[simp] theorem State.modDie_clusters (s : State) (i : Nat) (f : Die → Die) :
    (s.modDie i f).clusters = s.clusters := rfl
@[simp] theorem State.modDie_dies (s : State) (i : Nat) (f : Die → Die) :
    (s.modDie i f).dies = s.dies.setIfInBounds i (f (s.die i)) := rfl
@[simp] theorem State.modDie_pkg (s : State) (i : Nat) (f : Die → Die) :
    (s.modDie i f).pkg = s.pkg := rfl
@[simp] theorem State.modDie_regions (s : State) (i : Nat) (f : Die → Die) :
    (s.modDie i f).regions = s.regions := rfl
@[simp] theorem State.modDie_launches (s : State) (i : Nat) (f : Die → Die) :
    (s.modDie i f).launches = s.launches := rfl
@[simp] theorem State.modDie_ctxs (s : State) (i : Nat) (f : Die → Die) :
    (s.modDie i f).ctxs = s.ctxs := rfl
@[simp] theorem State.modDie_halts (s : State) (i : Nat) (f : Die → Die) :
    (s.modDie i f).halts = s.halts := rfl
@[simp] theorem State.modDie_pairMsgs (s : State) (i : Nat) (f : Die → Die) :
    (s.modDie i f).pairMsgs = s.pairMsgs := rfl
@[simp] theorem State.modDie_watches (s : State) (i : Nat) (f : Die → Die) :
    (s.modDie i f).watches = s.watches := rfl
@[simp] theorem State.modDie_fabric (s : State) (i : Nat) (f : Die → Die) :
    (s.modDie i f).fabric = s.fabric := rfl
@[simp] theorem State.modDie_time (s : State) (i : Nat) (f : Die → Die) :
    (s.modDie i f).time = s.time := rfl
@[simp] theorem State.modDie_ptbFine (s : State) (i : Nat) (f : Die → Die) :
    (s.modDie i f).ptbFine = s.ptbFine := rfl
@[simp] theorem State.modDie_rate (s : State) (i : Nat) (f : Die → Die) :
    (s.modDie i f).rate = s.rate := rfl
@[simp] theorem State.modDie_nextId (s : State) (i : Nat) (f : Die → Die) :
    (s.modDie i f).nextId = s.nextId := rfl
@[simp] theorem State.modDie_inputs (s : State) (i : Nat) (f : Die → Die) :
    (s.modDie i f).inputs = s.inputs := rfl
@[simp] theorem State.modDie_cur (s : State) (i : Nat) (f : Die → Die) :
    (s.modDie i f).cur = s.cur := rfl
@[simp] theorem State.modDie_fresh (s : State) (i : Nat) (f : Die → Die) :
    (s.modDie i f).fresh = s.fresh := rfl

/-! ### One group changes -/

@[simp] theorem State.modGroup_mem (s : State) (i : Nat) (f : Group → Group) :
    (s.modGroup i f).mem = s.mem := rfl
@[simp] theorem State.modGroup_poison (s : State) (i : Nat) (f : Group → Group) :
    (s.modGroup i f).poison = s.poison := rfl
@[simp] theorem State.modGroup_restored (s : State) (i : Nat) (f : Group → Group) :
    (s.modGroup i f).restored = s.restored := rfl
@[simp] theorem State.modGroup_groups (s : State) (i : Nat) (f : Group → Group) :
    (s.modGroup i f).groups = s.groups.map (fun g => if g.id = i then f g else g) := rfl
@[simp] theorem State.modGroup_wgs (s : State) (i : Nat) (f : Group → Group) :
    (s.modGroup i f).wgs = s.wgs := rfl
@[simp] theorem State.modGroup_cores (s : State) (i : Nat) (f : Group → Group) :
    (s.modGroup i f).cores = s.cores := rfl
@[simp] theorem State.modGroup_clusters (s : State) (i : Nat) (f : Group → Group) :
    (s.modGroup i f).clusters = s.clusters := rfl
@[simp] theorem State.modGroup_dies (s : State) (i : Nat) (f : Group → Group) :
    (s.modGroup i f).dies = s.dies := rfl
@[simp] theorem State.modGroup_pkg (s : State) (i : Nat) (f : Group → Group) :
    (s.modGroup i f).pkg = s.pkg := rfl
@[simp] theorem State.modGroup_regions (s : State) (i : Nat) (f : Group → Group) :
    (s.modGroup i f).regions = s.regions := rfl
@[simp] theorem State.modGroup_launches (s : State) (i : Nat) (f : Group → Group) :
    (s.modGroup i f).launches = s.launches := rfl
@[simp] theorem State.modGroup_ctxs (s : State) (i : Nat) (f : Group → Group) :
    (s.modGroup i f).ctxs = s.ctxs := rfl
@[simp] theorem State.modGroup_halts (s : State) (i : Nat) (f : Group → Group) :
    (s.modGroup i f).halts = s.halts := rfl
@[simp] theorem State.modGroup_pairMsgs (s : State) (i : Nat) (f : Group → Group) :
    (s.modGroup i f).pairMsgs = s.pairMsgs := rfl
@[simp] theorem State.modGroup_watches (s : State) (i : Nat) (f : Group → Group) :
    (s.modGroup i f).watches = s.watches := rfl
@[simp] theorem State.modGroup_fabric (s : State) (i : Nat) (f : Group → Group) :
    (s.modGroup i f).fabric = s.fabric := rfl
@[simp] theorem State.modGroup_time (s : State) (i : Nat) (f : Group → Group) :
    (s.modGroup i f).time = s.time := rfl
@[simp] theorem State.modGroup_ptbFine (s : State) (i : Nat) (f : Group → Group) :
    (s.modGroup i f).ptbFine = s.ptbFine := rfl
@[simp] theorem State.modGroup_rate (s : State) (i : Nat) (f : Group → Group) :
    (s.modGroup i f).rate = s.rate := rfl
@[simp] theorem State.modGroup_nextId (s : State) (i : Nat) (f : Group → Group) :
    (s.modGroup i f).nextId = s.nextId := rfl
@[simp] theorem State.modGroup_inputs (s : State) (i : Nat) (f : Group → Group) :
    (s.modGroup i f).inputs = s.inputs := rfl
@[simp] theorem State.modGroup_cur (s : State) (i : Nat) (f : Group → Group) :
    (s.modGroup i f).cur = s.cur := rfl
@[simp] theorem State.modGroup_fresh (s : State) (i : Nat) (f : Group → Group) :
    (s.modGroup i f).fresh = s.fresh := rfl

/-! ### One workgroup changes -/

@[simp] theorem State.modWg_mem (s : State) (i : Nat) (f : Wg → Wg) :
    (s.modWg i f).mem = s.mem := rfl
@[simp] theorem State.modWg_poison (s : State) (i : Nat) (f : Wg → Wg) :
    (s.modWg i f).poison = s.poison := rfl
@[simp] theorem State.modWg_restored (s : State) (i : Nat) (f : Wg → Wg) :
    (s.modWg i f).restored = s.restored := rfl
@[simp] theorem State.modWg_groups (s : State) (i : Nat) (f : Wg → Wg) :
    (s.modWg i f).groups = s.groups := rfl
@[simp] theorem State.modWg_wgs (s : State) (i : Nat) (f : Wg → Wg) :
    (s.modWg i f).wgs = s.wgs.map (fun w => if w.id = i then f w else w) := rfl
@[simp] theorem State.modWg_cores (s : State) (i : Nat) (f : Wg → Wg) :
    (s.modWg i f).cores = s.cores := rfl
@[simp] theorem State.modWg_clusters (s : State) (i : Nat) (f : Wg → Wg) :
    (s.modWg i f).clusters = s.clusters := rfl
@[simp] theorem State.modWg_dies (s : State) (i : Nat) (f : Wg → Wg) :
    (s.modWg i f).dies = s.dies := rfl
@[simp] theorem State.modWg_pkg (s : State) (i : Nat) (f : Wg → Wg) :
    (s.modWg i f).pkg = s.pkg := rfl
@[simp] theorem State.modWg_regions (s : State) (i : Nat) (f : Wg → Wg) :
    (s.modWg i f).regions = s.regions := rfl
@[simp] theorem State.modWg_launches (s : State) (i : Nat) (f : Wg → Wg) :
    (s.modWg i f).launches = s.launches := rfl
@[simp] theorem State.modWg_ctxs (s : State) (i : Nat) (f : Wg → Wg) :
    (s.modWg i f).ctxs = s.ctxs := rfl
@[simp] theorem State.modWg_halts (s : State) (i : Nat) (f : Wg → Wg) :
    (s.modWg i f).halts = s.halts := rfl
@[simp] theorem State.modWg_pairMsgs (s : State) (i : Nat) (f : Wg → Wg) :
    (s.modWg i f).pairMsgs = s.pairMsgs := rfl
@[simp] theorem State.modWg_watches (s : State) (i : Nat) (f : Wg → Wg) :
    (s.modWg i f).watches = s.watches := rfl
@[simp] theorem State.modWg_fabric (s : State) (i : Nat) (f : Wg → Wg) :
    (s.modWg i f).fabric = s.fabric := rfl
@[simp] theorem State.modWg_time (s : State) (i : Nat) (f : Wg → Wg) :
    (s.modWg i f).time = s.time := rfl
@[simp] theorem State.modWg_ptbFine (s : State) (i : Nat) (f : Wg → Wg) :
    (s.modWg i f).ptbFine = s.ptbFine := rfl
@[simp] theorem State.modWg_rate (s : State) (i : Nat) (f : Wg → Wg) :
    (s.modWg i f).rate = s.rate := rfl
@[simp] theorem State.modWg_nextId (s : State) (i : Nat) (f : Wg → Wg) :
    (s.modWg i f).nextId = s.nextId := rfl
@[simp] theorem State.modWg_inputs (s : State) (i : Nat) (f : Wg → Wg) :
    (s.modWg i f).inputs = s.inputs := rfl
@[simp] theorem State.modWg_cur (s : State) (i : Nat) (f : Wg → Wg) :
    (s.modWg i f).cur = s.cur := rfl
@[simp] theorem State.modWg_fresh (s : State) (i : Nat) (f : Wg → Wg) :
    (s.modWg i f).fresh = s.fresh := rfl

/-! ### One slice changes -/

@[simp] theorem State.modSlice_mem (s : State) (i : Nat) (a : Bool) (f : Slice → Slice) :
    (s.modSlice i a f).mem = s.mem := rfl
@[simp] theorem State.modSlice_poison (s : State) (i : Nat) (a : Bool) (f : Slice → Slice) :
    (s.modSlice i a f).poison = s.poison := rfl
@[simp] theorem State.modSlice_restored (s : State) (i : Nat) (a : Bool) (f : Slice → Slice) :
    (s.modSlice i a f).restored = s.restored := rfl
@[simp] theorem State.modSlice_groups (s : State) (i : Nat) (a : Bool) (f : Slice → Slice) :
    (s.modSlice i a f).groups = s.groups.map (fun g => if g.id = i then g.modSlice a f else g) := rfl
@[simp] theorem State.modSlice_wgs (s : State) (i : Nat) (a : Bool) (f : Slice → Slice) :
    (s.modSlice i a f).wgs = s.wgs := rfl
@[simp] theorem State.modSlice_cores (s : State) (i : Nat) (a : Bool) (f : Slice → Slice) :
    (s.modSlice i a f).cores = s.cores := rfl
@[simp] theorem State.modSlice_clusters (s : State) (i : Nat) (a : Bool) (f : Slice → Slice) :
    (s.modSlice i a f).clusters = s.clusters := rfl
@[simp] theorem State.modSlice_dies (s : State) (i : Nat) (a : Bool) (f : Slice → Slice) :
    (s.modSlice i a f).dies = s.dies := rfl
@[simp] theorem State.modSlice_pkg (s : State) (i : Nat) (a : Bool) (f : Slice → Slice) :
    (s.modSlice i a f).pkg = s.pkg := rfl
@[simp] theorem State.modSlice_regions (s : State) (i : Nat) (a : Bool) (f : Slice → Slice) :
    (s.modSlice i a f).regions = s.regions := rfl
@[simp] theorem State.modSlice_launches (s : State) (i : Nat) (a : Bool) (f : Slice → Slice) :
    (s.modSlice i a f).launches = s.launches := rfl
@[simp] theorem State.modSlice_ctxs (s : State) (i : Nat) (a : Bool) (f : Slice → Slice) :
    (s.modSlice i a f).ctxs = s.ctxs := rfl
@[simp] theorem State.modSlice_halts (s : State) (i : Nat) (a : Bool) (f : Slice → Slice) :
    (s.modSlice i a f).halts = s.halts := rfl
@[simp] theorem State.modSlice_pairMsgs (s : State) (i : Nat) (a : Bool) (f : Slice → Slice) :
    (s.modSlice i a f).pairMsgs = s.pairMsgs := rfl
@[simp] theorem State.modSlice_watches (s : State) (i : Nat) (a : Bool) (f : Slice → Slice) :
    (s.modSlice i a f).watches = s.watches := rfl
@[simp] theorem State.modSlice_fabric (s : State) (i : Nat) (a : Bool) (f : Slice → Slice) :
    (s.modSlice i a f).fabric = s.fabric := rfl
@[simp] theorem State.modSlice_time (s : State) (i : Nat) (a : Bool) (f : Slice → Slice) :
    (s.modSlice i a f).time = s.time := rfl
@[simp] theorem State.modSlice_ptbFine (s : State) (i : Nat) (a : Bool) (f : Slice → Slice) :
    (s.modSlice i a f).ptbFine = s.ptbFine := rfl
@[simp] theorem State.modSlice_rate (s : State) (i : Nat) (a : Bool) (f : Slice → Slice) :
    (s.modSlice i a f).rate = s.rate := rfl
@[simp] theorem State.modSlice_nextId (s : State) (i : Nat) (a : Bool) (f : Slice → Slice) :
    (s.modSlice i a f).nextId = s.nextId := rfl
@[simp] theorem State.modSlice_inputs (s : State) (i : Nat) (a : Bool) (f : Slice → Slice) :
    (s.modSlice i a f).inputs = s.inputs := rfl
@[simp] theorem State.modSlice_cur (s : State) (i : Nat) (a : Bool) (f : Slice → Slice) :
    (s.modSlice i a f).cur = s.cur := rfl
@[simp] theorem State.modSlice_fresh (s : State) (i : Nat) (a : Bool) (f : Slice → Slice) :
    (s.modSlice i a f).fresh = s.fresh := rfl

/-! ### One host port changes -/

@[simp] theorem State.modPort_mem (s : State) (p : Bool) (f : Port → Port) :
    (s.modPort p f).mem = s.mem := by cases p <;> rfl
@[simp] theorem State.modPort_poison (s : State) (p : Bool) (f : Port → Port) :
    (s.modPort p f).poison = s.poison := by cases p <;> rfl
@[simp] theorem State.modPort_restored (s : State) (p : Bool) (f : Port → Port) :
    (s.modPort p f).restored = s.restored := by cases p <;> rfl
@[simp] theorem State.modPort_groups (s : State) (p : Bool) (f : Port → Port) :
    (s.modPort p f).groups = s.groups := by cases p <;> rfl
@[simp] theorem State.modPort_wgs (s : State) (p : Bool) (f : Port → Port) :
    (s.modPort p f).wgs = s.wgs := by cases p <;> rfl
@[simp] theorem State.modPort_cores (s : State) (p : Bool) (f : Port → Port) :
    (s.modPort p f).cores = s.cores := by cases p <;> rfl
@[simp] theorem State.modPort_clusters (s : State) (p : Bool) (f : Port → Port) :
    (s.modPort p f).clusters = s.clusters := by cases p <;> rfl
@[simp] theorem State.modPort_dies (s : State) (p : Bool) (f : Port → Port) :
    (s.modPort p f).dies = s.dies := by cases p <;> rfl
@[simp] theorem State.modPort_regions (s : State) (p : Bool) (f : Port → Port) :
    (s.modPort p f).regions = s.regions := by cases p <;> rfl
@[simp] theorem State.modPort_launches (s : State) (p : Bool) (f : Port → Port) :
    (s.modPort p f).launches = s.launches := by cases p <;> rfl
@[simp] theorem State.modPort_ctxs (s : State) (p : Bool) (f : Port → Port) :
    (s.modPort p f).ctxs = s.ctxs := by cases p <;> rfl
@[simp] theorem State.modPort_halts (s : State) (p : Bool) (f : Port → Port) :
    (s.modPort p f).halts = s.halts := by cases p <;> rfl
@[simp] theorem State.modPort_pairMsgs (s : State) (p : Bool) (f : Port → Port) :
    (s.modPort p f).pairMsgs = s.pairMsgs := by cases p <;> rfl
@[simp] theorem State.modPort_watches (s : State) (p : Bool) (f : Port → Port) :
    (s.modPort p f).watches = s.watches := by cases p <;> rfl
@[simp] theorem State.modPort_fabric (s : State) (p : Bool) (f : Port → Port) :
    (s.modPort p f).fabric = s.fabric := by cases p <;> rfl
@[simp] theorem State.modPort_time (s : State) (p : Bool) (f : Port → Port) :
    (s.modPort p f).time = s.time := by cases p <;> rfl
@[simp] theorem State.modPort_ptbFine (s : State) (p : Bool) (f : Port → Port) :
    (s.modPort p f).ptbFine = s.ptbFine := by cases p <;> rfl
@[simp] theorem State.modPort_rate (s : State) (p : Bool) (f : Port → Port) :
    (s.modPort p f).rate = s.rate := by cases p <;> rfl
@[simp] theorem State.modPort_nextId (s : State) (p : Bool) (f : Port → Port) :
    (s.modPort p f).nextId = s.nextId := by cases p <;> rfl
@[simp] theorem State.modPort_inputs (s : State) (p : Bool) (f : Port → Port) :
    (s.modPort p f).inputs = s.inputs := by cases p <;> rfl
@[simp] theorem State.modPort_cur (s : State) (p : Bool) (f : Port → Port) :
    (s.modPort p f).cur = s.cur := by cases p <;> rfl
@[simp] theorem State.modPort_fresh (s : State) (p : Bool) (f : Port → Port) :
    (s.modPort p f).fresh = s.fresh := by cases p <;> rfl

/-! ### An access enters the table of a core -/

@[simp] theorem State.addPend_mem (s : State) (i : Nat) (p : Pending) :
    (s.addPend i p).mem = s.mem := rfl
@[simp] theorem State.addPend_poison (s : State) (i : Nat) (p : Pending) :
    (s.addPend i p).poison = s.poison := rfl
@[simp] theorem State.addPend_restored (s : State) (i : Nat) (p : Pending) :
    (s.addPend i p).restored = s.restored := rfl
@[simp] theorem State.addPend_groups (s : State) (i : Nat) (p : Pending) :
    (s.addPend i p).groups = s.groups := rfl
@[simp] theorem State.addPend_wgs (s : State) (i : Nat) (p : Pending) :
    (s.addPend i p).wgs = s.wgs := rfl
@[simp] theorem State.addPend_clusters (s : State) (i : Nat) (p : Pending) :
    (s.addPend i p).clusters = s.clusters := rfl
@[simp] theorem State.addPend_dies (s : State) (i : Nat) (p : Pending) :
    (s.addPend i p).dies = s.dies := rfl
@[simp] theorem State.addPend_pkg (s : State) (i : Nat) (p : Pending) :
    (s.addPend i p).pkg = s.pkg := rfl
@[simp] theorem State.addPend_regions (s : State) (i : Nat) (p : Pending) :
    (s.addPend i p).regions = s.regions := rfl
@[simp] theorem State.addPend_launches (s : State) (i : Nat) (p : Pending) :
    (s.addPend i p).launches = s.launches := rfl
@[simp] theorem State.addPend_ctxs (s : State) (i : Nat) (p : Pending) :
    (s.addPend i p).ctxs = s.ctxs := rfl
@[simp] theorem State.addPend_halts (s : State) (i : Nat) (p : Pending) :
    (s.addPend i p).halts = s.halts := rfl
@[simp] theorem State.addPend_pairMsgs (s : State) (i : Nat) (p : Pending) :
    (s.addPend i p).pairMsgs = s.pairMsgs := rfl
@[simp] theorem State.addPend_watches (s : State) (i : Nat) (p : Pending) :
    (s.addPend i p).watches = s.watches := rfl
@[simp] theorem State.addPend_fabric (s : State) (i : Nat) (p : Pending) :
    (s.addPend i p).fabric = s.fabric := rfl
@[simp] theorem State.addPend_time (s : State) (i : Nat) (p : Pending) :
    (s.addPend i p).time = s.time := rfl
@[simp] theorem State.addPend_ptbFine (s : State) (i : Nat) (p : Pending) :
    (s.addPend i p).ptbFine = s.ptbFine := rfl
@[simp] theorem State.addPend_rate (s : State) (i : Nat) (p : Pending) :
    (s.addPend i p).rate = s.rate := rfl
@[simp] theorem State.addPend_nextId (s : State) (i : Nat) (p : Pending) :
    (s.addPend i p).nextId = s.nextId := rfl
@[simp] theorem State.addPend_inputs (s : State) (i : Nat) (p : Pending) :
    (s.addPend i p).inputs = s.inputs := rfl
@[simp] theorem State.addPend_cur (s : State) (i : Nat) (p : Pending) :
    (s.addPend i p).cur = s.cur := rfl
@[simp] theorem State.addPend_fresh (s : State) (i : Nat) (p : Pending) :
    (s.addPend i p).fresh = s.fresh := rfl

/-! ### A slice of a group changes -/

@[simp] theorem Group.modSlice_id (g : Group) (a : Bool) (f : Slice → Slice) :
    (g.modSlice a f).id = g.id := by cases a <;> rfl
@[simp] theorem Group.modSlice_wg (g : Group) (a : Bool) (f : Slice → Slice) :
    (g.modSlice a f).wg = g.wg := by cases a <;> rfl
@[simp] theorem Group.modSlice_num (g : Group) (a : Bool) (f : Slice → Slice) :
    (g.modSlice a f).num = g.num := by cases a <;> rfl
@[simp] theorem Group.modSlice_half1 (g : Group) (a : Bool) (f : Slice → Slice) :
    (g.modSlice a f).half1 = g.half1 := by cases a <;> rfl
@[simp] theorem Group.modSlice_core (g : Group) (a : Bool) (f : Slice → Slice) :
    (g.modSlice a f).core = g.core := by cases a <;> rfl
@[simp] theorem Group.modSlice_sub (g : Group) (a : Bool) (f : Slice → Slice) :
    (g.modSlice a f).sub = g.sub := by cases a <;> rfl
@[simp] theorem Group.modSlice_slot (g : Group) (a : Bool) (f : Slice → Slice) :
    (g.modSlice a f).slot = g.slot := by cases a <;> rfl
@[simp] theorem Group.modSlice_stamp (g : Group) (a : Bool) (f : Slice → Slice) :
    (g.modSlice a f).stamp = g.stamp := by cases a <;> rfl
@[simp] theorem Group.modSlice_queues (g : Group) (a : Bool) (f : Slice → Slice) :
    (g.modSlice a f).queues = g.queues := by cases a <;> rfl
@[simp] theorem Group.modSlice_geom (g : Group) (a : Bool) (f : Slice → Slice) :
    (g.modSlice a f).geom = g.geom := by cases a <;> rfl
@[simp] theorem Group.modSlice_fb (g : Group) (a : Bool) (f : Slice → Slice) :
    (g.modSlice a f).fb = g.fb := by cases a <;> rfl
@[simp] theorem Group.modSlice_acc (g : Group) (a : Bool) (f : Slice → Slice) :
    (g.modSlice a f).acc = g.acc := by cases a <;> rfl
@[simp] theorem Group.modSlice_frameBase (g : Group) (a : Bool) (f : Slice → Slice) :
    (g.modSlice a f).frameBase = g.frameBase := by cases a <;> rfl
@[simp] theorem Group.modSlice_itemLanes (g : Group) (a : Bool) (f : Slice → Slice) :
    (g.modSlice a f).itemLanes = g.itemLanes := by cases a <;> rfl

/-! ### A queue of a group changes -/

@[simp] theorem Group.setQueue_id (g : Group) (n : Nat) (q : Queue) :
    (g.setQueue n q).id = g.id := rfl
@[simp] theorem Group.setQueue_wg (g : Group) (n : Nat) (q : Queue) :
    (g.setQueue n q).wg = g.wg := rfl
@[simp] theorem Group.setQueue_num (g : Group) (n : Nat) (q : Queue) :
    (g.setQueue n q).num = g.num := rfl
@[simp] theorem Group.setQueue_half1 (g : Group) (n : Nat) (q : Queue) :
    (g.setQueue n q).half1 = g.half1 := rfl
@[simp] theorem Group.setQueue_core (g : Group) (n : Nat) (q : Queue) :
    (g.setQueue n q).core = g.core := rfl
@[simp] theorem Group.setQueue_sub (g : Group) (n : Nat) (q : Queue) :
    (g.setQueue n q).sub = g.sub := rfl
@[simp] theorem Group.setQueue_slot (g : Group) (n : Nat) (q : Queue) :
    (g.setQueue n q).slot = g.slot := rfl
@[simp] theorem Group.setQueue_stamp (g : Group) (n : Nat) (q : Queue) :
    (g.setQueue n q).stamp = g.stamp := rfl
@[simp] theorem Group.setQueue_x (g : Group) (n : Nat) (q : Queue) :
    (g.setQueue n q).x = g.x := rfl
@[simp] theorem Group.setQueue_a (g : Group) (n : Nat) (q : Queue) :
    (g.setQueue n q).a = g.a := rfl
@[simp] theorem Group.setQueue_queues (g : Group) (n : Nat) (q : Queue) :
    (g.setQueue n q).queues = g.queues.setIfInBounds n q := rfl
@[simp] theorem Group.setQueue_geom (g : Group) (n : Nat) (q : Queue) :
    (g.setQueue n q).geom = g.geom := rfl
@[simp] theorem Group.setQueue_fb (g : Group) (n : Nat) (q : Queue) :
    (g.setQueue n q).fb = g.fb := rfl
@[simp] theorem Group.setQueue_acc (g : Group) (n : Nat) (q : Queue) :
    (g.setQueue n q).acc = g.acc := rfl
@[simp] theorem Group.setQueue_frameBase (g : Group) (n : Nat) (q : Queue) :
    (g.setQueue n q).frameBase = g.frameBase := rfl
@[simp] theorem Group.setQueue_itemLanes (g : Group) (n : Nat) (q : Queue) :
    (g.setQueue n q).itemLanes = g.itemLanes := rfl

/-! ### A slice: setSlot -/

@[simp] theorem Slice.setSlot_hold0 (sl : Slice) (one : Bool) (p : Option Path) :
    (sl.setSlot one p).hold0 = sl.hold0 := by cases one <;> rfl
@[simp] theorem Slice.setSlot_hold1 (sl : Slice) (one : Bool) (p : Option Path) :
    (sl.setSlot one p).hold1 = sl.hold1 := by cases one <;> rfl
@[simp] theorem Slice.setSlot_last1 (sl : Slice) (one : Bool) (p : Option Path) :
    (sl.setSlot one p).last1 = sl.last1 := by cases one <;> rfl
@[simp] theorem Slice.setSlot_ageCtr (sl : Slice) (one : Bool) (p : Option Path) :
    (sl.setSlot one p).ageCtr = sl.ageCtr := by cases one <;> rfl
@[simp] theorem Slice.setSlot_dstackN (sl : Slice) (one : Bool) (p : Option Path) :
    (sl.setSlot one p).dstackN = sl.dstackN := by cases one <;> rfl
@[simp] theorem Slice.setSlot_cstackN (sl : Slice) (one : Bool) (p : Option Path) :
    (sl.setSlot one p).cstackN = sl.cstackN := by cases one <;> rfl
@[simp] theorem Slice.setSlot_dages (sl : Slice) (one : Bool) (p : Option Path) :
    (sl.setSlot one p).dages = sl.dages := by cases one <;> rfl
@[simp] theorem Slice.setSlot_vreg (sl : Slice) (one : Bool) (p : Option Path) :
    (sl.setSlot one p).vreg = sl.vreg := by cases one <;> rfl
@[simp] theorem Slice.setSlot_pred (sl : Slice) (one : Bool) (p : Option Path) :
    (sl.setSlot one p).pred = sl.pred := by cases one <;> rfl
@[simp] theorem Slice.setSlot_sreg (sl : Slice) (one : Bool) (p : Option Path) :
    (sl.setSlot one p).sreg = sl.sreg := by cases one <;> rfl
@[simp] theorem Slice.setSlot_q12 (sl : Slice) (one : Bool) (p : Option Path) :
    (sl.setSlot one p).q12 = sl.q12 := by cases one <;> rfl
@[simp] theorem Slice.setSlot_q13 (sl : Slice) (one : Bool) (p : Option Path) :
    (sl.setSlot one p).q13 = sl.q13 := by cases one <;> rfl
@[simp] theorem Slice.setSlot_q14 (sl : Slice) (one : Bool) (p : Option Path) :
    (sl.setSlot one p).q14 = sl.q14 := by cases one <;> rfl
@[simp] theorem Slice.setSlot_cause (sl : Slice) (one : Bool) (p : Option Path) :
    (sl.setSlot one p).cause = sl.cause := by cases one <;> rfl
@[simp] theorem Slice.setSlot_aux0 (sl : Slice) (one : Bool) (p : Option Path) :
    (sl.setSlot one p).aux0 = sl.aux0 := by cases one <;> rfl
@[simp] theorem Slice.setSlot_aux1 (sl : Slice) (one : Bool) (p : Option Path) :
    (sl.setSlot one p).aux1 = sl.aux1 := by cases one <;> rfl
@[simp] theorem Slice.setSlot_epc (sl : Slice) (one : Bool) (p : Option Path) :
    (sl.setSlot one p).epc = sl.epc := by cases one <;> rfl
@[simp] theorem Slice.setSlot_skid (sl : Slice) (one : Bool) (p : Option Path) :
    (sl.setSlot one p).skid = sl.skid := by cases one <;> rfl
@[simp] theorem Slice.setSlot_fpc (sl : Slice) (one : Bool) (p : Option Path) :
    (sl.setSlot one p).fpc = sl.fpc := by cases one <;> rfl
@[simp] theorem Slice.setSlot_estat (sl : Slice) (one : Bool) (p : Option Path) :
    (sl.setSlot one p).estat = sl.estat := by cases one <;> rfl
@[simp] theorem Slice.setSlot_gbank (sl : Slice) (one : Bool) (p : Option Path) :
    (sl.setSlot one p).gbank = sl.gbank := by cases one <;> rfl
@[simp] theorem Slice.setSlot_corr (sl : Slice) (one : Bool) (p : Option Path) :
    (sl.setSlot one p).corr = sl.corr := by cases one <;> rfl
@[simp] theorem Slice.setSlot_evctl (sl : Slice) (one : Bool) (p : Option Path) :
    (sl.setSlot one p).evctl = sl.evctl := by cases one <;> rfl
@[simp] theorem Slice.setSlot_evc (sl : Slice) (one : Bool) (p : Option Path) :
    (sl.setSlot one p).evc = sl.evc := by cases one <;> rfl
@[simp] theorem Slice.setSlot_emask (sl : Slice) (one : Bool) (p : Option Path) :
    (sl.setSlot one p).emask = sl.emask := by cases one <;> rfl
@[simp] theorem Slice.setSlot_hmode (sl : Slice) (one : Bool) (p : Option Path) :
    (sl.setSlot one p).hmode = sl.hmode := by cases one <;> rfl
@[simp] theorem Slice.setSlot_hscr0 (sl : Slice) (one : Bool) (p : Option Path) :
    (sl.setSlot one p).hscr0 = sl.hscr0 := by cases one <;> rfl
@[simp] theorem Slice.setSlot_hscr1 (sl : Slice) (one : Bool) (p : Option Path) :
    (sl.setSlot one p).hscr1 = sl.hscr1 := by cases one <;> rfl
@[simp] theorem Slice.setSlot_lgeom (sl : Slice) (one : Bool) (p : Option Path) :
    (sl.setSlot one p).lgeom = sl.lgeom := by cases one <;> rfl
@[simp] theorem Slice.setSlot_frozen (sl : Slice) (one : Bool) (p : Option Path) :
    (sl.setSlot one p).frozen = sl.frozen := by cases one <;> rfl
@[simp] theorem Slice.setSlot_loads (sl : Slice) (one : Bool) (p : Option Path) :
    (sl.setSlot one p).loads = sl.loads := by cases one <;> rfl
@[simp] theorem Slice.setSlot_stores (sl : Slice) (one : Bool) (p : Option Path) :
    (sl.setSlot one p).stores = sl.stores := by cases one <;> rfl
@[simp] theorem Slice.setSlot_copies (sl : Slice) (one : Bool) (p : Option Path) :
    (sl.setSlot one p).copies = sl.copies := by cases one <;> rfl
@[simp] theorem Slice.setSlot_passes (sl : Slice) (one : Bool) (p : Option Path) :
    (sl.setSlot one p).passes = sl.passes := by cases one <;> rfl
@[simp] theorem Slice.setSlot_fences (sl : Slice) (one : Bool) (p : Option Path) :
    (sl.setSlot one p).fences = sl.fences := by cases one <;> rfl
@[simp] theorem Slice.setSlot_relIds (sl : Slice) (one : Bool) (p : Option Path) :
    (sl.setSlot one p).relIds = sl.relIds := by cases one <;> rfl
@[simp] theorem Slice.setSlot_acqIds (sl : Slice) (one : Bool) (p : Option Path) :
    (sl.setSlot one p).acqIds = sl.acqIds := by cases one <;> rfl
@[simp] theorem Slice.setSlot_due48 (sl : Slice) (one : Bool) (p : Option Path) :
    (sl.setSlot one p).due48 = sl.due48 := by cases one <;> rfl
@[simp] theorem Slice.setSlot_due53 (sl : Slice) (one : Bool) (p : Option Path) :
    (sl.setSlot one p).due53 = sl.due53 := by cases one <;> rfl
@[simp] theorem Slice.setSlot_wait0 (sl : Slice) (one : Bool) (p : Option Path) :
    (sl.setSlot one p).wait0 = sl.wait0 := by cases one <;> rfl
@[simp] theorem Slice.setSlot_wait1 (sl : Slice) (one : Bool) (p : Option Path) :
    (sl.setSlot one p).wait1 = sl.wait1 := by cases one <;> rfl
@[simp] theorem Slice.setSlot_sleep (sl : Slice) (one : Bool) (p : Option Path) :
    (sl.setSlot one p).sleep = sl.sleep := by cases one <;> rfl
@[simp] theorem Slice.setSlot_yieldEnd (sl : Slice) (one : Bool) (p : Option Path) :
    (sl.setSlot one p).yieldEnd = sl.yieldEnd := by cases one <;> rfl
@[simp] theorem Slice.setSlot_heldPop (sl : Slice) (one : Bool) (p : Option Path) :
    (sl.setSlot one p).heldPop = sl.heldPop := by cases one <;> rfl
@[simp] theorem Slice.setSlot_tlbi (sl : Slice) (one : Bool) (p : Option Path) :
    (sl.setSlot one p).tlbi = sl.tlbi := by cases one <;> rfl
@[simp] theorem Slice.setSlot_halt (sl : Slice) (one : Bool) (p : Option Path) :
    (sl.setSlot one p).halt = sl.halt := by cases one <;> rfl
@[simp] theorem Slice.setSlot_bpSkip (sl : Slice) (one : Bool) (p : Option Path) :
    (sl.setSlot one p).bpSkip = sl.bpSkip := by cases one <;> rfl
@[simp] theorem Slice.setSlot_stepped (sl : Slice) (one : Bool) (p : Option Path) :
    (sl.setSlot one p).stepped = sl.stepped := by cases one <;> rfl
@[simp] theorem Slice.setSlot_ended (sl : Slice) (one : Bool) (p : Option Path) :
    (sl.setSlot one p).ended = sl.ended := by cases one <;> rfl

/-! ### A slice: setHold -/

@[simp] theorem Slice.setHold_slot0 (sl : Slice) (one : Bool) (h : Option Hold) :
    (sl.setHold one h).slot0 = sl.slot0 := by cases one <;> rfl
@[simp] theorem Slice.setHold_slot1 (sl : Slice) (one : Bool) (h : Option Hold) :
    (sl.setHold one h).slot1 = sl.slot1 := by cases one <;> rfl
@[simp] theorem Slice.setHold_last1 (sl : Slice) (one : Bool) (h : Option Hold) :
    (sl.setHold one h).last1 = sl.last1 := by cases one <;> rfl
@[simp] theorem Slice.setHold_ageCtr (sl : Slice) (one : Bool) (h : Option Hold) :
    (sl.setHold one h).ageCtr = sl.ageCtr := by cases one <;> rfl
@[simp] theorem Slice.setHold_dstackN (sl : Slice) (one : Bool) (h : Option Hold) :
    (sl.setHold one h).dstackN = sl.dstackN := by cases one <;> rfl
@[simp] theorem Slice.setHold_cstackN (sl : Slice) (one : Bool) (h : Option Hold) :
    (sl.setHold one h).cstackN = sl.cstackN := by cases one <;> rfl
@[simp] theorem Slice.setHold_dages (sl : Slice) (one : Bool) (h : Option Hold) :
    (sl.setHold one h).dages = sl.dages := by cases one <;> rfl
@[simp] theorem Slice.setHold_vreg (sl : Slice) (one : Bool) (h : Option Hold) :
    (sl.setHold one h).vreg = sl.vreg := by cases one <;> rfl
@[simp] theorem Slice.setHold_pred (sl : Slice) (one : Bool) (h : Option Hold) :
    (sl.setHold one h).pred = sl.pred := by cases one <;> rfl
@[simp] theorem Slice.setHold_sreg (sl : Slice) (one : Bool) (h : Option Hold) :
    (sl.setHold one h).sreg = sl.sreg := by cases one <;> rfl
@[simp] theorem Slice.setHold_q12 (sl : Slice) (one : Bool) (h : Option Hold) :
    (sl.setHold one h).q12 = sl.q12 := by cases one <;> rfl
@[simp] theorem Slice.setHold_q13 (sl : Slice) (one : Bool) (h : Option Hold) :
    (sl.setHold one h).q13 = sl.q13 := by cases one <;> rfl
@[simp] theorem Slice.setHold_q14 (sl : Slice) (one : Bool) (h : Option Hold) :
    (sl.setHold one h).q14 = sl.q14 := by cases one <;> rfl
@[simp] theorem Slice.setHold_cause (sl : Slice) (one : Bool) (h : Option Hold) :
    (sl.setHold one h).cause = sl.cause := by cases one <;> rfl
@[simp] theorem Slice.setHold_aux0 (sl : Slice) (one : Bool) (h : Option Hold) :
    (sl.setHold one h).aux0 = sl.aux0 := by cases one <;> rfl
@[simp] theorem Slice.setHold_aux1 (sl : Slice) (one : Bool) (h : Option Hold) :
    (sl.setHold one h).aux1 = sl.aux1 := by cases one <;> rfl
@[simp] theorem Slice.setHold_epc (sl : Slice) (one : Bool) (h : Option Hold) :
    (sl.setHold one h).epc = sl.epc := by cases one <;> rfl
@[simp] theorem Slice.setHold_skid (sl : Slice) (one : Bool) (h : Option Hold) :
    (sl.setHold one h).skid = sl.skid := by cases one <;> rfl
@[simp] theorem Slice.setHold_fpc (sl : Slice) (one : Bool) (h : Option Hold) :
    (sl.setHold one h).fpc = sl.fpc := by cases one <;> rfl
@[simp] theorem Slice.setHold_estat (sl : Slice) (one : Bool) (h : Option Hold) :
    (sl.setHold one h).estat = sl.estat := by cases one <;> rfl
@[simp] theorem Slice.setHold_gbank (sl : Slice) (one : Bool) (h : Option Hold) :
    (sl.setHold one h).gbank = sl.gbank := by cases one <;> rfl
@[simp] theorem Slice.setHold_corr (sl : Slice) (one : Bool) (h : Option Hold) :
    (sl.setHold one h).corr = sl.corr := by cases one <;> rfl
@[simp] theorem Slice.setHold_evctl (sl : Slice) (one : Bool) (h : Option Hold) :
    (sl.setHold one h).evctl = sl.evctl := by cases one <;> rfl
@[simp] theorem Slice.setHold_evc (sl : Slice) (one : Bool) (h : Option Hold) :
    (sl.setHold one h).evc = sl.evc := by cases one <;> rfl
@[simp] theorem Slice.setHold_emask (sl : Slice) (one : Bool) (h : Option Hold) :
    (sl.setHold one h).emask = sl.emask := by cases one <;> rfl
@[simp] theorem Slice.setHold_hmode (sl : Slice) (one : Bool) (h : Option Hold) :
    (sl.setHold one h).hmode = sl.hmode := by cases one <;> rfl
@[simp] theorem Slice.setHold_hscr0 (sl : Slice) (one : Bool) (h : Option Hold) :
    (sl.setHold one h).hscr0 = sl.hscr0 := by cases one <;> rfl
@[simp] theorem Slice.setHold_hscr1 (sl : Slice) (one : Bool) (h : Option Hold) :
    (sl.setHold one h).hscr1 = sl.hscr1 := by cases one <;> rfl
@[simp] theorem Slice.setHold_lgeom (sl : Slice) (one : Bool) (h : Option Hold) :
    (sl.setHold one h).lgeom = sl.lgeom := by cases one <;> rfl
@[simp] theorem Slice.setHold_frozen (sl : Slice) (one : Bool) (h : Option Hold) :
    (sl.setHold one h).frozen = sl.frozen := by cases one <;> rfl
@[simp] theorem Slice.setHold_loads (sl : Slice) (one : Bool) (h : Option Hold) :
    (sl.setHold one h).loads = sl.loads := by cases one <;> rfl
@[simp] theorem Slice.setHold_stores (sl : Slice) (one : Bool) (h : Option Hold) :
    (sl.setHold one h).stores = sl.stores := by cases one <;> rfl
@[simp] theorem Slice.setHold_copies (sl : Slice) (one : Bool) (h : Option Hold) :
    (sl.setHold one h).copies = sl.copies := by cases one <;> rfl
@[simp] theorem Slice.setHold_passes (sl : Slice) (one : Bool) (h : Option Hold) :
    (sl.setHold one h).passes = sl.passes := by cases one <;> rfl
@[simp] theorem Slice.setHold_fences (sl : Slice) (one : Bool) (h : Option Hold) :
    (sl.setHold one h).fences = sl.fences := by cases one <;> rfl
@[simp] theorem Slice.setHold_relIds (sl : Slice) (one : Bool) (h : Option Hold) :
    (sl.setHold one h).relIds = sl.relIds := by cases one <;> rfl
@[simp] theorem Slice.setHold_acqIds (sl : Slice) (one : Bool) (h : Option Hold) :
    (sl.setHold one h).acqIds = sl.acqIds := by cases one <;> rfl
@[simp] theorem Slice.setHold_due48 (sl : Slice) (one : Bool) (h : Option Hold) :
    (sl.setHold one h).due48 = sl.due48 := by cases one <;> rfl
@[simp] theorem Slice.setHold_due53 (sl : Slice) (one : Bool) (h : Option Hold) :
    (sl.setHold one h).due53 = sl.due53 := by cases one <;> rfl
@[simp] theorem Slice.setHold_wait0 (sl : Slice) (one : Bool) (h : Option Hold) :
    (sl.setHold one h).wait0 = sl.wait0 := by cases one <;> rfl
@[simp] theorem Slice.setHold_wait1 (sl : Slice) (one : Bool) (h : Option Hold) :
    (sl.setHold one h).wait1 = sl.wait1 := by cases one <;> rfl
@[simp] theorem Slice.setHold_sleep (sl : Slice) (one : Bool) (h : Option Hold) :
    (sl.setHold one h).sleep = sl.sleep := by cases one <;> rfl
@[simp] theorem Slice.setHold_yieldEnd (sl : Slice) (one : Bool) (h : Option Hold) :
    (sl.setHold one h).yieldEnd = sl.yieldEnd := by cases one <;> rfl
@[simp] theorem Slice.setHold_heldPop (sl : Slice) (one : Bool) (h : Option Hold) :
    (sl.setHold one h).heldPop = sl.heldPop := by cases one <;> rfl
@[simp] theorem Slice.setHold_tlbi (sl : Slice) (one : Bool) (h : Option Hold) :
    (sl.setHold one h).tlbi = sl.tlbi := by cases one <;> rfl
@[simp] theorem Slice.setHold_halt (sl : Slice) (one : Bool) (h : Option Hold) :
    (sl.setHold one h).halt = sl.halt := by cases one <;> rfl
@[simp] theorem Slice.setHold_bpSkip (sl : Slice) (one : Bool) (h : Option Hold) :
    (sl.setHold one h).bpSkip = sl.bpSkip := by cases one <;> rfl
@[simp] theorem Slice.setHold_stepped (sl : Slice) (one : Bool) (h : Option Hold) :
    (sl.setHold one h).stepped = sl.stepped := by cases one <;> rfl
@[simp] theorem Slice.setHold_ended (sl : Slice) (one : Bool) (h : Option Hold) :
    (sl.setHold one h).ended = sl.ended := by cases one <;> rfl

/-! ### A slice: a vector register -/

@[simp] theorem Slice.setV_slot0 (sl : Slice) (n : Nat) (m : W32) (x : Lanes) :
    (sl.setV n m x).slot0 = sl.slot0 := rfl
@[simp] theorem Slice.setV_slot1 (sl : Slice) (n : Nat) (m : W32) (x : Lanes) :
    (sl.setV n m x).slot1 = sl.slot1 := rfl
@[simp] theorem Slice.setV_hold0 (sl : Slice) (n : Nat) (m : W32) (x : Lanes) :
    (sl.setV n m x).hold0 = sl.hold0 := rfl
@[simp] theorem Slice.setV_hold1 (sl : Slice) (n : Nat) (m : W32) (x : Lanes) :
    (sl.setV n m x).hold1 = sl.hold1 := rfl
@[simp] theorem Slice.setV_last1 (sl : Slice) (n : Nat) (m : W32) (x : Lanes) :
    (sl.setV n m x).last1 = sl.last1 := rfl
@[simp] theorem Slice.setV_ageCtr (sl : Slice) (n : Nat) (m : W32) (x : Lanes) :
    (sl.setV n m x).ageCtr = sl.ageCtr := rfl
@[simp] theorem Slice.setV_dstackN (sl : Slice) (n : Nat) (m : W32) (x : Lanes) :
    (sl.setV n m x).dstackN = sl.dstackN := rfl
@[simp] theorem Slice.setV_cstackN (sl : Slice) (n : Nat) (m : W32) (x : Lanes) :
    (sl.setV n m x).cstackN = sl.cstackN := rfl
@[simp] theorem Slice.setV_dages (sl : Slice) (n : Nat) (m : W32) (x : Lanes) :
    (sl.setV n m x).dages = sl.dages := rfl
@[simp] theorem Slice.setV_vreg (sl : Slice) (n : Nat) (m : W32) (x : Lanes) :
    (sl.setV n m x).vreg = sl.vreg.set n (merge m x (sl.v n)) := rfl
@[simp] theorem Slice.setV_pred (sl : Slice) (n : Nat) (m : W32) (x : Lanes) :
    (sl.setV n m x).pred = sl.pred := rfl
@[simp] theorem Slice.setV_sreg (sl : Slice) (n : Nat) (m : W32) (x : Lanes) :
    (sl.setV n m x).sreg = sl.sreg := rfl
@[simp] theorem Slice.setV_q12 (sl : Slice) (n : Nat) (m : W32) (x : Lanes) :
    (sl.setV n m x).q12 = sl.q12 := rfl
@[simp] theorem Slice.setV_q13 (sl : Slice) (n : Nat) (m : W32) (x : Lanes) :
    (sl.setV n m x).q13 = sl.q13 := rfl
@[simp] theorem Slice.setV_q14 (sl : Slice) (n : Nat) (m : W32) (x : Lanes) :
    (sl.setV n m x).q14 = sl.q14 := rfl
@[simp] theorem Slice.setV_cause (sl : Slice) (n : Nat) (m : W32) (x : Lanes) :
    (sl.setV n m x).cause = sl.cause := rfl
@[simp] theorem Slice.setV_aux0 (sl : Slice) (n : Nat) (m : W32) (x : Lanes) :
    (sl.setV n m x).aux0 = sl.aux0 := rfl
@[simp] theorem Slice.setV_aux1 (sl : Slice) (n : Nat) (m : W32) (x : Lanes) :
    (sl.setV n m x).aux1 = sl.aux1 := rfl
@[simp] theorem Slice.setV_epc (sl : Slice) (n : Nat) (m : W32) (x : Lanes) :
    (sl.setV n m x).epc = sl.epc := rfl
@[simp] theorem Slice.setV_skid (sl : Slice) (n : Nat) (m : W32) (x : Lanes) :
    (sl.setV n m x).skid = sl.skid := rfl
@[simp] theorem Slice.setV_fpc (sl : Slice) (n : Nat) (m : W32) (x : Lanes) :
    (sl.setV n m x).fpc = sl.fpc := rfl
@[simp] theorem Slice.setV_estat (sl : Slice) (n : Nat) (m : W32) (x : Lanes) :
    (sl.setV n m x).estat = sl.estat := rfl
@[simp] theorem Slice.setV_gbank (sl : Slice) (n : Nat) (m : W32) (x : Lanes) :
    (sl.setV n m x).gbank = sl.gbank := rfl
@[simp] theorem Slice.setV_corr (sl : Slice) (n : Nat) (m : W32) (x : Lanes) :
    (sl.setV n m x).corr = sl.corr := rfl
@[simp] theorem Slice.setV_evctl (sl : Slice) (n : Nat) (m : W32) (x : Lanes) :
    (sl.setV n m x).evctl = sl.evctl := rfl
@[simp] theorem Slice.setV_evc (sl : Slice) (n : Nat) (m : W32) (x : Lanes) :
    (sl.setV n m x).evc = sl.evc := rfl
@[simp] theorem Slice.setV_emask (sl : Slice) (n : Nat) (m : W32) (x : Lanes) :
    (sl.setV n m x).emask = sl.emask := rfl
@[simp] theorem Slice.setV_hmode (sl : Slice) (n : Nat) (m : W32) (x : Lanes) :
    (sl.setV n m x).hmode = sl.hmode := rfl
@[simp] theorem Slice.setV_hscr0 (sl : Slice) (n : Nat) (m : W32) (x : Lanes) :
    (sl.setV n m x).hscr0 = sl.hscr0 := rfl
@[simp] theorem Slice.setV_hscr1 (sl : Slice) (n : Nat) (m : W32) (x : Lanes) :
    (sl.setV n m x).hscr1 = sl.hscr1 := rfl
@[simp] theorem Slice.setV_lgeom (sl : Slice) (n : Nat) (m : W32) (x : Lanes) :
    (sl.setV n m x).lgeom = sl.lgeom := rfl
@[simp] theorem Slice.setV_frozen (sl : Slice) (n : Nat) (m : W32) (x : Lanes) :
    (sl.setV n m x).frozen = sl.frozen := rfl
@[simp] theorem Slice.setV_loads (sl : Slice) (n : Nat) (m : W32) (x : Lanes) :
    (sl.setV n m x).loads = sl.loads := rfl
@[simp] theorem Slice.setV_stores (sl : Slice) (n : Nat) (m : W32) (x : Lanes) :
    (sl.setV n m x).stores = sl.stores := rfl
@[simp] theorem Slice.setV_copies (sl : Slice) (n : Nat) (m : W32) (x : Lanes) :
    (sl.setV n m x).copies = sl.copies := rfl
@[simp] theorem Slice.setV_passes (sl : Slice) (n : Nat) (m : W32) (x : Lanes) :
    (sl.setV n m x).passes = sl.passes := rfl
@[simp] theorem Slice.setV_fences (sl : Slice) (n : Nat) (m : W32) (x : Lanes) :
    (sl.setV n m x).fences = sl.fences := rfl
@[simp] theorem Slice.setV_relIds (sl : Slice) (n : Nat) (m : W32) (x : Lanes) :
    (sl.setV n m x).relIds = sl.relIds := rfl
@[simp] theorem Slice.setV_acqIds (sl : Slice) (n : Nat) (m : W32) (x : Lanes) :
    (sl.setV n m x).acqIds = sl.acqIds := rfl
@[simp] theorem Slice.setV_due48 (sl : Slice) (n : Nat) (m : W32) (x : Lanes) :
    (sl.setV n m x).due48 = sl.due48 := rfl
@[simp] theorem Slice.setV_due53 (sl : Slice) (n : Nat) (m : W32) (x : Lanes) :
    (sl.setV n m x).due53 = sl.due53 := rfl
@[simp] theorem Slice.setV_wait0 (sl : Slice) (n : Nat) (m : W32) (x : Lanes) :
    (sl.setV n m x).wait0 = sl.wait0 := rfl
@[simp] theorem Slice.setV_wait1 (sl : Slice) (n : Nat) (m : W32) (x : Lanes) :
    (sl.setV n m x).wait1 = sl.wait1 := rfl
@[simp] theorem Slice.setV_sleep (sl : Slice) (n : Nat) (m : W32) (x : Lanes) :
    (sl.setV n m x).sleep = sl.sleep := rfl
@[simp] theorem Slice.setV_yieldEnd (sl : Slice) (n : Nat) (m : W32) (x : Lanes) :
    (sl.setV n m x).yieldEnd = sl.yieldEnd := rfl
@[simp] theorem Slice.setV_heldPop (sl : Slice) (n : Nat) (m : W32) (x : Lanes) :
    (sl.setV n m x).heldPop = sl.heldPop := rfl
@[simp] theorem Slice.setV_tlbi (sl : Slice) (n : Nat) (m : W32) (x : Lanes) :
    (sl.setV n m x).tlbi = sl.tlbi := rfl
@[simp] theorem Slice.setV_halt (sl : Slice) (n : Nat) (m : W32) (x : Lanes) :
    (sl.setV n m x).halt = sl.halt := rfl
@[simp] theorem Slice.setV_bpSkip (sl : Slice) (n : Nat) (m : W32) (x : Lanes) :
    (sl.setV n m x).bpSkip = sl.bpSkip := rfl
@[simp] theorem Slice.setV_stepped (sl : Slice) (n : Nat) (m : W32) (x : Lanes) :
    (sl.setV n m x).stepped = sl.stepped := rfl
@[simp] theorem Slice.setV_ended (sl : Slice) (n : Nat) (m : W32) (x : Lanes) :
    (sl.setV n m x).ended = sl.ended := rfl

/-! ### A slice: a scalar register -/

@[simp] theorem Slice.setS_slot0 (sl : Slice) (n : Nat) (x : W64) :
    (sl.setS n x).slot0 = sl.slot0 := rfl
@[simp] theorem Slice.setS_slot1 (sl : Slice) (n : Nat) (x : W64) :
    (sl.setS n x).slot1 = sl.slot1 := rfl
@[simp] theorem Slice.setS_hold0 (sl : Slice) (n : Nat) (x : W64) :
    (sl.setS n x).hold0 = sl.hold0 := rfl
@[simp] theorem Slice.setS_hold1 (sl : Slice) (n : Nat) (x : W64) :
    (sl.setS n x).hold1 = sl.hold1 := rfl
@[simp] theorem Slice.setS_last1 (sl : Slice) (n : Nat) (x : W64) :
    (sl.setS n x).last1 = sl.last1 := rfl
@[simp] theorem Slice.setS_ageCtr (sl : Slice) (n : Nat) (x : W64) :
    (sl.setS n x).ageCtr = sl.ageCtr := rfl
@[simp] theorem Slice.setS_dstackN (sl : Slice) (n : Nat) (x : W64) :
    (sl.setS n x).dstackN = sl.dstackN := rfl
@[simp] theorem Slice.setS_cstackN (sl : Slice) (n : Nat) (x : W64) :
    (sl.setS n x).cstackN = sl.cstackN := rfl
@[simp] theorem Slice.setS_dages (sl : Slice) (n : Nat) (x : W64) :
    (sl.setS n x).dages = sl.dages := rfl
@[simp] theorem Slice.setS_vreg (sl : Slice) (n : Nat) (x : W64) :
    (sl.setS n x).vreg = sl.vreg := rfl
@[simp] theorem Slice.setS_pred (sl : Slice) (n : Nat) (x : W64) :
    (sl.setS n x).pred = sl.pred := rfl
@[simp] theorem Slice.setS_sreg (sl : Slice) (n : Nat) (x : W64) :
    (sl.setS n x).sreg = sl.sreg.setIfInBounds n x := rfl
@[simp] theorem Slice.setS_q12 (sl : Slice) (n : Nat) (x : W64) :
    (sl.setS n x).q12 = sl.q12 := rfl
@[simp] theorem Slice.setS_q13 (sl : Slice) (n : Nat) (x : W64) :
    (sl.setS n x).q13 = sl.q13 := rfl
@[simp] theorem Slice.setS_q14 (sl : Slice) (n : Nat) (x : W64) :
    (sl.setS n x).q14 = sl.q14 := rfl
@[simp] theorem Slice.setS_cause (sl : Slice) (n : Nat) (x : W64) :
    (sl.setS n x).cause = sl.cause := rfl
@[simp] theorem Slice.setS_aux0 (sl : Slice) (n : Nat) (x : W64) :
    (sl.setS n x).aux0 = sl.aux0 := rfl
@[simp] theorem Slice.setS_aux1 (sl : Slice) (n : Nat) (x : W64) :
    (sl.setS n x).aux1 = sl.aux1 := rfl
@[simp] theorem Slice.setS_epc (sl : Slice) (n : Nat) (x : W64) :
    (sl.setS n x).epc = sl.epc := rfl
@[simp] theorem Slice.setS_skid (sl : Slice) (n : Nat) (x : W64) :
    (sl.setS n x).skid = sl.skid := rfl
@[simp] theorem Slice.setS_fpc (sl : Slice) (n : Nat) (x : W64) :
    (sl.setS n x).fpc = sl.fpc := rfl
@[simp] theorem Slice.setS_estat (sl : Slice) (n : Nat) (x : W64) :
    (sl.setS n x).estat = sl.estat := rfl
@[simp] theorem Slice.setS_gbank (sl : Slice) (n : Nat) (x : W64) :
    (sl.setS n x).gbank = sl.gbank := rfl
@[simp] theorem Slice.setS_corr (sl : Slice) (n : Nat) (x : W64) :
    (sl.setS n x).corr = sl.corr := rfl
@[simp] theorem Slice.setS_evctl (sl : Slice) (n : Nat) (x : W64) :
    (sl.setS n x).evctl = sl.evctl := rfl
@[simp] theorem Slice.setS_evc (sl : Slice) (n : Nat) (x : W64) :
    (sl.setS n x).evc = sl.evc := rfl
@[simp] theorem Slice.setS_emask (sl : Slice) (n : Nat) (x : W64) :
    (sl.setS n x).emask = sl.emask := rfl
@[simp] theorem Slice.setS_hmode (sl : Slice) (n : Nat) (x : W64) :
    (sl.setS n x).hmode = sl.hmode := rfl
@[simp] theorem Slice.setS_hscr0 (sl : Slice) (n : Nat) (x : W64) :
    (sl.setS n x).hscr0 = sl.hscr0 := rfl
@[simp] theorem Slice.setS_hscr1 (sl : Slice) (n : Nat) (x : W64) :
    (sl.setS n x).hscr1 = sl.hscr1 := rfl
@[simp] theorem Slice.setS_lgeom (sl : Slice) (n : Nat) (x : W64) :
    (sl.setS n x).lgeom = sl.lgeom := rfl
@[simp] theorem Slice.setS_frozen (sl : Slice) (n : Nat) (x : W64) :
    (sl.setS n x).frozen = sl.frozen := rfl
@[simp] theorem Slice.setS_loads (sl : Slice) (n : Nat) (x : W64) :
    (sl.setS n x).loads = sl.loads := rfl
@[simp] theorem Slice.setS_stores (sl : Slice) (n : Nat) (x : W64) :
    (sl.setS n x).stores = sl.stores := rfl
@[simp] theorem Slice.setS_copies (sl : Slice) (n : Nat) (x : W64) :
    (sl.setS n x).copies = sl.copies := rfl
@[simp] theorem Slice.setS_passes (sl : Slice) (n : Nat) (x : W64) :
    (sl.setS n x).passes = sl.passes := rfl
@[simp] theorem Slice.setS_fences (sl : Slice) (n : Nat) (x : W64) :
    (sl.setS n x).fences = sl.fences := rfl
@[simp] theorem Slice.setS_relIds (sl : Slice) (n : Nat) (x : W64) :
    (sl.setS n x).relIds = sl.relIds := rfl
@[simp] theorem Slice.setS_acqIds (sl : Slice) (n : Nat) (x : W64) :
    (sl.setS n x).acqIds = sl.acqIds := rfl
@[simp] theorem Slice.setS_due48 (sl : Slice) (n : Nat) (x : W64) :
    (sl.setS n x).due48 = sl.due48 := rfl
@[simp] theorem Slice.setS_due53 (sl : Slice) (n : Nat) (x : W64) :
    (sl.setS n x).due53 = sl.due53 := rfl
@[simp] theorem Slice.setS_wait0 (sl : Slice) (n : Nat) (x : W64) :
    (sl.setS n x).wait0 = sl.wait0 := rfl
@[simp] theorem Slice.setS_wait1 (sl : Slice) (n : Nat) (x : W64) :
    (sl.setS n x).wait1 = sl.wait1 := rfl
@[simp] theorem Slice.setS_sleep (sl : Slice) (n : Nat) (x : W64) :
    (sl.setS n x).sleep = sl.sleep := rfl
@[simp] theorem Slice.setS_yieldEnd (sl : Slice) (n : Nat) (x : W64) :
    (sl.setS n x).yieldEnd = sl.yieldEnd := rfl
@[simp] theorem Slice.setS_heldPop (sl : Slice) (n : Nat) (x : W64) :
    (sl.setS n x).heldPop = sl.heldPop := rfl
@[simp] theorem Slice.setS_tlbi (sl : Slice) (n : Nat) (x : W64) :
    (sl.setS n x).tlbi = sl.tlbi := rfl
@[simp] theorem Slice.setS_halt (sl : Slice) (n : Nat) (x : W64) :
    (sl.setS n x).halt = sl.halt := rfl
@[simp] theorem Slice.setS_bpSkip (sl : Slice) (n : Nat) (x : W64) :
    (sl.setS n x).bpSkip = sl.bpSkip := rfl
@[simp] theorem Slice.setS_stepped (sl : Slice) (n : Nat) (x : W64) :
    (sl.setS n x).stepped = sl.stepped := rfl
@[simp] theorem Slice.setS_ended (sl : Slice) (n : Nat) (x : W64) :
    (sl.setS n x).ended = sl.ended := rfl

/-! ### A slice: a predicate register -/

@[simp] theorem Slice.setP_slot0 (sl : Slice) (n : Nat) (m x : W32) :
    (sl.setP n m x).slot0 = sl.slot0 := rfl
@[simp] theorem Slice.setP_slot1 (sl : Slice) (n : Nat) (m x : W32) :
    (sl.setP n m x).slot1 = sl.slot1 := rfl
@[simp] theorem Slice.setP_hold0 (sl : Slice) (n : Nat) (m x : W32) :
    (sl.setP n m x).hold0 = sl.hold0 := rfl
@[simp] theorem Slice.setP_hold1 (sl : Slice) (n : Nat) (m x : W32) :
    (sl.setP n m x).hold1 = sl.hold1 := rfl
@[simp] theorem Slice.setP_last1 (sl : Slice) (n : Nat) (m x : W32) :
    (sl.setP n m x).last1 = sl.last1 := rfl
@[simp] theorem Slice.setP_ageCtr (sl : Slice) (n : Nat) (m x : W32) :
    (sl.setP n m x).ageCtr = sl.ageCtr := rfl
@[simp] theorem Slice.setP_dstackN (sl : Slice) (n : Nat) (m x : W32) :
    (sl.setP n m x).dstackN = sl.dstackN := rfl
@[simp] theorem Slice.setP_cstackN (sl : Slice) (n : Nat) (m x : W32) :
    (sl.setP n m x).cstackN = sl.cstackN := rfl
@[simp] theorem Slice.setP_dages (sl : Slice) (n : Nat) (m x : W32) :
    (sl.setP n m x).dages = sl.dages := rfl
@[simp] theorem Slice.setP_vreg (sl : Slice) (n : Nat) (m x : W32) :
    (sl.setP n m x).vreg = sl.vreg := rfl
@[simp] theorem Slice.setP_pred (sl : Slice) (n : Nat) (m x : W32) :
    (sl.setP n m x).pred = sl.pred.setIfInBounds n ((x &&& m) ||| (sl.p n &&& ~~~m)) := rfl
@[simp] theorem Slice.setP_sreg (sl : Slice) (n : Nat) (m x : W32) :
    (sl.setP n m x).sreg = sl.sreg := rfl
@[simp] theorem Slice.setP_q12 (sl : Slice) (n : Nat) (m x : W32) :
    (sl.setP n m x).q12 = sl.q12 := rfl
@[simp] theorem Slice.setP_q13 (sl : Slice) (n : Nat) (m x : W32) :
    (sl.setP n m x).q13 = sl.q13 := rfl
@[simp] theorem Slice.setP_q14 (sl : Slice) (n : Nat) (m x : W32) :
    (sl.setP n m x).q14 = sl.q14 := rfl
@[simp] theorem Slice.setP_cause (sl : Slice) (n : Nat) (m x : W32) :
    (sl.setP n m x).cause = sl.cause := rfl
@[simp] theorem Slice.setP_aux0 (sl : Slice) (n : Nat) (m x : W32) :
    (sl.setP n m x).aux0 = sl.aux0 := rfl
@[simp] theorem Slice.setP_aux1 (sl : Slice) (n : Nat) (m x : W32) :
    (sl.setP n m x).aux1 = sl.aux1 := rfl
@[simp] theorem Slice.setP_epc (sl : Slice) (n : Nat) (m x : W32) :
    (sl.setP n m x).epc = sl.epc := rfl
@[simp] theorem Slice.setP_skid (sl : Slice) (n : Nat) (m x : W32) :
    (sl.setP n m x).skid = sl.skid := rfl
@[simp] theorem Slice.setP_fpc (sl : Slice) (n : Nat) (m x : W32) :
    (sl.setP n m x).fpc = sl.fpc := rfl
@[simp] theorem Slice.setP_estat (sl : Slice) (n : Nat) (m x : W32) :
    (sl.setP n m x).estat = sl.estat := rfl
@[simp] theorem Slice.setP_gbank (sl : Slice) (n : Nat) (m x : W32) :
    (sl.setP n m x).gbank = sl.gbank := rfl
@[simp] theorem Slice.setP_corr (sl : Slice) (n : Nat) (m x : W32) :
    (sl.setP n m x).corr = sl.corr := rfl
@[simp] theorem Slice.setP_evctl (sl : Slice) (n : Nat) (m x : W32) :
    (sl.setP n m x).evctl = sl.evctl := rfl
@[simp] theorem Slice.setP_evc (sl : Slice) (n : Nat) (m x : W32) :
    (sl.setP n m x).evc = sl.evc := rfl
@[simp] theorem Slice.setP_emask (sl : Slice) (n : Nat) (m x : W32) :
    (sl.setP n m x).emask = sl.emask := rfl
@[simp] theorem Slice.setP_hmode (sl : Slice) (n : Nat) (m x : W32) :
    (sl.setP n m x).hmode = sl.hmode := rfl
@[simp] theorem Slice.setP_hscr0 (sl : Slice) (n : Nat) (m x : W32) :
    (sl.setP n m x).hscr0 = sl.hscr0 := rfl
@[simp] theorem Slice.setP_hscr1 (sl : Slice) (n : Nat) (m x : W32) :
    (sl.setP n m x).hscr1 = sl.hscr1 := rfl
@[simp] theorem Slice.setP_lgeom (sl : Slice) (n : Nat) (m x : W32) :
    (sl.setP n m x).lgeom = sl.lgeom := rfl
@[simp] theorem Slice.setP_frozen (sl : Slice) (n : Nat) (m x : W32) :
    (sl.setP n m x).frozen = sl.frozen := rfl
@[simp] theorem Slice.setP_loads (sl : Slice) (n : Nat) (m x : W32) :
    (sl.setP n m x).loads = sl.loads := rfl
@[simp] theorem Slice.setP_stores (sl : Slice) (n : Nat) (m x : W32) :
    (sl.setP n m x).stores = sl.stores := rfl
@[simp] theorem Slice.setP_copies (sl : Slice) (n : Nat) (m x : W32) :
    (sl.setP n m x).copies = sl.copies := rfl
@[simp] theorem Slice.setP_passes (sl : Slice) (n : Nat) (m x : W32) :
    (sl.setP n m x).passes = sl.passes := rfl
@[simp] theorem Slice.setP_fences (sl : Slice) (n : Nat) (m x : W32) :
    (sl.setP n m x).fences = sl.fences := rfl
@[simp] theorem Slice.setP_relIds (sl : Slice) (n : Nat) (m x : W32) :
    (sl.setP n m x).relIds = sl.relIds := rfl
@[simp] theorem Slice.setP_acqIds (sl : Slice) (n : Nat) (m x : W32) :
    (sl.setP n m x).acqIds = sl.acqIds := rfl
@[simp] theorem Slice.setP_due48 (sl : Slice) (n : Nat) (m x : W32) :
    (sl.setP n m x).due48 = sl.due48 := rfl
@[simp] theorem Slice.setP_due53 (sl : Slice) (n : Nat) (m x : W32) :
    (sl.setP n m x).due53 = sl.due53 := rfl
@[simp] theorem Slice.setP_wait0 (sl : Slice) (n : Nat) (m x : W32) :
    (sl.setP n m x).wait0 = sl.wait0 := rfl
@[simp] theorem Slice.setP_wait1 (sl : Slice) (n : Nat) (m x : W32) :
    (sl.setP n m x).wait1 = sl.wait1 := rfl
@[simp] theorem Slice.setP_sleep (sl : Slice) (n : Nat) (m x : W32) :
    (sl.setP n m x).sleep = sl.sleep := rfl
@[simp] theorem Slice.setP_yieldEnd (sl : Slice) (n : Nat) (m x : W32) :
    (sl.setP n m x).yieldEnd = sl.yieldEnd := rfl
@[simp] theorem Slice.setP_heldPop (sl : Slice) (n : Nat) (m x : W32) :
    (sl.setP n m x).heldPop = sl.heldPop := rfl
@[simp] theorem Slice.setP_tlbi (sl : Slice) (n : Nat) (m x : W32) :
    (sl.setP n m x).tlbi = sl.tlbi := rfl
@[simp] theorem Slice.setP_halt (sl : Slice) (n : Nat) (m x : W32) :
    (sl.setP n m x).halt = sl.halt := rfl
@[simp] theorem Slice.setP_bpSkip (sl : Slice) (n : Nat) (m x : W32) :
    (sl.setP n m x).bpSkip = sl.bpSkip := rfl
@[simp] theorem Slice.setP_stepped (sl : Slice) (n : Nat) (m x : W32) :
    (sl.setP n m x).stepped = sl.stepped := rfl
@[simp] theorem Slice.setP_ended (sl : Slice) (n : Nat) (m x : W32) :
    (sl.setP n m x).ended = sl.ended := rfl

/-! ### A slice: the cause registers -/

@[simp] theorem Slice.writeCause_slot0 (sl : Slice) (t : TrapInfo) :
    (sl.writeCause t).slot0 = sl.slot0 := rfl
@[simp] theorem Slice.writeCause_slot1 (sl : Slice) (t : TrapInfo) :
    (sl.writeCause t).slot1 = sl.slot1 := rfl
@[simp] theorem Slice.writeCause_hold0 (sl : Slice) (t : TrapInfo) :
    (sl.writeCause t).hold0 = sl.hold0 := rfl
@[simp] theorem Slice.writeCause_hold1 (sl : Slice) (t : TrapInfo) :
    (sl.writeCause t).hold1 = sl.hold1 := rfl
@[simp] theorem Slice.writeCause_last1 (sl : Slice) (t : TrapInfo) :
    (sl.writeCause t).last1 = sl.last1 := rfl
@[simp] theorem Slice.writeCause_ageCtr (sl : Slice) (t : TrapInfo) :
    (sl.writeCause t).ageCtr = sl.ageCtr := rfl
@[simp] theorem Slice.writeCause_dstackN (sl : Slice) (t : TrapInfo) :
    (sl.writeCause t).dstackN = sl.dstackN := rfl
@[simp] theorem Slice.writeCause_cstackN (sl : Slice) (t : TrapInfo) :
    (sl.writeCause t).cstackN = sl.cstackN := rfl
@[simp] theorem Slice.writeCause_dages (sl : Slice) (t : TrapInfo) :
    (sl.writeCause t).dages = sl.dages := rfl
@[simp] theorem Slice.writeCause_vreg (sl : Slice) (t : TrapInfo) :
    (sl.writeCause t).vreg = sl.vreg := rfl
@[simp] theorem Slice.writeCause_pred (sl : Slice) (t : TrapInfo) :
    (sl.writeCause t).pred = sl.pred := rfl
@[simp] theorem Slice.writeCause_sreg (sl : Slice) (t : TrapInfo) :
    (sl.writeCause t).sreg = sl.sreg := rfl
@[simp] theorem Slice.writeCause_q12 (sl : Slice) (t : TrapInfo) :
    (sl.writeCause t).q12 = sl.q12 := rfl
@[simp] theorem Slice.writeCause_q13 (sl : Slice) (t : TrapInfo) :
    (sl.writeCause t).q13 = sl.q13 := rfl
@[simp] theorem Slice.writeCause_q14 (sl : Slice) (t : TrapInfo) :
    (sl.writeCause t).q14 = sl.q14 := rfl
@[simp] theorem Slice.writeCause_cause (sl : Slice) (t : TrapInfo) :
    (sl.writeCause t).cause = t.cause := rfl
@[simp] theorem Slice.writeCause_aux0 (sl : Slice) (t : TrapInfo) :
    (sl.writeCause t).aux0 = t.aux0 := rfl
@[simp] theorem Slice.writeCause_aux1 (sl : Slice) (t : TrapInfo) :
    (sl.writeCause t).aux1 = t.aux1 := rfl
@[simp] theorem Slice.writeCause_epc (sl : Slice) (t : TrapInfo) :
    (sl.writeCause t).epc = t.epc := rfl
@[simp] theorem Slice.writeCause_skid (sl : Slice) (t : TrapInfo) :
    (sl.writeCause t).skid = sl.skid := rfl
@[simp] theorem Slice.writeCause_fpc (sl : Slice) (t : TrapInfo) :
    (sl.writeCause t).fpc = t.fpc.getD sl.fpc := rfl
@[simp] theorem Slice.writeCause_estat (sl : Slice) (t : TrapInfo) :
    (sl.writeCause t).estat = sl.estat := rfl
@[simp] theorem Slice.writeCause_gbank (sl : Slice) (t : TrapInfo) :
    (sl.writeCause t).gbank = sl.gbank := rfl
@[simp] theorem Slice.writeCause_corr (sl : Slice) (t : TrapInfo) :
    (sl.writeCause t).corr = sl.corr := rfl
@[simp] theorem Slice.writeCause_evctl (sl : Slice) (t : TrapInfo) :
    (sl.writeCause t).evctl = sl.evctl := rfl
@[simp] theorem Slice.writeCause_evc (sl : Slice) (t : TrapInfo) :
    (sl.writeCause t).evc = sl.evc := rfl
@[simp] theorem Slice.writeCause_emask (sl : Slice) (t : TrapInfo) :
    (sl.writeCause t).emask = sl.emask := rfl
@[simp] theorem Slice.writeCause_hmode (sl : Slice) (t : TrapInfo) :
    (sl.writeCause t).hmode = sl.hmode := rfl
@[simp] theorem Slice.writeCause_hscr0 (sl : Slice) (t : TrapInfo) :
    (sl.writeCause t).hscr0 = sl.hscr0 := rfl
@[simp] theorem Slice.writeCause_hscr1 (sl : Slice) (t : TrapInfo) :
    (sl.writeCause t).hscr1 = sl.hscr1 := rfl
@[simp] theorem Slice.writeCause_lgeom (sl : Slice) (t : TrapInfo) :
    (sl.writeCause t).lgeom = sl.lgeom := rfl
@[simp] theorem Slice.writeCause_frozen (sl : Slice) (t : TrapInfo) :
    (sl.writeCause t).frozen = sl.frozen := rfl
@[simp] theorem Slice.writeCause_loads (sl : Slice) (t : TrapInfo) :
    (sl.writeCause t).loads = sl.loads := rfl
@[simp] theorem Slice.writeCause_stores (sl : Slice) (t : TrapInfo) :
    (sl.writeCause t).stores = sl.stores := rfl
@[simp] theorem Slice.writeCause_copies (sl : Slice) (t : TrapInfo) :
    (sl.writeCause t).copies = sl.copies := rfl
@[simp] theorem Slice.writeCause_passes (sl : Slice) (t : TrapInfo) :
    (sl.writeCause t).passes = sl.passes := rfl
@[simp] theorem Slice.writeCause_fences (sl : Slice) (t : TrapInfo) :
    (sl.writeCause t).fences = sl.fences := rfl
@[simp] theorem Slice.writeCause_relIds (sl : Slice) (t : TrapInfo) :
    (sl.writeCause t).relIds = sl.relIds := rfl
@[simp] theorem Slice.writeCause_acqIds (sl : Slice) (t : TrapInfo) :
    (sl.writeCause t).acqIds = sl.acqIds := rfl
@[simp] theorem Slice.writeCause_due48 (sl : Slice) (t : TrapInfo) :
    (sl.writeCause t).due48 = sl.due48 := rfl
@[simp] theorem Slice.writeCause_due53 (sl : Slice) (t : TrapInfo) :
    (sl.writeCause t).due53 = sl.due53 := rfl
@[simp] theorem Slice.writeCause_wait0 (sl : Slice) (t : TrapInfo) :
    (sl.writeCause t).wait0 = sl.wait0 := rfl
@[simp] theorem Slice.writeCause_wait1 (sl : Slice) (t : TrapInfo) :
    (sl.writeCause t).wait1 = sl.wait1 := rfl
@[simp] theorem Slice.writeCause_sleep (sl : Slice) (t : TrapInfo) :
    (sl.writeCause t).sleep = sl.sleep := rfl
@[simp] theorem Slice.writeCause_yieldEnd (sl : Slice) (t : TrapInfo) :
    (sl.writeCause t).yieldEnd = sl.yieldEnd := rfl
@[simp] theorem Slice.writeCause_heldPop (sl : Slice) (t : TrapInfo) :
    (sl.writeCause t).heldPop = sl.heldPop := rfl
@[simp] theorem Slice.writeCause_tlbi (sl : Slice) (t : TrapInfo) :
    (sl.writeCause t).tlbi = sl.tlbi := rfl
@[simp] theorem Slice.writeCause_halt (sl : Slice) (t : TrapInfo) :
    (sl.writeCause t).halt = sl.halt := rfl
@[simp] theorem Slice.writeCause_bpSkip (sl : Slice) (t : TrapInfo) :
    (sl.writeCause t).bpSkip = sl.bpSkip := rfl
@[simp] theorem Slice.writeCause_stepped (sl : Slice) (t : TrapInfo) :
    (sl.writeCause t).stepped = sl.stepped := rfl
@[simp] theorem Slice.writeCause_ended (sl : Slice) (t : TrapInfo) :
    (sl.writeCause t).ended = sl.ended := rfl

end Sys2Proof.Machine
end

