-- ==== Sys2Proof/Laws/Lookup.lean ====
section
/-!
SUPPORT. What stands where after an update: groups, slices and workgroups found by their id, cores, clusters and dies by their
number, slots of a slice.
-/
namespace Sys2Proof.Laws
open Sys2Proof.Machine

/-- Changing the members of a list that have a key, without changing the key, changes what is found under that key alone. -/
theorem find_map_key {α : Type} (l : List α) (key : α → Nat) (k j : Nat) (f : α → α) (hf : ∀ x, key x = k → key (f x) = k) :
    (l.map (fun x => if key x = k then f x else x)).find? (fun x => key x == j) =
      (l.find? (fun x => key x == j)).map (fun x => if j = k then f x else x) := by
  induction l with
  | nil => rfl
  | cons x l ih =>
    by_cases hx : key x = k
    · by_cases hj : k = j
      · subst hj; simp [hx, hf x hx]
      · have : j ≠ k := fun h => hj h.symm
        simp [hx, hf x hx, hj, ih]
    · by_cases hj : key x = j
      · have : j ≠ k := fun h => hx (hj.trans h)
        simp [hx, hj, this]
      · simp [hx, hj, ih]

/-! ### Groups and slices -/

theorem Group.modSlice_id (g : Group) (a : Bool) (f : Slice → Slice) : (g.modSlice a f).id = g.id := by
  cases a <;> rfl

theorem Group.slice?_modSlice (g : Group) (a b : Bool) (f : Slice → Slice) :
    (g.modSlice a f).slice? b = if a = b then (g.slice? b).map f else g.slice? b := by
  cases a <;> cases b <;> rfl

/-- A group found after a change of one group that keeps its id. -/
theorem State.group?_modGroup (s : State) (n m : Nat) (f : Group → Group) (hf : ∀ g, g.id = n → (f g).id = n) :
    (s.modGroup n f).group? m = (s.group? m).map (fun g => if m = n then f g else g) :=
  find_map_key s.groups (fun g => g.id) n m f hf

theorem State.group?_modSlice (s : State) (n m : Nat) (a : Bool) (f : Slice → Slice) :
    (s.modSlice n a f).group? m = (s.group? m).map (fun g => if m = n then g.modSlice a f else g) :=
  State.group?_modGroup s n m _ (fun g h => (Group.modSlice_id g a f).trans h)

/-- The slice that was changed. -/
@[simp] theorem State.slice?_modSlice_same (s : State) (n : Nat) (a : Bool) (f : Slice → Slice) :
    (s.modSlice n a f).slice? n a = (s.slice? n a).map f := by
  unfold State.slice?
  rw [State.group?_modSlice]
  cases s.group? n with
  | none => rfl
  | some g => simp [Group.slice?_modSlice]

/-- Every other slice is as before. -/
theorem State.slice?_modSlice_other (s : State) (n m : Nat) (a b : Bool) (f : Slice → Slice) (h : ¬(m = n ∧ b = a)) :
    (s.modSlice n a f).slice? m b = s.slice? m b := by
  unfold State.slice?
  rw [State.group?_modSlice]
  cases s.group? m with
  | none => rfl
  | some g =>
    by_cases hm : m = n
    · have : a ≠ b := fun e => h ⟨hm, e.symm⟩
      simp [hm, Group.slice?_modSlice, this]
    · simp [hm]

/-- A slice found after any change of one slice. -/
theorem State.slice?_modSlice (s : State) (n m : Nat) (a b : Bool) (f : Slice → Slice) :
    (s.modSlice n a f).slice? m b = if m = n ∧ b = a then (s.slice? m b).map f else s.slice? m b := by
  split
  · rename_i h; rw [h.1, h.2, State.slice?_modSlice_same]
  · rename_i h; exact State.slice?_modSlice_other s n m a b f h

/-- Where the groups are the same, so are the slices. -/
theorem State.slice?_congr {s t : State} (h : t.groups = s.groups) (n : Nat) (a : Bool) : t.slice? n a = s.slice? n a := by
  unfold State.slice? State.group?; rw [h]

theorem State.group?_congr {s t : State} (h : t.groups = s.groups) (n : Nat) : t.group? n = s.group? n := by
  unfold State.group?; rw [h]

@[simp] theorem State.slice?_modWg (s : State) (n m : Nat) (a : Bool) (f : Wg → Wg) : (s.modWg n f).slice? m a = s.slice? m a := rfl
@[simp] theorem State.group?_modWg (s : State) (n m : Nat) (f : Wg → Wg) : (s.modWg n f).group? m = s.group? m := rfl
@[simp] theorem State.slice?_modCore (s : State) (n m : Nat) (a : Bool) (f : Core → Core) : (s.modCore n f).slice? m a = s.slice? m a := rfl
@[simp] theorem State.group?_modCore (s : State) (n m : Nat) (f : Core → Core) : (s.modCore n f).group? m = s.group? m := rfl
@[simp] theorem State.slice?_modDie (s : State) (n m : Nat) (a : Bool) (f : Die → Die) : (s.modDie n f).slice? m a = s.slice? m a := rfl
@[simp] theorem State.group?_modDie (s : State) (n m : Nat) (f : Die → Die) : (s.modDie n f).group? m = s.group? m := rfl
@[simp] theorem State.slice?_modCluster (s : State) (n m : Nat) (a : Bool) (f : Cluster → Cluster) :
    (s.modCluster n f).slice? m a = s.slice? m a := rfl
@[simp] theorem State.group?_modCluster (s : State) (n m : Nat) (f : Cluster → Cluster) : (s.modCluster n f).group? m = s.group? m := rfl

/-! ### Workgroups -/

/-- A workgroup found after a change of one workgroup that keeps its id. -/
theorem State.wg?_modWg (s : State) (n m : Nat) (f : Wg → Wg) (hf : ∀ w, w.id = n → (f w).id = n) :
    (s.modWg n f).wg? m = (s.wg? m).map (fun w => if m = n then f w else w) :=
  find_map_key s.wgs (fun w => w.id) n m f hf

@[simp] theorem State.wg?_modSlice (s : State) (n m : Nat) (a : Bool) (f : Slice → Slice) : (s.modSlice n a f).wg? m = s.wg? m := rfl
@[simp] theorem State.wg?_modGroup (s : State) (n m : Nat) (f : Group → Group) : (s.modGroup n f).wg? m = s.wg? m := rfl
@[simp] theorem State.wg?_modCore (s : State) (n m : Nat) (f : Core → Core) : (s.modCore n f).wg? m = s.wg? m := rfl
@[simp] theorem State.wg?_modDie (s : State) (n m : Nat) (f : Die → Die) : (s.modDie n f).wg? m = s.wg? m := rfl

/-- A workgroup that is found has the id it was sought by. -/
theorem State.wg?_id {s : State} {n : Nat} {w : Wg} (h : s.wg? n = some w) : w.id = n := by
  have := List.find?_some h
  simpa using this

/-- A group that is found has the id it was sought by. -/
theorem State.group?_id {s : State} {n : Nat} {g : Group} (h : s.group? n = some g) : g.id = n := by
  have := List.find?_some h
  simpa using this

/-! ### Cores, clusters, dies -/

theorem State.core_modCore (s : State) (i j : Nat) (f : Core → Core) (h : i < s.cores.size) :
    (s.modCore i f).core j = if j = i then f (s.core i) else s.core j := by
  unfold State.modCore State.core
  by_cases hj : j = i
  · subst hj; simp [h]
  · simp only [hj, if_false]
    rw [Vector.getElem?_setIfInBounds_ne]
    exact fun e => hj e.symm

@[simp] theorem State.core_modCore_same (s : State) (i : Nat) (f : Core → Core) (h : i < s.cores.size) :
    (s.modCore i f).core i = f (s.core i) := by rw [State.core_modCore s i i f h, if_pos rfl]

theorem State.core_modCore_other (s : State) (i j : Nat) (f : Core → Core) (h : j ≠ i) : (s.modCore i f).core j = s.core j := by
  unfold State.modCore State.core
  rw [Vector.getElem?_setIfInBounds_ne]
  exact fun e => h e.symm

theorem State.die_modDie_other (s : State) (i j : Nat) (f : Die → Die) (h : j ≠ i) : (s.modDie i f).die j = s.die j := by
  unfold State.modDie State.die
  rw [Vector.getElem?_setIfInBounds_ne]
  exact fun e => h e.symm

theorem State.die_modDie_same (s : State) (i : Nat) (f : Die → Die) (h : i < s.dies.size) : (s.modDie i f).die i = f (s.die i) := by
  unfold State.modDie State.die
  simp [h]

theorem State.cluster_modCluster_same (s : State) (i : Nat) (f : Cluster → Cluster) (h : i < s.clusters.size) :
    (s.modCluster i f).cluster i = f (s.cluster i) := by
  unfold State.modCluster State.cluster
  simp [h]

@[simp] theorem State.die_modSlice (s : State) (n j : Nat) (a : Bool) (f : Slice → Slice) : (s.modSlice n a f).die j = s.die j := rfl
@[simp] theorem State.die_modCore (s : State) (n j : Nat) (f : Core → Core) : (s.modCore n f).die j = s.die j := rfl
@[simp] theorem State.die_modWg (s : State) (n j : Nat) (f : Wg → Wg) : (s.modWg n f).die j = s.die j := rfl
@[simp] theorem State.core_modSlice (s : State) (n j : Nat) (a : Bool) (f : Slice → Slice) : (s.modSlice n a f).core j = s.core j := rfl
@[simp] theorem State.core_modWg (s : State) (n j : Nat) (f : Wg → Wg) : (s.modWg n f).core j = s.core j := rfl

/-! ### Slots of a slice -/

@[simp] theorem Slice.slot_setSlot (sl : Slice) (o q : Bool) (p : Option Path) :
    (sl.setSlot o p).slot q = if q = o then p else sl.slot q := by cases o <;> cases q <;> rfl

@[simp] theorem Slice.hold_setHold (sl : Slice) (o q : Bool) (h : Option Hold) :
    (sl.setHold o h).hold q = if q = o then h else sl.hold q := by cases o <;> cases q <;> rfl

@[simp] theorem Slice.slot_setHold (sl : Slice) (o q : Bool) (h : Option Hold) : (sl.setHold o h).slot q = sl.slot q := by
  cases o <;> cases q <;> rfl

@[simp] theorem Slice.hold_setSlot (sl : Slice) (o q : Bool) (p : Option Path) : (sl.setSlot o p).hold q = sl.hold q := by
  cases o <;> cases q <;> rfl

end Sys2Proof.Laws
end

