-- ==== Sys2Proof/Laws/Memory.lean ====
section
/-!
SUPPORT. The memory list: what a read gives after a write, and that every memory operation keeps the canonical form.
-/
namespace Sys2Proof.Machine

/-- The canonical form, stated by the first cell: it is listed for a reason, and every later address is above it. -/
theorem Memory.wf_cons {c : Host.Cell} {m : Memory} :
    Memory.wf (c :: m) = true ↔ c.2 ≠ Memory.background ∧ (∀ d ∈ m, c.1 < d.1) ∧ Memory.wf m = true := by
  induction m generalizing c with
  | nil => simp [Memory.wf]
  | cons d m ih =>
    simp only [Memory.wf, Bool.and_eq_true, decide_eq_true_eq, bne_iff_ne, ne_eq, List.mem_cons, forall_eq_or_imp]
    rw [ih]
    constructor
    · rintro ⟨⟨h1, h2⟩, h3, h4, h5⟩
      exact ⟨h1, ⟨h2, fun x hx => Nat.lt_trans h2 (h4 x hx)⟩, h3, h4, h5⟩
    · rintro ⟨h1, ⟨h2, _⟩, h3, h4, h5⟩
      exact ⟨⟨h1, h2⟩, h3, h4, h5⟩

/-- Every cell that a write leaves was there before or is the written one. -/
theorem Memory.mem_write {m : Memory} {a : Nat} {b : Byte} {d : Host.Cell} (h : d ∈ m.write a b) : d ∈ m ∨ d = (a, b) := by
  induction m with
  | nil =>
    simp only [Memory.write] at h
    split at h <;> simp_all
  | cons c m ih =>
    simp only [Memory.write] at h
    split at h
    · split at h
      · exact .inl (List.mem_cons_of_mem _ h)
      · rcases List.mem_cons.mp h with h | h
        · exact .inr h
        · exact .inl (List.mem_cons_of_mem _ h)
    · split at h
      · split at h
        · exact .inl h
        · rcases List.mem_cons.mp h with h | h
          · exact .inr h
          · exact .inl h
      · rcases List.mem_cons.mp h with h | h
        · exact .inl (h ▸ List.mem_cons_self)
        · exact (ih h).imp (List.mem_cons_of_mem _) id

/-- A write of one byte keeps the canonical form. -/
theorem Memory.wf_write {m : Memory} (h : m.wf = true) (a : Nat) (b : Byte) : (m.write a b).wf = true := by
  induction m with
  | nil =>
    simp only [Memory.write]
    split <;> simp_all [Memory.wf]
  | cons c m ih =>
    obtain ⟨h1, h2, h3⟩ := Memory.wf_cons.mp h
    simp only [Memory.write]
    split
    · rename_i e
      split
      · exact h3
      · rename_i hb
        exact Memory.wf_cons.mpr ⟨hb, fun d hd => e ▸ h2 d hd, h3⟩
    · split
      · rename_i hlt
        split
        · exact h
        · rename_i hb
          refine Memory.wf_cons.mpr ⟨hb, ?_, h⟩
          intro d hd
          rcases List.mem_cons.mp hd with rfl | hd
          · exact hlt
          · exact Nat.lt_trans hlt (h2 d hd)
      · rename_i hne hnlt
        refine Memory.wf_cons.mpr ⟨h1, ?_, ih h3⟩
        intro d hd
        rcases Memory.mem_write hd with hd | rfl
        · exact h2 d hd
        · show c.1 < a
          omega

/-- An address below every listed one reads as the background. -/
theorem Memory.read_below {m : Memory} {a : Nat} (h : ∀ d ∈ m, a < d.1) : m.read a = Memory.background := by
  cases m with
  | nil => rfl
  | cons c m =>
    have hc := h c List.mem_cons_self
    simp [Memory.read, Nat.ne_of_gt hc, hc]

/-- What a read gives after a write of one byte. -/
theorem Memory.read_write {m : Memory} (h : m.wf = true) (a : Nat) (b : Byte) (x : Nat) :
    (m.write a b).read x = if x = a then b else m.read x := by
  induction m with
  | nil =>
    by_cases hx : x = a
    · subst hx
      by_cases hb : b = Memory.background <;> simp [Memory.write, Memory.read, hb]
    · have hx' : ¬ a = x := fun e => hx e.symm
      by_cases hb : b = Memory.background <;> simp [Memory.write, Memory.read, hb, hx, hx']
  | cons c m ih =>
    obtain ⟨h1, h2, h3⟩ := Memory.wf_cons.mp h
    simp only [Memory.write]
    split
    · rename_i e
      subst e
      split
      · rename_i hb
        by_cases hx : x = c.1
        · subst hx
          simp [Memory.read_below h2, hb]
        · simp only [hx, if_false, Memory.read, Ne.symm hx]
          split
          · rename_i hlt
            exact Memory.read_below (fun d hd => Nat.lt_trans hlt (h2 d hd))
          · rfl
      · by_cases hx : x = c.1
        · simp [Memory.read, hx]
        · simp only [hx, if_false, Memory.read, Ne.symm hx]
    · split
      · rename_i hne hlt
        split
        · rename_i hb
          by_cases hx : x = a
          · subst hx
            simp [Memory.read, hne, hlt, hb]
          · simp [hx]
        · by_cases hx : x = a
          · simp [Memory.read, hx]
          · simp only [hx, if_false]
            conv => lhs; rw [Memory.read.eq_2]
            simp only [Ne.symm hx, if_false]
            split
            · rename_i hxa
              rw [Memory.read_below]
              intro d hd
              rcases List.mem_cons.mp hd with rfl | hd
              · exact Nat.lt_trans hxa hlt
              · exact Nat.lt_trans (Nat.lt_trans hxa hlt) (h2 d hd)
            · rfl
      · rename_i hne hnlt
        simp only [Memory.read]
        split
        · rename_i e
          have : x ≠ a := by omega
          simp [this]
        · split
          · have : x ≠ a := by omega
            simp [this]
          · exact ih h3

/-- A write of bytes keeps the canonical form. -/
theorem Memory.wf_writeBytes {m : Memory} (h : m.wf = true) (a : Nat) (bs : List Byte) : (m.writeBytes a bs).wf = true := by
  induction bs generalizing m a with
  | nil => exact h
  | cons b bs ih => exact ih (Memory.wf_write h a b) (a + 1)

/-- What a read gives after a write of bytes: the written byte inside the range, what was there before outside it. -/
theorem Memory.read_writeBytes {m : Memory} (h : m.wf = true) (a : Nat) (bs : List Byte) (x : Nat) :
    (m.writeBytes a bs).read x = if a ≤ x then (bs[x - a]?).getD (m.read x) else m.read x := by
  induction bs generalizing m a with
  | nil => simp [Memory.writeBytes]
  | cons b bs ih =>
    simp only [Memory.writeBytes]
    rw [ih (Memory.wf_write h a b), Memory.read_write h]
    by_cases hx : x = a
    · subst hx
      have : ¬ x + 1 ≤ x := by omega
      simp [this]
    · by_cases hlt : a + 1 ≤ x
      · have e : x - a = (x - (a + 1)) + 1 := by omega
        have hle : a ≤ x := by omega
        simp [hlt, hle, hx, e]
      · have hnle : ¬ a ≤ x := by omega
        simp [hlt, hnle, hx]

/-- Numbers and bit fields are written as bytes. -/
theorem Memory.wf_writeNat {m : Memory} (h : m.wf = true) (a n v : Nat) : (m.writeNat a n v).wf = true :=
  Memory.wf_writeBytes h a _

theorem Memory.wf_writeBits {m : Memory} (h : m.wf = true) (a lo w v : Nat) : (m.writeBits a lo w v).wf = true :=
  Memory.wf_writeNat h _ _ _

/-- A part of a memory is a memory. -/
theorem Memory.wf_filter {m : Memory} (h : m.wf = true) (p : Host.Cell → Bool) : Memory.wf (m.filter p) = true := by
  induction m with
  | nil => rfl
  | cons c m ih =>
    obtain ⟨h1, h2, h3⟩ := Memory.wf_cons.mp h
    rw [List.filter_cons]
    split
    · exact Memory.wf_cons.mpr ⟨h1, fun d hd => h2 d (List.mem_filter.mp hd).1, ih h3⟩
    · exact ih h3

/-! ### The operations that write memory -/

@[simp] theorem State.clearPoison_mem (s : State) (l : List Nat) : (s.clearPoison l).mem = s.mem := by
  unfold State.clearPoison
  split <;> rfl

/-! ### Lines lose their poison -/

@[simp] theorem State.clearPoison_groups (s : State) (l : List Nat) : (s.clearPoison l).groups = s.groups := by
  unfold State.clearPoison; split <;> rfl
@[simp] theorem State.clearPoison_wgs (s : State) (l : List Nat) : (s.clearPoison l).wgs = s.wgs := by
  unfold State.clearPoison; split <;> rfl
@[simp] theorem State.clearPoison_cores (s : State) (l : List Nat) : (s.clearPoison l).cores = s.cores := by
  unfold State.clearPoison; split <;> rfl
@[simp] theorem State.clearPoison_clusters (s : State) (l : List Nat) : (s.clearPoison l).clusters = s.clusters := by
  unfold State.clearPoison; split <;> rfl
@[simp] theorem State.clearPoison_dies (s : State) (l : List Nat) : (s.clearPoison l).dies = s.dies := by
  unfold State.clearPoison; split <;> rfl
@[simp] theorem State.clearPoison_pkg (s : State) (l : List Nat) : (s.clearPoison l).pkg = s.pkg := by
  unfold State.clearPoison; split <;> rfl
@[simp] theorem State.clearPoison_regions (s : State) (l : List Nat) : (s.clearPoison l).regions = s.regions := by
  unfold State.clearPoison; split <;> rfl
@[simp] theorem State.clearPoison_launches (s : State) (l : List Nat) : (s.clearPoison l).launches = s.launches := by
  unfold State.clearPoison; split <;> rfl
@[simp] theorem State.clearPoison_ctxs (s : State) (l : List Nat) : (s.clearPoison l).ctxs = s.ctxs := by
  unfold State.clearPoison; split <;> rfl
@[simp] theorem State.clearPoison_halts (s : State) (l : List Nat) : (s.clearPoison l).halts = s.halts := by
  unfold State.clearPoison; split <;> rfl
@[simp] theorem State.clearPoison_pairMsgs (s : State) (l : List Nat) : (s.clearPoison l).pairMsgs = s.pairMsgs := by
  unfold State.clearPoison; split <;> rfl
@[simp] theorem State.clearPoison_watches (s : State) (l : List Nat) : (s.clearPoison l).watches = s.watches := by
  unfold State.clearPoison; split <;> rfl
@[simp] theorem State.clearPoison_fabric (s : State) (l : List Nat) : (s.clearPoison l).fabric = s.fabric := by
  unfold State.clearPoison; split <;> rfl
@[simp] theorem State.clearPoison_time (s : State) (l : List Nat) : (s.clearPoison l).time = s.time := by
  unfold State.clearPoison; split <;> rfl
@[simp] theorem State.clearPoison_ptbFine (s : State) (l : List Nat) : (s.clearPoison l).ptbFine = s.ptbFine := by
  unfold State.clearPoison; split <;> rfl
@[simp] theorem State.clearPoison_rate (s : State) (l : List Nat) : (s.clearPoison l).rate = s.rate := by
  unfold State.clearPoison; split <;> rfl
@[simp] theorem State.clearPoison_nextId (s : State) (l : List Nat) : (s.clearPoison l).nextId = s.nextId := by
  unfold State.clearPoison; split <;> rfl
@[simp] theorem State.clearPoison_inputs (s : State) (l : List Nat) : (s.clearPoison l).inputs = s.inputs := by
  unfold State.clearPoison; split <;> rfl
@[simp] theorem State.clearPoison_cur (s : State) (l : List Nat) : (s.clearPoison l).cur = s.cur := by
  unfold State.clearPoison; split <;> rfl
@[simp] theorem State.clearPoison_fresh (s : State) (l : List Nat) : (s.clearPoison l).fresh = s.fresh := by
  unfold State.clearPoison; split <;> rfl

@[simp] theorem State.coherence_mem (s : State) (pa n : Nat) : (s.coherence pa n).mem = s.mem := rfl

theorem State.homeWrite_mem (s : State) (pa : Nat) (bs : List Byte) : (s.homeWrite pa bs).mem = s.mem.writeBytes pa bs := by
  simp [State.homeWrite]

theorem State.wf_homeWrite {s : State} (h : s.mem.wf = true) (pa : Nat) (bs : List Byte) : (s.homeWrite pa bs).mem.wf = true := by
  rw [State.homeWrite_mem]
  exact Memory.wf_writeBytes h _ _

theorem State.wf_pokeBytes {s : State} (h : s.mem.wf = true) (a : Nat) (bs : List Byte) : (s.pokeBytes a bs).mem.wf = true := by
  unfold State.pokeBytes
  split
  · rw [State.clearPoison_mem]
    exact Memory.wf_writeBytes h _ _
  · exact h

theorem State.wf_poke {s : State} (h : s.mem.wf = true) (a n v : Nat) : (s.poke a n v).mem.wf = true := by
  unfold State.poke
  split
  · exact Memory.wf_writeNat h _ _ _
  · exact h

theorem State.wf_pokeBits {s : State} (h : s.mem.wf = true) (a lo w v : Nat) : (s.pokeBits a lo w v).mem.wf = true := by
  unfold State.pokeBits
  split
  · exact Memory.wf_writeBits h _ _ _ _
  · exact h

/-- A property of states that each item of a list keeps is kept by all of them. -/
theorem foldl_keeps {α : Type} (P : State → Prop) (f : State → α → State) (hf : ∀ s x, P s → P (f s x)) (l : List α) :
    ∀ s, P s → P (l.foldl f s) := by
  induction l with
  | nil => exact fun _ h => h
  | cons x l ih => exact fun s h => ih _ (hf s x h)

/-- A write at a place keeps the canonical form of device and host memory. -/
theorem State.wf_lsWrite {s : State} (h : s.mem.wf = true) (w : Nat) (b : Bool) (off : Nat) (bs : List Byte) :
    (s.lsWrite w b off bs).mem.wf = true := by
  unfold State.lsWrite
  split
  · exact h
  · unfold State.imageLsWrite
    repeat' split
    all_goals first
      | exact h
      | exact foldl_keeps (fun s => s.mem.wf = true) _ (fun s _ hs => State.wf_poke hs _ _ _) _ _ h

theorem State.wf_writePlace {s : State} (h : s.mem.wf = true) (core : Nat) (p : Place) (bs : List Byte) :
    (s.writePlace core p bs).mem.wf = true := by
  unfold State.writePlace
  split
  · exact State.wf_homeWrite h _ _
  · exact Memory.wf_writeBytes h _ _
  · exact State.wf_lsWrite h _ _ _ _
  · exact h

end Sys2Proof.Machine
end

