-- ==== Sys2Proof/Laws/Stops.lean ====
section
/-!
SUPPORT. What halts, stops and trace records leave alone, and what a stop does to the slice and the workgroup concerned.
-/
namespace Sys2Proof.Laws
open Sys2Proof.Machine

/-! ### The part's own writes and trace records -/

@[simp] theorem State.pokeBytes_groups (s : State) (a : Nat) (bs : List Byte) : (s.pokeBytes a bs).groups = s.groups := by
  unfold State.pokeBytes; split <;> simp

@[simp] theorem State.pokeBytes_wgs (s : State) (a : Nat) (bs : List Byte) : (s.pokeBytes a bs).wgs = s.wgs := by
  unfold State.pokeBytes; split <;> simp

@[simp] theorem State.setRcb_groups (s : State) (r lo w v : Nat) : (s.setRcb r lo w v).groups = s.groups := by
  unfold State.setRcb State.pokeBits; split <;> rfl

@[simp] theorem State.setRcb_wgs (s : State) (r lo w v : Nat) : (s.setRcb r lo w v).wgs = s.wgs := by
  unfold State.setRcb State.pokeBits; split <;> rfl

/-- A trace record changes no group. -/
@[simp] theorem State.trace_groups (s : State) (r : Nat) (x : TraceRec) : (s.trace r x).groups = s.groups := by
  unfold State.trace; dsimp only; split <;> simp

/-- A trace record changes no workgroup. -/
@[simp] theorem State.trace_wgs (s : State) (r : Nat) (x : TraceRec) : (s.trace r x).wgs = s.wgs := by
  unfold State.trace; dsimp only; split <;> simp

/-! ### Halts -/

@[simp] theorem State.broadcastHalt_groups (s : State) (wg core sub : Nat) : (s.broadcastHalt wg core sub).groups = s.groups := rfl
@[simp] theorem State.broadcastHalt_mem (s : State) (wg core sub : Nat) : (s.broadcastHalt wg core sub).mem = s.mem := rfl

theorem State.broadcastHalt_wg? (s : State) (wg core sub n : Nat) :
    (s.broadcastHalt wg core sub).wg? n = (s.wg? n).map (fun w => if n = wg then { w with halted := true } else w) :=
  State.wg?_modWg s wg n (fun w => { w with halted := true }) (fun _ h => h)

@[simp] theorem State.beginStop_groups (s : State) (wg core sub : Nat) (i : StopInfo) : (s.beginStop wg core sub i).groups = s.groups := by
  unfold State.beginStop; split <;> try rfl
  split <;> try rfl
  split <;> rfl

@[simp] theorem State.beginStop_mem (s : State) (wg core sub : Nat) (i : StopInfo) : (s.beginStop wg core sub i).mem = s.mem := by
  unfold State.beginStop; split <;> try rfl
  split <;> try rfl
  split <;> rfl

/-- A stop changes only the workgroup it names. -/
theorem State.beginStop_wg?_other (s : State) (wg core sub n : Nat) (i : StopInfo) (h : n ≠ wg) :
    (s.beginStop wg core sub i).wg? n = s.wg? n := by
  unfold State.beginStop
  split
  · split
    · rw [State.broadcastHalt_wg?, State.wg?_modWg]
      · simp [h]
      · exact fun _ h => h
    · split
      · rw [State.wg?_modWg]
        · simp [h]
        · exact fun _ h => h
      · rfl
    · rfl
  · rfl

/-- A running workgroup that is stopped drains, halted, with what the record will say. -/
theorem State.beginStop_wg?_same (s : State) (wg core sub : Nat) (i : StopInfo) {w : Wg} (h : s.wg? wg = some w) (hp : w.phase = .running) :
    (s.beginStop wg core sub i).wg? wg = some { w with phase := .draining, stop := some i, halted := true } := by
  unfold State.beginStop
  simp only [h, hp]
  rw [State.broadcastHalt_wg?, State.wg?_modWg]
  · simp [h]
  · exact fun _ h => h

/-- The stops of a set's other members change no group, no memory and none but those members. -/
theorem State.stopMembers_spec (s : State) (w : Wg) (i : StopInfo) :
    (s.stopMembers w i).groups = s.groups ∧ (s.stopMembers w i).mem = s.mem ∧ (s.stopMembers w i).wg? w.id = s.wg? w.id := by
  unfold State.stopMembers
  have hl : ∀ v ∈ s.wgs.filter (fun v => v.setId == w.setId && v.id != w.id), v.id ≠ w.id := by
    intro v hv
    have := (List.mem_filter.1 hv).2
    simp at this
    exact this.2
  generalize s.wgs.filter (fun v => v.setId == w.setId && v.id != w.id) = l at hl
  induction l generalizing s with
  | nil => exact ⟨rfl, rfl, rfl⟩
  | cons v l ih =>
    have hv := hl v (by simp)
    have := ih (s.beginStop v.id v.core 0 { i with reason := .member, grp := 0, slice := false, epc := 0, aux0 := 0, aux1 := 0, corr := v.corr, pages := [] })
      (fun x hx => hl x (by simp [hx]))
    rw [List.foldl_cons]
    refine ⟨this.1.trans (State.beginStop_groups ..), this.2.1.trans (State.beginStop_mem ..), ?_⟩
    exact this.2.2.trans (State.beginStop_wg?_other _ _ _ _ _ _ (fun e => hv e.symm))

/-- Stopping a slice's workgroup: the slice stands stopped, every other slice is as before, memory is. -/
theorem State.stopSlice_slice? (s : State) (w : Wg) (g : Group) (a : Bool) (i : StopInfo) (n : Nat) (b : Bool) :
    (s.stopSlice w g a i).slice? n b =
      if n = g.id ∧ b = a then (s.slice? n b).map (fun sl => { sl with halt := .stopped }) else s.slice? n b := by
  unfold State.stopSlice
  dsimp only
  rw [State.slice?_congr (State.stopMembers_spec _ w i).1, State.slice?_congr (State.beginStop_groups ..), State.slice?_modSlice]

theorem State.stopSlice_mem (s : State) (w : Wg) (g : Group) (a : Bool) (i : StopInfo) : (s.stopSlice w g a i).mem = s.mem := by
  unfold State.stopSlice
  dsimp only
  rw [(State.stopMembers_spec _ w i).2.1, State.beginStop_mem, State.modSlice_mem]

theorem State.stopSlice_wg? (s : State) (w : Wg) (g : Group) (a : Bool) (i : StopInfo) {v : Wg} (h : s.wg? w.id = some v)
    (hp : v.phase = .running) :
    (s.stopSlice w g a i).wg? w.id = some { v with phase := .draining, stop := some i, halted := true } := by
  unfold State.stopSlice
  dsimp only
  rw [(State.stopMembers_spec _ w i).2.2]
  exact State.beginStop_wg?_same _ _ _ _ _ ((State.wg?_modSlice ..).trans h) hp

/-- Entering the handler changes no slice but the trapping one, and no memory. -/
theorem State.enterHandler_slice? (s : State) (e : Env) (hpc n : Nat) (b : Bool) (h : ¬(n = e.cur.grp ∧ b = e.cur.a)) :
    (s.enterHandler e hpc).slice? n b = s.slice? n b := by
  unfold State.enterHandler
  dsimp only
  rw [State.slice?_congr (State.broadcastHalt_groups ..), State.slice?_modWg, State.slice?_modSlice_other _ _ _ _ _ _ h]

theorem State.enterHandler_mem (s : State) (e : Env) (hpc : Nat) : (s.enterHandler e hpc).mem = s.mem := rfl

end Sys2Proof.Laws
end

