-- ==== Sys2Proof/Tests/Slice0.lean ====
section
/-!
SUPPORT. The model's own tests: a word for every instruction, an ill-formed term for every static check, results worked out from the
spec's tables and examples, and a witness for the hypotheses of every statement. Each is about one word or one step.
-/
namespace Sys2Proof.Tests
open Sys2Proof.Machine Sys2Proof.Claims

set_option Elab.async false

/-! ### Decoding: one word for every instruction, written from Tables 2.2 to 2.5 and 2.9 -/

/-- The one instruction that the 8 bytes of a word are. -/
def one (w : W64) : Option Instr := match decode (wordBytes w) with | .ok (i, []) => some i | _ => none

/-- The one instruction that the 16 bytes of two words are. -/
def two (w0 w1 : W64) : Option Instr := match decode (wordBytes w0 ++ wordBytes w1) with | .ok (i, []) => some i | _ => none

theorem test_decode_control :
    one 0x000F1E00000072EB = some (.nop ⟨0x3C, 0x78, 0x00000072EB⟩) ∧
    one 0x0018D4C01D4630DD = some (.bra ⟨0x23, 0x53, 0x001D4630DD⟩) ∧
    one 0x00230C003A8BEF0D = some (.brz ⟨0x0C, 0x30, 0x003A8BEF0D⟩) ∧
    one 0x003DC38019D1AD5C = some (.brnz ⟨0x37, 0x0E, 0x0019D1AD5C⟩) ∧
    one 0x0048FB4037176BE9 = some (.brx ⟨0x23, 0xED, 0x0037176BE9⟩) ∧
    one 0x00547380165D2A95 = some (.brd ⟨0x11, 0xCE, 0x00165D2A95⟩) ∧
    one 0x00602C4033A2E97F = some (.join ⟨0x00, 0xB1, 0x0033A2E97F⟩) ∧
    one 0x007C254012E8A8A7 = some (.brq ⟨0x30, 0x95, 0x0012E8A8A7⟩) ∧
    one 0x0088DE80302E67EE = some (.call ⟨0x23, 0x7A, 0x00302E67EE⟩) ∧
    one 0x009598400F742754 = some (.callx ⟨0x16, 0x61, 0x000F742754⟩) ∧
    one 0x00A2D2802CB9E6F8 = some (.ret ⟨0x0B, 0x4A, 0x002CB9E6F8⟩) ∧
    one 0x00B08D000BFFA6BB = some (.exit ⟨0x02, 0x34, 0x000BFFA6BB⟩) ∧
    one 0x00CE87C0294566BC = some (.yield ⟨0x3A, 0x1F, 0x00294566BC⟩) ∧
    one 0x00DD0300088B26FB = some (.sleep ⟨0x34, 0x0C, 0x00088B26FB⟩) ∧
    one 0x00EBFEC025D0E759 = some (.trap ⟨0x2F, 0xFB, 0x0025D0E759⟩) ∧
    one 0x00FB3AC00516A7D6 = some (.bkpt ⟨0x2C, 0xEB, 0x000516A7D6⟩) ∧
    one 0x010AB740225C6891 = some (.eret ⟨0x2A, 0xDD, 0x00225C6891⟩) := by decide +kernel

theorem test_decode_scalar :
    one 0x040E03488DD3076B = some (.sadd ⟨0x38, 0x0D, 0x22, 0x37, 0x4C, 0x1, 0x36, 0xB⟩) ∧
    one 0x04135557999B9FF7 = some (.ssub ⟨0x0D, 0x55, 0x5E, 0x66, 0x6E, 0x7, 0x3F, 0x7⟩) ∧
    one 0x042927E6E5E4F8A6 = some (.smul ⟨0x24, 0x9F, 0x9B, 0x97, 0x93, 0xE, 0x0A, 0x6⟩) ∧
    one 0x043F3AF6B26E1D66 = some (.smulh ⟨0x3C, 0xEB, 0xDA, 0xC9, 0xB8, 0x7, 0x16, 0x6⟩) ∧
    one 0x04458E06FF780A47 = some (.sand ⟨0x16, 0x38, 0x1B, 0xFD, 0xE0, 0x2, 0x24, 0x7⟩) ∧
    one 0x045C61D74C823B4A = some (.sor ⟨0x31, 0x87, 0x5D, 0x32, 0x08, 0xE, 0x34, 0xA⟩) ∧
    one 0x0463B5E81A4CB05E = some (.sxor ⟨0x0E, 0xD7, 0xA0, 0x69, 0x32, 0xC, 0x05, 0xE⟩) ∧
    one 0x047B0A396897AD74 = some (.snot ⟨0x2C, 0x28, 0xE5, 0xA2, 0x5E, 0xB, 0x17, 0x4⟩) ∧
    one 0x04831F0B372332CC = some (.sshl ⟨0x0C, 0x7C, 0x2C, 0xDC, 0x8C, 0xC, 0x2C, 0xC⟩) ∧
    one 0x049B741D05EEB814 = some (.sshr ⟨0x2D, 0xD0, 0x74, 0x17, 0xBA, 0xE, 0x01, 0x4⟩) ∧
    one 0x04A409AF553AC58F = some (.ssra ⟨0x10, 0x26, 0xBD, 0x54, 0xEB, 0x1, 0x18, 0xF⟩) ∧
    one 0x04BD1F8224871F1B = some (.smin ⟨0x34, 0x7E, 0x08, 0x92, 0x1C, 0x7, 0x31, 0xB⟩) ∧
    one 0x04C6B5D5749434B8 = some (.smax ⟨0x1A, 0xD7, 0x55, 0xD2, 0x50, 0xD, 0x0B, 0x8⟩) ∧
    one 0x04D04CA8C5215A67 = some (.smov ⟨0x01, 0x32, 0xA3, 0x14, 0x85, 0x6, 0x26, 0x7⟩) ∧
    one 0x04EAA3BC95EEFC48 = some (.sli ⟨0x2A, 0x8E, 0xF2, 0x57, 0xBB, 0xF, 0x04, 0x8⟩) ∧
    one 0x04F53B1126FCEE2A = some (.scmp ⟨0x14, 0xEC, 0x44, 0x9B, 0xF3, 0xB, 0x22, 0xA⟩) ∧
    one 0x050012E5B84B1C2E = some (.ssel ⟨0x00, 0x4B, 0x96, 0xE1, 0x2C, 0x7, 0x02, 0xE⟩) ∧
    one 0x051BAB3A8A59DA43 = some (.sclz ⟨0x2E, 0xAC, 0xEA, 0x29, 0x67, 0x6, 0x24, 0x3⟩) ∧
    one 0x052703901CA91879 = some (.spopc ⟨0x1C, 0x0E, 0x40, 0x72, 0xA4, 0x6, 0x07, 0x9⟩) ∧
    one 0x05335CA5EF389EC1 = some (.sbfx ⟨0x0D, 0x72, 0x97, 0xBC, 0xE2, 0x7, 0x2C, 0x1⟩) ∧
    one 0x054FF5FC0248692B = some (.sbfi ⟨0x3F, 0xD7, 0xF0, 0x09, 0x21, 0xA, 0x12, 0xB⟩) := by decide +kernel

theorem test_decode_vector :
    one 0x080C4782FE79901F = some (.vadd ⟨0x31, 0x1E, 0x0B, 0xF9, 0xE6, 0x4, 0x01, 0xF⟩) ∧
    one 0x0819F1EA225AAECC = some (.vsub ⟨0x27, 0xC7, 0xA8, 0x89, 0x6A, 0xB, 0x2C, 0xC⟩) ∧
    one 0x08279C91C6FBCD7C = some (.vmul ⟨0x1E, 0x72, 0x47, 0x1B, 0xEF, 0x3, 0x17, 0xC⟩) ∧
    one 0x0835C7F9EB9DB45D = some (.vmulh ⟨0x17, 0x1F, 0xE7, 0xAE, 0x76, 0xD, 0x05, 0xD⟩) ∧
    one 0x0844B36210FFA74F = some (.vmad ⟨0x12, 0xCD, 0x88, 0x43, 0xFE, 0x9, 0x34, 0xF⟩) ∧
    one 0x08539F4AF6621A43 = some (.vand ⟨0x0E, 0x7D, 0x2B, 0xD9, 0x88, 0x6, 0x24, 0x3⟩) ∧
    one 0x08630BB41C44D568 = some (.vor ⟨0x0C, 0x2E, 0xD0, 0x71, 0x13, 0x5, 0x16, 0x8⟩) ∧
    one 0x0872F81D82E814AF = some (.vxor ⟨0x0B, 0xE0, 0x76, 0x0B, 0xA0, 0x5, 0x0A, 0xF⟩) ∧
    one 0x08832547698B9FF8 = some (.vnot ⟨0x0C, 0x95, 0x1D, 0xA6, 0x2E, 0x7, 0x3F, 0x8⟩) ∧
    one 0x089392B190AFAB61 = some (.vshl ⟨0x0E, 0x4A, 0xC6, 0x42, 0xBE, 0xA, 0x36, 0x1⟩) ∧
    one 0x08A4805C7813FAED = some (.vshr ⟨0x12, 0x01, 0x71, 0xE0, 0x4F, 0xE, 0x2E, 0xD⟩) ∧
    one 0x08B5EE875FF8967A = some (.vsra ⟨0x17, 0xBA, 0x1D, 0x7F, 0xE2, 0x5, 0x27, 0xA⟩) ∧
    one 0x08C79D32881DB228 = some (.vmin ⟨0x1E, 0x74, 0xCA, 0x20, 0x76, 0xC, 0x22, 0x8⟩) ∧
    one 0x08D9CC1E70C319F8 = some (.vmax ⟨0x27, 0x30, 0x79, 0xC3, 0x0C, 0x6, 0x1F, 0x8⟩) ∧
    one 0x08EC3B4A99E901DA = some (.vabs ⟨0x30, 0xED, 0x2A, 0x67, 0xA4, 0x0, 0x1D, 0xA⟩) ∧
    one 0x08FF2B37030F35DD = some (.vneg ⟨0x3C, 0xAC, 0xDC, 0x0C, 0x3C, 0xD, 0x1D, 0xD⟩) ∧
    one 0x09025B242CF5E9E2 = some (.vclz ⟨0x09, 0x6C, 0x90, 0xB3, 0xD7, 0xA, 0x1E, 0x2⟩) ∧
    one 0x0915CB91571CEA18 = some (.vpopc ⟨0x17, 0x2E, 0x45, 0x5C, 0x73, 0xA, 0x21, 0x8⟩) ∧
    one 0x0929FC7F01842E5F = some (.vbfx ⟨0x27, 0xF1, 0xFC, 0x06, 0x10, 0xB, 0x25, 0xF⟩) ∧
    one 0x093E2DAD2C6BF6B8 = some (.vbfi ⟨0x38, 0xB6, 0xB4, 0xB1, 0xAF, 0xD, 0x2B, 0x8⟩) ∧
    one 0x0942DF1B57D40723 = some (.vbrev ⟨0x0B, 0x7C, 0x6D, 0x5F, 0x50, 0x1, 0x32, 0x3⟩) ∧
    one 0x0958110A437C9BBF = some (.vsel ⟨0x20, 0x44, 0x29, 0x0D, 0xF2, 0x6, 0x3B, 0xF⟩) ∧
    one 0x096D83B96F65745D = some (.vmov ⟨0x36, 0x0E, 0xE5, 0xBD, 0x95, 0xD, 0x05, 0xD⟩) ∧
    one 0x097376291BCE951C = some (.vli ⟨0x0D, 0xD8, 0xA4, 0x6F, 0x3A, 0x5, 0x11, 0xC⟩) ∧
    one 0x0989A958C8B87DED = some (.vaddc ⟨0x26, 0xA5, 0x63, 0x22, 0xE1, 0xF, 0x1E, 0xD⟩) ∧
    one 0x09905CC975E26EDF = some (.vsubb ⟨0x01, 0x73, 0x25, 0xD7, 0x89, 0xB, 0x2D, 0xF⟩) ∧
    one 0x09A750BA234CA3D2 = some (.vcmp ⟨0x1D, 0x42, 0xE8, 0x8D, 0x32, 0x8, 0x3D, 0x2⟩) ∧
    one 0x09BE84EB117758F8 = some (.vidot4 ⟨0x3A, 0x13, 0xAC, 0x45, 0xDD, 0x6, 0x0F, 0x8⟩) := by decide +kernel

theorem test_decode_float :
    one 0x0E0F6BF88511A2AD = some (.vfadd ⟨0x3D, 0xAF, 0xE2, 0x14, 0x46, 0x8, 0x2A, 0xD⟩) ∧
    one 0x0E117A840D96C66C = some (.vfsub ⟨0x05, 0xEA, 0x10, 0x36, 0x5B, 0x1, 0x26, 0xC⟩) ∧
    one 0x0E2389D0165CAE4D = some (.vfmul ⟨0x0E, 0x27, 0x40, 0x59, 0x72, 0xB, 0x24, 0xD⟩) ∧
    one 0x0E36595C5FA29A3F = some (.vfma ⟨0x19, 0x65, 0x71, 0x7E, 0x8A, 0x6, 0x23, 0xF⟩) ∧
    one 0x0E49696929290E33 = some (.vfmin ⟨0x25, 0xA5, 0xA4, 0xA4, 0xA4, 0x3, 0x23, 0x3⟩) ∧
    one 0x0E5CF9B6732FCA58 = some (.vfmax ⟨0x33, 0xE6, 0xD9, 0xCC, 0xBF, 0x2, 0x25, 0x8⟩) ∧
    one 0x0E608A03FD770A9F = some (.vfabs ⟨0x02, 0x28, 0x0F, 0xF5, 0xDC, 0x2, 0x29, 0xF⟩) ∧
    one 0x0E74DB11883E92E8 = some (.vfneg ⟨0x13, 0x6C, 0x46, 0x20, 0xFA, 0x4, 0x2E, 0x8⟩) ∧
    one 0x0E896C9FD3469F42 = some (.vfcmp ⟨0x25, 0xB2, 0x7F, 0x4D, 0x1A, 0x7, 0x34, 0x2⟩) ∧
    one 0x0E9E7E6E9E8EF3CD = some (.vfclass ⟨0x39, 0xF9, 0xBA, 0x7A, 0x3B, 0xC, 0x3C, 0xD⟩) ∧
    one 0x0EA390BDAA97886A = some (.vfround ⟨0x0E, 0x42, 0xF6, 0xAA, 0x5E, 0x2, 0x06, 0xA⟩) ∧
    one 0x0EB9630CF6E0A918 = some (.vfdot2 ⟨0x25, 0x8C, 0x33, 0xDB, 0x82, 0xA, 0x11, 0x8⟩) ∧
    one 0x0ECF761CC36A0DE8 = some (.vfscale ⟨0x3D, 0xD8, 0x73, 0x0D, 0xA8, 0x3, 0x1E, 0x8⟩) := by decide +kernel

theorem test_decode_special :
    one 0x100880278F76E987 = some (.vrcp ⟨0x22, 0x00, 0x9E, 0x3D, 0xDB, 0xA, 0x18, 0x7⟩) ∧
    one 0x10169AFF63C84C56 = some (.vrsq ⟨0x1A, 0x6B, 0xFD, 0x8F, 0x21, 0x3, 0x05, 0x6⟩) ∧
    one 0x1024F617B8DA3728 = some (.vsqrt ⟨0x13, 0xD8, 0x5E, 0xE3, 0x68, 0xD, 0x32, 0x8⟩) ∧
    one 0x103391F00E2C662B = some (.vexp2 ⟨0x0E, 0x47, 0xC0, 0x38, 0xB1, 0x9, 0x22, 0xB⟩) ∧
    one 0x1042EDC8E3FEDD3F = some (.vlog2 ⟨0x0B, 0xB7, 0x23, 0x8F, 0xFB, 0x7, 0x13, 0xF⟩) ∧
    one 0x10524A6239D1D855 = some (.vsin ⟨0x09, 0x29, 0x88, 0xE7, 0x47, 0x6, 0x05, 0x5⟩) ∧
    one 0x1062673BD0651F9C = some (.vcos ⟨0x09, 0x9C, 0xEF, 0x41, 0x94, 0x7, 0x39, 0xC⟩) ∧
    one 0x10728415E778E6F5 = some (.vtanh ⟨0x0A, 0x10, 0x57, 0x9D, 0xE3, 0x9, 0x2F, 0x5⟩) := by decide +kernel

theorem test_decode_convert :
    one 0x11069B90C5FB015A = some (.vcvt ⟨0x1A, 0x6E, 0x43, 0x17, 0xEC, 0x0, 0x15, 0xA⟩) ∧
    one 0x111ABCAEA09289A2 = some (.vcvtb ⟨0x2A, 0xF2, 0xBA, 0x82, 0x4A, 0x2, 0x1A, 0x2⟩) ∧
    one 0x112F1DCCFBAA560B = some (.vpack ⟨0x3C, 0x77, 0x33, 0xEE, 0xA9, 0x5, 0x20, 0xB⟩) ∧
    one 0x1133FFAB56C2A686 = some (.vunpack ⟨0x0F, 0xFE, 0xAD, 0x5B, 0x0A, 0x9, 0x28, 0x6⟩) := by decide +kernel

theorem test_decode_predicate :
    one 0x1406B4522FCDB64B = some (.pand ⟨0x1A, 0xD1, 0x48, 0xBF, 0x36, 0xD, 0x24, 0xB⟩) ∧
    one 0x141CE7421CB71F1B = some (.por ⟨0x33, 0x9D, 0x08, 0x72, 0xDC, 0x7, 0x31, 0xB⟩) ∧
    one 0x14239AF249E1480E = some (.pxor ⟨0x0E, 0x6B, 0xC9, 0x27, 0x85, 0x2, 0x00, 0xE⟩) ∧
    one 0x143A8EE3374BBD02 = some (.pnot ⟨0x2A, 0x3B, 0x8C, 0xDD, 0x2E, 0xF, 0x10, 0x2⟩) ∧
    one 0x144203146576BA27 = some (.pmov ⟨0x08, 0x0C, 0x51, 0x95, 0xDA, 0xE, 0x22, 0x7⟩) ∧
    one 0x1459F7C5D3A1BB6E = some (.pfrom ⟨0x27, 0xDF, 0x17, 0x4E, 0x86, 0xE, 0x36, 0xE⟩) ∧
    one 0x14622CF7824D00B6 = some (.pto ⟨0x08, 0xB3, 0xDE, 0x09, 0x34, 0x0, 0x0B, 0x6⟩) ∧
    one 0x147AA229F1B90E10 = some (.pany ⟨0x2A, 0x88, 0xA7, 0xC6, 0xE4, 0x3, 0x21, 0x0⟩) ∧
    one 0x1483981CA125A3AC = some (.pall ⟨0x0E, 0x60, 0x72, 0x84, 0x96, 0x8, 0x3A, 0xC⟩) := by decide +kernel

theorem test_decode_cross_lane :
    one 0x160B944D463EF815 = some (.shfl ⟨0x2E, 0x51, 0x35, 0x18, 0xFB, 0xE, 0x01, 0x5⟩) ∧
    one 0x161E13897F34A7F6 = some (.vote ⟨0x38, 0x4E, 0x25, 0xFC, 0xD2, 0x9, 0x3F, 0x6⟩) ∧
    one 0x1620D345F86AD7F9 = some (.matchLanes ⟨0x03, 0x4D, 0x17, 0xE1, 0xAB, 0x5, 0x3F, 0x9⟩) ∧
    one 0x16341342B221480D = some (.vred ⟨0x10, 0x4D, 0x0A, 0xC8, 0x85, 0x2, 0x00, 0xD⟩) ∧
    one 0x164793FFEC184423 = some (.vscan ⟨0x1E, 0x4F, 0xFF, 0xB0, 0x61, 0x1, 0x02, 0x3⟩) ∧
    one 0x165B94BDA68F886A = some (.bcast ⟨0x2E, 0x52, 0xF6, 0x9A, 0x3E, 0x2, 0x06, 0xA⟩) ∧
    one 0x166FD5BBA14750C3 = some (.vcomp ⟨0x3F, 0x56, 0xEE, 0x85, 0x1D, 0x4, 0x0C, 0x3⟩) ∧
    one 0x16749739DCBF613E = some (.gfence ⟨0x12, 0x5C, 0xE7, 0x72, 0xFD, 0x8, 0x13, 0xE⟩) := by decide +kernel

theorem test_decode_queue :
    one 0x170FB63C42893560 = some (.qcnt ⟨0x3E, 0xD8, 0xF1, 0x0A, 0x24, 0xD, 0x16, 0x0⟩) ∧
    one 0x17183B7E8184C2C9 = some (.qroom ⟨0x20, 0xED, 0xFA, 0x06, 0x13, 0x0, 0x2C, 0x9⟩) ∧
    one 0x1721010101011044 = some (.qdrain ⟨0x04, 0x04, 0x04, 0x04, 0x04, 0x4, 0x04, 0x4⟩) := by decide +kernel

theorem test_decode_memory :
    one 0x1C02CCD6E0EACFB3 = some (.lds ⟨0x0B, 0x33, 0x5B, 0x83, 0xAB, 0x3, 0x3B, 0x3⟩) ∧
    one 0x1C19B0777E04FCA5 = some (.sts ⟨0x26, 0xC1, 0xDD, 0xF8, 0x13, 0xF, 0x0A, 0x5⟩) ∧
    one 0x1C20D4581BDFB1BA = some (.ld ⟨0x03, 0x51, 0x60, 0x6F, 0x7E, 0xC, 0x1B, 0xA⟩) ∧
    one 0x1C3878F979FA6ED0 = some (.st ⟨0x21, 0xE3, 0xE5, 0xE7, 0xE9, 0xB, 0x2D, 0x0⟩) ∧
    one 0x1C405D9B1855F017 = some (.ldl ⟨0x01, 0x76, 0x6C, 0x61, 0x57, 0xC, 0x01, 0x7⟩) ∧
    one 0x1C5882FD37317970 = some (.stl ⟨0x22, 0x0B, 0xF4, 0xDC, 0xC5, 0xE, 0x17, 0x0⟩) ∧
    one 0x1C61685F564D4AEA = some (.ldq ⟨0x05, 0xA1, 0x7D, 0x59, 0x35, 0x2, 0x2E, 0xA⟩) ∧
    one 0x1C7A4E023629DC66 = some (.stc ⟨0x29, 0x38, 0x08, 0xD8, 0xA7, 0x7, 0x06, 0x6⟩) ∧
    one 0x1C83F4A55606FA14 = some (.ldx ⟨0x0F, 0xD2, 0x95, 0x58, 0x1B, 0xE, 0x21, 0x4⟩) ∧
    one 0x1C9D9B08F663DBC2 = some (.pref ⟨0x36, 0x6C, 0x23, 0xD9, 0x8F, 0x6, 0x3C, 0x2⟩) ∧
    one 0x1CA7C22C9701BD93 = some (.cctl ⟨0x1F, 0x08, 0xB2, 0x5C, 0x06, 0xF, 0x19, 0x3⟩) := by decide +kernel

theorem test_decode_atomic :
    one 0x1D0CF44BE37AE676 = some (.atom ⟨0x33, 0xD1, 0x2F, 0x8D, 0xEB, 0x9, 0x27, 0x6⟩) ∧
    one 0x1D19DE3246DB38F1 = some (.red ⟨0x27, 0x78, 0xC9, 0x1B, 0x6C, 0xE, 0x0F, 0x1⟩) ∧
    one 0x1D26C8196ABBD38D = some (.cas ⟨0x1B, 0x20, 0x65, 0xAA, 0xEF, 0x4, 0x38, 0xD⟩) := by decide +kernel

theorem test_decode_fence :
    one 0x1D8E4C8AC90758F9 = some (.fence ⟨0x39, 0x32, 0x2B, 0x24, 0x1D, 0x6, 0x0F, 0x9⟩) ∧
    one 0x1D9E39746FAA9C30 = some (.fencex ⟨0x38, 0xE5, 0xD1, 0xBE, 0xAA, 0x7, 0x03, 0x0⟩) ∧
    one 0x1DAE665E564E6798 = some (.waitcnt ⟨0x39, 0x99, 0x79, 0x59, 0x39, 0x9, 0x39, 0x8⟩) := by decide +kernel

theorem test_decode_tag :
    one 0x1E07FCE2072C118D = some (.tlook ⟨0x1F, 0xF3, 0x88, 0x1C, 0xB0, 0x4, 0x18, 0xD⟩) ∧
    one 0x1E1AEC8EB0924580 = some (.tset ⟨0x2B, 0xB2, 0x3A, 0xC2, 0x49, 0x1, 0x18, 0x0⟩) ∧
    one 0x1E2E1CFB9A793DA5 = some (.tclr ⟨0x38, 0x73, 0xEE, 0x69, 0xE4, 0xF, 0x1A, 0x5⟩) := by decide +kernel

theorem test_decode_barrier :
    one 0x2001313131715867 = some (.binit ⟨0x04, 0xC4, 0xC4, 0xC5, 0xC5, 0x6, 0x06, 0x7⟩) ∧
    one 0x20102CE9E6E3CF7A = some (.barr ⟨0x00, 0xB3, 0xA7, 0x9B, 0x8F, 0x3, 0x37, 0xA⟩) ∧
    one 0x202F69231CD68680 = some (.barrx ⟨0x3D, 0xA4, 0x8C, 0x73, 0x5A, 0x1, 0x28, 0x0⟩) ∧
    one 0x203F25DC9309C5C7 = some (.bwait ⟨0x3C, 0x97, 0x72, 0x4C, 0x27, 0x1, 0x1C, 0x7⟩) ∧
    one 0x204F62D649FD4D1F = some (.btest ⟨0x3D, 0x8B, 0x59, 0x27, 0xF5, 0x3, 0x11, 0xF⟩) ∧
    one 0x205FE05080F15879 = some (.bwatch ⟨0x3F, 0x81, 0x42, 0x03, 0xC5, 0x6, 0x07, 0x9⟩) := by decide +kernel

theorem test_decode_work_time :
    one 0x3029DC2E80D315E8 = some (.jdec ⟨0x27, 0x70, 0xBA, 0x03, 0x4C, 0x5, 0x1E, 0x8⟩) ∧
    one 0x31079D83E9D0231A = some (.tget ⟨0x1E, 0x76, 0x0F, 0xA7, 0x40, 0x8, 0x31, 0xA⟩) ∧
    one 0x311D80A386A98BEA = some (.eget ⟨0x36, 0x02, 0x8E, 0x1A, 0xA6, 0x2, 0x3E, 0xA⟩) ∧
    one 0x312423C3E38374CB = some (.epost ⟨0x10, 0x8F, 0x0F, 0x8E, 0x0D, 0xD, 0x0C, 0xB⟩) := by decide +kernel

theorem test_decode_system :
    one 0x3407966533C2940B = some (.srd ⟨0x1E, 0x59, 0x94, 0xCF, 0x0A, 0x5, 0x00, 0xB⟩) ∧
    one 0x341FCB5722AE1D53 = some (.swr ⟨0x3F, 0x2D, 0x5C, 0x8A, 0xB8, 0x7, 0x15, 0x3⟩) ∧
    one 0x342880C951DA6ACE = some (.tlbi ⟨0x22, 0x03, 0x25, 0x47, 0x69, 0xA, 0x2C, 0xE⟩) ∧
    one 0x34848A3FB52A816C = some (.trace ⟨0x12, 0x28, 0xFE, 0xD4, 0xAA, 0x0, 0x16, 0xC⟩) ∧
    one 0x349FC234A6D93B70 = some (.tmark ⟨0x3F, 0x08, 0xD2, 0x9B, 0x64, 0xE, 0x37, 0x0⟩) ∧
    one 0x34ABBAA9D90875A7 = some (.perf ⟨0x2E, 0xEA, 0xA7, 0x64, 0x21, 0xD, 0x1A, 0x7⟩) := by decide +kernel

theorem test_decode_geometry :
    two 0xE40F255B91C8252B 0xAF8860390164EE12 = some (.gdef ⟨⟨0x3C, 0x95, 0x6E, 0x47, 0x20, 0x9, 0x12, 0xB⟩, 0xAF, 0x88, 0x60, 0x39, 0x0164EE12⟩) ∧
    two 0xE416796C9F929E3F 0x0FDCA874004BC741 = some (.gld ⟨⟨0x19, 0xE5, 0xB2, 0x7E, 0x4A, 0x7, 0x23, 0xF⟩, 0x0F, 0xDC, 0xA8, 0x74, 0x004BC741⟩) ∧
    two 0xE42E0DFDEDDDDB66 0x7231F1B10132A070 = some (.gst ⟨⟨0x38, 0x37, 0xF7, 0xB7, 0x77, 0x6, 0x36, 0x6⟩, 0x72, 0x31, 0xF1, 0xB1, 0x0132A070⟩) ∧
    two 0xE43622CFBC691CAE 0xD6893CEF001979A2 = some (.gmov ⟨⟨0x18, 0x8B, 0x3E, 0xF1, 0xA4, 0x7, 0x0A, 0xE⟩, 0xD6, 0x89, 0x3C, 0xEF, 0x001979A2⟩) ∧
    two 0xE44EB821CB752A07 0x3BE1882E010052D5 = some (.gchain ⟨⟨0x3A, 0xE0, 0x87, 0x2D, 0xD4, 0xA, 0x20, 0x7⟩, 0x3B, 0xE1, 0x88, 0x2E, 0x010052D5⟩) ∧
    two 0xE4574DF45A813B82 0xA23CD56F01E72C09 = some (.gpart ⟨⟨0x1D, 0x37, 0xD1, 0x6A, 0x04, 0xE, 0x38, 0x2⟩, 0xA2, 0x3C, 0xD5, 0x6F, 0x01E72C09⟩) ∧
    two 0xE460A3C72A4D911E 0x0A9725B200CE053F = some (.gtran ⟨⟨0x02, 0x8F, 0x1C, 0xA9, 0x36, 0x4, 0x11, 0xE⟩, 0x0A, 0x97, 0x25, 0xB2, 0x00CE053F⟩) ∧
    two 0xE47A3A1A7A9AAEBC 0x74F575F601B4DE76 = some (.gflat ⟨⟨0x28, 0xE8, 0x69, 0xEA, 0x6A, 0xB, 0x2B, 0xC⟩, 0x74, 0xF5, 0x75, 0xF6, 0x01B4DE76⟩) ∧
    two 0xE484112E0B28108C 0xDF53C73B009BB7AF = some (.gslice ⟨⟨0x10, 0x44, 0xB8, 0x2C, 0xA0, 0x4, 0x08, 0xC⟩, 0xDF, 0x53, 0xC7, 0x3B, 0x009BB7AF⟩) ∧
    two 0xE49E68021BF5BA5C 0x4CB41B82018290EA = some (.gswz ⟨⟨0x39, 0xA0, 0x08, 0x6F, 0xD6, 0xE, 0x25, 0xC⟩, 0x4C, 0xB4, 0x1B, 0x82, 0x018290EA⟩) ∧
    two 0xE4A93F966D03E44F 0xBB1670CB00696A26 = some (.gchk ⟨⟨0x24, 0xFE, 0x59, 0xB4, 0x0F, 0x9, 0x04, 0xF⟩, 0xBB, 0x16, 0x70, 0xCB, 0x00696A26⟩) ∧
    two 0xE4B417AB3E921E53 0x2B79C71501504363 = some (.gbank ⟨⟨0x10, 0x5E, 0xAC, 0xFA, 0x48, 0x7, 0x25, 0x3⟩, 0x2B, 0x79, 0xC7, 0x15, 0x01504363⟩) := by decide +kernel

theorem test_decode_matrix :
    two 0xE80D6995C26EB1DF 0xD18334E5011B4597 = some (.mma ⟨⟨0x35, 0xA6, 0x57, 0x09, 0xBA, 0xC, 0x1D, 0xF⟩, 0xD1, 0x83, 0x34, 0xE5, 0x011B4597⟩) ∧
    two 0xE81CD5FF2851AD04 0x9338DD8100021F26 = some (.mmad ⟨⟨0x33, 0x57, 0xFC, 0xA1, 0x46, 0xB, 0x10, 0x4⟩, 0x93, 0x38, 0xDD, 0x81, 0x00021F26⟩) ∧
    two 0xE82C82A8CEF4EC3C 0x56EE871F00E8F8B7 = some (.mmsp ⟨⟨0x32, 0x0A, 0xA3, 0x3B, 0xD3, 0xB, 0x03, 0xC⟩, 0x56, 0xEE, 0x87, 0x1F, 0x00E8F8B7⟩) ∧
    two 0xE884176A7D90BDB8 0x0A56A3EF0052123C = some (.fbset ⟨⟨0x10, 0x5D, 0xA9, 0xF6, 0x42, 0xF, 0x1B, 0x8⟩, 0x0A, 0x56, 0xA3, 0xEF, 0x0052123C⟩) ∧
    two 0xE8968696A6B6A9A9 0xD81858970138EBD7 = some (.aczero ⟨⟨0x1A, 0x1A, 0x5A, 0x9A, 0xDA, 0xA, 0x1A, 0x9⟩, 0xD8, 0x18, 0x58, 0x97, 0x0138EBD7⟩) ∧
    two 0xE8A9B643501CD9AD 0xA7DB0E41001FC574 = some (.acld ⟨⟨0x26, 0xD9, 0x0D, 0x40, 0x73, 0x6, 0x1A, 0xD⟩, 0xA7, 0xDB, 0x0E, 0x41, 0x001FC574⟩) ∧
    two 0xE8BCE6B079C395B2 0x789FC6EC01069F13 = some (.acst ⟨⟨0x33, 0x9A, 0xC1, 0xE7, 0x0E, 0x5, 0x1B, 0x2⟩, 0x78, 0x9F, 0xC6, 0xEC, 0x01069F13⟩) ∧
    two 0xE8C0971DA42A91E8 0x4B657F9901ED78B3 = some (.acrd ⟨⟨0x02, 0x5C, 0x76, 0x90, 0xAA, 0x4, 0x1E, 0x8⟩, 0x4B, 0x65, 0x7F, 0x99, 0x01ED78B3⟩) ∧
    two 0xE8D4C80B4ED21A30 0x1F2C394700D45254 = some (.acwr ⟨⟨0x13, 0x20, 0x2D, 0x3B, 0x48, 0x6, 0x23, 0x0⟩, 0x1F, 0x2C, 0x39, 0x47, 0x00D45254⟩) ∧
    two 0xE8E93979B9FA229A 0xF4F5F6F701BB2BF7 = some (.acmax ⟨⟨0x24, 0xE5, 0xE6, 0xE7, 0xE8, 0x8, 0x29, 0xA⟩, 0xF4, 0xF5, 0xF6, 0xF7, 0x01BB2BF7⟩) := by decide +kernel

theorem test_decode_copy :
    two 0xEC0B7DE042E57E93 0x34BE47D100D1B55B = some (.cpy ⟨⟨0x2D, 0xF7, 0x81, 0x0B, 0x95, 0xF, 0x29, 0x3⟩, 0x34, 0xBE, 0x47, 0xD1, 0x00D1B55B⟩) ∧
    two 0xEC130261C1207FC9 0x56D451CE01B88F4C = some (.cpyg ⟨⟨0x0C, 0x09, 0x87, 0x04, 0x81, 0xF, 0x3C, 0x9⟩, 0x56, 0xD4, 0x51, 0xCE, 0x01B88F4C⟩) ∧
    two 0xEC2B4763BFDC0112 0x7BEB5CCD009F693D = some (.cpys ⟨⟨0x2D, 0x1D, 0x8E, 0xFF, 0x70, 0x0, 0x11, 0x2⟩, 0x7B, 0xEB, 0x5C, 0xCD, 0x009F693D⟩) ∧
    two 0xEC33CCE5FED7CE7C 0xA10569CD01864331 = some (.cpyz ⟨⟨0x0F, 0x33, 0x97, 0xFB, 0x5F, 0x3, 0x27, 0xC⟩, 0xA1, 0x05, 0x69, 0xCD, 0x01864331⟩) ∧
    two 0xEC4CD2A8BE5463F7 0xC81F77CE006D1D26 = some (.cpym ⟨⟨0x33, 0x4A, 0xA2, 0xF9, 0x51, 0x8, 0x3F, 0x7⟩, 0xC8, 0x1F, 0x77, 0xCE, 0x006D1D26⟩) := by decide +kernel

theorem test_decode_fabric :
    two 0xEC846DB6C0096AF4 0x7499BEE300088508 = some (.psel ⟨⟨0x11, 0xB6, 0xDB, 0x00, 0x25, 0xA, 0x2F, 0x4⟩, 0x74, 0x99, 0xBE, 0xE3, 0x00088508⟩) ∧
    two 0xED05756555455556 0x16D69656013F5516 = some (.cpyr ⟨⟨0x15, 0xD5, 0x95, 0x55, 0x15, 0x5, 0x15, 0x6⟩, 0x16, 0xD6, 0x96, 0x56, 0x013F5516⟩) ∧
    two 0xED13402CD9C6B815 0x5105B86C00262F1F = some (.strep ⟨⟨0x0D, 0x00, 0xB3, 0x67, 0x1A, 0xE, 0x01, 0x5⟩, 0x51, 0x05, 0xB8, 0x6C, 0x00262F1F⟩) ∧
    two 0xED214B34DE8862E5 0x8E35DB82010D0929 = some (.fcoll ⟨⟨0x05, 0x2C, 0xD3, 0x7A, 0x21, 0x8, 0x2E, 0x5⟩, 0x8E, 0x35, 0xDB, 0x82, 0x010D0929⟩) := by decide +kernel

theorem test_decode_work :
    two 0xF009A23A936BCB47 0xD6399BFD00883D60 = some (.spawn ⟨⟨0x26, 0x88, 0xEA, 0x4D, 0xAF, 0x2, 0x34, 0x7⟩, 0xD6, 0x39, 0x9B, 0xFD, 0x00883D60⟩) ∧
    two 0xF019BED469FF4E9E 0x5AB0065B016F17B1 = some (.spawnj ⟨⟨0x26, 0xFB, 0x51, 0xA7, 0xFD, 0x3, 0x29, 0xE⟩, 0x5A, 0xB0, 0x06, 0x5B, 0x016F17B1⟩) ∧
    two 0xF03AB9C918276563 0x66A3DF1C013CCC58 = some (.launch ⟨⟨0x2A, 0xE7, 0x24, 0x60, 0x9D, 0x9, 0x16, 0x3⟩, 0x66, 0xA3, 0xDF, 0x1C, 0x013CCC58⟩) := by decide +kernel

/-- Frame kinds 1 and 2 (R45 to R48): `VFMUL.f32 v8, v9, 0.5` as a literal frame, and `VADD` beside `VFMUL`. A code that has no such form
and a code that the map does not assign are reserved (R57); a W frame needs its second word. -/
theorem test_decode_kinds :
    one 0x688008093F000000 = some (.literalFrame ⟨0xA2, 0, 0x08, 0x09, 0x3F000000⟩) ∧
    one 0x803802036270090A = some (.pairFrame ⟨0x00, 7, 0, 0x04, 0x06⟩ ⟨0x62, 7, 0, 0x09, 0x0A⟩) ∧
    one 0x0550000000000000 = some (.reservedOpcode 0x0550000000000000) ∧
    one 0xFFF0000000000000 = some (.reservedOpcode 0xFFF0000000000000) ∧
    one 0xE8003882027E2C00 = none ∧ decode [1, 2, 3] = .error .truncatedWord ∧
    decode (wordBytes 0xE8003882027E2C00) = .error .truncatedWideFrame := by
  refine ⟨?_, ?_, ?_, ?_, ?_, rfl, rfl⟩ <;> decide +kernel

/-! ### Well-formedness: an ill-formed term for every static check, beside a well-formed one -/

/-- Guard without its enable bit; a guard where none may stand; dst outside its class; a nonzero unused field; an odd pair; a type, a
variant and a flag that the instruction does not accept (R43, R53 to R55). -/
theorem test_wf_frame :
    wf (.vadd ⟨0x23, 0x04, 0x05, 0x06, 0x00, 3, 0, 1⟩) = true ∧ wf (.vadd ⟨0x03, 0x04, 0x05, 0x06, 0x00, 3, 0, 0⟩) = false ∧
    wf (.join ⟨0, 0, 0⟩) = true ∧ wf (.join ⟨0x20, 0, 0⟩) = false ∧
    wf (.vadd ⟨0, 0x84, 0x05, 0x06, 0x00, 3, 0, 0⟩) = false ∧ wf (.vadd ⟨0, 0x04, 0xB0, 0x06, 0x00, 3, 0, 0⟩) = false ∧
    wf (.vadd ⟨0, 0x04, 0x05, 0xFC, 0x00, 3, 0, 0⟩) = false ∧ wf (.vadd ⟨0, 0x04, 0x05, 0x06, 0x01, 3, 0, 0⟩) = false ∧
    wf (.vadd ⟨0, 0x04, 0x06, 0x08, 0x00, 5, 0, 0⟩) = true ∧ wf (.vadd ⟨0, 0x05, 0x06, 0x08, 0x00, 5, 0, 0⟩) = false ∧
    wf (.vadd ⟨0, 0x04, 0x05, 0x06, 0x00, 8, 0, 0⟩) = false ∧ wf (.vadd ⟨0, 0x04, 0x05, 0x06, 0x00, 3, 1, 0⟩) = false ∧
    wf (.vadd ⟨0, 0x04, 0x05, 0x06, 0x00, 3, 0, 2⟩) = false := by decide +kernel

/-- The control forms (R56, R93): dst is zero, the long form takes any offset, the test form a register of its class, the indirect form
and the code form clear low and high bits, the plain form all zeros. -/
theorem test_wf_control :
    wf (.bra ⟨0, 0, 0x3FFFFFFFFF⟩) = true ∧ wf (.bra ⟨0, 1, 0⟩) = false ∧ wf (.brz ⟨0, 0, 0x2000000001⟩) = true ∧
    wf (.brz ⟨0, 0, 0x2C00000001⟩) = false ∧ wf (.brd ⟨0, 0, 0x2C00000001⟩) = true ∧ wf (.brq ⟨0, 0, 0x2800000001⟩) = true ∧
    wf (.brx ⟨0, 0, 0x2000000000⟩) = true ∧ wf (.brx ⟨0, 0, 0x2000000001⟩) = false ∧ wf (.trap ⟨0, 0, 0xFFFF⟩) = true ∧
    wf (.trap ⟨0, 0, 0x10000⟩) = false ∧ wf (.nop ⟨0, 0, 1⟩) = false := by decide +kernel

/-- Conditions of single instructions: a comparison condition above 5, `VLI` from a vector, a carry predicate above 15, float
variants, special types, packing from a 64-bit type, `.feq` of integers, a scope above `.sys`, an order, `.v4` off a multiple of 4, an
atomic of a float type, `FENCEX` paths, `WAITCNT` thresholds, tag, barrier and register numbers. -/
theorem test_wf_fields :
    wf (.scmp ⟨0, 0x80, 0x81, 0x82, 0, 0, 6, 0⟩) = false ∧ wf (.vli ⟨0, 0x04, 0, 0x05, 0, 0, 0, 0⟩) = false ∧
    wf (.vaddc ⟨0, 0x04, 0x05, 0x06, 0, 0, 0x10, 0⟩) = false ∧ wf (.vfadd ⟨0, 0x04, 0x05, 0x06, 0, 0, 4, 0⟩) = false ∧
    wf (.vfmin ⟨0, 0x04, 0x05, 0x06, 0, 0, 1, 0⟩) = false ∧ wf (.vfcmp ⟨0, 0xB0, 0x05, 0x06, 0, 0, 0x1C, 0⟩) = false ∧
    wf (.vrcp ⟨0, 0x04, 0, 0x06, 0, 7, 0, 0⟩) = false ∧ wf (.vpack ⟨0, 0x04, 0, 0x06, 0, 1, 0x14, 0⟩) = false ∧
    wf (.vcvtb ⟨0, 0x04, 0, 0x06, 0, 11, 0x1C, 0⟩) = false ∧ wf (.matchLanes ⟨0, 0x04, 0, 0x06, 0, 3, 1, 0⟩) = false ∧
    wf (.shfl ⟨0, 0x04, 0x05, 0x06, 0, 0, 0x14, 0⟩) = false ∧ wf (.vred ⟨0, 0x04, 0, 0x06, 0, 0, 6, 0⟩) = false ∧
    wf (.ld ⟨0, 0x04, 0x84, 0xF8, 0, 0, 6, 0⟩) = false ∧ wf (.ld ⟨0, 0x04, 0x84, 0xF8, 0, 0, 0x10, 0⟩) = false ∧
    wf (.ld ⟨0, 0x06, 0x84, 0xF8, 0, 0, 0x20, 0⟩) = false ∧ wf (.st ⟨0, 0x04, 0x84, 0xF8, 0, 0, 8, 0⟩) = false ∧
    wf (.atom ⟨0, 0x04, 0x84, 0xF8, 0x06, 8, 0, 3⟩) = false ∧ wf (.cas ⟨0, 0x04, 0x84, 0xF8, 0x05, 0, 0, 0⟩) = false ∧
    wf (.fence ⟨0, 0, 0, 0, 0, 0, 0, 0⟩) = false ∧ wf (.fencex ⟨0, 0, 5, 0, 0, 0, 0x18, 0⟩) = false ∧ wf (.fencex ⟨0, 0, 0, 0, 0, 0, 0, 0⟩) = false ∧
    wf (.waitcnt ⟨0, 64, 0, 0, 0, 0, 0, 0⟩) = false ∧ wf (.tlook ⟨0, 0x04, 0x05, 0, 0, 0, 0, 0⟩) = false ∧
    wf (.binit ⟨0, 0, 0x81, 0x82, 0, 0, 0, 6⟩) = false ∧ wf (.barrx ⟨0, 0, 0x81, 0x82, 0, 0, 0, 2⟩) = false ∧
    wf (.srd ⟨0, 0x83, 0, 0, 0x7F, 0, 0, 0⟩) = false ∧ wf (.swr ⟨0, 0, 0, 0x85, 0x30, 0, 0, 0⟩) = false ∧
    wf (.tlbi ⟨0, 0, 0x81, 0x82, 0, 0, 3, 0⟩) = false ∧ wf (.eget ⟨0, 0x83, 0, 0, 0, 0, 4, 0⟩) = false := by decide +kernel

/-- Wide frames (R51): the unused second-word fields are zero, wflags and imm hold what the instruction assigns, a literal leaves srcB
zero; then conditions of single ones: `GDEF` selections, a `GSWZ` preset, an `.f64` tile, `.sat` of a float multiply, both engines,
a release value without `.rel`, the page stride. -/
theorem test_wf_wide :
    wf (.gmov ⟨⟨0, 0xC1, 0, 0xC2, 0, 0, 0, 0⟩, 0, 0, 0, 0, 0⟩) = true ∧
    wf (.gmov ⟨⟨0, 0xC1, 0, 0xC2, 0, 0, 0, 0⟩, 1, 0, 0, 0, 0⟩) = false ∧
    wf (.gmov ⟨⟨0, 0xC1, 0, 0xC2, 0, 0, 0, 0⟩, 0, 0, 0, 1, 0⟩) = false ∧
    wf (.gmov ⟨⟨0, 0xC1, 0, 0xC2, 0, 0, 0, 0⟩, 0, 0, 0, 0, 1⟩) = false ∧
    wf (.gdef ⟨⟨0, 0xC1, 0xF8, 0, 0, 0, 0, 1⟩, 0, 0, 0, 8, 7⟩) = true ∧
    wf (.gdef ⟨⟨0, 0xC1, 0xF8, 0x81, 0, 0, 0, 1⟩, 0, 0, 0, 8, 7⟩) = false ∧
    wf (.gdef ⟨⟨0, 0xC1, 0xF8, 0, 0, 0, 0, 1⟩, 0, 0, 0, 9, 7⟩) = false ∧
    wf (.gmov ⟨⟨0, 0xC1, 0, 0, 0, 0, 0, 1⟩, 0, 0, 0, 0, 7⟩) = false ∧
    wf (.gtran ⟨⟨0, 0xC1, 0xC2, 0, 0, 0, 0, 0⟩, 0, 0, 0, 0, 256⟩) = false ∧
    wf (.gswz ⟨⟨0, 0xC1, 0xC2, 0, 0, 0, 0, 0⟩, 0, 0, 0, 0, 0x81⟩) = false ∧
    wf (.aczero ⟨⟨0, 0xE1, 0, 0, 0, 7, 0, 0⟩, 0, 0, 0, 0, 0⟩) = false ∧
    wf (.mma ⟨⟨0, 0xE2, 0x08, 0x09, 0xF8, 11, 4, 0⟩, 0xC4, 0xC5, 0x86, 0, 0⟩) = false ∧
    wf (.mma ⟨⟨0, 0xE2, 0x08, 0x09, 0xF0, 11, 0, 0⟩, 0xC4, 0xC5, 0x86, 0, 0⟩) = false ∧
    wf (.cpy ⟨⟨0, 0x84, 0xC1, 0x85, 0xC2, 0, 0, 0⟩, 0xF8, 0, 0, 0, 0⟩) = true ∧
    wf (.cpy ⟨⟨0, 0x84, 0xC1, 0x85, 0xC2, 0, 0, 0⟩, 0xF8, 0, 0, 0x60, 0⟩) = false ∧
    wf (.cpy ⟨⟨0, 0x84, 0xC1, 0x85, 0xC2, 0, 0, 0⟩, 0xF8, 0, 0, 0, 1⟩) = false ∧
    wf (.cpy ⟨⟨0, 0x84, 0xC1, 0x85, 0xC2, 0, 0, 0⟩, 0xF8, 0, 0x9F, 3, 1⟩) = false ∧
    wf (.psel ⟨⟨0, 0x84, 0x85, 0x86, 0x87, 0, 0, 0⟩, 0x88, 0x89, 0, 0, 0x1FF⟩) = false ∧
    wf (.fcoll ⟨⟨0, 0x84, 0x85, 0x86, 0x87, 3, 0, 0⟩, 0x88, 0, 0, 0, 0⟩) = false := by decide +kernel

/-- Literal and pair frames, reserved words and events: a code without the form, a field the form refuses, the causes 0x02, 0x03 and 0x06
of a pair (R48 to R50), a word that is not reserved, a unit that does not exist. -/
theorem test_wf_others :
    wf (.literalFrame ⟨0xA2, 0, 0x08, 0x09, 0⟩) = true ∧ wf (.literalFrame ⟨0xB0, 0, 0x08, 0x09, 0⟩) = false ∧
    wf (.literalFrame ⟨0xA2, 0, 0xC8, 0x09, 0⟩) = false ∧
    wf (.pairFrame ⟨0, 7, 0, 4, 6⟩ ⟨0x62, 7, 0, 9, 10⟩) = true ∧ pairCause ⟨0, 15, 0, 4, 6⟩ ⟨0x62, 7, 0, 9, 10⟩ = some 0x02 ∧
    pairCause ⟨0, 7, 0, 4, 6⟩ ⟨0x62, 7, 0, 8, 10⟩ = some 0x03 ∧ pairCause ⟨0, 7, 0, 4, 0x86⟩ ⟨0x62, 7, 0, 9, 10⟩ = some 0x06 ∧
    wf (.pairFrame ⟨0x20, 7, 0, 4, 6⟩ ⟨0x62, 7, 0, 9, 10⟩) = false ∧
    wf (.reservedOpcode 0x0550000000000000) = true ∧ wf (.reservedOpcode 0) = false ∧
    wf (.idleCycle 511 3) = true ∧ wf (.idleCycle 512 0) = false ∧ wf (.idleCycle 0 4) = false ∧ wf (.bankServe 0 32) = false ∧
    wf (.commandStart (.copy 0 2)) = false ∧ wf (.commandStart (.psel 64)) = false ∧ wf (.commandStart (.egress 8)) = false ∧
    wf (.pageWalk 8) = false ∧ wf (.couplerCycle 64) = false ∧ wf (.wavelengthFail 512) = false ∧ wf (.flitReplay 48) = false ∧
    wf (.censusFlit 0 4 0) = false := by decide +kernel

/-! ### A small machine for the tests -/

/-- A translation of a 64 KiB page of virtual memory, present, writable and a leaf (Table 13.2). -/
def pageAt (va pa : Nat) : TlbEntry := { asn := 0, vbase := va, bits := 16, leaf := BitVec.ofNat 64 (pa + 0x15) }

/-- Die 0 in service, region 1 active with its control block at 0x30100 and a handler at 0x100, one workgroup of one group with both
slices live at PC 0: vector queues q0 (X to A) and q2 (A to X), scalar queues q1 and q3, two tiles, a page of data at 0x10000, a
frame area in a system page at 0x40000. -/
def bench : State :=
  let s := State.reset.withFetchWord 64 0
  let q (x2a sc : Bool) (es : List QEntry) : Queue := { depth := 8, x2a := x2a, scalar := sc, entries := es, phases := 0, head := 0 }
  let e : TagEntry := { key := 0, slot := 0, valid := false }
  let g := fetchGroup 1 0
  { s with
    cur := some { grp := 1, a := false, slot1 := false }
    mem := s.mem.writeNat (0x30100 + 56) 8 0x100
    pkg := { s.pkg with rtab := 0x30000, rmax := 16 }
    regions := [⟨1, [], false, false, false, [], none, 0, 0, false, []⟩]
    wgs := s.wgs.map (fun w => { w with tags0 := List.replicate 4 (List.replicate 8 e) })
    groups := [{ g with
      a := some g.x, frameBase := 0x40000, acc := List.replicate 2 (Vector.replicate 32 (Vector.replicate 32 0)),
      queues := (((g.queues.setIfInBounds 0 (q true false [])).setIfInBounds 1 (q true true [])).setIfInBounds 2
        (q false false [])).setIfInBounds 3 (q false true []) }]
    cores := s.cores.setIfInBounds 0 { (s.core 0) with tlb := pageAt 0x10000 0x20000 :: { pageAt 0x40000 0x50000 with leaf := 0x50815 } :: (s.core 0).tlb } }

/-- Change both slices of the group. -/
def both (f : Slice → Slice) (s : State) : State := { s with groups := s.groups.map (fun g => { g with x := f g.x, a := g.a.map f }) }

/-- Set scalar registers. -/
def regs (l : List (Nat × Nat)) (s : State) : State := both (fun sl => l.foldl (fun sl p => sl.setS p.1 (BitVec.ofNat 64 p.2)) sl) s

/-- Set vector registers, lane by lane. -/
def vecs (l : List (Nat × (Nat → Nat))) (s : State) : State :=
  both (fun sl => l.foldl (fun sl p => { sl with vreg := sl.vreg.set p.1 (tabulate 32 (fun i => BitVec.ofNat 32 (p.2 i))) }) sl) s

/-- Set predicate registers. -/
def preds (l : List (Nat × W32)) (s : State) : State := both (fun sl => l.foldl (fun sl p => sl.setP p.1 (BitVec.allOnes 32) p.2) sl) s

/-- Set geometry registers. -/
def geos (l : List (Nat × Geom)) (s : State) : State :=
  { s with groups := s.groups.map (fun g => { g with geom := l.foldl (fun v p => v.setIfInBounds p.1 p.2.toReg) g.geom }) }

/-- Change the group. -/
def onGroup (f : Group → Group) (s : State) : State := { s with groups := s.groups.map f }

/-- Change the workgroup. -/
def onWg (f : Wg → Wg) (s : State) : State := { s with wgs := s.wgs.map f }

/-- The A-slice issues. -/
def onA (s : State) : State := { s with cur := some { grp := 1, a := true, slot1 := false } }

/-- The environment of the issuing slot. -/
def envOf (s : State) : Env := s.env?.getD ⟨s, ⟨0, false, false⟩, fetchGroup 0 0, Slice.reset, ⟨0, 0, 0, 0, false⟩, fetchWg 0⟩

/-- The next state of an outcome; the given one where there is none. -/
def after (s : State) (i : Instr) : State := match exec i s with | .next t => t | _ => s

/-- The slice that the state's cursor names. -/
def sliceOf (s : State) : Slice := ((s.cur.bind (fun c => s.slice? c.grp c.a))).getD Slice.reset

/-- Does an action succeed? -/
def isOk {ε α : Type} : Except ε α → Bool
  | .ok _ => true
  | .error _ => false

/-- What an action that succeeds gives. -/
def got {ε α : Type} : (x : Except ε α) → isOk x = true → α
  | .ok a, _ => a

theorem ok_got {ε α : Type} : (x : Except ε α) → (h : isOk x = true) → x = .ok (got x h)
  | .ok _, _ => rfl

theorem env_of {s : State} (h : s.env?.isSome = true) : s.env? = some (envOf s) := by
  cases h' : s.env? with
  | none => simp [h'] at h
  | some e => simp [envOf, h']

/-- The check of `OperandReady` as a value. -/
def readyB (e : Env) (s : State) (l : List Named) : Bool := l.all (fun n => n.pos.accepts.isEmpty ||
  ((regConds e n.pos n.push n.code).isEmpty && !s.splitPhase e n.pos n.code && !s.busy e n.pos n.code))

theorem ready_of {e : Env} {s : State} {l : List Named} (h : readyB e s l = true) : ∀ n ∈ l, OperandReady e s n := by
  intro n hn
  have := List.all_eq_true.1 h n hn
  simp only [Bool.or_eq_true, List.isEmpty_iff, Bool.and_eq_true, Bool.not_eq_true'] at this
  rcases this with h | ⟨⟨h1, h2⟩, h3⟩
  · exact .inl h
  · exact .inr ⟨h1, h2, h3⟩

theorem fready {s : State} {sp : FSpec} {f : FFrame} {lit : Option W32}
    (h : (s.env?.isSome && f.ok sp lit.isSome && readyB (envOf s) s (operandsOf sp f lit)) = true) : FReady (envOf s) sp f lit s := by
  simp only [Bool.and_eq_true] at h
  exact ⟨env_of h.1.1, h.1.2, ready_of h.2⟩

theorem wready {s : State} {sp : WSpec} {w : WFrame} {x : Bool}
    (h : (s.env?.isSome && w.ok sp && !(x && (envOf s).cur.a) && readyB (envOf s) s (operandsOfW sp w)) = true) :
    WReady (envOf s) sp w x s := by
  simp only [Bool.and_eq_true, Bool.not_eq_true'] at h
  exact ⟨env_of h.1.1.1, h.1.1.2, h.1.2, ready_of h.2⟩

theorem mready {s : State} {sp : FSpec} {f : FFrame} {c : List Cond} {l : List Named}
    (h : (s.env?.isSome && f.ok sp false && c.isEmpty && readyB (envOf s) s l) = true) : MReady (envOf s) sp f c l s := by
  simp only [Bool.and_eq_true, List.isEmpty_iff] at h
  exact ⟨env_of h.1.1.1, h.1.1.2, h.1.2, ready_of h.2⟩

theorem cready {s : State} {c : CFrame} {form : CForm} {g : Bool} (h : (s.env?.isSome && c.ok form g) = true) :
    CReady (envOf s) c form g s := by
  simp only [Bool.and_eq_true] at h
  exact ⟨env_of h.1, h.2⟩

/-- The check of `EnterRoom` as a value, for accesses that go to no peer. -/
def roomB (e : Env) (kind : PendKind) (accs : List LaneAcc) (s : State) : Bool :=
  let sl := (s.slice? e.cur.grp e.cur.a).getD e.sl
  Nat.ble ((if kind.isLoad then sl.loads else sl.stores) + 1) 63 &&
  ((s.core e.g.core).ttWait.isEmpty && Nat.ble ((s.core e.g.core).used + entriesOf accs) 256) &&
  accs.all (fun a => match a.place with | .fabric _ _ => false | _ => true)

theorem enterRoom {e : Env} {kind : PendKind} {accs : List LaneAcc} {s : State} (h : roomB e kind accs s = true) : EnterRoom e kind accs s := by
  simp only [roomB, Bool.and_eq_true, List.isEmpty_iff, Nat.ble_eq] at h
  obtain ⟨⟨h1, h2, h3⟩, h4⟩ := h
  refine ⟨h1, .inr ?_, fun p hp => ?_⟩
  · simp only [h2, List.takeWhile_nil, List.filter_nil, List.map_nil, List.sum_nil]
    omega
  · obtain ⟨a, ha, hq⟩ := List.mem_filterMap.1 hp
    have := List.all_eq_true.1 h4 a ha
    split at hq
    · next h => simp [h] at this
    · simp at hq

theorem tableRoom_of {e : Env} {n : Nat} {s : State}
    (h : ((s.core e.g.core).ttWait.isEmpty && Nat.ble ((s.core e.g.core).used + n) 256) = true) : TableRoom e n s := by
  simp only [Bool.and_eq_true, List.isEmpty_iff, Nat.ble_eq] at h
  refine .inr ?_
  simp only [h.1, List.takeWhile_nil, List.filter_nil, List.map_nil, List.sum_nil]
  omega

/-! ### Witnesses: states and operands that meet the hypotheses of the statements -/

/-- A queue with room, and no synchronising access to wait for. -/
theorem queueRoom {e : Env} {c : BitVec 8} {k : Nat} {s : State}
    (h : (let g := (s.group? e.cur.grp).getD e.g
      Nat.ble ((g.queue (regNo c)).entries.length + k) (g.queue (regNo c)).depth && (s.core e.g.core).pend.isEmpty) = true) : Room e c k s := by
  simp only [Bool.and_eq_true, List.isEmpty_iff, Nat.ble_eq] at h
  exact fun _ => .inr ⟨h.1, by simp [SyncIdle, h.2]⟩

theorem room_of {e : Env} {c : BitVec 8} {k : Nat} {s : State} (h : RC.of c ≠ .q) : Room e c k s := fun h' => absurd h' h

/-- Scalars in s4 and s5, vectors in v4 to v11, predicates p1 and p2. -/
def bench1 : State :=
  preds [(1, 0x0000FFFF), (2, 0xAAAAAAAA), (5, 0x80000001)] (vecs [(4, fun l => l), (5, fun l => 0x3F800000 + l), (6, fun _ => 3), (7, fun l => 31 - l),
    (8, fun l => l / 2), (9, fun _ => 0x3C003C00), (10, fun l => 2 * l), (11, fun l => l * l)] (regs [(4, 40), (5, 2), (6, 0x10000)] bench))

theorem witness_ScalarIntegerResult : ∃ (i : Instr) (f : FFrame) (sp : FSpec) (op : IntOp) (s t : State) (e : Env) (a b c : W64),
    scalarOp (asF i).2.isSome (asF i).1 = some (f, sp, op) ∧ FReady e sp f (asF i).2 s ∧
    ScalarSources e sp f (asF i).2 s a b c t ∧ Room e f.dst 1 t :=
  ⟨.ssel ⟨0x21, 0x9F, 0x84, 0x85, 0xFB, 6, 0, 0⟩, _, _, _, bench1, bench1, envOf bench1, _, _, _, rfl, fready (by decide +kernel),
    ⟨_, _, rfl, rfl, rfl⟩, room_of (by decide)⟩

/-- The same for a literal frame that pushes a scalar queue. -/
theorem witness_ScalarIntegerResult_literal : ∃ (i : Instr) (f : FFrame) (sp : FSpec) (op : IntOp) (s t : State) (e : Env) (a b c : W64),
    scalarOp (asF i).2.isSome (asF i).1 = some (f, sp, op) ∧ FReady e sp f (asF i).2 s ∧
    ScalarSources e sp f (asF i).2 s a b c t ∧ RC.of f.dst = .q ∧ Room e f.dst 1 t :=
  ⟨.literalFrame ⟨0x00, 0, 0xA1, 0x84, 0xFFFFFFFF⟩, _, _, _, bench1, bench1, envOf bench1, _, _, _, rfl, fready (by decide +kernel),
    ⟨_, _, rfl, rfl, rfl⟩, by decide, queueRoom (by decide +kernel)⟩

/-- Offsets in v12 (words) and v13 (double words), addresses of the data page in s6 and in the pair v14, a local-store offset in s7. -/
def bench3 : State :=
  vecs [(12, fun l => 4 * l), (13, fun l => 8 * l), (14, fun l => 0x10000 + 8 * l), (15, fun _ => 0), (16, fun l => 4 * l % 32)]
    (regs [(6, 0x10000), (7, 0x100), (8, 0x1FF), (9, 3)] bench1)

/-- The place that an address translates to; place 0 where there is none. -/
def placeOf (s : State) (va : W64) (acc : Access) : Place := match (envOf s).xlate s va acc with | .place p => p | _ => .mem 0

/-- A row-major m × n layout of elements of a format in a space, with one mode for each leaf. -/
def tileGeom (m n fmt space : Nat) : Geom :=
  { leaves := [⟨n, 1⟩, ⟨m, n⟩], gap := false, rows := List.replicate 7 0, bc := 0, swz := false, mmask := 3, fmt := fmt,
    space := space, dief := false, dleaf := 0 }

/-- g1 and g2 in memory, g4 and g5 in local store (8-bit codes of E4M3), g3 a 4 × 8 layout of 32-bit words. -/
def bench4 : State :=
  vecs [(20, fun l => l % 16), (21, fun l => if l < 16 then 0x800 else 0x1800)]
    (geos [(1, tileGeom 16 32 4 0), (2, tileGeom 4 8 8 0), (3, tileGeom 4 8 4 1), (4, tileGeom 16 128 11 1), (5, tileGeom 32 128 11 1),
      (7, tileGeom 32 256 11 1),
      (6, tileGeom 2 4 4 0)] (regs [(10, 0x10000), (11, 0x10400), (12, 0), (13, 2), (14, 1)] bench3))


/-- An F frame from numbers: guard, destination, three sources, type, variant, flags. -/
def mkF (g d a b c ty v fl : Nat) : FFrame :=
  ⟨BitVec.ofNat 6 g, BitVec.ofNat 8 d, BitVec.ofNat 8 a, BitVec.ofNat 8 b, BitVec.ofNat 8 c, BitVec.ofNat 4 ty, BitVec.ofNat 6 v, BitVec.ofNat 4 fl⟩

/-- A control frame with a displacement or code in its body. -/
def mkC (g d : Nat) (body : Int) : CFrame := ⟨BitVec.ofNat 6 g, BitVec.ofNat 8 d, BitVec.ofInt 38 body⟩

/-- What an action that succeeds gives, as an equation. -/
theorem ok_pair {α : Type} (x : Except Stop (α × State)) (h : isOk x = true) : x = .ok ((got x h).1, (got x h).2) := ok_got x h

theorem some_get {α : Type} (o : Option α) (h : o.isSome = true) : o = some (o.get h) := by simp

theorem witness_VectorIntegerResult : ∃ (i : Instr) (f : FFrame) (sp : FSpec) (op : IntOp) (s t : State) (e : Env) (a b c : Lanes64),
    vectorOp (asF i).1 = some (f, sp, op) ∧ FReady e sp f (asF i).2 s ∧
    vecSources e sp f (asF i).2 (Ty.ofCode .s32 f.ty) (Ty.ofCode .s32 f.ty) (Ty.ofCode .s32 f.ty) s = .ok ((a, b, c), t) ∧
    Room e f.dst (if (Ty.ofCode .s32 f.ty).wide then 2 else 1) t :=
  ⟨.vmad (mkF 0x21 63 4 0x85 0xFB 3 0 1), _, _, _, bench1, bench1, envOf bench1, _, _, _, rfl, fready (by decide +kernel), rfl,
    room_of (by decide)⟩

theorem witness_VectorLaneResult : ∃ (i : Instr) (x : LaneOp) (s t : State) (e : Env) (a b c : Lanes64),
    laneOp (asF i).1 = some x ∧ (∀ l g, i = .literalFrame l → (asF i).1 ≠ .vcvt g) ∧ FReady e x.sp x.f (asF i).2 s ∧
    vecSources e x.sp x.f (asF i).2 x.ta x.tb x.tc s = .ok ((a, b, c), t) ∧ Room e x.f.dst (if x.wide then 2 else 1) t :=
  ⟨.vfma (mkF 0 0x20 5 5 5 8 0 0), _, bench1, bench1, envOf bench1, _, _, _, rfl, fun _ _ h => by simp at h,
    fready (by decide +kernel), rfl, room_of (by decide)⟩

theorem witness_VectorTestResult : ∃ (i : Instr) (f : FFrame) (sp : FSpec) (ta tb : Ty) (fn : Nat → Nat → Bool × Events) (s t : State)
    (e : Env) (a b c : Lanes64),
    testOp (asF i).1 = some (f, sp, ta, tb, fn) ∧ FReady e sp f (asF i).2 s ∧
    vecSources e sp f (asF i).2 ta tb ta s = .ok ((a, b, c), t) :=
  ⟨.vcmp (mkF 0x22 0xBF 4 6 0 3 5 0), _, _, _, _, _, bench1, bench1, envOf bench1, _, _, _, rfl, fready (by decide +kernel), rfl⟩

theorem witness_VectorCarryResult : ∃ (i : Instr) (sub : Bool) (f : FFrame) (s s1 t : State) (e : Env) (a b : Lanes64),
    carryOp (asF i).1 = some (sub, f) ∧ FReady e (specVcarry f) f (asF i).2 s ∧
    srcV e (Ty.ofCode .s32 f.ty) f.srcA none s = .ok (a, s1) ∧ srcV e (Ty.ofCode .s32 f.ty) f.srcB (asF i).2 s1 = .ok (b, t) ∧
    Room e f.dst (if (Ty.ofCode .s32 f.ty).wide then 2 else 1) t :=
  ⟨.vsubb (mkF 0 0x20 4 6 0 5 15 0), _, _, bench1, bench1, bench1, envOf bench1, _, _, rfl, fready (by decide +kernel), rfl, rfl,
    room_of (by decide)⟩

theorem witness_VectorSelectResult_predicate : ∃ (i : Instr) (f : FFrame) (s : State) (e : Env) (a b : Lanes64),
    (asF i).1 = .vsel f ∧ FReady e (specVsel f) f (asF i).2 s ∧ RC.of f.srcC = .p ∧
    srcV e (Ty.ofCode .s32 f.ty) f.srcA none s = .ok (a, s) ∧ srcV e (Ty.ofCode .s32 f.ty) f.srcB (asF i).2 s = .ok (b, s) ∧
    Room e f.dst (if (Ty.ofCode .s32 f.ty).wide then 2 else 1) s :=
  ⟨.vsel (mkF 0 0x20 4 6 0xBF 0 0 0), _, bench1, envOf bench1, _, _, rfl, fready (by decide +kernel), by decide, rfl, rfl,
    room_of (by decide)⟩

theorem witness_VectorSelectResult_lanes : ∃ (i : Instr) (f : FFrame) (s : State) (e : Env) (a b c : Lanes64),
    (asF i).1 = .vsel f ∧ FReady e (specVsel f) f (asF i).2 s ∧ RC.of f.srcC ≠ .p ∧
    srcV e (Ty.ofCode .s32 f.ty) f.srcA none s = .ok (a, s) ∧ srcV e (Ty.ofCode .s32 f.ty) f.srcB (asF i).2 s = .ok (b, s) ∧
    srcV e (Ty.ofCode .s32 f.ty) f.srcC none s = .ok (c, s) ∧ Room e f.dst (if (Ty.ofCode .s32 f.ty).wide then 2 else 1) s :=
  ⟨.vsel (mkF 0 0x20 4 6 8 5 0 0), _, bench1, envOf bench1, _, _, _, rfl, fready (by decide +kernel), by decide, rfl, rfl, rfl,
    room_of (by decide)⟩

theorem witness_DotPairResult : ∃ (i : Instr) (f : FFrame) (s : State) (e : Env) (a b c : Lanes64),
    (asF i).1 = .vfdot2 f ∧ FReady e (specFdot f) f (asF i).2 s ∧ (asF i).2 = none ∧
    dotSrc e (if f.ty = 10 then .f16 else .bf16) f.srcA none s = .ok (a, s) ∧
    dotSrc e (if f.ty = 10 then .f16 else .bf16) f.srcB none s = .ok (b, s) ∧
    srcV e (.fl .f32) f.srcC none s = .ok (c, s) ∧ Room e f.dst 1 s :=
  ⟨.vfdot2 (mkF 0 0x20 9 9 5 10 0 0), _, bench1, envOf bench1, _, _, _, rfl, fready (by decide +kernel), rfl, rfl, rfl, rfl,
    room_of (by decide)⟩

theorem witness_DotPairResult_literal : ∃ (i : Instr) (f : FFrame) (s : State) (e : Env) (a c : Lanes64) (x : W32),
    (asF i).1 = .vfdot2 f ∧ FReady e (specFdot f) f (asF i).2 s ∧ (asF i).2 = some x ∧
    dotSrc e (if f.ty = 10 then .f16 else .bf16) f.srcA none s = .ok (a, s) ∧
    srcV e (.fl .f32) f.srcC none s = .ok (c, s) ∧ Room e f.dst 1 s :=
  ⟨.literalFrame ⟨0xAB, 0, 0x20, 9, 0x3C003C00⟩, _, bench1, envOf bench1, _, _, _, rfl, fready (by decide +kernel), rfl, rfl, rfl,
    room_of (by decide)⟩

theorem witness_PredicateResult_masks : ∃ (s : State) (e : Env) (i : Instr) (f : FFrame) (n : Nat) (fn : W32 → W32 → W32),
    maskOp i = some (f, n, fn) ∧ FReady e (specP n) f none s :=
  ⟨bench1, envOf bench1, .pand (mkF 0 0xBF 0xB1 0xB2 0 0 0 0), _, _, _, rfl, fready (by decide +kernel)⟩

theorem witness_PredicateResult_from_scalar : ∃ (s : State) (e : Env) (f : FFrame) (x : W64) (t : State),
    FReady e specPfrom f none s ∧ IsScalar e f.srcB ∧ srcS e f.srcB none s = .ok (x, t) :=
  ⟨bench1, envOf bench1, mkF 0 0xB3 0 0x84 0 0 0 0, _, _, fready (by decide +kernel), by unfold IsScalar; decide +kernel, rfl⟩

theorem witness_PredicateResult_from_lanes : ∃ (s : State) (e : Env) (f : FFrame) (v : Lanes64) (t : State),
    FReady e specPfrom f none s ∧ ¬ IsScalar e f.srcB ∧ srcV e .u32 f.srcB none s = .ok (v, t) :=
  ⟨bench1, envOf bench1, mkF 0 0xB3 0 4 0 0 0 0, _, _, fready (by decide +kernel), by unfold IsScalar; decide +kernel, rfl⟩

theorem witness_PredicateResult_to : ∃ (s : State) (e : Env) (f : FFrame), FReady e specPto f none s ∧ RC.of f.dst = .q ∧ Room e f.dst 1 s :=
  ⟨bench1, envOf bench1, mkF 0 0xA0 0 0xB1 0 0 0 0, fready (by decide +kernel), by decide, queueRoom (by decide +kernel)⟩

theorem witness_PredicateResult_anyall : ∃ (s : State) (e : Env) (f : FFrame), FReady e specPanyall f none s :=
  ⟨bench1, envOf bench1, mkF 0x22 0x9F 0 0xB2 0 0 0 0, fready (by decide +kernel)⟩

theorem witness_CrossLaneResult_shfl : ∃ (f : FFrame) (s s1 t : State) (e : Env) (a b : Lanes64),
    FReady e (specShfl f) f none s ∧ srcV e (Ty.ofCode .u32 f.ty) f.srcA none s = .ok (a, s1) ∧ srcV e .u32 f.srcB none s1 = .ok (b, t) ∧
    Room e f.dst (if (Ty.ofCode .u32 f.ty).wide then 2 else 1) t :=
  ⟨mkF 0 0x20 4 8 0 5 0x0D 0, bench1, bench1, bench1, envOf bench1, _, _, fready (by decide +kernel), rfl, rfl, room_of (by decide)⟩

theorem witness_CrossLaneResult_bcast : ∃ (f : FFrame) (s s1 t : State) (e : Env) (a : Lanes64) (x : W64),
    FReady e (specBcast f) f none s ∧ srcV e (Ty.ofCode .u32 f.ty) f.srcA none s = .ok (a, s1) ∧ srcS e f.srcB none s1 = .ok (x, t) ∧
    Room e f.dst (if (Ty.ofCode .u32 f.ty).wide then 2 else 1) t :=
  ⟨mkF 0 0x20 4 0xFB 0 0 0 0, bench1, bench1, bench1, envOf bench1, _, _, fready (by decide +kernel), rfl, rfl, room_of (by decide)⟩

theorem witness_CrossLaneResult_vcomp : ∃ (f : FFrame) (s t : State) (e : Env) (b : Lanes64),
    FReady e (specVcomp f) f none s ∧ srcV e (Ty.ofCode .u32 f.ty) f.srcB none s = .ok (b, t) ∧
    Room e f.dst (if (Ty.ofCode .u32 f.ty).wide then 2 else 1) t :=
  ⟨mkF 0x22 0x20 0 4 0 0 0 0, bench1, bench1, envOf bench1, _, fready (by decide +kernel), rfl, room_of (by decide)⟩

theorem witness_CrossLaneResult_vote : ∃ (f : FFrame) (s t : State) (e : Env) (b : Lanes64),
    FReady e (specVote f) f none s ∧ Room e f.dst 1 t ∧ RC.of f.srcB = .p ∧ t = s ∧
    b = tabulate 32 (fun l => if (srcP e f.srcB).getLsbD l then 1 else 0) :=
  ⟨mkF 0 0x9F 0 0xB1 0 0 3 0, bench1, bench1, envOf bench1, _, fready (by decide +kernel), room_of (by decide), by decide, rfl, rfl⟩

theorem witness_CrossLaneResult_vote_lanes : ∃ (f : FFrame) (s t : State) (e : Env) (b : Lanes64),
    FReady e (specVote f) f none s ∧ Room e f.dst 1 t ∧ RC.of f.srcB ≠ .p ∧ srcV e .u32 f.srcB none s = .ok (b, t) :=
  ⟨mkF 0 0x9F 0 4 0 0 0 0, bench1, bench1, envOf bench1, _, fready (by decide +kernel), room_of (by decide), by decide, rfl⟩

theorem witness_CrossLaneResult_match : ∃ (f : FFrame) (s t : State) (e : Env) (b : Lanes64),
    FReady e (specMatch f) f none s ∧ srcV e (Ty.ofCode .u32 f.ty) f.srcB none s = .ok (b, t) ∧ Room e f.dst 1 t :=
  ⟨mkF 0 0x20 0 8 0 8 1 0, bench1, bench1, envOf bench1, _, fready (by decide +kernel), rfl, room_of (by decide)⟩

theorem witness_CrossLaneResult_vred : ∃ (f : FFrame) (s t : State) (e : Env) (b : Lanes64),
    FReady e (specVred f) f none s ∧ srcV e (Ty.ofCode .u32 f.ty) f.srcB none s = .ok (b, t) ∧
    Room e f.dst (if IsScalar e f.dst then 1 else if (Ty.ofCode .u32 f.ty).wide then 2 else 1) t :=
  ⟨mkF 0x22 0x9F 0 4 0 5 0 1, bench1, bench1, envOf bench1, _, fready (by decide +kernel), rfl, room_of (by decide)⟩

theorem witness_CrossLaneResult_vscan : ∃ (f : FFrame) (s t : State) (e : Env) (b : Lanes64),
    FReady e (specVscan f) f none s ∧ srcV e (Ty.ofCode .u32 f.ty) f.srcB none s = .ok (b, t) ∧
    Room e f.dst (if (Ty.ofCode .u32 f.ty).wide then 2 else 1) t :=
  ⟨mkF 0x22 0x20 0 4 0 8 0x22 0, bench1, bench1, envOf bench1, _, fready (by decide +kernel), rfl, room_of (by decide)⟩

theorem witness_PackResult_block : ∃ (f : FFrame) (s t : State) (e : Env) (b : Lanes64),
    FReady e (specCvtb f) f none s ∧ srcV e (Ty.ofCode (.fl .f32) (ty2 f)) f.srcB none s = .ok (b, t) ∧ Room e f.dst 1 t :=
  ⟨mkF 0x22 0x20 0 5 0 11 0 0, bench1, bench1, envOf bench1, _, fready (by decide +kernel), rfl, room_of (by decide)⟩

theorem witness_PackResult_pack : ∃ (f : FFrame) (s t : State) (e : Env) (b : Lanes64),
    FReady e (specPack f false) f none s ∧ srcV e .u32 f.srcB none s = .ok (b, t) ∧ Room e f.dst 1 t :=
  ⟨mkF 0x22 0x20 0 5 0 15 0x20 0, bench1, bench1, envOf bench1, _, fready (by decide +kernel), rfl, room_of (by decide)⟩

theorem witness_PackResult_unpack : ∃ (f : FFrame) (s t : State) (e : Env) (b : Lanes64),
    FReady e (specPack f true) f none s ∧ srcV e .u32 f.srcB none s = .ok (b, t) ∧ Room e f.dst 1 t :=
  ⟨mkF 0x22 0x20 0 5 0 12 0x21 1, bench1, bench1, envOf bench1, _, fready (by decide +kernel), rfl, room_of (by decide)⟩

/-- Queues that hold four entries, the third unfilled; q13 holds three. -/
def benchQ : State :=
  let e (n : Nat) : QEntry := QEntry.ofScalar (BitVec.ofNat 64 n)
  both (fun sl => { sl with q13 := [1, 2, 3] }) (onGroup (fun g => { g with queues := g.queues.mapIdx (fun i q =>
    if i < 4 then { q with entries := [e 5, e 6, { e 7 with fill := some 3 }, e 8] } else q) }) bench1)

theorem witness_QueueCountResult : ∃ (i : Instr) (kind : Nat) (f : FFrame) (s : State) (e : Env),
    ((i = .qcnt f ∧ kind = 0) ∨ (i = .qroom f ∧ kind = 1) ∨ (i = .qdrain f ∧ kind = 2)) ∧
    s.env? = some e ∧ f.ok specQ false = true ∧ inspectConds e (kind == 2) (regNo f.srcB) = [] ∧ s.busy e .sreg f.dst = false ∧
    (kind = 2 → SyncIdle e s) :=
  ⟨.qdrain (mkF 0 0x9F 0 0xA2 0 0 0 0), 2, mkF 0 0x9F 0 0xA2 0 0 0 0, benchQ, envOf benchQ, .inr (.inr ⟨rfl, rfl⟩),
    env_of (by decide +kernel), by decide, by decide +kernel, by decide +kernel,
    fun _ => by simp [SyncIdle, show (benchQ.core (envOf benchQ).g.core).pend = [] from by decide +kernel]⟩

theorem witness_QueueCountResult_engine : ∃ (i : Instr) (kind : Nat) (f : FFrame) (s : State) (e : Env),
    (i = .qroom f ∧ kind = 1) ∧ 12 ≤ regNo f.srcB ∧
    s.env? = some e ∧ f.ok specQ false = true ∧ inspectConds e (kind == 2) (regNo f.srcB) = [] ∧ s.busy e .sreg f.dst = false :=
  ⟨.qroom (mkF 0x2F 0x9F 0 0xAD 0 0 0 0), 1, mkF 0x2F 0x9F 0 0xAD 0 0 0 0, benchQ, envOf benchQ, ⟨rfl, rfl⟩, by decide,
    env_of (by decide +kernel), by decide, by decide +kernel, by decide +kernel⟩

/-- A control frame that names a register, with the low 30 bits of its body. -/
def mkR (g d reg low : Nat) : CFrame := ⟨BitVec.ofNat 6 g, BitVec.ofNat 8 d, BitVec.ofNat 38 (reg * 2 ^ 30 + low)⟩

theorem ok_unit (x : Except Stop (Unit × State)) (h : isOk x = true) : x = .ok ((), (got x h).2) := ok_got x h

theorem some_pair {α β : Type} (o : Option (α × β)) (h : o.isSome = true) : o = some ((o.get h).1, (o.get h).2) := some_get o h

theorem reg_ready {e : Env} {s : State} {n : Named} (h : readyB e s [n] = true) : OperandReady e s n := ready_of h n (by simp)

theorem witness_ControlTransfer_plain : ∃ (c : CFrame) (s : State) (e : Env), CReady e c .none true s :=
  ⟨mkC 0x22 0 0, bench1, envOf bench1, cready (by decide +kernel)⟩

theorem witness_ControlTransfer_long : ∃ (c : CFrame) (s : State) (e : Env), CReady e c .long true s :=
  ⟨mkC 0 0 (-1), bench1, envOf bench1, cready (by decide +kernel)⟩

theorem witness_ControlTransfer_test : ∃ (c : CFrame) (s : State) (e : Env), CReady e c (.test .s) true s ∧ RegReady e c s :=
  ⟨mkR 0 0 0x9F 0x3FFFFFFF, bench1, envOf bench1, cready (by decide +kernel), reg_ready (by decide +kernel)⟩

theorem witness_ControlTransfer_indirect : ∃ (c : CFrame) (s : State) (e : Env),
    CReady e c .indirect true s ∧ RegReady e c s ∧ (e.sl.s (regNo c.reg)).toNat % 8 = 0 :=
  ⟨mkR 0 0 0x84 0, bench1, envOf bench1, cready (by decide +kernel), reg_ready (by decide +kernel), by decide +kernel⟩

theorem witness_CallReturn_idle : ∃ (c : CFrame) (s : State) (e : Env),
    e.sl.hmode = false ∧ CReady e c .none true s ∧ e.active c.guard = 0 :=
  ⟨mkC 0x2F 0 0, bench1, envOf bench1, by decide +kernel, cready (by decide +kernel), by decide +kernel⟩

theorem witness_CallReturn_idle_long : ∃ (c : CFrame) (s : State) (e : Env),
    e.sl.hmode = false ∧ CReady e c .long true s ∧ e.active c.guard = 0 :=
  ⟨mkC 0x2F 0 2, bench1, envOf bench1, by decide +kernel, cready (by decide +kernel), by decide +kernel⟩

theorem witness_CallReturn_idle_indirect : ∃ (c : CFrame) (s : State) (e : Env),
    e.sl.hmode = false ∧ CReady e c .indirect true s ∧ RegReady e c s ∧ e.active c.guard = 0 :=
  ⟨mkR 0x2F 0 0x84 0, bench1, envOf bench1, by decide +kernel, cready (by decide +kernel), reg_ready (by decide +kernel), by decide +kernel⟩

theorem witness_CallReturn_call : ∃ (c : CFrame) (s u : State) (e : Env),
    e.sl.hmode = false ∧ e.active c.guard ≠ 0 ∧ e.sl.cstackN < cstackOf e.w.desc ∧
    writeEntry e true e.sl.cstackN ((e.path.pc + 8).toNat + e.path.mask.toNat * 2 ^ 64) s = .ok ((), u) ∧ CReady e c .long true s :=
  let s := both (fun sl => { sl with cstackN := 15 }) bench1
  ⟨mkC 0 0 2, s, _, envOf s, by decide +kernel, by decide +kernel, (by decide +kernel), ok_unit _ (by decide +kernel), cready (by decide +kernel)⟩

theorem witness_CallReturn_callx : ∃ (c : CFrame) (s u : State) (e : Env),
    e.sl.hmode = false ∧ e.active c.guard ≠ 0 ∧ e.sl.cstackN < cstackOf e.w.desc ∧
    writeEntry e true e.sl.cstackN ((e.path.pc + 8).toNat + e.path.mask.toNat * 2 ^ 64) s = .ok ((), u) ∧
    CReady e c .indirect true s ∧ RegReady e c s ∧ (e.sl.s (regNo c.reg)).toNat % 8 = 0 :=
  ⟨mkR 0 0 0x84 0, bench1, _, envOf bench1, by decide +kernel, by decide +kernel, (by decide +kernel), ok_unit _ (by decide +kernel),
    cready (by decide +kernel), reg_ready (by decide +kernel), by decide +kernel⟩

/-- A call that has been made: one entry with every lane and the return PC 8. -/
def benchCall : State := after bench1 (.call (mkC 0 0 2))

theorem witness_CallReturn_ret : ∃ (c : CFrame) (s u w : State) (e : Env) (l l1 : List (Va × W32)) (pc : Va),
    e.sl.hmode = false ∧ CReady e c .none true s ∧ e.active c.guard ≠ 0 ∧ readCalls e e.sl.cstackN s = .ok (l, u) ∧
    matchReturn e.path.mask l = some (pc, l1) ∧ pc.toNat % 8 = 0 ∧ setCalls e l1 u = .ok ((), w) :=
  ⟨mkC 0 0 0, benchCall, _, _, envOf benchCall, _, _, _, by decide +kernel, cready (by decide +kernel), by decide +kernel,
    ok_pair _ (by decide +kernel), some_pair _ (by decide +kernel), by decide +kernel, ok_unit _ (by decide +kernel)⟩

theorem witness_SplitResult_none : ∃ (c : CFrame) (s : State) (e : Env),
    CReady e c (.test .p) true s ∧ e.sl.hmode = false ∧ e.active c.guard &&& srcP e c.reg = 0 :=
  ⟨mkR 0 0 0xB3 4, bench1, envOf bench1, cready (by decide +kernel), by decide +kernel, by decide +kernel⟩

theorem witness_SplitResult_all : ∃ (c : CFrame) (s : State) (e : Env),
    CReady e c (.test .p) true s ∧ e.sl.hmode = false ∧ e.active c.guard &&& srcP e c.reg ≠ 0 ∧
    e.path.mask &&& ~~~(e.active c.guard &&& srcP e c.reg) = 0 :=
  let s := preds [(1, 0xFFFFFFFF)] bench1
  ⟨mkR 0 0 0xB1 4, s, envOf s, cready (by decide +kernel), by decide +kernel⟩

/-- The two paths of a split of bench1: both slots are live. -/
def benchSplit : State := after bench1 (.brd (mkR 0 0 0xB1 4))

/-- What `SplitResult` asks where the path splits. -/
def Splits (c : CFrame) (s u w : State) (e : Env) (ps : Paths) : Prop :=
  let taken := e.active c.guard &&& srcP e c.reg
  let rest := e.path.mask &&& ~~~taken
  let one := e.cur.slot1
  let old : Path := { e.path with pc := e.path.pc + 8, mask := rest, depth := e.path.depth + 1 }
  let new : Path := { pc := offsetPc e c.low, mask := taken, age := e.sl.ageCtr + 1, depth := e.path.depth + 1, parked := false }
  let qs := match e.sl.slot (!one) with
    | none => (ps.setSlot one (some old)).setSlot (!one) (some new)
    | some o =>
      if e.path.age < o.age then { ps.setSlot one (some new) with stack := old :: ps.stack }
      else { (ps.setSlot one (some old)).setSlot (!one) (some new) with stack := o :: ps.stack }
  CReady e c (.test .p) true s ∧ e.sl.hmode = false ∧ taken ≠ 0 ∧ rest ≠ 0 ∧ e.path.depth ≠ 0xFFFF#16 ∧ readPaths e s = .ok (ps, u) ∧
  (∀ o, e.sl.slot (!one) = some o → e.sl.dstackN < dstackOf e.w.desc) ∧ writePaths e qs.settled u = .ok ((), w)

theorem witness_SplitResult_free : ∃ (c : CFrame) (s u w : State) (e : Env) (ps : Paths), e.sl.slot (!e.cur.slot1) = none ∧ Splits c s u w e ps :=
  ⟨mkR 0 0 0xB1 4, bench1, _, _, envOf bench1, _, by decide +kernel, cready (by decide +kernel), by decide +kernel, by decide +kernel,
    (by decide +kernel), by decide +kernel, ok_pair _ (by decide +kernel), fun _ _ => by decide +kernel, ok_unit _ (by decide +kernel)⟩

theorem witness_SplitResult_full : ∃ (c : CFrame) (s u w : State) (e : Env) (ps : Paths),
    (e.sl.slot (!e.cur.slot1)).isSome = true ∧ Splits c s u w e ps :=
  ⟨mkR 0 0 0xB2 4, benchSplit, _, _, envOf benchSplit, _, by decide +kernel, cready (by decide +kernel), by decide +kernel,
    by decide +kernel, (by decide +kernel), by decide +kernel, ok_pair _ (by decide +kernel), fun _ _ => by decide +kernel,
    ok_unit _ (by decide +kernel)⟩

theorem witness_JoinExitResult_join : ∃ (c : CFrame) (s : State) (e : Env), CReady e c .none false s ∧ e.sl.hmode = false ∧ e.path.depth = 0 :=
  ⟨mkC 0 0 0, bench1, envOf bench1, cready (by decide +kernel), by decide +kernel, by decide +kernel⟩

theorem witness_JoinExitResult_park : ∃ (c : CFrame) (s t u : State) (e : Env) (ps : Paths),
    CReady e c .none false s ∧ e.sl.hmode = false ∧ e.path.depth ≠ 0 ∧ readPaths e s = .ok (ps, t) ∧
    (let p : Path := { e.path with parked := true }
     let parked := ps.setSlot e.cur.slot1 (some p)
     writePaths e (if releasable parked p then (release parked p).settled else parked.settled) t = .ok ((), u)) :=
  ⟨mkC 0 0 0, benchSplit, _, _, envOf benchSplit, _, cready (by decide +kernel), by decide +kernel, by decide +kernel,
    ok_pair _ (by decide +kernel), ok_unit _ (by decide +kernel)⟩

theorem witness_JoinExitResult_exit_none : ∃ (c : CFrame) (s : State) (e : Env), CReady e c .none true s ∧ e.active c.guard = 0 :=
  ⟨mkC 0x2F 0 0, bench1, envOf bench1, cready (by decide +kernel), by decide +kernel⟩

theorem witness_JoinExitResult_exit_some : ∃ (c : CFrame) (s t : State) (e : Env),
    CReady e c .none true s ∧ e.active c.guard ≠ 0 ∧ e.sl.hmode = false ∧ e.path.mask &&& ~~~(e.active c.guard) ≠ 0 ∧
    endLanes e (e.active c.guard) s = .ok ((), t) :=
  ⟨mkC 0x22 0 0, benchCall, _, envOf benchCall, cready (by decide +kernel), by decide +kernel, by decide +kernel, (by decide +kernel),
    ok_unit _ (by decide +kernel)⟩

theorem witness_JoinExitResult_exit_all : ∃ (c : CFrame) (s t u w : State) (e : Env) (ps : Paths),
    CReady e c .none true s ∧ e.active c.guard ≠ 0 ∧ (e.sl.hmode = true ∨ e.path.mask &&& ~~~(e.active c.guard) = 0) ∧
    endLanes e (if e.sl.hmode then e.path.mask else e.active c.guard) s = .ok ((), t) ∧ readPaths e t = .ok (ps, u) ∧
    writePaths e (ps.setSlot e.cur.slot1 none).settled u = .ok ((), w) :=
  ⟨mkC 0 0 0, benchSplit, _, _, _, envOf benchSplit, _, cready (by decide +kernel), by decide +kernel, .inr (by decide +kernel),
    ok_unit _ (by decide +kernel), ok_pair _ (by decide +kernel), ok_unit _ (by decide +kernel)⟩

theorem witness_JoinExitResult_brq : ∃ (c : CFrame) (s t : State) (e : Env) (v : W64),
    CReady e c (.test .q) true s ∧ e.cur.a = true ∧ brqConds e (regNo c.reg) = [] ∧
    (∀ x, e.sl.heldPop ≠ some (.brq, x)) ∧ ∃ x, popEntry e (regNo c.reg) s = .ok (x, t) ∧ v = x.scalar :=
  ⟨mkR 0 0 0xA1 8, onA benchQ, _, envOf (onA benchQ), _, cready (by decide +kernel), by decide +kernel, by decide +kernel,
    fun x => by rw [show (envOf (onA benchQ)).sl.heldPop = none from by decide +kernel]; simp, _, ok_pair _ (by decide +kernel), rfl⟩

/-- A `BRQ` whose pop was taken before it trapped. -/
def benchHeld : State := both (fun sl => { sl with heldPop := some (.brq, 7) }) (onA benchQ)

theorem witness_JoinExitResult_brq_held : ∃ (c : CFrame) (s t : State) (e : Env) (v : W64),
    CReady e c (.test .q) true s ∧ e.cur.a = true ∧ brqConds e (regNo c.reg) = [] ∧ e.sl.heldPop = some (.brq, v) ∧ t = s :=
  ⟨mkR 0 0 0xA1 8, benchHeld, _, envOf benchHeld, 7, cready (by decide +kernel), by decide +kernel, by decide +kernel, (by decide +kernel), rfl⟩

/-- The slice that issues is in handler mode: it trapped at 0x40 with every lane. -/
def handler (s : State) : State :=
  onWg (fun w => { w with handler := true }) (both (fun sl => { sl with hmode := true, frozen := some ⟨false, 0xFFFFFFFF⟩, emask := 0x0FFFF0000, epc := 0x40 }) s)

theorem witness_TrapAndReturn_trap : ∃ (c : CFrame) (s : State) (e : Env),
    CReady e c .code true s ∧ e.active c.guard ≠ 0 ∧ muted e = false :=
  ⟨mkC 0 0 0xFFFF, bench1, envOf bench1, cready (by decide +kernel), by decide +kernel, by decide +kernel⟩

theorem witness_TrapAndReturn_bkpt : ∃ (c : CFrame) (s : State) (e : Env),
    CReady e c .none true s ∧ e.active c.guard ≠ 0 ∧ muted e = false :=
  ⟨mkC 0 0 0, bench1, envOf bench1, cready (by decide +kernel), by decide +kernel, by decide +kernel⟩

theorem witness_TrapAndReturn_idle : ∃ (c : CFrame) (s : State) (e : Env),
    e.active c.guard = 0 ∧ CReady e c .code true s ∧ CReady e c .none true s ∧ e.sl.hmode = true :=
  ⟨mkC 0x2F 0 0, handler bench1, envOf (handler bench1), by decide +kernel, cready (by decide +kernel), cready (by decide +kernel), by decide +kernel⟩

/-- What `TrapAndReturn` asks of an `ERET`, and what it keeps. -/
def Returns (c : CFrame) (s t : State) (e : Env) (keep : W32) : Prop :=
  let held := (e.sl.frozen.map (fun f => f.mask)).getD e.path.mask
  keep = e.sl.emask.extractLsb' 0 32 &&& held ∧ CReady e c .none true s ∧ e.active c.guard ≠ 0 ∧ e.sl.hmode = true ∧
  e.sl.epc.toNat % 8 = 0 ∧ endLanes e (held &&& ~~~keep) s = .ok ((), t)

theorem witness_TrapAndReturn_some : ∃ (c : CFrame) (s t : State) (e : Env) (keep : W32), Returns c s t e keep ∧ keep ≠ 0 :=
  ⟨mkC 0 0 0, handler bench1, _, envOf (handler bench1), 0xFFFF0000,
    ⟨by decide +kernel, cready (by decide +kernel), by decide +kernel, by decide +kernel, (by decide +kernel), ok_unit _ (by decide +kernel)⟩,
    by decide⟩

/-- A handler that gives every lane up. -/
def benchDrop : State := both (fun sl => { sl with emask := 0 }) (handler bench1)

theorem witness_TrapAndReturn_none : ∃ (c : CFrame) (s t u w : State) (e : Env) (ps : Paths), Returns c s t e 0 ∧
    readPaths e t = .ok (ps, u) ∧ writePaths e (ps.setSlot e.cur.slot1 none).settled u = .ok ((), w) :=
  ⟨mkC 0 0 0, benchDrop, _, _, _, envOf benchDrop, _,
    ⟨by decide +kernel, cready (by decide +kernel), by decide +kernel, by decide +kernel, (by decide +kernel), ok_unit _ (by decide +kernel)⟩,
    ok_pair _ (by decide +kernel), ok_unit _ (by decide +kernel)⟩

/-- The place that an address translates to for a slot; place 0 where there is none. -/
def placeAt (e : Env) (s : State) (va : W64) (acc : Access) : Place := match e.xlate s va acc with | .place p => p | _ => .mem 0

theorem placed_of {e : Env} {s : State} {m : W32} {size : Nat} {acc : Access} {va : Nat → W64}
    (h : ((actives m).all fun l => decide (e.xlate s (va l) acc = .place (placeAt e s (va l) acc)) && decide ((va l).toNat % size = 0)) = true) :
    Placed e s m size acc va (fun l => placeAt e s (va l) acc) := by
  intro l hl
  have := List.all_eq_true.1 h l hl
  simpa using this

theorem unpoisoned_of {s : State} {m : W32} {pl : Nat → Place}
    (h : ((actives m).all fun l => match pl l with | .mem a => !s.poisoned a | _ => true) = true) : Unpoisoned s m pl := by
  intro l hl a ha
  have := List.all_eq_true.1 h l hl
  simpa [ha] using this

theorem witness_VectorAccessIssue_load_idle : ∃ (f : FFrame) (s : State) (e : Env),
    Allowed e s ∧ MReady e (specLd f) f (v4Conds e f true f.dst) (loadNamed (specLd f) f) s ∧ e.active f.guard = 0 ∧
    Room e f.dst (memRegs f) s :=
  ⟨mkF 0x2F 0x20 0x86 12 0xFF 0 9 0, bench3, envOf bench3, by unfold Allowed; decide +kernel, mready (by decide +kernel),
    by decide +kernel, room_of (by decide)⟩

/-- What `VectorAccessIssue` asks of a load with active lanes. -/
def Loads (f : FFrame) (s s1 s2 t : State) (e : Env) (a b : Lanes64) (pl : Nat → Place) (d : PendDst) : Prop :=
  let m := e.active f.guard
  let x := vecExt f
  let va := laneVa a b f x.size
  Allowed e s ∧ MReady e (specLd f) f (v4Conds e f true f.dst) (loadNamed (specLd f) f) s ∧ m ≠ 0 ∧
  srcV e .u64 f.srcA none s = .ok (a, s1) ∧ srcV e .u32 f.srcB none s1 = .ok (b, s2) ∧ Placed e s2 m x.size .load va pl ∧
  Unpoisoned s2 m pl ∧ loadDst e f s2 = .ok (d, t) ∧ EnterRoom e .load (lanesAt m x.size va pl (fun _ => []) (fun _ => [])) t

theorem witness_VectorAccessIssue_load : ∃ (f : FFrame) (s s1 s2 t : State) (e : Env) (a b : Lanes64) (pl : Nat → Place) (d : PendDst),
    Loads f s s1 s2 t e a b pl d :=
  ⟨mkF 0x25 0x20 0x86 12 1 0 0x0A 0, bench3, bench3, bench3, _, envOf bench3, _, _, _, _, by unfold Allowed; decide +kernel,
    mready (by decide +kernel), by decide +kernel, rfl, rfl, placed_of (by decide +kernel), unpoisoned_of (by decide +kernel),
    ok_pair _ (by decide +kernel), enterRoom (by decide +kernel)⟩

theorem witness_VectorAccessIssue_load_queue : ∃ (f : FFrame) (s s1 s2 t : State) (e : Env) (a b : Lanes64) (pl : Nat → Place) (d : PendDst),
    RC.of f.dst = .q ∧ Loads f s s1 s2 t e a b pl d :=
  ⟨mkF 0x25 0xA0 0x86 12 1 3 0 0, bench3, bench3, bench3, _, envOf bench3, _, _, _, _, by decide, by unfold Allowed; decide +kernel,
    mready (by decide +kernel), by decide +kernel, rfl, rfl, placed_of (by decide +kernel), unpoisoned_of (by decide +kernel),
    ok_pair _ (by decide +kernel), enterRoom (by decide +kernel)⟩

/-- What `VectorAccessIssue` asks of a store. -/
def Stores (f : FFrame) (s s0 s1 t : State) (e : Env) (a b : Lanes64) (pl : Nat → Place) (data : Nat → List Byte) : Prop :=
  let m := e.active f.guard
  let x := vecExt f
  let va := laneVa a b f x.size
  Allowed e s ∧ MReady e (specSt f) f (v4Conds e f false f.dst) (storeNamed (specSt f) f) s ∧ storeData e f s = .ok (data, s0) ∧ m ≠ 0 ∧
  srcV e .u64 f.srcA none s0 = .ok (a, s1) ∧ srcV e .u32 f.srcB none s1 = .ok (b, t) ∧ Placed e t m x.size .store va pl ∧
  EnterRoom e .store (lanesAt m x.size va pl data (fun _ => [])) t

theorem witness_VectorAccessIssue_store : ∃ (f : FFrame) (s s0 s1 t : State) (e : Env) (a b : Lanes64) (pl : Nat → Place)
    (data : Nat → List Byte), Stores f s s0 s1 t e a b pl data :=
  ⟨mkF 0x25 0x20 0x86 12 0x7F 0 0x12 0, bench3, bench3, bench3, bench3, envOf bench3, _, _, _, _, by unfold Allowed; decide +kernel,
    mready (by decide +kernel), rfl, by decide +kernel, rfl, rfl, placed_of (by decide +kernel), enterRoom (by decide +kernel)⟩

theorem witness_VectorAccessIssue_store_idle : ∃ (f : FFrame) (s s0 : State) (e : Env) (data : Nat → List Byte),
    Allowed e s ∧ MReady e (specSt f) f (v4Conds e f false f.dst) (storeNamed (specSt f) f) s ∧ storeData e f s = .ok (data, s0) ∧
    e.active f.guard = 0 :=
  ⟨mkF 0x2F 0x20 0x86 12 0x7F 0 0x12 0, bench3, bench3, envOf bench3, _, by unfold Allowed; decide +kernel, mready (by decide +kernel), rfl,
    by decide +kernel⟩

/-- The base of an `LDS` or `STS` with its displacement. -/
def baseOf (e : Env) (f : FFrame) : W64 := e.sl.s (regNo f.srcA) + BitVec.ofInt 64 (f.srcC.toInt * ((loadExt f.ty).size : Int))

theorem witness_ScalarAccessIssue_load_idle : ∃ (f : FFrame) (s : State) (e : Env),
    Allowed e s ∧ MReady e (specLds f) f [] (loadNamed (specLds f) f) s ∧ e.active f.guard = 0 ∧ Room e f.dst 1 s :=
  ⟨mkF 0x2F 0x9F 0x86 0xF8 0x80 0 0x0A 2, bench3, envOf bench3, by unfold Allowed; decide +kernel, mready (by decide +kernel),
    by decide +kernel, room_of (by decide)⟩

theorem witness_ScalarAccessIssue_load : ∃ (f : FFrame) (s : State) (e : Env) (pl : Place),
    Allowed e s ∧ MReady e (specLds f) f [] (loadNamed (specLds f) f) s ∧ e.active f.guard ≠ 0 ∧
    e.xlate s (baseOf e f) .load = .place pl ∧ (baseOf e f).toNat % (loadExt f.ty).size = 0 ∧ (∀ a, pl = .mem a → s.poisoned a = false) ∧
    RC.of f.dst ≠ .q ∧ EnterRoom e .load (onceAt (loadExt f.ty).size (baseOf e f) pl []) s :=
  ⟨mkF 0 0x9F 0x86 0xF8 0x7F 1 0x0A 2, bench3, envOf bench3, .mem 0x2007F, by unfold Allowed; decide +kernel, mready (by decide +kernel),
    by decide +kernel, by decide +kernel, (by decide +kernel), fun a h => by cases h; decide +kernel, by decide,
    enterRoom (by decide +kernel)⟩

theorem witness_ScalarAccessIssue_load_queue : ∃ (f : FFrame) (s t : State) (e : Env) (pl : Place) (d : PendDst),
    Allowed e s ∧ MReady e (specLds f) f [] (loadNamed (specLds f) f) s ∧ e.active f.guard ≠ 0 ∧
    e.xlate s (baseOf e f) .load = .place pl ∧ (baseOf e f).toNat % (loadExt f.ty).size = 0 ∧ (∀ a, pl = .mem a → s.poisoned a = false) ∧
    RC.of f.dst = .q ∧ reserve e (regNo f.dst) true [QEntry.ofScalar 0] s = .ok (d, t) ∧
    EnterRoom e .load (onceAt (loadExt f.ty).size (baseOf e f) pl []) t :=
  ⟨mkF 0 0xA1 0x86 0xF8 0 0 0x0A 0, bench3, _, envOf bench3, .mem 0x20000, _, by unfold Allowed; decide +kernel, mready (by decide +kernel),
    by decide +kernel, by decide +kernel, (by decide +kernel), fun a h => by cases h; decide +kernel, by decide,
    ok_pair _ (by decide +kernel), enterRoom (by decide +kernel)⟩

theorem witness_ScalarAccessIssue_store : ∃ (f : FFrame) (s s0 : State) (e : Env) (pl : Place) (x : W64),
    Allowed e s ∧ MReady e (specSts f) f [] (storeNamed (specSts f) f) s ∧ stsData e f s = .ok (x, s0) ∧ e.active f.guard ≠ 0 ∧
    e.xlate s0 (baseOf e f) .store = .place pl ∧ (baseOf e f).toNat % (loadExt f.ty).size = 0 ∧
    EnterRoom e .store (onceAt (loadExt f.ty).size (baseOf e f) pl (toBytes (loadExt f.ty).size x.toNat)) s0 :=
  ⟨mkF 0 0x9F 0x86 0xF8 0x7F 0 0x12 0, bench3, bench3, envOf bench3, .mem 0x201FC, _, by unfold Allowed; decide +kernel,
    mready (by decide +kernel), rfl, by decide +kernel, by decide +kernel, (by decide +kernel), enterRoom (by decide +kernel)⟩

theorem witness_ScalarAccessIssue_store_idle : ∃ (f : FFrame) (s s0 : State) (e : Env) (x : W64),
    Allowed e s ∧ MReady e (specSts f) f [] (storeNamed (specSts f) f) s ∧ stsData e f s = .ok (x, s0) ∧ e.active f.guard = 0 :=
  ⟨mkF 0x2F 0xFB 0x86 0xF8 0x7F 0 0x12 0, bench3, bench3, envOf bench3, _, by unfold Allowed; decide +kernel, mready (by decide +kernel), rfl,
    by decide +kernel⟩

/-- What `LocalAccessIssue` asks of an `LDL`. -/
def LocalLoads (f : FFrame) (s s1 t : State) (e : Env) (refs : List (Nat × W32 × LsRef)) (g : Option Geom) (d : PendDst) : Prop :=
  let m := e.active f.guard
  let x := vecExt f
  lgeomReady e s = .ok ((), s) ∧ s.banksWait e.g.core e.g.sub = false ∧
  MReady e (specLdl f) f (v4Conds e f true f.dst) (loadNamed (specLdl f) f) s ∧ m ≠ 0 ∧ lsRefs e f x.size true m s = .ok ((refs, g), s1) ∧
  loadDst e f s1 = .ok (d, t) ∧ EnterRoom e .load (lsAccs g x.size noBytes noBytes refs) t

theorem witness_LocalAccessIssue_load : ∃ (f : FFrame) (s s1 t : State) (e : Env) (refs : List (Nat × W32 × LsRef)) (g : Option Geom)
    (d : PendDst), LocalLoads f s s1 t e refs g d :=
  ⟨mkF 0x25 0x20 0x87 12 0xFF 0 9 0, bench3, _, _, envOf bench3, _, _, _, rfl, by decide +kernel, mready (by decide +kernel),
    by decide +kernel, ok_pair _ (by decide +kernel), ok_pair _ (by decide +kernel), enterRoom (by decide +kernel)⟩

theorem witness_LocalAccessIssue_load_queue : ∃ (f : FFrame) (s s1 t : State) (e : Env) (refs : List (Nat × W32 × LsRef)) (g : Option Geom)
    (d : PendDst), RC.of f.dst = .q ∧ LocalLoads f s s1 t e refs g d :=
  ⟨mkF 0x25 0xA0 0x87 12 1 3 0 0, bench3, _, _, envOf bench3, _, _, _, by decide, rfl, by decide +kernel, mready (by decide +kernel),
    by decide +kernel, ok_pair _ (by decide +kernel), ok_pair _ (by decide +kernel), enterRoom (by decide +kernel)⟩

theorem witness_LocalAccessIssue_load_idle : ∃ (f : FFrame) (s : State) (e : Env),
    lgeomReady e s = .ok ((), s) ∧ s.banksWait e.g.core e.g.sub = false ∧
    MReady e (specLdl f) f (v4Conds e f true f.dst) (loadNamed (specLdl f) f) s ∧ e.active f.guard = 0 ∧
    Room e f.dst (memRegs f) (onSlice e (fun sl => { sl with gbank := 0 }) s) :=
  ⟨mkF 0x2F 0x20 0x87 12 1 0 0 0, bench3, envOf bench3, rfl, by decide +kernel, mready (by decide +kernel), by decide +kernel,
    room_of (by decide)⟩

theorem witness_LocalAccessIssue_store : ∃ (f : FFrame) (s s0 t : State) (e : Env) (refs : List (Nat × W32 × LsRef)) (g : Option Geom)
    (data : Nat → List Byte),
    let m := e.active f.guard
    let x := vecExt f
    lgeomReady e s = .ok ((), s) ∧ s.banksWait e.g.core e.g.sub = false ∧
    MReady e (specStl f) f (v4Conds e f false f.dst) (storeNamed (specStl f) f) s ∧ storeData e f s = .ok (data, s0) ∧ m ≠ 0 ∧
    lsRefs e f x.size true m s0 = .ok ((refs, g), t) ∧ EnterRoom e .store (lsAccs g x.size data noBytes refs) t :=
  ⟨mkF 0x25 0x20 0x87 12 0xFF 0 0x11 0, bench3, bench3, _, envOf bench3, _, _, _, rfl, by decide +kernel, mready (by decide +kernel),
    rfl, by decide +kernel, ok_pair _ (by decide +kernel), enterRoom (by decide +kernel)⟩

theorem witness_LocalAccessIssue_store_idle : ∃ (f : FFrame) (s s0 : State) (e : Env) (data : Nat → List Byte),
    lgeomReady e s = .ok ((), s) ∧ s.banksWait e.g.core e.g.sub = false ∧
    MReady e (specStl f) f (v4Conds e f false f.dst) (storeNamed (specStl f) f) s ∧ storeData e f s = .ok (data, s0) ∧ e.active f.guard = 0 :=
  ⟨mkF 0x2F 0x20 0x87 12 0xFF 0 0x11 0, bench3, bench3, envOf bench3, _, rfl, by decide +kernel, mready (by decide +kernel), rfl,
    by decide +kernel⟩

theorem noPoison_of {ps : List (Nat × W64 × Place)} {s : State} (h : isOk (noPoison ps s) = true) : noPoison ps s = .ok ((), s) := by
  revert h
  unfold noPoison
  dsimp only
  split
  · intro; rfl
  · intro h; exact absurd h (by simp [isOk])

/-- The A-slice with s10 the start of the data page, and faults kept for two later pages. -/
def ldqBench : State := onA (regs [(10, 0x10000)] bench3)

def withFault (s : State) : State :=
  s.modCore 0 (fun k => { k with faults := [{ asn := 0, page := 0x2, cause := 0x11, entry := 0 }, { asn := 0, page := 0x3, cause := 0x10, entry := 0x30000 }] })

/-- The lanes of an `LDQ` with their translations, and its faulting lanes. -/
def ldqVas (e : Env) (f : FFrame) (base : W64) (off : Lanes64) : List (Nat × W64) :=
  if (e.g.queue (regNo f.dst)).scalar then [(32, base)] else (actives (e.active f.guard)).map (fun l => (l, base + lane off l))

def ldqXs (e : Env) (s : State) (vas : List (Nat × W64)) : List (Nat × W64 × Xlat) := vas.map (fun v => (v.1, v.2, match e.xlate s v.2 .load with
  | .miss w => if e.w.atOnce then .bad 0x10 0 else .miss w
  | x => x))

/-- What `QueueLoadIssue` asks of an `LDQ` with an active lane, up to its translations. -/
def QueueLoads (f : FFrame) (s s1 s2 : State) (e : Env) (base : W64) (off : Lanes64) : Prop :=
  Allowed e s ∧ e.cur.a = true ∧ MReady e (specLdq f) f (ldqConds e f) (loadNamed (specLdq f) f) s ∧ e.active f.guard ≠ 0 ∧
  scalarVa e f (loadExt f.ty).size s = .ok (base, s1) ∧ srcV e .u32 f.srcB none s1 = .ok (off, s2) ∧
  (∀ v ∈ ldqVas e f base off, v.2.toNat % (loadExt f.ty).size = 0) ∧
  missesOf ((ldqXs e s2 (ldqVas e f base off)).map (fun x => x.2.2)) = []

theorem witness_QueueLoadIssue_idle : ∃ (f : FFrame) (s : State) (e : Env),
    Allowed e s ∧ e.cur.a = true ∧ MReady e (specLdq f) f (ldqConds e f) (loadNamed (specLdq f) f) s ∧ e.active f.guard = 0 ∧
    Room e f.dst 1 s ∧ RC.of f.dst = .q :=
  ⟨mkF 0x2F 0xA2 0x8A 12 1 0 8 0, ldqBench, envOf ldqBench, by unfold Allowed; decide +kernel, by decide +kernel, mready (by decide +kernel),
    by decide +kernel, queueRoom (by decide +kernel), by decide⟩

theorem witness_QueueLoadIssue_load : ∃ (f : FFrame) (s s1 s2 t : State) (e : Env) (base : W64) (off : Lanes64) (d : PendDst),
    let xs := ldqXs e s2 (ldqVas e f base off)
    let ps := xs.filterMap (fun x => match x.2.2 with | .place p => some (x.1, x.2.1, p) | _ => none)
    let bad := (xs.filter (fun x => x.2.2.cause?.isSome)).map (fun x => x.1)
    let entry : QEntry := { QEntry.ofLanes (tabulate 32 (fun l => if l.val ∈ bad then (lane off l.val).setWidth 32 else 0)) with
                            token := none }
    QueueLoads f s s1 s2 e base off ∧ noPoison ps s2 = .ok ((), s2) ∧ ps ≠ [] ∧
    reserve e (regNo f.dst) false [entry] (s2.dropFaults e.g.core e.w.asn) = .ok (d, t) ∧
    EnterRoom e .ldq (markPeers (ps.map (laneAcc (loadExt f.ty).size noBytes noBytes))) t :=
  ⟨mkF 0x25 0xA2 0x8A 12 1 0 8 0, ldqBench, ldqBench, ldqBench, _, envOf ldqBench, _, _, _,
    ⟨by unfold Allowed; decide +kernel, by decide +kernel, mready (by decide +kernel), by decide +kernel, rfl, rfl, by decide +kernel,
      by decide +kernel⟩, noPoison_of (by decide +kernel), by decide +kernel, ok_pair _ (by decide +kernel), enterRoom (by decide +kernel)⟩

theorem witness_QueueLoadIssue_faults : ∃ (f : FFrame) (s s1 s2 : State) (e : Env) (base : W64) (off : Lanes64),
    let xs := ldqXs e s2 (ldqVas e f base off)
    let ps := xs.filterMap (fun x => match x.2.2 with | .place p => some (x.1, x.2.1, p) | _ => none)
    QueueLoads f s s1 s2 e base off ∧ noPoison ps s2 = .ok ((), s2) ∧ ps = [] ∧ Room e f.dst 1 (s2.dropFaults e.g.core e.w.asn) ∧
    RC.of f.dst = .q :=
  ⟨mkF 0 0xA3 0x8A 0xF8 0 0 8 0, withFault (regs [(10, 0x20000)] ldqBench), _, _, envOf (withFault (regs [(10, 0x20000)] ldqBench)), _, _,
    ⟨by unfold Allowed; decide +kernel, by decide +kernel, mready (by decide +kernel), by decide +kernel, rfl, rfl, by decide +kernel,
      by decide +kernel⟩, noPoison_of (by decide +kernel), by decide +kernel, queueRoom (by decide +kernel), by decide⟩

theorem readReady_of {e : Env} {ps : List (Nat × W64 × Place)} {n : Nat} {own sync : Bool} {s : State}
    (h : isOk (readReady e ps n own sync s) = true) : readReady e ps n own sync s = .ok ((), s) := by
  revert h
  simp only [readReady, curSlice, holdIf, bind, StateT.bind, get, getThe, MonadStateOf.get, StateT.get, pure, StateT.pure, Except.bind,
    Except.pure]
  split
  · intro h; exact absurd h (by simp [hold, isOk])
  · intro; rfl

/-- Sparse bytes in local store from 0x40, their flat form in the data page, and the operands of `STC` and `LDX`. -/
def stcB : State :=
  let s := bench3.lsWrite 0 false 0x40 [1, 0, 0, 4, 0, 0, 7, 0, 0, 10]
  regs [(10, 0x10000), (11, 0x40), (12, 10), (13, 64), (14, 0x400), (15, 100)]
    { s with mem := s.mem.writeBytes 0x20000 (flatForm 1 1 (elementsOf 1 10 (s.lsRead 0 false 0x40 10))) }

def stcFrame (g : Nat) : FFrame := mkF g 0x8A 0x8B 0x8C 0x8D 1 2 0

def ldxFrame (g : Nat) : FFrame := mkF g 0x8E 0x8A 0x8F 0 0 0x0A 0

theorem witness_CompressedAccessIssue_store : ∃ (f : FFrame) (s : State) (e : Env) (r : LsRef) (pl : Nat → Place),
    let m := e.active f.guard
    let code := if f.ty = 0 then 4 else f.ty.toNat
    let vb := formBytes code
    let dst := e.sl.s (regNo f.dst)
    let src := (e.sl.s (regNo f.srcA)).setWidth 32
    let n := (e.sl.s (regNo f.srcB)).toNat
    let form := flatForm vb code (elementsOf vb n (s.lsRead r.wg r.half1 r.off (n * vb)))
    let pieces := piecesOf dst form.length
    Allowed e s ∧ FReady e (specStc f) f none s ∧ m ≠ 0 ∧ 0 < n ∧ n ≤ 16777215 ∧ dst.toNat % 8 = 0 ∧
    s.lsRef e.w e.g.half1 src (n * vb) = some r ∧ readReady e [(32, src.setWidth 64, r.place)] (n * vb) true false s = .ok ((), s) ∧
    s.rangeBehind e.g.core r.wg r.half1 r.off (n * vb) = false ∧ form.length ≤ (e.sl.s (regNo f.srcC)).toNat ∧ (∀ p ∈ pieces, e.xlate s p.2.1 .store = .place (pl p.1)) ∧
    EnterRoom e .store (markPeers (pieces.map (fun p =>
      { laneAcc p.2.2 (fun l => (form.drop (8 * (l - 32))).take 8) noBytes (p.1, p.2.1, pl p.1) with lane := p.1 }))) s :=
  ⟨stcFrame 0, stcB, envOf stcB, _, fun l => .mem (0x20000 + 8 * (l - 32)), by unfold Allowed; decide +kernel, fready (by decide +kernel),
    by decide +kernel, by decide +kernel, (by decide +kernel), by decide +kernel, some_get _ (by decide +kernel),
    readReady_of (by decide +kernel), by decide +kernel, by decide +kernel, by decide +kernel, enterRoom (by decide +kernel)⟩

theorem witness_CompressedAccessIssue_idle : ∃ (f g : FFrame) (s : State) (e : Env),
    Allowed e s ∧ FReady e (specStc f) f none s ∧ FReady e (specLdx g) g none s ∧ e.active f.guard = 0 ∧ e.active g.guard = 0 :=
  ⟨stcFrame 0x2F, ldxFrame 0x2F, stcB, envOf stcB, by unfold Allowed; decide +kernel, fready (by decide +kernel), fready (by decide +kernel),
    by decide +kernel, by decide +kernel⟩

theorem witness_CompressedAccessIssue_expand : ∃ (f : FFrame) (s s1 s2 : State) (e : Env) (r : LsRef) (pl : Nat → Place)
    (hb rest : List Byte) (x : FlatHeader) (xs : List Nat),
    let m := e.active f.guard
    let dst := (e.sl.s (regNo f.dst)).setWidth 32
    let src := e.sl.s (regNo f.srcA)
    let sc := Scope.ofCode (f.variant.toNat % 8)
    let acq := orderOf f == 1
    let seen (va : W64) (k : Nat) (u : State) : State := u.watchHit e.cur.grp e.cur.a [(va, k)] true false
    let nm := (x.n + 63) / 64
    let len := 8 * nm + x.vb * x.m
    let s3 := seen (src + 8) len s2
    let s4 := (s3.modCore e.g.core (fun k => { k with ttWait := k.ttWait.filter (fun w => w.1 != e.cur) })).dropStages e
    Allowed e s ∧ FReady e (specLdx f) f none s ∧ m ≠ 0 ∧ s.banksWait e.g.core e.g.sub = false ∧ src.toNat % 8 = 0 ∧
    e.xlate s src .load = .place (pl 32) ∧ readNow e src 8 sc m false acq s = .ok (hb, s1) ∧
    flatHeader (ofBytes hb) (e.sl.s (regNo f.srcB)).toNat = some x ∧
    readNow e (src + 8) len sc m false acq (seen src 8 s1) = .ok (rest, s2) ∧
    flatExpand x (elementsOf 8 nm rest) (elementsOf x.vb x.m (rest.drop (8 * nm))) = some xs ∧
    s3.lsRef e.w e.g.half1 dst (x.n * x.vb) = some r ∧
    TableRoom e (min 32 ((src.toNat + 8 + len + 127) / 128 - src.toNat / 128)) s3 ∧
    EnterRoom e .expand (lsRange dst r ((xs.map (toBytes x.vb)).flatten) (x.n * x.vb)) s4 :=
  ⟨ldxFrame 0, stcB, _, _, envOf stcB, _, fun _ => .mem 0x20000, _, _, _, _, by unfold Allowed; decide +kernel, fready (by decide +kernel),
    by decide +kernel, by decide +kernel, (by decide +kernel), by decide +kernel, ok_pair _ (by decide +kernel), some_get _ (by decide +kernel),
    ok_pair _ (by decide +kernel), some_get _ (by decide +kernel), some_get _ (by decide +kernel), tableRoom_of (by decide +kernel),
    enterRoom (by decide +kernel)⟩

/-- Two lines of the data page and another in L1. -/
def l1B : State :=
  bench3.modCore 0 (fun k => { k with l1 := [(0x20000 / 128, 0, List.replicate 128 0), (0x20080 / 128, 0, List.replicate 128 0),
    (5, 0, List.replicate 128 0)] })

theorem witness_CacheControl_prefetch : ∃ (f : FFrame) (s t : State) (e : Env) (ls : List Nat),
    Allowed e s ∧ FReady e (specPref f) f none s ∧ namedLines e f s = .ok (ls, t) :=
  ⟨mkF 0x25 0 0x86 12 3 0 0 0, l1B, _, envOf l1B, _, by unfold Allowed; decide +kernel, fready (by decide +kernel),
    ok_pair _ (by decide +kernel)⟩

theorem witness_CacheControl_clear : ∃ (f g h : FFrame) (s t : State) (e : Env) (ls : List Nat),
    FReady e (specCctl f) f none s ∧ e.active f.guard = 0 ∧ FReady e (specCctl g) g none s ∧ e.active g.guard ≠ 0 ∧
    g.variant.getLsbD 5 = true ∧ FReady e (specCctl h) h none s ∧ e.active h.guard ≠ 0 ∧ h.variant.getLsbD 5 = false ∧
    namedLines e h s = .ok (ls, t) :=
  ⟨mkF 0x2F 0 0 0 0 0 0x20 0, mkF 0 0 0 0 0 0 0x20 0, mkF 0x25 0 0x86 12 3 0 0 0, l1B, _, envOf l1B, _, fready (by decide +kernel),
    by decide +kernel, fready (by decide +kernel), by decide +kernel, by decide, fready (by decide +kernel), by decide +kernel, by decide,
    ok_pair _ (by decide +kernel)⟩

/-- An atomic's frame: a destination, the operand's register, a type and flags, on global memory or local store. -/
def atomFrame (g d c ty fl : Nat) (ls : Bool) : FFrame := mkF g d (if ls then 0x87 else 0x86) 12 c ty (if ls then 0x22 else 2) fl

/-- What `AtomicIssue` asks of any atomic. -/
def Atomics (i : Instr) (f : FFrame) (sp : FSpec) (cas ret : Bool) (s s0 : State) (e : Env) (data cmp : Nat → List Byte) : Prop :=
  let x : LoadExt := { loadExt f.ty with signed := false }
  let regs := if wideMem f then 2 else 1
  let value (k l : Nat) : List Byte :=
    let r (j : Nat) : Nat := (((e.sl.v (regNo f.srcC + regs * k + j))[l]?).getD 0).toNat
    toBytes x.size (if wideMem f then r 0 + 2 ^ 32 * r 1 else r 0)
  ((i = .atom f ∧ sp = specAtom f true ∧ cas = false ∧ ret = true ∧ cmp = noBytes ∧ atomData e f s = .ok (data, s0)) ∨
    (i = .red f ∧ sp = specAtom f false ∧ cas = false ∧ ret = false ∧ cmp = noBytes ∧ atomData e f s = .ok (data, s0)) ∨
    (i = .cas f ∧ sp = specCas f ∧ cas = true ∧ ret = true ∧ cmp = value 0 ∧ data = value 1 ∧ s0 = s)) ∧
  FReady e sp f none s ∧ (bit5 f = false → Allowed e s)

theorem witness_AtomicIssue_idle : ∃ (f g : FFrame) (s s0 s1 : State) (e : Env) (data cmp data' cmp' : Nat → List Byte),
    Atomics (.cas f) f (specCas f) true true s s0 e data cmp ∧ e.active f.guard = 0 ∧ Room e f.dst 1 s ∧
    Atomics (.red g) g (specAtom g false) false false s s1 e data' cmp' ∧ e.active g.guard = 0 :=
  ⟨atomFrame 0x2F 0x20 8 0 0 false, atomFrame 0x2F 0 0x84 4 3 false, bench3, bench3, _, envOf bench3, _, _, _, _,
    ⟨.inr (.inr ⟨rfl, rfl, rfl, rfl, rfl, rfl, rfl⟩), fready (by decide +kernel), fun _ => by unfold Allowed; decide +kernel⟩,
    by decide +kernel, room_of (by decide),
    ⟨.inr (.inl ⟨rfl, rfl, rfl, rfl, rfl, ok_pair _ (by decide +kernel)⟩), fready (by decide +kernel),
      fun _ => by unfold Allowed; decide +kernel⟩, by decide +kernel⟩

theorem witness_AtomicIssue_memory : ∃ (f : FFrame) (s s0 s1 s2 t : State) (e : Env) (data cmp : Nat → List Byte) (a b : Lanes64)
    (pl : Nat → Place) (d : PendDst),
    let m := e.active f.guard
    let va (l : Nat) : W64 := lane a l + lane b l
    Atomics (.atom f) f (specAtom f true) false true s s0 e data cmp ∧ bit5 f = false ∧ m ≠ 0 ∧ srcV e .u64 f.srcA none s0 = .ok (a, s1) ∧
    srcV e .u32 f.srcB none s1 = .ok (b, s2) ∧ Placed e s2 m (loadExt f.ty).size .store va pl ∧ Unpoisoned s2 m pl ∧
    ((s2.core e.g.core).pend.filter (fun p => p.grp == e.cur.grp && p.a == e.cur.a &&
      (match p.kind with | .atomic _ _ _ ret => ret | _ => false))).length < 16 ∧
    RC.of f.dst = .q ∧ reserve e (regNo f.dst) false (List.replicate 1 (QEntry.ofLanes Lanes.zero)) s2 = .ok (d, t) ∧
    EnterRoom e (.atomic f.flags f.ty false true)
      (lanesAt m (loadExt f.ty).size va pl data cmp) t :=
  ⟨atomFrame 0x25 0xA0 6 0 7 false, bench3, bench3, bench3, bench3, _, envOf bench3, _, _, _, _, _, _,
    ⟨.inl ⟨rfl, rfl, rfl, rfl, rfl, rfl⟩, fready (by decide +kernel), fun _ => by unfold Allowed; decide +kernel⟩, by decide,
    by decide +kernel, rfl, rfl, placed_of (by decide +kernel), unpoisoned_of (by decide +kernel), by decide +kernel, by decide,
    ok_pair _ (by decide +kernel), enterRoom (by decide +kernel)⟩

theorem witness_AtomicIssue_local : ∃ (f g : FFrame) (s s1 s2 s3 s4 : State) (e : Env) (data cmp data' cmp' : Nat → List Byte)
    (refs refs' : List (Nat × W32 × LsRef)) (h h' : Option Geom),
    Atomics (.cas f) f (specCas f) true true s s e data cmp ∧ bit5 f = true ∧ e.active f.guard ≠ 0 ∧ lgeomReady e s = .ok ((), s) ∧
    s.banksWait e.g.core e.g.sub = false ∧ lsRefs e f (loadExt f.ty).size false (e.active f.guard) s = .ok ((refs, h), s2) ∧
    (s2.core e.g.core).pend = [] ∧ RC.of f.dst = .v ∧
    EnterRoom e (.atomic f.flags f.ty true true) (lsAccs h (loadExt f.ty).size data cmp refs) s2 ∧
    Atomics (.red g) g (specAtom g false) false false s s1 e data' cmp' ∧ bit5 g = true ∧ e.active g.guard ≠ 0 ∧
    lgeomReady e s1 = .ok ((), s3) ∧ s1.banksWait e.g.core e.g.sub = false ∧
    lsRefs e g (loadExt g.ty).size false (e.active g.guard) s1 = .ok ((refs', h'), s4) :=
  ⟨atomFrame 0x25 0x20 8 0 0 true, atomFrame 0x25 0 0x84 4 3 true, bench3, bench3, _, bench3, _, envOf bench3, _, _, _, _, _, _, _, _,
    ⟨.inr (.inr ⟨rfl, rfl, rfl, rfl, rfl, rfl, rfl⟩), fready (by decide +kernel), fun h => absurd h (by decide)⟩,
    by decide, by decide +kernel, rfl, by decide +kernel, ok_pair _ (by decide +kernel), by decide +kernel, by decide,
    enterRoom (by decide +kernel),
    ⟨.inr (.inl ⟨rfl, rfl, rfl, rfl, rfl, rfl⟩), fready (by decide +kernel), fun h => absurd h (by decide)⟩,
    by decide, by decide +kernel, rfl, by decide +kernel, ok_pair _ (by decide +kernel)⟩

/-- Two accesses outstanding, one of them a load, and a line in L1. -/
def fenceB : State :=
  let p (id : Nat) (k : PendKind) : Pending :=
    ⟨id, 1, false, 0, k, .none, ⟨4, false⟩, [], .dev, false, false, false, [], none, 0, none, 0⟩
  (both (fun sl => { sl with loads := 2, stores := 1, copies := 3, passes := 0 }) bench3).modCore 0 (fun k =>
    { k with pend := [p 0 .load, p 1 .store], nextPend := 2, l1 := [(4, 0, [])] })

theorem witness_FenceResult_fence : ∃ (f g h : FFrame) (s : State) (e : Env) (sl : Slice), s.slice? e.cur.grp e.cur.a = some sl ∧
    FReady e specGfence f none s ∧ e.active f.guard ≠ 0 ∧
    FReady e (specFence g) g none s ∧ e.active g.guard ≠ 0 ∧ g.variant.toNat / 8 % 4 = 1 ∧ (Scope.ofCode (g.variant.toNat % 8)).inL1 = true ∧
    FReady e (specFence h) h none s ∧ e.active h.guard ≠ 0 ∧ h.variant.toNat / 8 % 4 = 2 :=
  ⟨mkF 0x22 0 0 0 0 0 0 0, mkF 0 0 0 0 0 0 8 0, mkF 0 0 0 0 0 0 0x13 0, fenceB, envOf fenceB, _, some_get _ (by decide +kernel),
    fready (by decide +kernel), by decide +kernel, fready (by decide +kernel), by decide +kernel, by decide, by decide,
    fready (by decide +kernel), by decide +kernel, by decide⟩

theorem witness_FenceResult_acquire : ∃ (f : FFrame) (s : State) (e : Env) (sl : Slice), s.slice? e.cur.grp e.cur.a = some sl ∧
    FReady e (specFence f) f none s ∧ e.active f.guard ≠ 0 ∧ f.variant.toNat / 8 % 4 ≠ 2 ∧ mine e s = [] :=
  ⟨mkF 0 0 0 0 0 0 0x1B 0, bench3, envOf bench3, _, some_get _ (by decide +kernel), fready (by decide +kernel), by decide +kernel,
    by decide, by decide +kernel⟩

theorem witness_FenceResult_cross : ∃ (f g : FFrame) (s : State) (e : Env), 
    FReady e (specFencex f) f none s ∧ e.active f.guard ≠ 0 ∧ PathCode.of f.srcB.toNat = .lsu ∧
    s.pointOpen e.g.core e.g.sub (s.covers e (PathCode.of f.srcA.toNat) .lsu) = false ∧
    FReady e (specFencex g) g none s ∧ e.active g.guard ≠ 0 ∧ PathCode.of g.srcB.toNat ≠ .lsu :=
  ⟨mkF 0 0 1 0 0 0 0x1B 0, mkF 0 0 0 1 0 0 0x1B 0, bench3, envOf bench3, fready (by decide +kernel), by decide +kernel, by decide,
    by decide +kernel, fready (by decide +kernel), by decide +kernel, by decide⟩

theorem witness_FenceResult_count : ∃ (f : FFrame) (s : State) (e : Env) (sl : Slice), s.slice? e.cur.grp e.cur.a = some sl ∧
    FReady e (specWaitcnt f) f none s ∧ e.active f.guard ≠ 0 ∧
    sl.loads ≤ f.dst.toNat ∧ sl.stores ≤ f.srcA.toNat ∧ sl.copies ≤ f.srcB.toNat ∧ sl.passes ≤ f.srcC.toNat :=
  ⟨mkF 0 2 1 3 0 0 0 0, fenceB, envOf fenceB, _, some_get _ (by decide +kernel), fready (by decide +kernel), by decide +kernel⟩

theorem witness_FenceResult_idle : ∃ (f g h : FFrame) (s : State) (e : Env),
    FReady e specGfence f none s ∧ FReady e (specWaitcnt f) f none s ∧ e.active f.guard = 0 ∧
    FReady e (specFencex g) g none s ∧ e.active g.guard = 0 ∧ FReady e (specFence h) h none s ∧ e.active h.guard = 0 :=
  ⟨mkF 0x2F 0 0 0 0 0 0 0, mkF 0x2F 0 0 1 0 0 0x1B 0, mkF 0x2F 0 0 0 0 0 0x1B 0, fenceB, envOf fenceB, fready (by decide +kernel),
    fready (by decide +kernel), by decide +kernel, fready (by decide +kernel), by decide +kernel, fready (by decide +kernel),
    by decide +kernel⟩

/-- A tag table with keys, and keys, slots and ways in v18 to v20. -/
def tagB : State :=
  onWg (fun w => { w with tags0 := w.tags0.mapIdx (fun i l => l.mapIdx (fun j x =>
    { x with key := BitVec.ofNat 48 (i + 4 * j), slot := BitVec.ofNat 32 (100 + i + 10 * j), valid := j % 2 == 1 })) })
    (vecs [(18, fun l => l), (19, fun _ => 0), (20, fun l => l % 8)] bench3)

theorem ordered_of {e : Env} {w : Bool} {s : State} (h : (s.core e.g.core).pend.isEmpty = true) : Ordered e w s := by
  simp [Ordered, List.isEmpty_iff.1 h]

theorem witness_TagResult : ∃ (f g h k : FFrame) (s s1 t : State) (e : Env) (slot way : Lanes64), tagTable e s ≠ [] ∧
    FReady e specTlook f none s ∧ Ordered e false s ∧ Ordered e true s ∧ FReady e specTset g none s ∧ srcV e .u32 g.srcB none s = .ok (slot, s1) ∧
    srcV e .u32 g.srcC none s1 = .ok (way, t) ∧ (∀ l ∈ actives (e.active g.guard), laneNat way l < 8) ∧
    FReady e (specTclr h) h none s ∧ e.active h.guard ≠ 0 ∧ h.variant.getLsbD 0 = false ∧
    FReady e (specTclr k) k none s ∧ e.active k.guard ≠ 0 ∧ k.variant.getLsbD 0 = true :=
  ⟨mkF 0x22 0x21 18 0 0 0 0 0, mkF 0x22 0 18 12 20 0 0 0, mkF 0x22 0 18 0 0 0 0 0, mkF 0 0 0 0 0 0 1 0, tagB, tagB, tagB, envOf tagB,
    _, _, by decide +kernel, fready (by decide +kernel), ordered_of (by decide +kernel), ordered_of (by decide +kernel),
    fready (by decide +kernel), rfl, rfl, by decide +kernel,
    fready (by decide +kernel), by decide +kernel, by decide, fready (by decide +kernel), by decide +kernel, by decide⟩

theorem witness_TagResult_idle : ∃ (f : FFrame) (s : State) (e : Env), tagTable e s ≠ [] ∧ FReady e (specTclr f) f none s ∧
    Ordered e true s ∧ e.active f.guard = 0 :=
  ⟨mkF 0x2F 0 18 0 0 0 0 0, tagB, envOf tagB, by decide +kernel, fready (by decide +kernel), ordered_of (by decide +kernel),
    by decide +kernel⟩

/-- A fresh object that expects n arrivals. -/
def freshObj (n : Nat) : Nat := n + 5 * 2 ^ 61

/-- An object at 0x40 of local store, whose address is in s4 and counts in s5. -/
def barB : State := (regs [(4, 0x40), (5, 0x00030002), (6, 0x10000), (10, 0), (11, 1)] bench3).objWrite (.ls 0 false 0x40) (freshObj 2)

/-- The same in a pair. -/
def pairB : State := onWg (fun w => { w with pair := true }) barB

/-- An object in memory, of a workgroup whose grid may use it. -/
def memB : State :=
  (onWg (fun w => { w with desc := w.desc ||| BitVec.ofNat 1024 (2 ^ 26) }) (regs [(4, 0x10040)] barB)).objWrite (.mem 0x20040) (freshObj 2)

theorem found_of {e : Env} {f : FFrame} {w : Bool} {op : BarOp} {s : State} (h : isOk (findObj e f w (e.active f.guard) s) = true)
    (h' : (objReason ((got _ h).2.objRead (got _ h).1.ref) op).isNone = true) : Found e f w op s (got _ h).1 (got _ h).2 :=
  ⟨ok_pair _ h, by simpa using h'⟩

theorem witness_BarrierUpdate_init : ∃ (f : FFrame) (s t : State) (e : Env) (o : BarObj),
    FReady e (specBinit f) f none s ∧ e.active f.guard ≠ 0 ∧ Found e f true .init s o t ∧
    f.flags.getLsbD 2 = true ∧ e.w.pair = true ∧ (e.sl.s (regNo f.srcB)).toNat % 2 ^ 16 ≠ 0 ∧
    (e.sl.s (regNo f.srcB)).toNat / 2 ^ 16 % 2 ^ 16 ≠ 0 ∧ o.ref = .ls 0 false 0x40 ∧
    ∀ half1, t.rangeBehind e.g.core 0 half1 0x40 32 = false :=
  ⟨mkF 0 0 0x84 0x85 0 0 0 4, pairB, _, envOf pairB, _, fready (by decide +kernel), by decide +kernel,
    found_of (by decide +kernel) (by decide +kernel), by decide, by decide +kernel⟩

theorem witness_BarrierUpdate_arrive : ∃ (f g h : FFrame) (s t u v : State) (e : Env) (o p q : BarObj),
    FReady e (specBarr f) f none s ∧ e.active f.guard ≠ 0 ∧ s.pushAfter e = [] ∧ Found e f true .arrive s o t ∧ o.grid = false ∧
    FReady e (specBarrx g) g none s ∧ e.active g.guard ≠ 0 ∧ bit5 g = true ∧
    Found e g true (.addOnly (e.sl.s (regNo g.srcB)).toNat) s p u ∧ p.grid = false ∧
    FReady e (specBarrx h) h none s ∧ e.active h.guard ≠ 0 ∧ bit5 h = false ∧
    Found e h true (.arriveAdd (e.sl.s (regNo h.srcB)).toNat) s q v ∧ q.grid = false :=
  ⟨mkF 0 0 0x84 0 0 0 0 0, mkF 0 0 0x84 0x85 0 0 0x20 0, mkF 0 0 0x84 0x85 0 0 0 0, barB, _, _, _, envOf barB, _, _, _,
    fready (by decide +kernel), by decide +kernel, by decide +kernel, found_of (by decide +kernel) (by decide +kernel), by decide +kernel,
    fready (by decide +kernel), by decide +kernel, by decide, found_of (by decide +kernel) (by decide +kernel), by decide +kernel,
    fready (by decide +kernel), by decide +kernel, by decide, found_of (by decide +kernel) (by decide +kernel), by decide +kernel⟩

theorem witness_BarrierUpdate_grid : ∃ (f : FFrame) (s t : State) (e : Env) (o : BarObj),
    FReady e (specBarr f) f none s ∧ e.active f.guard ≠ 0 ∧ s.pushAfter e = [] ∧ Found e f true .arrive s o t ∧ o.grid = true ∧
    descField e.w.desc 26 1 = 1 :=
  ⟨mkF 0 0 0x84 0 0 0 3 2, memB, _, envOf memB, _, fready (by decide +kernel), by decide +kernel, by decide +kernel,
    found_of (by decide +kernel) (by decide +kernel), by decide +kernel, by decide +kernel⟩

theorem witness_BarrierUpdate_idle : ∃ (f g : FFrame) (s : State) (e : Env), e.active f.guard = 0 ∧ e.active g.guard = 0 ∧
    FReady e (specBinit f) f none s ∧ FReady e (specBarr g) g none s ∧ FReady e (specBarrx f) f none s :=
  ⟨mkF 0x2F 0 0x84 0x85 0 0 0 0, mkF 0x2F 0 0x84 0 0 0 0 0, barB, envOf barB, by decide +kernel, by decide +kernel,
    fready (by decide +kernel), fready (by decide +kernel), fready (by decide +kernel)⟩

theorem ok_fst {α : Type} {x : Except Stop (α × State)} {a : α} (h : isOk x = true) (h' : (got x h).1 = a) : x = .ok (a, (got x h).2) :=
  (ok_pair x h).trans (by rw [h'])

/-- What `BarrierWait` asks of a `BWAIT` with an active lane. -/
def Waits (f : FFrame) (s s1 s2 t : State) (e : Env) (o : BarObj) (b : W64) (ti : Option (W64 × Bool)) : Prop :=
  FReady e (specBwait f) f none s ∧ e.active f.guard ≠ 0 ∧ srcS e f.srcB none s = .ok (b, s1) ∧ Found e f false .look s1 o s2 ∧
  promInstant e f s2 = .ok (ti, t)

theorem witness_BarrierWait_past : ∃ (f : FFrame) (s s1 s2 t : State) (e : Env) (o : BarObj) (b : W64),
    Waits f s s1 s2 t e o b none ∧ t.phaseOf o.ref ≠ b.getLsbD 0 :=
  ⟨mkF 0 0 0x84 0x8B 0 0 3 2, memB, memB, _, _, envOf memB, _, _,
    ⟨fready (by decide +kernel), by decide +kernel, rfl, found_of (by decide +kernel) (by decide +kernel), rfl⟩, by decide +kernel⟩

theorem witness_BarrierWait_open : ∃ (f : FFrame) (s s1 s2 t : State) (e : Env) (o : BarObj) (b : W64),
    Waits f s s1 s2 t e o b none ∧ t.phaseOf o.ref = b.getLsbD 0 :=
  ⟨mkF 0 0 0x84 0x8A 0 0 0 0, barB, barB, _, _, envOf barB, _, _,
    ⟨fready (by decide +kernel), by decide +kernel, rfl, found_of (by decide +kernel) (by decide +kernel), rfl⟩, by decide +kernel⟩

theorem witness_BarrierWait_asleep : ∃ (f : FFrame) (s s1 s2 t : State) (e : Env) (o : BarObj) (b i : W64),
    Waits f s s1 s2 t e o b (some (i, false)) ∧ t.ptb (dieOf e.g.core) < i.toNat :=
  ⟨mkF 0 0 0x84 0x8A 0x86 0 0x20 0, barB, barB, _, _, envOf barB, _, _, 0x10000,
    ⟨fready (by decide +kernel), by decide +kernel, rfl, found_of (by decide +kernel) (by decide +kernel), ok_fst (by decide +kernel) (by decide +kernel)⟩, by decide +kernel⟩

theorem witness_BarrierWait_late : ∃ (f : FFrame) (s s1 s2 t : State) (e : Env) (o : BarObj) (b i : W64),
    Waits f s s1 s2 t e o b (some (i, false)) ∧ i.toNat ≤ t.ptb (dieOf e.g.core) ∧ t.phaseOf o.ref = b.getLsbD 0 ∧
    t.rcbOwned 6 e.w.region 93 1 ≠ 1 :=
  ⟨mkF 0 0 0x84 0x8A 0x8A 0 0x20 0, barB, barB, _, _, envOf barB, _, _, 0,
    ⟨fready (by decide +kernel), by decide +kernel, rfl, found_of (by decide +kernel) (by decide +kernel), ok_fst (by decide +kernel) (by decide +kernel)⟩, by decide +kernel⟩

/-- Part 5 is a peer that may be read, and s7 holds the fabric address of offset 0x40 of its window. -/
def peerB : State :=
  let s := regs [(7, 2 ^ 55 + 5 * 2 ^ 43 + 0x40)] barB
  { s with fabric := { s.fabric with part := [(5, 7)] } }

/-- A `BWAIT.prom` that waits on with its promise missed. -/
def missedB : State := both (fun sl => { sl with wait0 := some ⟨.ls 0 false 0x40, 0x40, false, false, some 7, false, true⟩ }) barB

theorem witness_BarrierWait_missed : ∃ (f : FFrame) (s s1 s2 t : State) (e : Env) (o : BarObj) (b : W64),
    Waits f s s1 s2 t e o b (some (7, true)) ∧ t.phaseOf o.ref = b.getLsbD 0 :=
  ⟨mkF 0 0 0x84 0x8A 0x86 0 0x20 0, missedB, missedB, _, _, envOf missedB, _, _,
    ⟨fready (by decide +kernel), by decide +kernel, rfl, found_of (by decide +kernel) (by decide +kernel),
      ok_fst (by decide +kernel) (by decide +kernel)⟩, by decide +kernel⟩

theorem witness_BarrierWait_peer : ∃ (f : FFrame) (s u : State) (e : Env) (o : BarObj),
    FReady e (specBwatch f) f none s ∧ e.active f.guard ≠ 0 ∧ e.xlate s (e.sl.s (regNo f.srcB)) .load = .place (.fabric 5 0x40) ∧
    (e.sl.s (regNo f.srcB)).toNat % 8 = 0 ∧ Found e f true .watch s o u ∧ o.ref = .ls 0 false 0x40 :=
  ⟨mkF 0 0 0x84 0x87 0x85 0 0 0, peerB, _, envOf peerB, _, fready (by decide +kernel), by decide +kernel,
    (by decide +kernel), by decide +kernel, found_of (by decide +kernel) (by decide +kernel), by decide +kernel⟩

theorem witness_BarrierWait_idle : ∃ (f g h : FFrame) (s : State) (e : Env),
    FReady e (specBwait f) f none s ∧ e.active f.guard = 0 ∧ f.variant.getLsbD 5 = false ∧
    FReady e (specBtest g) g none s ∧ e.active g.guard = 0 ∧ FReady e (specBwatch h) h none s ∧ e.active h.guard = 0 :=
  ⟨mkF 0x2F 0 0x84 0x8A 0 0 0 0, mkF 0x2F 0x9F 0x84 0 0 0 0 0, mkF 0x2F 0 0x84 0x86 0x85 0 0 0, barB, envOf barB, fready (by decide +kernel),
    by decide +kernel, by decide, fready (by decide +kernel), by decide +kernel, fready (by decide +kernel), by decide +kernel⟩

theorem witness_BarrierWait_test : ∃ (f g : FFrame) (s t u : State) (e : Env) (o p : BarObj) (pl : Place),
    FReady e (specBtest f) f none s ∧ e.active f.guard ≠ 0 ∧ Found e f false .look s o t ∧
    FReady e (specBwatch g) g none s ∧ e.active g.guard ≠ 0 ∧ e.xlate s (e.sl.s (regNo g.srcB)) .load = .place pl ∧
    (e.sl.s (regNo g.srcB)).toNat % 8 = 0 ∧ (∀ a, pl = .mem a → s.poisoned a = false) ∧ Found e g true .watch s p u ∧
    p.ref = .ls 0 false 0x40 :=
  ⟨mkF 0 0x9F 0x84 0 0 0 0 0, mkF 0 0 0x84 0x86 0x85 0 0 0, barB, _, _, envOf barB, _, _, .mem 0x20000, fready (by decide +kernel),
    by decide +kernel, found_of (by decide +kernel) (by decide +kernel), fready (by decide +kernel), by decide +kernel,
    by decide +kernel, (by decide +kernel), fun a h => by cases h; decide +kernel, found_of (by decide +kernel) (by decide +kernel),
    by decide +kernel⟩

/-- A wide frame: guard, destination, sources A to C, type, variant, flags, then sources D to F, wide flags and the immediate. -/
def mkW (g d a b c ty v fl D E F wf imm : Nat) : WFrame :=
  ⟨mkF g d a b c ty v fl, BitVec.ofNat 8 D, BitVec.ofNat 8 E, BitVec.ofNat 8 F, BitVec.ofNat 8 wf, BitVec.ofNat 32 imm⟩

theorem ok_prod {ε α β : Type} (x : Except ε (α × β)) (h : isOk x = true) : x = .ok ((got x h).1, (got x h).2) := ok_got x h

theorem witness_GeometryResult_move : ∃ (w x y : WFrame) (s t u : State) (e : Env) (v v' : W64),
    WReady e (specGdef w) w false s ∧ e.active w.f.guard ≠ 0 ∧ srcS e w.f.srcB w.lit s = .ok (v, t) ∧ w.wflags.toNat < 8 ∧
    WReady e (specGdef x) x false s ∧ e.active x.f.guard ≠ 0 ∧ srcS e x.f.srcB x.lit s = .ok (v', u) ∧ x.wflags.toNat = 8 ∧
    WReady e specGmov y false s ∧ e.active y.f.guard ≠ 0 :=
  ⟨mkW 0 0xDF 0xC1 0x84 0 0 0 0 0 0 0 7 0, mkW 0 0xC0 0xF8 0 0 0 0 1 0 0 0 8 0xFFFF1234, mkW 0x22 0xC0 0 0xC1 0 0 0 0 0 0 0 0 0,
    bench4, bench4, bench4, envOf bench4, _, _, wready (by decide +kernel), by decide +kernel, rfl, by decide, wready (by decide +kernel),
    by decide +kernel, rfl, by decide, wready (by decide +kernel), by decide +kernel⟩

theorem witness_GeometryResult_shape : ∃ (w x y : WFrame) (s : State) (e : Env) (g h k : Geom),
    WReady e specGchain w false s ∧ e.active w.f.guard ≠ 0 ∧ (geoOf e w.f.srcA).ok = true ∧ (geoOf e w.f.srcB).ok = true ∧
    (geoOf e w.f.srcA).chain (geoOf e w.f.srcB) = .ok g ∧
    WReady e (specGtran x) x false s ∧ e.active x.f.guard ≠ 0 ∧ (geoOf e x.f.srcA).tran x.imm.toNat = .ok h ∧
    WReady e specGflat y false s ∧ e.active y.f.guard ≠ 0 ∧ (geoOf e y.f.srcA).flat y.wflags.toNat = .ok k :=
  ⟨mkW 0 0xC0 0xC1 0xC6 0 0 0 0 0 0 0 0 0, mkW 0 0xC0 0xC1 0 0 0 0 0 0 0 0 0 1, mkW 0 0xC0 0xC1 0 0 0 0 0 0 0 0 0 0, bench4, envOf bench4,
    _, _, _, wready (by decide +kernel), by decide +kernel, by decide +kernel, (by decide +kernel), ok_got _ (by decide +kernel),
    wready (by decide +kernel), by decide +kernel, ok_got _ (by decide +kernel), wready (by decide +kernel), by decide +kernel,
    ok_got _ (by decide +kernel)⟩

theorem witness_GeometryResult_part : ∃ (w x : WFrame) (s s1 s2 t u : State) (e : Env) (v y v' y' : W64) (g h : Geom) (d k : Int),
    WReady e specGpart w false s ∧ e.active w.f.guard ≠ 0 ∧ (geoOf e w.f.srcA).ok = true ∧ srcS e w.f.srcB w.lit s = .ok (v, s1) ∧
    srcS e w.f.srcC none s1 = .ok (y, t) ∧ (geoOf e w.f.srcA).slice v.toNat y.toNat w.wflags.toNat = .ok (g, d) ∧
    WReady e specGpart x false s ∧ e.active x.f.guard ≠ 0 ∧ (geoOf e x.f.srcA).ok = true ∧ srcS e x.f.srcB x.lit s = .ok (v', s2) ∧
    srcS e x.f.srcC none s2 = .ok (y', u) ∧ (geoOf e x.f.srcA).part v'.toNat y'.toNat x.wflags.toNat = .ok (h, k) :=
  ⟨mkW 0 0xC0 0xC1 0x8D 0x8D 0 0 0 0 0x8A 0 1 0, mkW 0 0xC0 0xC1 0x8E 0x8D 0 0 0 0 0x8A 0 0 0, bench4, bench4, bench4, bench4, bench4,
    envOf bench4, _, _, _, _, _, _, _, _, wready (by decide +kernel), by decide +kernel, by decide +kernel, rfl, rfl,
    ok_prod _ (by decide +kernel), wready (by decide +kernel), by decide +kernel, by decide +kernel, rfl, rfl,
    ok_prod _ (by decide +kernel)⟩

theorem witness_GeometryResult_check : ∃ (w x y z : WFrame) (s t u : State) (e : Env) (v v' : W64),
    WReady e (specGswz w) w false s ∧ e.active w.f.guard ≠ 0 ∧ w.f.variant.getLsbD 0 = true ∧
    WReady e (specGswz x) x false s ∧ e.active x.f.guard ≠ 0 ∧ x.f.variant.getLsbD 0 = false ∧
    WReady e specGchk y false s ∧ e.active y.f.guard ≠ 0 ∧ srcS e y.f.srcB y.lit s = .ok (v, t) ∧
    WReady e specGbank z false s ∧ e.active z.f.guard ≠ 0 ∧ srcS e z.f.srcB z.lit s = .ok (v', u) :=
  ⟨mkW 0 0xC0 0xC1 0x84 0x85 0 1 0 0 0 0 0 0, mkW 0 0xC0 0xC1 0 0 0 0 0 0 0 0 0 0x2C, mkW 0 0x9F 0xC4 0x8C 0 0 0 0 0 0 0 2 0,
    mkW 0 0x9F 0xC3 0x8C 0 0 0 0 0 0 0 0 0, bench4, bench4, bench4, envOf bench4, _, _, wready (by decide +kernel), by decide +kernel,
    by decide, wready (by decide +kernel), by decide +kernel, by decide, wready (by decide +kernel), by decide +kernel, rfl,
    wready (by decide +kernel), by decide +kernel, rfl⟩

theorem witness_GeometryResult_idle : ∃ (w x y z : WFrame) (s : State) (e : Env), e.active w.f.guard = 0 ∧ e.active x.f.guard = 0 ∧
    e.active y.f.guard = 0 ∧ e.active z.f.guard = 0 ∧
    WReady e (specGdef w) w false s ∧ WReady e specGchain x false s ∧ WReady e specGflat y false s ∧ WReady e (specGtran y) y false s ∧
    WReady e (specGswz y) y false s ∧ WReady e specGchk z false s ∧ WReady e specGbank z false s :=
  ⟨mkW 0x2F 0xC0 0xC1 0x84 0 0 0 0 0 0 0 0 0, mkW 0x2F 0xC0 0xC1 0xC6 0 0 0 0 0 0 0 0 0, mkW 0x2F 0xC0 0xC1 0 0 0 0 0 0 0 0 0 0,
    mkW 0x2F 0x9F 0xC3 0x8C 0 0 0 0 0 0 0 0 0, bench4, envOf bench4, by decide +kernel, by decide +kernel, (by decide +kernel),
    by decide +kernel, wready (by decide +kernel), wready (by decide +kernel), (wready (by decide +kernel)), wready (by decide +kernel),
    wready (by decide +kernel), (wready (by decide +kernel)), wready (by decide +kernel)⟩

theorem witness_GeometryResult_partIdle : ∃ (w : WFrame) (s : State) (e : Env), e.active w.f.guard = 0 ∧ WReady e specGpart w false s :=
  ⟨mkW 0x2F 0xC0 0xC1 0x8D 0x8D 0 0 0 0 0x8A 0 1 0, bench4, envOf bench4, by decide +kernel, wready (by decide +kernel)⟩

/-- The address of an image access. -/
def imageVa (e : Env) (w : WFrame) : W64 := e.sl.s (regNo w.f.srcA) + w.imm.signExtend 64

/-- The places of the pieces from the data page's start and an offset. -/
def pagePl (off : Nat) (l : Nat) : Place := .mem (0x20000 + off + 8 * (l - 32))

theorem pieces_unpoisoned {s : State} {ps : List (Nat × W64 × Nat)} {pl : Nat → Place}
    (h : (ps.all fun p => match pl p.1 with | .mem a => !s.poisoned a | _ => true) = true) :
    ∀ p ∈ ps, ∀ a, pl p.1 = .mem a → s.poisoned a = false := by
  intro p hp a ha
  have := List.all_eq_true.1 h p hp
  simpa [ha] using this

theorem witness_ImageMove_memory : ∃ (w x y : WFrame) (s : State) (e : Env) (pl : Nat → Place),
    WReady e (specGldst w false) w false s ∧ e.active w.f.guard ≠ 0 ∧ bit5 w.f = false ∧ PiecesPlaced e s (imageVa e w) 64 .load pl ∧
    (∀ p ∈ piecesOf (imageVa e w) 64, ∀ a, pl p.1 = .mem a → s.poisoned a = false) ∧
    EnterRoom e .load (piecesAt (imageVa e w) 64 pl []) s ∧
    WReady e (specGldst x true) x false s ∧ e.active x.f.guard ≠ 0 ∧ bit5 x.f = false ∧ PiecesPlaced e s (imageVa e x) 64 .store pl ∧
    EnterRoom e .store (piecesAt (imageVa e x) 64 pl (toBytes 64 ((e.geomReg x.f.dst).toNat % 2 ^ 511))) s ∧
    WReady e (specFbset y) y true s ∧ e.active y.f.guard ≠ 0 ∧ bit5 y.f = true ∧ y.wflags.getLsbD 0 = false ∧
    PiecesPlaced e s (imageVa e y) 32 .load pl ∧ (∀ p ∈ piecesOf (imageVa e y) 32, ∀ a, pl p.1 = .mem a → s.poisoned a = false) ∧
    EnterRoom e .load (piecesAt (imageVa e y) 32 pl []) s :=
  ⟨mkW 0 0xC9 0x8A 0 0 0 0x0B 0 0 0 0 0 64, mkW 0 0xC3 0x8A 0 0 0 0x13 0 0 0 0 0 64, mkW 0 0xF7 0x8A 0 0 0 0x20 0 0 0 0 0 64, bench4,
    envOf bench4, pagePl 64, wready (by decide +kernel), by decide +kernel, by decide, ⟨by decide +kernel, by decide +kernel⟩,
    pieces_unpoisoned (by decide +kernel), enterRoom (by decide +kernel),
    wready (by decide +kernel), by decide +kernel, by decide, ⟨by decide +kernel, by decide +kernel⟩, enterRoom (by decide +kernel),
    wready (by decide +kernel), by decide +kernel, by decide, by decide, ⟨by decide +kernel, by decide +kernel⟩,
    pieces_unpoisoned (by decide +kernel), enterRoom (by decide +kernel)⟩

theorem witness_ImageMove_local : ∃ (w x y z : WFrame) (s t : State) (e : Env) (r r' : LsRef) (mid : W64),
    WReady e (specGldst w false) w false s ∧ e.active w.f.guard ≠ 0 ∧ bit5 w.f = true ∧ s.banksWait e.g.core e.g.sub = false ∧
    s.lsRef e.w e.g.half1 ((imageVa e w).setWidth 32) 64 = some r ∧ ((imageVa e w).setWidth 32).toNat % 64 = 0 ∧
    EnterRoom e .load (lsRange ((imageVa e w).setWidth 32) r [] 64) s ∧
    WReady e (specGldst x true) x false s ∧ e.active x.f.guard ≠ 0 ∧ bit5 x.f = true ∧
    s.lsRef e.w e.g.half1 ((imageVa e x).setWidth 32) 64 = some r ∧
    EnterRoom e .store (lsRange ((imageVa e x).setWidth 32) r (toBytes 64 ((e.geomReg x.f.dst).toNat % 2 ^ 511)) 64) s ∧
    WReady e (specFbset y) y true s ∧ e.active y.f.guard ≠ 0 ∧ bit5 y.f = true ∧ y.wflags.getLsbD 0 = true ∧
    s.fencesTo e .matrix s = .ok ([], s) ∧ s.lsRef e.w e.g.half1 ((imageVa e y).setWidth 32) 32 = some r' ∧
    ((imageVa e y).setWidth 32).toNat % 32 = 0 ∧ EnterRoom e .load (lsRange ((imageVa e y).setWidth 32) r' [] 32) s ∧
    WReady e (specFbset z) z true s ∧ e.active z.f.guard ≠ 0 ∧ bit5 z.f = false ∧ srcS e z.f.srcB z.lit s = .ok (mid, t) :=
  ⟨mkW 0 0xC9 0x8C 0 0 0 0x20 0 0 0 0 0 64, mkW 0 0xC3 0x8C 0 0 0 0x20 0 0 0 0 0 64, mkW 0 0xF7 0x8C 0 0 0 0x20 0 0 0 0 1 32,
    mkW 0 0xF7 0x8A 0 0xF8 0 0 1 0 0 0 0 0x80000001, bench4, bench4, envOf bench4, _, _, _, wready (by decide +kernel), by decide +kernel,
    by decide, by decide +kernel, some_get _ (by decide +kernel), by decide +kernel, enterRoom (by decide +kernel),
    wready (by decide +kernel), by decide +kernel, by decide, some_get _ (by decide +kernel), enterRoom (by decide +kernel),
    wready (by decide +kernel), by decide +kernel, by decide, by decide, rfl, some_get _ (by decide +kernel), by decide +kernel,
    enterRoom (by decide +kernel), wready (by decide +kernel), by decide +kernel, by decide, rfl⟩

theorem witness_ImageMove_idle : ∃ (w x y : WFrame) (s : State) (e : Env), e.active w.f.guard = 0 ∧ WReady e (specGldst w false) w false s ∧
    e.active x.f.guard = 0 ∧ WReady e (specGldst x true) x false s ∧ e.active y.f.guard = 0 ∧ WReady e (specFbset y) y true s :=
  ⟨mkW 0x2F 0xC9 0x8A 0 0 0 0x0B 0 0 0 0 0 64, mkW 0x2F 0xC3 0x8A 0 0 0 0x13 0 0 0 0 0 64, mkW 0x2F 0xF7 0x8A 0 0 0 0x20 0 0 0 0 0 32,
    bench4, envOf bench4, by decide +kernel, wready (by decide +kernel), by decide +kernel, wready (by decide +kernel), by decide +kernel,
    wready (by decide +kernel)⟩

/-- Layouts of 64-bit rows for the multiply instructions: A in g4, B in g5, B for `MMSP` in g7; two elements kept of every four; lane 0
alone in p6. -/
def mmB : State :=
  preds [(6, 1)] (regs [(16, 0x800), (17, 8)] (geos [(4, tileGeom 16 16 7 1), (5, tileGeom 32 16 7 1), (7, tileGeom 32 32 7 1)]
    (bench4.lsWrite 0 false 0x3800 (List.replicate 16 0x44))))

/-- What the multiply instructions read (R222 to R224). -/
def mulIn (e : Env) (w : WFrame) (sparse : Bool) : MulIn :=
  let m := e.active w.f.guard
  let desc := e.descOf w.f.srcC
  let row (l : Nat) : W64 := (((e.sl.v (regNo w.f.srcA))[l]?).getD 0).setWidth 64
  let handle (q : Nat) : W64 := (((e.sl.v (regNo w.f.srcB))[8 * q]?).getD 0).setWidth 64
  let quarters := (List.range 4).filter (fun q => (actives m).any (fun l => l / 8 == q))
  { rows := (actives m).map (fun l => (l, row l)), classes := classesOf handle quarters, hA := srcSz e w.srcF, desc := desc,
    fmtA := (mulFormats w desc).1, fmtB := (mulFormats w desc).2, sparse := sparse }

/-- The same for `MMAD`. -/
def madIn (e : Env) (w : WFrame) (r0 hB : W64) : MulIn :=
  let m := e.active w.f.guard
  let desc := e.descOf w.f.srcC
  { rows := (actives m).map (fun l => (l, r0 + BitVec.ofNat 64 l)),
    classes := [(hB, (List.range 4).filter (fun q => (actives m).any (fun l => l / 8 == q)))], hA := srcSz e w.srcF, desc := desc,
    fmtA := (mulFormats w desc).1, fmtB := (mulFormats w desc).2, sparse := false }

/-- The check of `MulReady` as a value, for an instruction without a descriptor. -/
def mulReadyB (e : Env) (w : WFrame) (x : MulIn) (kept : List (Nat × List (BitVec 2))) (s : State) : Bool :=
  let m := e.active w.f.guard
  let a := geoOf e w.srcE
  let b := geoOf e w.srcD
  x.desc.isNone && (x.acceptA a true).reason?.isNone && x.classes.all (fun c => (x.acceptB b c.1 true).reason?.isNone) &&
  (if x.sparse then decide (x.sparseMeta s e m a w.imm = ([], [], kept)) && !s.placesBehind (x.metaWords s e w.imm) else kept.isEmpty) &&
  (x.stray s e m a b true true).isEmpty && x.rows.all (fun p => decide (p.2.toNat < a.rowCount))

theorem mul_ready {e : Env} {w : WFrame} {x : MulIn} {kept : List (Nat × List (BitVec 2))} {s : State} (h : mulReadyB e w x kept s = true)
    (hf : s.fencesTo e .matrix s = .ok ([], s)) : MulReady e w x kept s := by
  simp only [mulReadyB, Bool.and_eq_true, Option.isNone_iff_eq_none, List.isEmpty_iff, List.all_eq_true, decide_eq_true_eq] at h
  obtain ⟨⟨⟨⟨⟨h1, h2⟩, h3⟩, h5⟩, h6⟩, h7⟩ := h
  refine ⟨by simp [h1], h2, h3, ?_, h6, fun _ p hp => h7 p hp⟩
  split at h5
  · next h =>
    simp only [Bool.and_eq_true, decide_eq_true_eq, Bool.not_eq_true'] at h5
    simp only [h, if_true]
    exact ⟨h5.1, hf, h5.2⟩
  · next h => simp only [h]; simpa using h5

/-- A multiply instruction without a descriptor, whose tiles are allocated. -/
theorem mul_legal {e : Env} {w : WFrame} {sparse : Bool}
    (h : ((pairCond e w.f.dst (mmType w == some 7)).isEmpty && (e.descOf w.f.srcC).isNone) = true) : MulLegal e w sparse := by
  simp only [Bool.and_eq_true, List.isEmpty_iff, Option.isNone_iff_eq_none] at h
  exact ⟨h.1, fun d hd => by simp [h.2] at hd⟩

theorem pass_room {e : Env} {n : Nat} {s : State} (h : (Nat.ble (((s.core e.g.core).sub e.g.sub).passes.length + n) 8 &&
    Nat.ble (((s.slice? e.cur.grp e.cur.a).getD e.sl).passes + n) 63) = true) : PassRoom e n s := by
  simpa [PassRoom] using h

theorem witness_MatrixIssue_multiply : ∃ (w : WFrame) (s : State) (e : Env),
    WReady e (specMma w false) w true s ∧ MulLegal e w false ∧ e.active w.f.guard ≠ 0 ∧ MulReady e w (mulIn e w false) [] s ∧
    PassRoom e (mulIn e w false).classes.length s :=
  ⟨mkW 0x26 0xE0 20 21 0xF8 7 0 0 0xC5 0xC4 0x8C 0 0, mmB, envOf mmB, wready (by decide +kernel), mul_legal (by decide +kernel),
    by decide +kernel, mul_ready (by decide +kernel) rfl, pass_room (by decide +kernel)⟩

theorem witness_MatrixIssue_sparse : ∃ (w : WFrame) (s : State) (e : Env) (kept : List (Nat × List (BitVec 2))),
    WReady e (specMma w true) w true s ∧ MulLegal e w true ∧ e.active w.f.guard ≠ 0 ∧ MulReady e w (mulIn e w true) kept s ∧
    PassRoom e (mulIn e w true).classes.length s :=
  ⟨mkW 0x26 0xE0 20 21 0xF8 7 0 0 0xC7 0xC4 0x8C 0 0x3800, mmB, envOf mmB,
    (MulIn.sparseMeta (mulIn (envOf mmB) (mkW 0x26 0xE0 20 21 0xF8 7 0 0 0xC7 0xC4 0x8C 0 0x3800) true) mmB (envOf mmB) 1
      (geoOf (envOf mmB) 0xC4) 0x3800).2.2, wready (by decide +kernel), mul_legal (by decide +kernel), by decide +kernel,
    mul_ready (by decide +kernel) rfl, pass_room (by decide +kernel)⟩

theorem witness_MatrixIssue_direct : ∃ (w : WFrame) (s s1 t : State) (e : Env) (r0 hB : W64),
    WReady e (specMmad w) w true s ∧ MulLegal e w false ∧ e.active w.f.guard ≠ 0 ∧ srcS e w.f.srcA none s = .ok (r0, s1) ∧
    srcS e w.f.srcB w.lit s1 = .ok (hB, t) ∧ MulReady e w (madIn e w r0 hB) [] t ∧ PassRoom e 1 t :=
  ⟨mkW 0x26 0xE0 0x8C 0x90 0xF8 7 2 0 0xC5 0xC4 0x8C 0 0, mmB, mmB, mmB, envOf mmB, _, _, wready (by decide +kernel), mul_legal (by decide +kernel),
    by decide +kernel, rfl, rfl, mul_ready (by decide +kernel) rfl, pass_room (by decide +kernel)⟩

theorem witness_MatrixIssue_idle : ∃ (w x : WFrame) (s : State) (e : Env), WReady e (specMma w false) w true s ∧ MulLegal e w false ∧
    e.active w.f.guard = 0 ∧ WReady e (specMmad x) x true s ∧ MulLegal e x false ∧ e.active x.f.guard = 0 :=
  ⟨mkW 0x2F 0xE0 20 21 0xF8 11 0 0 0xC5 0xC4 0x8C 0 0, mkW 0x2F 0xE0 0x8C 0x8C 0xF8 11 2 0 0xC5 0xC4 0x8C 0 0, bench4, envOf bench4,
    wready (by decide +kernel), mul_legal (by decide +kernel), by decide +kernel, wready (by decide +kernel),
    mul_legal (by decide +kernel), by decide +kernel⟩

/-- Tiles with cells, and layouts of accumulator moves: g8 in local store, g9 over vector registers; lane 0 alone in p6. -/
def acB : State :=
  preds [(6, 1)] (geos [(8, tileGeom 32 32 8 1), (9, tileGeom 32 32 8 5)]
    (onGroup (fun g => { g with acc := g.acc.mapIdx (fun t _ =>
      tabulate 32 (fun i => tabulate 32 (fun j => BitVec.ofNat 32 (0x3F000000 + 1000 * t + 32 * i.val + j.val)))) }) bench4))

theorem tiles_idle {e : Env} {l : List Nat} {s : State} (h : (((s.core e.g.core).sub e.g.sub).passes.isEmpty) = true) : TilesIdle e l s := by
  intro p hp
  rw [List.isEmpty_iff.1 h] at hp
  simp at hp

theorem witness_AccumulatorResult : ∃ (w x y z : WFrame) (s s1 t u : State) (e : Env) (v : Lanes64) (r r' : W64),
    WReady e (specAczero w) w true s ∧ pairCond e w.f.dst (cellTyOf w).wide = [] ∧ TilesIdle e (tilesOf w.f.dst (cellTyOf w).wide) s ∧
    WReady e (specAcrd x) x true s ∧ pairCond e x.f.srcA (cellTyOf x).wide = [] ∧ e.active x.f.guard ≠ 0 ∧
    TilesIdle e (tilesOf x.f.srcA (cellTyOf x).wide) s ∧ srcS e x.f.srcB x.lit s = .ok (r, t) ∧
    Room e x.f.dst (if (cellTyOf x).wide then 2 else 1) t ∧
    WReady e (specAcwr y) y true s ∧ pairCond e y.f.dst (cellTyOf y).wide = [] ∧ TilesIdle e (tilesOf y.f.dst (cellTyOf y).wide) s ∧
    srcV e (cellTyOf y) y.f.srcA none s = .ok (v, s1) ∧ srcS e y.f.srcB y.lit s1 = .ok (r', u) ∧
    WReady e (specAcmax z) z true s ∧ pairCond e z.f.srcB (cellTyOf z).wide = [] ∧ e.active z.f.guard ≠ 0 ∧
    TilesIdle e (tilesOf z.f.srcB (cellTyOf z).wide) s :=
  ⟨mkW 0x22 0xE0 0 0 0 7 0 0 0 0 0 0 0, mkW 0 0xA0 0xE0 0 0 0 8 1 0 0 0 0 0x21, mkW 0x22 0xE0 4 0x84 0 0 0 0 0 0 0 0 0,
    mkW 0 0x9F 0 0xE0 0 0 0 0 0 0 0 0 0, acB, acB, acB, acB, envOf acB, _, _, _, wready (by decide +kernel), by decide +kernel,
    tiles_idle (by decide +kernel), wready (by decide +kernel), by decide +kernel, by decide +kernel, tiles_idle (by decide +kernel), rfl,
    queueRoom (by decide +kernel), wready (by decide +kernel), by decide +kernel, tiles_idle (by decide +kernel), rfl, rfl,
    wready (by decide +kernel), by decide +kernel, by decide +kernel, tiles_idle (by decide +kernel)⟩

theorem witness_AccumulatorResult_idle : ∃ (w x y : WFrame) (s : State) (e : Env), e.active w.f.guard = 0 ∧ WReady e (specAczero w) w true s ∧
    e.active x.f.guard = 0 ∧ WReady e (specAcmax x) x true s ∧ e.active y.f.guard = 0 ∧ WReady e (specAcmove y) y true s :=
  ⟨mkW 0x2F 0xE0 0 0 0 7 0 0 0 0 0 0 0, mkW 0x2F 0x9F 0 0xE0 0 0 0 0 0 0 0 0 0, mkW 0x2F 0xE0 0x8C 0 0 8 0 0 0xC8 0 0 0 0, acB, envOf acB,
    by decide +kernel, wready (by decide +kernel), by decide +kernel, wready (by decide +kernel), by decide +kernel, wready (by decide +kernel)⟩

/-- The vector registers that a move's geometry names (R236). -/
def moveRegs (e : Env) (w : WFrame) : List Nat :=
  let g := Geom.ofReg (e.geomReg w.srcD)
  if g.space = 5 then ((rowsElems (e.active w.f.guard)).filterMap (fun k => match g.eval (srcSz e w.f.srcA) k with
    | .reg n _ => some n
    | _ => none)).eraseDups else []

/-- What `AccumulatorResult` asks of a move with an active lane. -/
def Moves (w : WFrame) (s : State) (e : Env) : Prop :=
  let g := Geom.ofReg (e.geomReg w.srcD)
  let h := srcSz e w.f.srcA
  WReady e (specAcmove w) w true s ∧ pairCond e w.f.dst (cellTyOf w).wide = [] ∧ e.active w.f.guard ≠ 0 ∧ PassRoom e 1 s ∧
  moveReason g h (cellTyOf w) = none ∧ moveConds s e g h (e.active w.f.guard) = [] ∧
  ∀ n ∈ moveRegs e w, s.busy e (.vreg false) (BitVec.ofNat 8 n) = false

theorem witness_AccumulatorResult_moves : ∃ (w x : WFrame) (s : State) (e : Env), Moves w s e ∧ Moves x s e ∧ moveRegs e x ≠ [] :=
  ⟨mkW 0x26 0xE0 0x8C 0 0 8 0 0 0xC8 0 0 0 0, mkW 0x26 0xE0 0x8C 0 0 8 0 0 0xC9 0 0 0 0, acB, envOf acB,
    ⟨wready (by decide +kernel), by decide +kernel, by decide +kernel, pass_room (by decide +kernel), by decide +kernel⟩,
    ⟨wready (by decide +kernel), by decide +kernel, by decide +kernel, pass_room (by decide +kernel), by decide +kernel⟩, by decide +kernel⟩

theorem fencesTo_of {s : State} {e : Env} {p : PathCode} (h : isOk (s.fencesTo e p s) = true) (h' : (got _ h).1 = []) :
    s.fencesTo e p s = .ok ([], s) := by
  revert h h'
  simp only [State.fencesTo, curSlice, bind, StateT.bind, get, getThe, MonadStateOf.get, StateT.get, pure, StateT.pure, Except.bind, Except.pure]
  intro _ h'
  simpa [got] using h'

/-- What `CopyIssue` asks of a copy command with an active lane (R242 to R249). -/
def Copies (i : Instr) (s : State) : Prop :=
  ∃ (kind : CmdKind) (sp : WSpec) (w : WFrame) (s1 t : State) (e : Env) (idx : List W32) (form : List Nat),
    copyOp i = some (kind, sp, w) ∧ WReady e sp w false s ∧ OptionReady e w s ∧ indexList e kind w s = .ok (idx, s1) ∧
    (let m := e.active w.f.guard
     let prio := w.wflags.getLsbD 2
     let tail (u : Nat) : Nat := (s1.engine (.copy e.g.core u)).tail prio
     let sel := (w.wflags.extractLsb' 5 2).toNat
     let eng : EngineId := .copy e.g.core (if sel = 1 then 0 else if sel = 2 then 1 else if tail 0 ≤ tail 1 then 0 else 1)
     let x := copyIn e kind w
     let sh := x.shape idx
     let rd := s1.resolveTile e m x.dst x.dstH .store (x.dstIx idx)
     let rs := s1.resolveTile e m x.src x.srcH .load (x.srcIx idx)
     let r := (rd.and rs).and (s1.resolveRelease e m ((releaseOf e w).map (fun p => p.1)))
     m ≠ 0 ∧ QueueRoom e eng prio s1 ∧ (x.dst.acceptCopy x.dstH).reason? = none ∧ (x.src.acceptCopy x.srcH).reason? = none ∧ sh.conds = [] ∧
     Settled r ∧ barrierConds s1 e m (barrierOf e w.srcD) = [] ∧
     (kind.readsForm = true → s1.fencesTo e .copy s1 = .ok ([], s1) ∧
       s1.writtenAhead { blankCommand e eng kind prio with srcG := e.geomReg w.f.srcC, srcH := x.srcH, xlat := r.xlat } = false) ∧
     formIssue e x s1 = .ok (form, t))

/-- Small layouts for the copies: g8 and g9 in local store, g10 and g11 in memory, flat runs g12 in local store and g13 in memory. Offsets
in s12 (local) and s10 (memory), a form at s16, a release address in s17, a barrier object at 0x3F00. -/
def cpB : State :=
  (regs [(16, 0x10400), (17, 5000), (18, 0x10800), (19, 0x3F00)]
    (geos [(8, tileGeom 2 4 8 1), (9, tileGeom 4 4 8 1), (10, tileGeom 2 4 8 0), (11, tileGeom 4 4 8 0),
      (12, { tileGeom 1 128 0 1 with leaves := [⟨128, 1⟩], mmask := 1 }), (13, { tileGeom 1 128 0 0 with leaves := [⟨128, 1⟩], mmask := 1 })]
      (vecs [(20, fun l => l % 4)] bench4))).objWrite (.ls 0 false 0x3F00) (freshObj 1)

theorem settled {r : Resolve} (h : r.walks = [] ∧ r.conds = [] ∧ r.pages = []) : Settled r := h

theorem barrier_conds {s : State} {e : Env} {m : W32} {b : Option W64} (h : (barrierConds s e m b).isEmpty = true) : barrierConds s e m b = [] :=
  List.isEmpty_iff.1 h

theorem witness_CopyIssue_copy : Copies (.cpy (mkW 0 0x8C 0xC8 0x8A 0xCA 0 2 0 0x93 0 0x91 0x47 77)) cpB :=
  ⟨_, _, _, cpB, _, envOf cpB, _, _, rfl, wready (by decide +kernel), fun _ => reg_ready (by decide +kernel), rfl,
    by decide +kernel, by unfold QueueRoom; decide +kernel, by decide +kernel, by decide +kernel, (by decide +kernel),
    settled (by decide +kernel), barrier_conds (by decide +kernel),
    fun h => absurd h (by decide), ok_pair _ (by decide +kernel)⟩

theorem witness_CopyIssue_gather : Copies (.cpyg (mkW 0 0x8C 0xC8 0x8A 0xCB 0 0x08 0 0xF8 20 0 0x28 0)) cpB :=
  ⟨_, _, _, _, _, envOf cpB, _, _, rfl, wready (by decide +kernel), fun h => absurd h (by decide), ok_pair _ (by decide +kernel),
    by decide +kernel, by unfold QueueRoom; decide +kernel, by decide +kernel, by decide +kernel, (by decide +kernel),
    settled (by decide +kernel), barrier_conds (by decide +kernel),
    fun h => absurd h (by decide), ok_pair _ (by decide +kernel)⟩

theorem witness_CopyIssue_scatter : Copies (.cpys (mkW 0 0x8C 0xC9 0x8A 0xCA 0 0x08 0 0xF8 20 0 0x28 0)) cpB :=
  ⟨_, _, _, _, _, envOf cpB, _, _, rfl, wready (by decide +kernel), fun h => absurd h (by decide), ok_pair _ (by decide +kernel),
    by decide +kernel, by unfold QueueRoom; decide +kernel, by decide +kernel, by decide +kernel, (by decide +kernel),
    settled (by decide +kernel), barrier_conds (by decide +kernel),
    fun h => absurd h (by decide), ok_pair _ (by decide +kernel)⟩

theorem witness_CopyIssue_compress : Copies (.cpyz (mkW 0 0x8C 0xCC 0x8A 0xCB 0 0 0 0xF8 0 0 0 0)) cpB :=
  ⟨_, _, _, cpB, _, envOf cpB, _, _, rfl, wready (by decide +kernel), fun h => absurd h (by decide), rfl,
    by decide +kernel, by unfold QueueRoom; decide +kernel, by decide +kernel, by decide +kernel, (by decide +kernel),
    settled (by decide +kernel), barrier_conds (by decide +kernel),
    fun h => absurd h (by decide), ok_pair _ (by decide +kernel)⟩

/-- Bytes of a form at 0x20400. -/
def withForm (bs : List Byte) (s : State) : State := { s with mem := s.mem.writeBytes 0x20400 bs }

/-- A flat form of 16 elements with one that is not zero (R177). -/
def flatB : State := withForm (flatForm 4 8 (7 :: List.replicate 15 0)) cpB

theorem witness_CopyIssue_expand : Copies (.cpyz (mkW 0 0x8A 0xCB 0x90 0xCD 0 0x20 0 0xF8 0 0 0 0)) flatB :=
  ⟨_, _, _, flatB, _, envOf flatB, _, _, rfl, wready (by decide +kernel), fun h => absurd h (by decide), rfl,
    by decide +kernel, by unfold QueueRoom; decide +kernel, by decide +kernel, by decide +kernel, (by decide +kernel),
    settled (by decide +kernel), barrier_conds (by decide +kernel),
    fun _ => ⟨fencesTo_of (by decide +kernel) (by decide +kernel), (by decide +kernel)⟩, ok_pair _ (by decide +kernel)⟩

/-- A Morton COO form of 4 rows and 4 columns in one tile with two entries (Table 10.7). -/
def cooB : State :=
  withForm (toBytes 4 4 ++ toBytes 4 4 ++ toBytes 4 (4 * 2 ^ 8 + 8 * 2 ^ 12) ++ toBytes 4 2 ++ toBytes 8 40 ++ toBytes 8 44 ++
    toBytes 4 0 ++ toBytes 4 2 ++ [3, 0, 9, 0]) cpB

theorem witness_CopyIssue_morton : Copies (.cpym (mkW 0 0x8A 0xCB 0x90 0xCD 0 0 0 0xF8 0 0 0 0)) cooB :=
  ⟨_, _, _, cooB, _, envOf cooB, _, _, rfl, wready (by decide +kernel), fun h => absurd h (by decide), rfl,
    by decide +kernel, by unfold QueueRoom; decide +kernel, by decide +kernel, by decide +kernel, (by decide +kernel),
    settled (by decide +kernel), barrier_conds (by decide +kernel),
    fun _ => ⟨fencesTo_of (by decide +kernel) (by decide +kernel), (by decide +kernel)⟩, ok_pair _ (by decide +kernel)⟩

theorem witness_CopyIssue_idle : ∃ (w : WFrame) (s s1 : State) (e : Env) (idx : List W32),
    WReady e (specCpyg w) w false s ∧ OptionReady e w s ∧ indexList e .cpyg w s = .ok (idx, s1) ∧ e.active w.f.guard = 0 :=
  ⟨mkW 0x2F 0x8C 0xC8 0x8A 0xCB 0 0x08 0 0xF8 20 0 0x28 0, cpB, _, envOf cpB, _, wready (by decide +kernel), fun h => absurd h (by decide),
    ok_pair _ (by decide +kernel), by decide +kernel⟩

/-- Parts 5 and 6, their list at 0x3E00 of local store, collectives 3 and 4, and operands of the fabric engines. -/
def fabB : State :=
  let s := cpB.lsWrite 0 false 0x3E00 (toBytes 4 5 ++ toBytes 4 6)
  regs [(20, 0x3E00 + 2 * 2 ^ 32), (21, 0x1000), (22, 0x3F00), (23, 64), (24, 0x200), (25, 2), (26, 3), (27, 0x10000), (28, 1)]
    { s with fabric := { s.fabric with part := [(5, 7), (6, 7)], coll := [(3, 1 + 2 * 2 ^ 13 + 3 * 2 ^ 32), (4, 1)] } }

/-- The same on core 384, of a cluster that has a selection engine. -/
def pselB : State :=
  { (onGroup (fun g => { g with core := 384 }) fabB) with
    cores := fabB.cores.setIfInBounds 384 (fabB.core 0)
    dies := fabB.dies.setIfInBounds 6 (fabB.die 0)
    wgs := fabB.wgs.map (fun w => { w with core := 384 }) }

/-- The parameters that the fabric commands share, and their peers. -/
def fabIn (e : Env) (w : WFrame) : FabIn :=
  { prio := w.wflags.getLsbD 2, startAt := startOf e w, rel := (releaseOf e w).map (fun p => p.1), bar := barrierOf e w.srcD, each := bit5 w.f }

def peersOf (s : State) (e : Env) (w : WFrame) : List Cond × List (BitVec 12) := peerList s e (e.active w.f.guard) (e.sl.s (regNo w.srcE))

theorem witness_FabricIssue_select : ∃ (w : WFrame) (s : State) (e : Env),
    let m := e.active w.f.guard
    let out := (e.sl.s (regNo w.f.dst)).setWidth 32
    let q : W32 := (e.sl.s (regNo w.f.srcA)).setWidth 32
    let np := e.sl.s (regNo w.f.srcC)
    let k := e.sl.s (regNo w.srcD)
    let tab := e.sl.s (regNo w.f.srcB)
    WReady e (specPsel w) w false s ∧ onGCluster e.g.core = true ∧ m ≠ 0 ∧ QueueRoom e (.psel (clusterOf e.g.core)) false s ∧
    0 < k.toNat ∧ k.toNat ≤ 1024 ∧ 0 < np.toNat ∧ np.toNat ≤ 65536 ∧ out.toNat % 8 = 0 ∧ q.toNat % 16 = 0 ∧ tab.toNat % 256 = 0 ∧
    barrierConds s e m (barrierOf e w.srcE) = [] ∧ rangeConds s e m out (8 * k.toNat) = [] ∧ rangeConds s e m q 256 = [] ∧
    Settled (s.resolvePages e .load ((List.range np.toNat).map (fun i => (tab + BitVec.ofNat 64 (i * w.imm.toNat), 512)))) :=
  ⟨mkW 0 0x8C 0x98 0x9B 0x99 0 0 0 0x9A 0x96 0x97 1 512, pselB, envOf pselB, wready (by decide +kernel), by decide, by decide +kernel,
    by unfold QueueRoom; decide +kernel, by unfold Settled; decide +kernel⟩

theorem list_ready {e : Env} {x : W64} {s : State}
    (h : ((s.lsRef e.w e.g.half1 (x.setWidth 32) (4 * (x.toNat / 2 ^ 32 % 2 ^ 7))).all (fun r =>
      !s.rangeBehind e.g.core r.wg r.half1 r.off (4 * (x.toNat / 2 ^ 32 % 2 ^ 7)))) = true) : ListReady e x s := by
  intro r hr
  rw [hr] at h
  simpa using h

theorem witness_FabricIssue_copy : ∃ (w : WFrame) (s : State) (e : Env),
    let m := e.active w.f.guard
    let dst := geoOf e w.f.srcA
    let src := geoOf e w.f.srcC
    let dstH := e.sl.s (regNo w.f.dst)
    let srcH := srcSz e w.f.srcB
    let ix := (List.range dst.size).filterMap (fun i => match dst.eval dstH i with
      | .global va bit => some (va, elemBytes bit dst.eb)
      | _ => none)
    WReady e (specCpyr w) w false s ∧ OptionReady e w s ∧ m ≠ 0 ∧ QueueRoom e (.egress (dieOf e.g.core)) (fabIn e w).prio s ∧
    ListReady e (e.sl.s (regNo w.srcE)) s ∧
    (dst.acceptCopy dstH).reason? = none ∧ (src.acceptCopy srcH).reason? = none ∧ dst.space = 0 ∧ dst.size = src.size ∧
    convOk dst.fmt src.fmt = true ∧ (peersOf s e w).1 = [] ∧ windowConds s (peersOf s e w).2 ix = [] ∧
    barrierConds s e m (fabIn e w).bar = [] ∧
    Settled ((s.resolveTile e m src srcH .load (List.range src.size)).and ((fabIn e w).release s e m (peersOf s e w).2)) :=
  ⟨mkW 0 0x95 0xCA 0x8A 0xCA 0 0x20 0 0x96 0x94 0x97 1 0, fabB, envOf fabB, wready (by decide +kernel), fun h => absurd h (by decide),
    by decide +kernel, by unfold QueueRoom; decide +kernel, list_ready (by decide +kernel), by unfold Settled; decide +kernel⟩

theorem witness_FabricIssue_replicate : ∃ (w : WFrame) (s t : State) (e : Env) (len : W64),
    let m := e.active w.f.guard
    let q : W32 := (e.sl.s (regNo w.f.srcA)).setWidth 32
    WReady e (specStrep w) w false s ∧ OptionReady e w s ∧ m ≠ 0 ∧ QueueRoom e (.egress (dieOf e.g.core)) (fabIn e w).prio s ∧
    ListReady e (e.sl.s (regNo w.srcE)) s ∧
    srcS e w.f.srcB w.lit s = .ok (len, t) ∧ 0 < len.toNat ∧ len.toNat ≤ 65536 ∧ rangeConds s e m q len.toNat = [] ∧
    windowConds s (peersOf s e w).2 [(e.sl.s (regNo w.f.dst), len.toNat)] = [] ∧ (peersOf s e w).1 = [] ∧
    barrierConds s e m (fabIn e w).bar = [] ∧ Settled ((fabIn e w).release s e m (peersOf s e w).2) :=
  ⟨mkW 0 0x95 0x98 0 0 0 0 1 0x96 0x94 0x97 1 64, fabB, fabB, envOf fabB, _, wready (by decide +kernel), fun h => absurd h (by decide),
    by decide +kernel, by unfold QueueRoom; decide +kernel, list_ready (by decide +kernel), rfl, by unfold Settled; decide +kernel⟩

theorem witness_FabricIssue_collective : ∃ (w : WFrame) (s s1 t : State) (e : Env) (len id : W64),
    let m := e.active w.f.guard
    let out : W32 := (e.sl.s (regNo w.f.dst)).setWidth 32
    let from_ : W32 := (srcSz e w.f.srcA).setWidth 32
    let op := w.f.variant.toNat % 4
    let bytes := len.toNat * collSize op w.f.ty.toNat
    WReady e (specFcoll w) w false s ∧ OptionReady e w s ∧ m ≠ 0 ∧ QueueRoom e (.egress (dieOf e.g.core)) (fabIn e w).prio s ∧
    srcS e w.f.srcB w.lit s = .ok (len, s1) ∧ srcS e w.f.srcC none s1 = .ok (id, t) ∧ 0 < len.toNat ∧ bytes ≤ 65536 ∧
    rangeConds s e m out bytes = [] ∧ rangeConds s e m from_ bytes = [] ∧ id.toNat < 1024 ∧ s.fabric.collOf id.toNat % 2 = 1 ∧
    barrierConds s e m (fabIn e w).bar = [] ∧ Settled (s.resolveRelease e m (fabIn e w).rel) :=
  ⟨mkW 0 0x95 0x98 0x97 0x9A 3 1 0 0x96 0 0x9B 2 0x55, fabB, fabB, fabB, envOf fabB, _, _, wready (by decide +kernel),
    fun h => absurd h (by decide), by decide +kernel, by unfold QueueRoom; decide +kernel, rfl, rfl, by unfold Settled; decide +kernel⟩

theorem witness_FabricIssue_idle : ∃ (w x y z : WFrame) (s u : State) (e v : Env), WReady e (specCpyr w) w false s ∧ e.active w.f.guard = 0 ∧
    WReady e (specStrep x) x false s ∧ e.active x.f.guard = 0 ∧ WReady e (specFcoll y) y false s ∧ e.active y.f.guard = 0 ∧
    OptionReady e w s ∧ OptionReady e x s ∧ OptionReady e y s ∧
    WReady v (specPsel z) z false u ∧ onGCluster v.g.core = true ∧ v.active z.f.guard = 0 :=
  ⟨mkW 0x2F 0x95 0xCA 0x8A 0xCA 0 0x20 0 0x96 0x94 0x97 1 0, mkW 0x2F 0x95 0x98 0 0 0 0 1 0x96 0x94 0x97 1 64,
    mkW 0x2F 0x95 0x98 0x97 0x9A 3 1 0 0x96 0 0x9B 2 0x55, mkW 0x2F 0x8C 0x98 0x9B 0x99 0 0 0 0x9A 0x96 0x97 1 512, fabB, pselB, envOf fabB,
    envOf pselB, wready (by decide +kernel), by decide +kernel, wready (by decide +kernel), by decide +kernel, wready (by decide +kernel),
    by decide +kernel, fun h => absurd h (by decide), fun h => absurd h (by decide), fun h => absurd h (by decide),
    wready (by decide +kernel), by decide, by decide +kernel⟩

/-- A work item descriptor at 0x10800, a join record at 0x10C40 that waits for 3, and operands of the work instructions. -/
def workB : State :=
  let s := cpB
  regs [(15, 0x10800), (16, 0x10C00), (17, 0x10C40), (18, 3), (19, 0x10D00), (20, 1)]
    { s with mem := (((s.mem.writeBytes 0x20800 (toBytes 128 (1 + 2 ^ 16 + 8 * 2 ^ 32 + 0x100 * 2 ^ 128))).writeBytes 0x20C40
      (toBytes 64 (0x10800 + 5 * 2 ^ 64 + 3 * 2 ^ 256 + 2 ^ 294))).writeNat (0x30100 + 88) 8 0x40000).writeNat (0x30100 + 96) 2 8 }

theorem reads_of {e : Env} {va : W64} {n : Nat} {m : W32} {s : State} (h : isOk (readNow e va n .dev m true false s) = true) :
    Reads e va n m s (got _ h).1 ((got _ h).2.watchHit e.cur.grp e.cur.a [(va, n)] true false) :=
  ⟨_, ok_pair _ h, rfl⟩

/-- What `WorkCreation` asks of a `SPAWN` with an active lane. -/
def Spawns (w : WFrame) (s s0 s1 : State) (e : Env) (n : W64) (bs : List Byte) : Prop :=
  let code := e.sl.s (regNo w.f.srcA)
  WReady e specSpawn w false s ∧ e.active w.f.guard ≠ 0 ∧ srcS e w.f.srcC none s = .ok (n, s0) ∧ code.toNat % 128 = 0 ∧
  Reads e code 128 (e.active w.f.guard) s0 bs s1 ∧ itemDescOk (BitVec.ofNat 1024 (ofBytes bs)) = true ∧ n.toNat ≤ 65535 ∧
  joinOk (srcSz e w.srcD) = true ∧ s1.pushAfter e = []

theorem witness_WorkCreation_spawn : ∃ (w : WFrame) (s s0 s1 : State) (e : Env) (n : W64) (bs : List Byte), Spawns w s s0 s1 e n bs ∧
    n ≠ 0 ∧ s1.itemsFull (clusterOf e.g.core) = false ∧ ((s1.slice? e.cur.grp e.cur.a).getD e.sl).stores < 63 :=
  ⟨mkW 0 0 0x8F 0x90 0x92 0 0 0 0x91 0 0 0 16, workB, workB, _, envOf workB, _, _,
    ⟨wready (by decide +kernel), by decide +kernel, rfl, by decide +kernel, reads_of (by decide +kernel), by decide +kernel⟩, by decide +kernel⟩

theorem witness_WorkCreation_spawn_none : ∃ (w : WFrame) (s s0 s1 : State) (e : Env) (n : W64) (bs : List Byte),
    Spawns w s s0 s1 e n bs ∧ n = 0 :=
  ⟨mkW 0 0 0x8F 0xF8 0xF8 0 0 0 0xF8 0 0 0 16, workB, workB, _, envOf workB, _, _,
    ⟨wready (by decide +kernel), by decide +kernel, rfl, by decide +kernel, reads_of (by decide +kernel), by decide +kernel⟩, by decide +kernel⟩

theorem witness_WorkCreation_idle : ∃ (w x y : WFrame) (f : FFrame) (s s0 : State) (e : Env) (n : W64),
    WReady e specSpawn w false s ∧ e.active w.f.guard = 0 ∧ WReady e specSpawnj x false s ∧ e.active x.f.guard = 0 ∧
    FReady e specJdec f none s ∧ srcS e f.srcB none s = .ok (n, s0) ∧ e.active f.guard = 0 ∧
    WReady e specLaunch y false s ∧ e.active y.f.guard = 0 :=
  ⟨mkW 0x2F 0 0x8F 0x90 0x92 0 0 0 0x91 0 0 0 16, mkW 0x2F 0 0x8F 0x90 0x92 0 0 0 0x91 0x93 0 0 0, mkW 0x2F 0 0x8F 0xF8 0 0 0 0 0 0 0 0 0,
    mkF 0x2F 0 0x91 0x92 0 0 0 0, workB, workB, envOf workB, _, wready (by decide +kernel), by decide +kernel, wready (by decide +kernel),
    by decide +kernel, fready (by decide +kernel), rfl, by decide +kernel, wready (by decide +kernel), by decide +kernel⟩

theorem witness_WorkCreation_join : ∃ (w : WFrame) (s s0 s1 : State) (e : Env) (n : W64) (bs : List Byte) (pl : Nat → Place),
    let code := e.sl.s (regNo w.f.srcA)
    let join := srcSz e w.srcD
    let at_ := e.sl.s (regNo w.srcE)
    let cl := clusterOf e.g.core
    let count := n.toNat % 2 ^ 32
    let cont := contRecord code (srcSz e w.f.srcB) join e.w.region e.sl.corr
    let record := toBytes 64 (cont.toNat + count * 2 ^ 256 + cl % 8 * 2 ^ 288 + cl / 8 * 2 ^ 291 + (if count = 0 then 2 else 1) * 2 ^ 294)
    WReady e specSpawnj w false s ∧ e.active w.f.guard ≠ 0 ∧ srcS e w.f.srcC none s = .ok (n, s0) ∧ code.toNat % 128 = 0 ∧
    Reads e code 128 (e.active w.f.guard) s0 bs s1 ∧ itemDescOk (BitVec.ofNat 1024 (ofBytes bs)) = true ∧ joinOk join = true ∧
    joinOk at_ = true ∧ (∀ q ∈ piecesOf at_ 64, e.xlate s1 q.2.1 .store = .place (pl q.1)) ∧ s1.itemsFull cl = false ∧
    EnterRoom e .store (piecesAt at_ 64 pl record) (s1.dropStages e) :=
  ⟨mkW 0 0 0x8F 0x90 0x92 0 0 0 0x91 0x93 0 0 0, workB, workB, _, envOf workB, _, _, pagePl 0xD00, wready (by decide +kernel),
    by decide +kernel, rfl, by decide +kernel, reads_of (by decide +kernel), by decide +kernel, by decide +kernel, (by decide +kernel),
    by decide +kernel, by decide +kernel, enterRoom (by decide +kernel)⟩

theorem witness_WorkCreation_count : ∃ (f g : FFrame) (s s0 s1 s2 : State) (e : Env) (n k : W64) (p : Place),
    let va := e.sl.s (regNo f.srcA)
    FReady e specJdec f none s ∧ srcS e f.srcB none s = .ok (n, s0) ∧ e.active f.guard ≠ 0 ∧ s0.pushAfter e = [] ∧ n.toNat % 2 ^ 32 ≠ 0 ∧
    e.xlate s0 va .store = .place p ∧ va.toNat % 64 = 0 ∧ (∀ x, p = .mem x → s0.poisoned x = false) ∧ (∀ q off, p ≠ .fabric q off) ∧
    (∀ x, p = .host x → s0.portUp x = true) ∧ s0.joinStep e.g.core p (n.toNat % 2 ^ 32) = some s1 ∧
    FReady e specJdec g none s ∧ srcS e g.srcB none s = .ok (k, s2) ∧ e.active g.guard ≠ 0 ∧ s2.pushAfter e = [] ∧ k.toNat % 2 ^ 32 = 0 :=
  ⟨mkF 0 0 0x91 0x92 0 0 0 0, mkF 0 0 0x91 0xF8 0 0 0 0, workB, workB, _, workB, envOf workB, _, _, .mem 0x20C40, fready (by decide +kernel),
    rfl, by decide +kernel, by decide +kernel, (by decide +kernel), by decide +kernel, by decide +kernel,
    fun x h => by cases h; decide +kernel, (fun _ _ h => by cases h), (fun _ h => by cases h), some_get _ (by decide +kernel),
    fready (by decide +kernel), rfl,
    by decide +kernel⟩

theorem witness_WorkCreation_launch : ∃ (w : WFrame) (s s1 s2 : State) (e : Env) (bs : List Byte) (pl : Nat → Place),
    let code := e.sl.s (regNo w.f.srcA)
    WReady e specLaunch w false s ∧ e.active w.f.guard ≠ 0 ∧ RC.of w.f.srcB = .s ∧ (e.sl.s (regNo w.f.srcB)).toNat < 2 ^ 16 ∧
    (s.chain s.climb (e.sl.s (regNo w.f.srcB)).toNat).contains e.w.region = true ∧ code.toNat % 128 = 0 ∧
    (∀ q ∈ piecesOf code 128, e.xlate s q.2.1 .load = .place (pl q.1)) ∧ s.pushAfter e = [] ∧
    ((s.slice? e.cur.grp e.cur.a).getD e.sl).stores < 63 ∧ Reads e code 128 (e.active w.f.guard) s bs s1 ∧
    s1.appendLaunch (e.sl.s (regNo w.f.srcB)).toNat bs = some s2 :=
  ⟨mkW 0 0 0x8F 0x94 0 0 0 0 0 0 0 0 0, workB, _, _, envOf workB, _, pagePl 0x800, wready (by decide +kernel), by decide +kernel, by decide,
    by decide +kernel, by decide +kernel, (by decide +kernel), by decide +kernel, by decide +kernel, (by decide +kernel),
    reads_of (by decide +kernel), some_get _ (by decide +kernel)⟩

/-- The A-slice with operands of the system instructions in s10 to s12; its workgroup belongs to launch 7. -/
def sysB : State := onWg (fun w => { w with launch := some 7 }) (regs [(10, 0x123456789), (11, 0x0300), (12, 2)] (onA bench1))

theorem witness_SystemResult_time : ∃ (f g h k : FFrame) (s t : State) (e : Env) (b : W64),
    FReady e (specTget f) f none s ∧ f.variant.getLsbD 0 = false ∧ Room e f.dst 1 s ∧
    FReady e (specTget g) g none s ∧ g.variant.getLsbD 0 = true ∧ srcS e g.srcB none s = .ok (b, t) ∧ Room e g.dst 1 t ∧
    FReady e (specEget h) h none s ∧ Room e h.dst 1 s ∧ FReady e specEpost k none s ∧ e.active k.guard ≠ 0 ∧ e.w.launch = some 7 :=
  ⟨mkF 0x22 0x86 0 0 0 0 0 0, mkF 0 0xA3 0 0x8A 0 0 1 0, mkF 0 0x86 0 0 0 0 2 0, mkF 0 0 0x8A 0 0 0 0 0, sysB, sysB, envOf sysB, _,
    fready (by decide +kernel), by decide, room_of (by decide), fready (by decide +kernel), by decide, rfl, queueRoom (by decide +kernel),
    fready (by decide +kernel), room_of (by decide), fready (by decide +kernel), by decide +kernel, by decide +kernel⟩

theorem witness_SystemResult_registers : ∃ (f g h : FFrame) (s t : State) (e : Env) (b : W64),
    FReady e (specSrd f) f none s ∧ Room e f.dst 1 s ∧
    FReady e (specSwr g) g none s ∧ g.srcC.toNat ∉ sysHandler ∧ srcS e g.srcB none s = .ok (b, t) ∧
    FReady e specPerf h none s ∧ srcS e h.srcB none s = .ok (b, t) ∧ Room e h.dst 1 t :=
  ⟨mkF 0 0x86 0 0 0x70 0 0 0, mkF 0 0 0 0x8B 0x58 0 0 0, mkF 0 0x86 0 0x8B 0 0 0 0, sysB, sysB, envOf sysB, _, fready (by decide +kernel),
    room_of (by decide), fready (by decide +kernel), by decide, rfl, fready (by decide +kernel), rfl, room_of (by decide)⟩

theorem witness_SystemResult_handler : ∃ (f g : FFrame) (s t u : State) (e : Env) (b c : W64),
    FReady e (specSwr f) f none s ∧ f.srcC = 0x22 ∧ srcS e f.srcB none s = .ok (b, t) ∧
    FReady e (specSwr g) g none s ∧ g.srcC.toNat ∈ sysHandler ∧ e.sl.hmode = true ∧ srcS e g.srcB none s = .ok (c, u) :=
  ⟨mkF 0 0 0 0x84 0x22 0 0 0, mkF 0 0 0 0x84 0x4B 0 0 0, handler bench1, handler bench1, handler bench1, envOf (handler bench1), _, _,
    fready (by decide +kernel), by decide, rfl, fready (by decide +kernel), by decide, by decide +kernel, rfl⟩

theorem witness_SystemResult_trace : ∃ (f g : FFrame) (s s1 t u : State) (e : Env) (a b c : W64),
    FReady e specTrace f none s ∧ srcS e f.srcA none s = .ok (a, s1) ∧ srcS e f.srcB none s1 = .ok (b, t) ∧ e.active f.guard ≠ 0 ∧
    FReady e specTmark g none s ∧ srcS e g.srcB none s = .ok (c, u) ∧ e.active g.guard ≠ 0 :=
  ⟨mkF 0 0 0xF9 0x8A 0 0 0 0, mkF 0 0 0 0x8A 0 0 0 0, sysB, sysB, sysB, sysB, envOf sysB, _, _, _, fready (by decide +kernel), rfl, rfl,
    by decide +kernel, fready (by decide +kernel), rfl, by decide +kernel⟩

theorem witness_SystemResult_invalidate : ∃ (f : FFrame) (s : State) (e : Env),
    let op := tlbiOp e f
    let d := dieOf e.g.core
    FReady e (specTlbi f) f none s ∧ e.sl.hmode = true ∧ e.active f.guard ≠ 0 ∧ f.variant.getLsbD 2 = true ∧ e.sl.tlbi = none ∧
    (∀ p ∈ mine e s, p.kind.writes = false) ∧
    (s.tlbiDie op d).tlbiOpen { slot1 := e.cur.slot1, pend := s.tlbiPend op d, cmds := s.tlbiCmds op d } = false :=
  ⟨mkF 0 0 0 0 0 0 6 0, handler bench1, envOf (handler bench1), fready (by decide +kernel), by decide +kernel, by decide +kernel, by decide,
    by decide +kernel⟩

theorem witness_SystemResult_invalidated : ∃ (f g : FFrame) (s : State) (e : Env) (w : TlbiWait),
    FReady e (specTlbi f) f none s ∧ e.sl.hmode = true ∧ e.active f.guard ≠ 0 ∧ e.sl.tlbi = some w ∧ w.slot1 = e.cur.slot1 ∧
    s.tlbiOpen w = false ∧ FReady e (specTlbi g) g none s ∧ e.active g.guard = 0 :=
  let s := both (fun sl => { sl with tlbi := some ⟨false, [(0, 5)], []⟩ }) (handler bench1)
  ⟨mkF 0 0 0x84 0x85 0 0 0 0, mkF 0x2F 0 0 0x85 0 0 1 0, s, envOf s, ⟨false, [(0, 5)], []⟩, fready (by decide +kernel), by decide +kernel,
    by decide +kernel, (by decide +kernel), by decide +kernel, by decide +kernel, fready (by decide +kernel), by decide +kernel⟩

theorem witness_PairResult : ∃ (h0 h1 : PHalf) (s s1 t : State) (e : Env) (ev0 ev1 : Events), h0.hasForm = true ∧ h1.hasForm = true ∧
    pairCause h0 h1 = none ∧ s.env? = some e ∧ halfBody h0 e s = .ok (ev0, s1) ∧ halfBody h1 e s1 = .ok (ev1, t) :=
  ⟨⟨0, 1, 0, 20, 5⟩, ⟨1, 2, 0, 21, 6⟩, bench1, _, _, envOf bench1, _, _, by decide, by decide, by decide, env_of (by decide +kernel),
    ok_pair _ (by decide +kernel), ok_pair _ (by decide +kernel)⟩

/-! #### Witnesses of the event statements -/

/-- The group of the bench and its X-slice in a state. -/
def grpOf (s : State) : Group := (s.group? 1).getD (fetchGroup 1 0)

theorem resident_of {s : State} {sl : Slice} (h : (s.group? 1).isSome = true) (h' : s.slice? 1 false = some sl) :
    Resident s 1 false (grpOf s) sl := by
  refine ⟨?_, h'⟩
  unfold grpOf
  cases h1 : s.group? 1 with
  | none => simp [h1] at h
  | some g => rfl

/-- An object at 0x40 that a `BWAIT` of slot 0 waits for, in phase 0. -/
def wakeB (bit asleep : Bool) (sleep : Option W64) : State :=
  both (fun sl => { sl with wait0 := some ⟨.ls 0 false 0x40, 0x40, bit, false, sleep, asleep, false⟩, sleep := sleep }) barB

theorem witness_WakeEvents_window : ∃ (s : State) (g : Group) (sl : Slice) (d : Nat), Resident s 1 false g sl ∧ sl.yieldEnd = some d ∧
    d ≤ cycleOf s g.core :=
  let s := both (fun sl => { sl with yieldEnd := some 0 }) bench3
  ⟨s, _, _, 0, resident_of (by decide +kernel) (some_get _ (by decide +kernel)), by decide +kernel, by decide +kernel⟩

theorem witness_WakeEvents_sleep : ∃ (s : State) (g : Group) (sl : Slice) (t : W64), Resident s 1 false g sl ∧ sl.sleep = some t ∧
    sl.promSlot = none ∧ sl.runs sl.last1 = true ∧ t.toNat ≤ s.ptb (dieOf g.core) :=
  let s := both (fun sl => { sl with sleep := some 0 }) bench3
  ⟨s, _, _, 0, resident_of (by decide +kernel) (some_get _ (by decide +kernel)), by decide +kernel⟩

theorem witness_WakeEvents_phase : ∃ (s : State) (g : Group) (sl : Slice) (w : BWaitRec), Resident s 1 false g sl ∧ sl.wait false = some w ∧
    sl.runs false = true ∧ w.asleep = false ∧ s.phaseOf w.obj ≠ w.bit :=
  ⟨wakeB true false none, _, _, _, resident_of (by decide +kernel) (some_get _ (by decide +kernel)), some_get _ (by decide +kernel),
    by decide +kernel⟩

/-- What `WakeEvents` asks of a sleeping `BWAIT.prom`. -/
def PromWakes (s s1 : State) (w : BWaitRec) : Prop :=
  ∃ (g : Group) (sl : Slice) (t : W64), Resident s 1 false g sl ∧ sl.promSlot = some (false, w) ∧ sl.sleep = some t ∧
  sl.runs false = true ∧ t.toNat ≤ s.ptb (dieOf g.core) ∧
  (let s0 := s.modSlice 1 false (fun sl => { (sl.setWait false (some { w with asleep := false })) with sleep := none })
   s1 = s0.setProm w.obj (s0.promOn w.obj))

theorem witness_WakeEvents_promise : ∃ (s s1 : State) (w : BWaitRec), PromWakes s s1 w ∧ s1.phaseOf w.obj ≠ w.bit :=
  ⟨wakeB true true (some 0), _, ⟨.ls 0 false 0x40, 0x40, true, false, some 0, true, false⟩,
    ⟨_, _, 0, resident_of (by decide +kernel) (some_get _ (by decide +kernel)), by decide +kernel, by decide +kernel, (by decide +kernel),
      by decide +kernel, rfl⟩, by decide +kernel⟩

theorem witness_WakeEvents_promise_open : ∃ (s s1 : State) (w : BWaitRec) (e : Env), PromWakes s s1 w ∧ s1.phaseOf w.obj = w.bit ∧
    { s1 with cur := some { grp := 1, a := false, slot1 := false } }.env? = some e :=
  ⟨wakeB false true (some 0), _, ⟨.ls 0 false 0x40, 0x40, false, false, some 0, true, false⟩, _,
    ⟨_, _, 0, resident_of (by decide +kernel) (some_get _ (by decide +kernel)), by decide +kernel, by decide +kernel, (by decide +kernel),
      by decide +kernel, rfl⟩, by decide +kernel, some_get _ (by decide +kernel)⟩

/-- A watch on the object at 0x40 and a message of a pair to it. -/
def watchB : State :=
  { barB with watches := [⟨0, false, 0x40, 0x10000, .mem 0x20000, 0, true⟩, ⟨0, false, 0x60, 2 ^ 55, .fabric 5 0x40, 0, true⟩], pairMsgs := [⟨0, false, 0x40, 3⟩] }

theorem witness_WakeEvents_watch : ∃ (s : State) (g : Group) (sl : Slice) (w : Watch) (wg : Wg) (m : PairMsg), Resident s 1 false g sl ∧
    s.watches[0]? = some w ∧ s.wg? w.wg = some wg ∧ w.place = .mem 0x20000 ∧ (s.watches[1]?).map (fun w => w.place) = some (.fabric 5 0x40) ∧
    s.pairMsgs[0]? = some m ∧
    (∀ n ∈ s.pairMsgs.take 0, ¬(n.wg = m.wg ∧ n.half1 = m.half1 ∧ n.off = m.off)) :=
  ⟨watchB, _, _, _, _, _, resident_of (by decide +kernel) (some_get _ (by decide +kernel)), some_get _ (by decide +kernel),
    some_get _ (by decide +kernel), by decide +kernel, by decide +kernel, some_get _ (by decide +kernel), by decide +kernel⟩

theorem witness_CoreCycleEvents_halt : ∃ (s : State) (h : HaltMsg) (w : Wg), h ∈ s.halts ∧ h.core = 0 ∧ h.sub = 0 ∧ h.due ≤ cycleOf s 0 ∧
    s.wg? h.wg = some w :=
  ⟨{ bench3 with halts := [⟨0, 0, 0, 0⟩] }, ⟨0, 0, 0, 0⟩, _, by decide +kernel, rfl, rfl, by decide +kernel, some_get _ (by decide +kernel)⟩

theorem witness_CoreCycleEvents_idle : ∃ (s u : State) (g : Group) (a : Bool) (sl : Slice) (j : Nat) (one : Bool), s.hasIssued 0 0 = false ∧
    (s.slicesOn 0 0).find? (fun x => x.2.2.going) = some (g, a, sl) ∧ sl.idleBin = (j, one) ∧
    u.hasIssued 0 1 = false ∧ ∀ x ∈ u.slicesOn 0 1, x.2.2.going = false :=
  ⟨bench3, bench3, _, _, _, _, _, by decide +kernel, some_get _ (by decide +kernel), rfl, by decide +kernel, by decide +kernel⟩

/-- Die cycle 4,096 of the bench, before and after the throttle's halving. -/
def cycleB (decayed : Nat) : State :=
  let s := bench3.modCore 0 (fun k => { k with decayAt := decayed })
  { s with dies := s.dies.setIfInBounds 0 { (s.die 0) with dcyc := 4096 } }

theorem witness_CoreCycleEvents_throttle : ∃ (s u : State), cycleOf s 0 % 4096 = 0 ∧ (s.core 0).decayAt ≠ cycleOf s 0 ∧
    cycleOf u 0 % 1024 = 0 ∧ (u.core 0).windowAt ≠ cycleOf u 0 ∧ (u.core 0).decayAt = cycleOf u 0 :=
  ⟨cycleB 0, cycleB 4096, by decide +kernel⟩

/-- A pass that stores a tile, running until a die cycle or waiting. -/
def passB (runs : Bool) : State :=
  let p : Pass := ⟨1, 1, 0, .acst 0 0x1 (tileGeom 32 32 8 1).toReg 0 8 0 0 false, 16, [], [0], []⟩
  acB.modCore 0 (fun k => k.modSub 0 (fun b => { b with running := if runs then some (p, 0) else none, waiting := [p] }))

theorem witness_CoreCycleEvents_start : ∃ (s : State) (p : Pass) (l : List Pass), ((s.core 0).sub 0).running = none ∧
    ((s.core 0).sub 0).waiting = p :: l ∧ ∀ q ∈ p.fences, s.pointOpen 0 0 q = false :=
  ⟨passB false, ⟨1, 1, 0, .acst 0 0x1 (tileGeom 32 32 8 1).toReg 0 8 0 0 false, 16, [], [0], []⟩, [], by decide +kernel⟩

theorem witness_CoreCycleEvents_complete : ∃ (s s2 : State) (p : Pass) (due : Nat) (g : Group) (w : Wg) (ev : Events),
    ((s.core 0).sub 0).running = some (p, due) ∧ due ≤ cycleOf s 0 ∧ s.passBehind p = false ∧ s.group? p.grp = some g ∧ s.wg? g.wg = some w ∧
    (s.modCore 0 (fun k => k.modSub 0 (fun b => { b with running := none }))).runPass w g p.op = (s2, ev) :=
  ⟨passB true, _, ⟨1, 1, 0, .acst 0 0x1 (tileGeom 32 32 8 1).toReg 0 8 0 0 false, 16, [], [0], []⟩, 0, _, _, _, by decide +kernel,
    by decide +kernel, (by decide +kernel), some_get _ (by decide +kernel), some_get _ (by decide +kernel), rfl⟩

theorem witness_CoreCycleEvents_stretch : ∃ (s : State), (s.die 0).present = true ∧ (s.die 0).fenced = false ∧ (s.die 0).stretch = false ∧
    ((s.die 0).recent.filter (fun c => decide ((s.die 0).dcyc < c + 64))).length < 8 :=
  ⟨{ bench3 with dies := bench3.dies.setIfInBounds 0 { (bench3.die 0) with present := true } }, by decide +kernel⟩

/-- An access of slice X of group 1 on core 0, of one word. -/
def oneAcc (id : Nat) (kind : PendKind) (place : Place) (arrived : Bool) : Pending :=
  ⟨id, 1, false, 0x40, kind, .none, ⟨4, false⟩, [⟨0, 0x10000, place, 4, [1, 2, 3, 4], [0, 0, 0, 0], 0, arrived, false⟩], .dev, false, false,
    false, [], none, 0, none, 0⟩

/-- Bench3 with one access outstanding. -/
def accB (p : Pending) : State := bench3.modCore 0 (fun k => { k with pend := [p], nextPend := 9 })

theorem witness_MemoryEvents_bank : ∃ (s : State) (p : Pending) (r : BankReq), 0 ∉ (s.core 0).served ∧
    (s.core 0).bankq.find? (fun r => r.entered && r.bank == 0) = some r ∧ s.bankReady r = true ∧ s.reqPend r = some p :=
  ⟨(accB (oneAcc 8 .load (.ls 0 false 0x40) true)).modCore 0 (fun k => { k with bankq := [⟨0, 0, 8, .ls 0 false 0x40, 0, true⟩] }), _, _,
    by decide +kernel, some_get _ (by decide +kernel), by decide +kernel, some_get _ (by decide +kernel)⟩

theorem witness_MemoryEvents_buddy : ∃ (s : State) (p : Pending) (l : List Pending),
    (s.core 0).pend.filter (fun p => p.accs.any LaneAcc.travels) = p :: l ∧ p.id = 8 :=
  ⟨accB (oneAcc 8 .load (.ls 0 true 0x40) false), oneAcc 8 .load (.ls 0 true 0x40) false, [], by decide +kernel, rfl⟩

/-- What `MemoryEvents` asks of an access that memory serves. -/
def Serves (s : State) (p : Pending) : Prop := pendAt s 0 8 = some p ∧ p.id = 8 ∧ Servable s 0 p

theorem serves_of {p : Pending} (h : pendAt (accB p) 0 8 = some p) (h1 : p.id = 8) (h2 : p.refused = none)
    (h3 : ((accB p).poisonedAcc p).isNone = true) (h4 : ((accB p).deadPort p).isNone = true) :
    Serves (accB p) p := ⟨h, h1, h2, by simpa using h3, by simpa using h4⟩

theorem witness_MemoryEvents_access : ∃ (s t u : State) (p q r : Pending), Serves s p ∧ p.kind = .load ∧ Serves t q ∧ q.kind = .store ∧
    Serves u r ∧ r.kind = .atomic 0 4 false true :=
  ⟨_, _, _, oneAcc 8 .load (.mem 0x20000) true, oneAcc 8 .store (.mem 0x20000) true, oneAcc 8 (.atomic 0 4 false true) (.mem 0x20000) true,
    serves_of (by decide +kernel) rfl rfl (by decide +kernel) (by decide +kernel), rfl,
    serves_of (by decide +kernel) rfl rfl (by decide +kernel) (by decide +kernel), rfl,
    serves_of (by decide +kernel) rfl rfl (by decide +kernel) (by decide +kernel), rfl⟩

theorem witness_MemoryEvents_reduce : ∃ (s : State) (p : Pending), Serves s p ∧ p.kind = .atomic 0 4 false false :=
  ⟨_, oneAcc 8 (.atomic 0 4 false false) (.mem 0x20000) true,
    serves_of (by decide +kernel) rfl rfl (by decide +kernel) (by decide +kernel), rfl⟩

theorem witness_MemoryEvents_poison : ∃ (s : State) (p : Pending) (a : LaneAcc), pendAt s 0 8 = some p ∧ p.id = 8 ∧ p.refused = none ∧
    s.readyAt 0 p ≠ [] ∧ s.poisonedAcc p = some a ∧ p.kind = .load :=
  ⟨{ (accB (oneAcc 8 .load (.mem 0x20000) true)) with poison := [0x20000 / 128] }, oneAcc 8 .load (.mem 0x20000) true, _, by decide +kernel,
    rfl, rfl, by decide +kernel, some_get _ (by decide +kernel), rfl⟩

theorem witness_MemoryEvents_refusal : ∃ (s : State) (p : Pending) (va : W64) (who : BitVec 12) (reason : BitVec 4) (g : Group) (w : Wg),
    (s.core 0).pend.find? (fun p => p.id == 8 && p.refused.isSome) = some p ∧ p.refused = some (va, who, reason) ∧
    s.pendOwner p = some (g, w) ∧ reason ≠ 0 :=
  ⟨accB { oneAcc 8 .store (.fabric 5 0x40) false with refused := some (0x10000, 5, 1) },
    { oneAcc 8 .store (.fabric 5 0x40) false with refused := some (0x10000, 5, 1) }, 0x10000, 5, 1, _, _, by decide +kernel, rfl,
    some_pair _ (by decide +kernel), by decide⟩

/-- A copy of g10 in memory to g8 in local store (8 words), as it stands in its engine. -/
def cmdB : Command :=
  { blankCommand (envOf cpB) (.copy 0 0) .cpy false with
    dstG := (tileGeom 2 4 8 1).toReg, srcG := (tileGeom 2 4 8 0).toReg, dstH := 0, srcH := 0x10000, bytes := 32,
    xlat := [(0x10000, .mem 0x20000)], seq := 1, ready := true }

/-- The bench with a command running at copy engine 0 of core 0. -/
def engB (c : Command) : State := cpB.modEngine (.copy 0 0) (fun q => { q with running := some c })

/-- The same with every element moved and performed. -/
def cmdDone : Command := { cmdB with moved := 8, landed := 8 }

theorem witness_EngineEvents_start : ∃ (s : State) (c : Command) (q : Engine), s.pickCmd (.copy 0 0) = some (c, q) :=
  ⟨cpB.modEngine (.copy 0 0) (fun q => { q with normal := [cmdB] }), _, _, some_pair _ (by decide +kernel)⟩

theorem witness_EngineEvents_move : ∃ (s : State) (c : Command),
    let is_ := portion s c 4
    Runs (.copy 0 0) c s ∧ c.ready = true ∧ s.unitLimit c = c.units ∧ is_ ≠ [] ∧ s.poisonAmong ((is_.map (s.unitReads c)).flatten) = none ∧
    s.portWait ((is_.map (s.unitReads c)).flatten ++ (is_.map (s.unitWrites c)).flatten) = false ∧
    s.placesBehind ((is_.map (s.unitReads c)).flatten ++ (is_.map (s.unitWrites c)).flatten) = false ∧ s.windowFull (movedBy s c is_).out = false :=
  ⟨engB cmdB, cmdB, ⟨by decide +kernel, by decide +kernel⟩, rfl, by decide +kernel⟩

theorem witness_EngineEvents_complete : ∃ (s : State) (c c1 : Command), Runs (.copy 0 0) c s ∧ c.kind = .cpy ∧ c.ready = true ∧
    c.units ≤ c.moved ∧ (((s.makeReleases (.copy 0 0) c).landSome (.copy 0 0)).engine (.copy 0 0)).running = some c1 ∧ c1.waiting = 0 ∧
    c1.released = true :=
  ⟨engB cmdDone, cmdDone, _, ⟨by decide +kernel, by decide +kernel⟩, rfl, rfl, by decide +kernel,
    some_get _ (by decide +kernel), by decide +kernel, by decide +kernel⟩

theorem witness_EngineEvents_poison : ∃ (s : State) (c : Command) (va : Nat), (s.engine (.copy 0 0)).running = some c ∧ c.kind = .cpy ∧
    s.poisonVa c = some va ∧ s.faultFull c.region = false :=
  ⟨{ (engB cmdB) with poison := [0x20000 / 128], mem := ((engB cmdB).mem.writeNat (0x30100 + 104) 8 0x60000).writeNat (0x30100 + 112) 2 8 },
    cmdB, _, by decide +kernel, rfl, some_get _ (by decide +kernel), by decide +kernel⟩

/-- A page selection whose scores stand ready, on cluster 48. -/
def selC : Command :=
  { blankCommand (envOf pselB) (.psel 48) .psel false with
    dstH := 0, srcH := 0x10000, option := 0x200, listN := 1, bytes := 8, form := [1, 512], query := List.replicate 256 0,
    xlat := [(0x10000, .mem 0x20000)], ready := true }

def selB : State := pselB.modEngine (.psel 48) (fun q => { q with running := some selC })

theorem witness_EngineEvents_select : ∃ (s : State) (c c0 c1 : Command) (xs : List Nat) (ev : Events),
    Runs (.psel 48) c s ∧ c.ready = true ∧ s.pselScores c = (xs, ev) ∧
    (let s2 := match (s.cmdLs c (c.dstH.setWidth 32) (8 * c.listN)).head? with
       | some (.ls w h off) => s.lsWrite w h off (pselOutput c.listN xs)
       | _ => s
     let s3 := s2.modRunning (.psel 48) (fun c => { c with result := { c.result with ev := ev } })
     (s3.engine (.psel 48)).running = some c0 ∧ c0.kind = .psel ∧ c0.ready = true ∧ c0.release = none ∧
     ((s3.landSome (.psel 48)).engine (.psel 48)).running = some c1 ∧ c1.waiting = 0 ∧ c1.release = none) :=
  ⟨selB, selC, _, _, _, _, ⟨by decide +kernel, by decide +kernel⟩, rfl, rfl, some_get _ (by decide +kernel), by decide +kernel,
    by decide +kernel, (by decide +kernel), some_get _ (by decide +kernel), by decide +kernel, by decide +kernel⟩

/-- A sum of 64 bytes over collective 3, of two lines, neither of which has come. -/
def collC : Command :=
  { blankCommand (envOf cpB) (.egress 0) (.fcoll 0 8) false with dstH := 0x200, srcH := 0x200, listN := 3, bytes := 256, form := [64, 1, 0],
                                                                 ready := true }

/-- It runs at the egress engine; plane 0 has been down for 200 µs and plane 1 is up. -/
def collB : State :=
  let s := fabB.modEngine (.egress 0) (fun q => { q with running := some collC })
  let p : FabPort := (s.fabric.ports[0]?).getD ⟨false, 0, 0, false, false, 0, 0, 0, Vector.replicate 4 0, Vector.replicate 4 0⟩
  { s with time := 300000, fabric := { s.fabric with coll := [(3, 1 + 2 * 2 ^ 13 + 3 * 2 ^ 32)], ports := (s.fabric.ports.setIfInBounds 0 { p with up := false, downAt := 0 }).setIfInBounds 1 { p with up := true } } }

theorem witness_EngineEvents_collective : ∃ (s : State) (c : Command) (leaves : List (List (List Byte))) (r : List Byte × Events),
    (s.engine (.egress 0)).running = some c ∧ c.kind = .fcoll 0 8 ∧ r = collLine 0 8 (c.lineLen 1) leaves ∧ 1 < c.collLines ∧ 1 ∉ c.lines ∧
    r.1.length = c.lineLen 1 ∧ ∀ l ∈ leaves, ∀ b ∈ l, b.length = c.lineLen 1 :=
  ⟨collB, collC, [[List.replicate 128 0]], _, by decide +kernel, rfl, rfl, by decide +kernel⟩

theorem witness_EngineEvents_resend : ∃ (s : State) (c : Command) (p : FabPort) (up : Nat), (s.engine (.egress 0)).running = some c ∧
    c.kind = .fcoll 0 8 ∧ s.fabric.ports[0]? = some p ∧ p.up = false ∧ p.downAt + 200000 ≤ s.time ∧
    nextPlane (s.fabric.upPlanes (bitsAt (s.fabric.collOf c.listN) 32 48)) 0 = some up ∧
    (List.range c.collLines).filter (fun j => !c.lines.contains j && c.planeOf j == 0) ≠ [] :=
  ⟨collB, collC, _, _, by decide +kernel, rfl, some_get _ (by decide +kernel), by decide +kernel, by decide +kernel,
    some_get _ (by decide +kernel), by decide +kernel⟩

/-- Region 1 with a page table at 0x80000 that maps every address to itself (and from 2^36 on, as system pages), budgets, a frame pool, a
fault queue, and a launch queue of 8 places at 0x40000 whose head names the descriptor at 0x20800. The memory is written out: the
descriptor, the control block from 0x30100 (196864), the launch record, the table. -/
def launchB : State :=
  { bench3 with
    mem := [(0x20800, 1), (0x20804, 8), (0x20811, 1),
      (196880, 255), (196881, 255), (196882, 255), (196883, 255), (196888, 255), (196889, 255), (196890, 255), (196891, 255),
      (196892, 255), (196893, 255), (196921, 1), (196928, 64), (196954, 4), (196960, 8), (196964, 1), (196970, 6), (196976, 8),
      (197060, 9), (197062, 16), (197066, 1),
      (0x40001, 8), (0x40002, 2), (0x40010, 1), (0x40012, 32), (0x40015, 4), (0x40018, 1), (0x40029, 10), (0x4002A, 2),
      (0x80000, 1), (0x80001, 32), (0x80002, 8), (0x82000, 21), (0x82008, 21), (0x82009, 8)]
    dies := bench3.dies.setIfInBounds 0 { (bench3.die 0) with present := true } }

/-- A launch of one workgroup, as it is read from the queue of `launchB`. -/
def launch1 : Launch := launchB.newLaunch 1 0x40000 (BitVec.ofNat 1024 (launchB.peek 0x40000 128)) (BitVec.ofNat 1024 (launchB.peek 0x20800 128))

/-- Its one set waits at cluster 1, in a window of the region's budget. -/
def setB : State :=
  ({ launchB with launches := [launch1] }.modRegion 1 (fun x => { x with win := 1000 })).modCluster 1 (fun c => { c with wgStream := [⟨launch1.id, 0, 1, [], 0⟩] })

/-- A workgroup of that region, saved at 0x50000 for a page. -/
def ctx5 : Ctx :=
    { id := 5, region := 1, launch := none, addr := 0x50000, pages := 1, owner := 1, phase := .waitingPages, reason := .pages, record := some 0,
      needed := [0x10000], shell := { launchB.wgs.headD (fetchWg 0) with root := 0x80000 }, shells := launchB.groups, resend := [], setId := 7, step := false, cluster := 1 }

/-- It waits at cluster 1; it is what record 0 of the region's fault queue names. -/
def ctxB : State :=
  ({ launchB with ctxs := [ctx5], mem := launchB.mem.take 31 ++ [(0x50000, 0x43), (0x50001, 0x4E), (0x50002, 0x54), (0x50003, 0x58), (0x50004, 1), (0x50030, 1)] ++ launchB.mem.drop 31 }.modRegion 1 (fun x => { x with win := 1000, recs := [0] })).modCluster 1
    (fun c => { c with wgStream := [⟨0, 0, 1, [5], 0⟩] })

/-- A record that enters cluster 0's item queue for slice X of group 1, and one that lies in it. -/
def itemB (entering itemq : List (BitVec 256)) (opened : List OpenGroup) : State :=
  { launchB with dies := launchB.dies.setIfInBounds 0 { (launchB.die 0) with dcyc := 1 } }.modCluster 0 (fun c => { c with entering := entering.map (fun r => (r, some (1, false), 0)), itemq := itemq, opened := opened, enterAt := 9, packAt := 9 })

theorem some_fst {α β : Type} {o : Option (α × β)} {a : α} (h : o.isSome = true) (h' : o.map (fun p => p.1) = some a) :
    o = some (a, (o.get h).2) := by
  cases o with
  | none => simp at h
  | some p => simpa [Prod.ext_iff] using h'

theorem some_triple {α β γ : Type} (o : Option (α × β × γ)) (h : o.isSome = true) : o = some ((o.get h).1, (o.get h).2.1, (o.get h).2.2) :=
  some_get o h

theorem witness_WorkEvents_queue : ∃ (s t : State) (c d : Cluster), c = s.cluster 0 ∧
    (c.entering.takeWhile (fun x => decide (x.2.2 < (s.die 0).dcyc))).take (min 4 (s.itemRoom 0 - c.queued)) ≠ [] ∧ c.enterAt ≠ (s.die 0).dcyc ∧ c.itemq = [] ∧ c.opened = [] ∧
    d = t.cluster 0 ∧ d.packAt ≠ (t.die 0).dcyc ∧ ¬(d.itemq = [] ∧ d.opened = []) ∧ ∀ g ∈ d.opened, g.idle < 256 :=
  ⟨itemB [7] [] [], itemB [] [7] [⟨8, 1, [3], 255⟩], _, _, rfl, by decide +kernel, by decide +kernel, (by decide +kernel), by decide +kernel,
    rfl, by decide +kernel⟩

theorem witness_WorkEvents_admit : ∃ (s t u : State), s.clusterOk 1 = true ∧ s.tryAdmit 1 = some (false, t) ∧
    u.clusterOk 1 = true ∧ u.tryAdmit 1 = none :=
  ⟨setB, _, launchB, by decide +kernel, some_fst (by decide +kernel) (by decide +kernel), by decide +kernel, Option.isNone_iff_eq_none.1 (by decide +kernel)⟩

theorem witness_WorkEvents_restore : ∃ (s t : State), s.clusterOk 1 = true ∧ s.tryAdmit 1 = some (true, t) :=
  ⟨ctxB, _, by decide +kernel, some_fst (by decide +kernel) (by decide +kernel)⟩

theorem witness_WorkEvents_retire : ∃ (s : State) (g : Group) (w : Wg), s.group? 1 = some g ∧ s.wg? g.wg = some w ∧ s.groupDone g = true :=
  ⟨both (fun sl => { sl with ended := true }) launchB, _, _, some_get _ (by decide +kernel), some_get _ (by decide +kernel), by decide +kernel⟩

/-- Its launch has retired; no engine has a command. -/
def doneB : State :=
  { launchB with
    launches := [{ launch1 with retired := 1 }], cores := Vector.replicate 512 Core.reset,
    clusters := Vector.replicate 64 Cluster.reset, dies := Vector.replicate 8 Die.reset }

theorem engine_idle {s : State} (h : s.cores = Vector.replicate 512 Core.reset) (h' : s.clusters = Vector.replicate 64 Cluster.reset)
    (h'' : s.dies = Vector.replicate 8 Die.reset) (i : EngineId) : (s.engine i).commands = [] := by
  cases i with
  | copy c u =>
    have : s.core c = Core.reset := by simp only [State.core, h, Vector.getElem?_replicate]; split <;> rfl
    simp only [State.engine, this]
    rcases u with _ | _ | u <;> rfl
  | psel c => simp only [State.engine, State.cluster, h', Vector.getElem?_replicate]; split <;> rfl
  | egress d => simp only [State.engine, State.die, h'', Vector.getElem?_replicate]; split <;> rfl

theorem no_commands : doneB.allCommands = [] := by
  have h := engine_idle (s := doneB) rfl rfl rfl
  have h' : doneB.pkg.heldCmds = [] := rfl
  simp [State.allCommands, State.dieCommands, h, h']

theorem witness_WorkEvents_complete : ∃ (s : State) (l : Launch), s.pkg.power ≤ 1000 * s.pkg.pwr.toNat ∧
    (∀ t, s.pkg.lastSet = some t → t + 2 ≤ s.ptb0) ∧
    s.launch? launch1.id = some l ∧ l.total ≤ l.retired ∧ (∀ w ∈ s.wgs, w.launch ≠ some launch1.id) ∧
    (∀ c ∈ s.ctxs, c.launch ≠ some launch1.id) ∧ ∀ c ∈ s.allCommands, c.launch ≠ some launch1.id :=
  ⟨doneB, _, by decide +kernel, fun t h => by simp [show doneB.pkg.lastSet = none from rfl] at h, some_get _ (by decide +kernel),
    by decide +kernel, by decide +kernel, (by decide +kernel), by simp [no_commands]⟩

theorem witness_WorkEvents_read : ∃ (s : State) (x : Region) (d : BitVec 1024),
    let img : BitVec 1024 := BitVec.ofNat 1024 (s.peek (s.rcb 1 704 64 + 128 * s.rcb 1 784 16) 128)
    let l := s.newLaunch 1 (s.rcb 1 704 64 + 128 * s.rcb 1 784 16) img d
    s.region? 1 = some x ∧ x.stopped = false ∧ s.rcb 1 784 16 ≠ s.rcb 1 800 16 ∧ s.rcb 1 768 16 ≠ 0 ∧
    (img.extractLsb' 448 64).toNat ≤ s.ptb0 ∧ s.readDescAt 1 (img.extractLsb' 0 56).toNat = (some d, none) ∧
    (descReason d).or (if descField d 16 4 = 1 then some 2 else s.launchReason l) = none ∧ x.launches.length < 4 ∧ l.field 255 1 = 0 :=
  ⟨launchB, _, launch1.desc, some_get _ (by decide +kernel), by decide +kernel⟩

theorem witness_WorkEvents_unreadable : ∃ (s : State) (x : Region),
    let img : BitVec 1024 := BitVec.ofNat 1024 (s.peek (s.rcb 1 704 64 + 128 * s.rcb 1 784 16) 128)
    s.region? 1 = some x ∧ x.stopped = false ∧ s.rcb 1 784 16 ≠ s.rcb 1 800 16 ∧ s.rcb 1 768 16 ≠ 0 ∧
    (img.extractLsb' 448 64).toNat ≤ s.ptb0 ∧ s.readDescAt 1 (img.extractLsb' 0 56).toNat = (none, none) :=
  ⟨{ launchB with mem := launchB.mem.writeNat 0x82000 1 1 }, _, some_get _ (by decide +kernel), by decide +kernel⟩

theorem witness_WorkEvents_reject : ∃ (s : State) (d : BitVec 1024) (r : Nat),
    let img : BitVec 1024 := BitVec.ofNat 1024 (s.peek (s.rcb 1 704 64 + 128 * s.rcb 1 784 16) 128)
    let l := s.newLaunch 1 (s.rcb 1 704 64 + 128 * s.rcb 1 784 16) img d
    s.readDescAt 1 (img.extractLsb' 0 56).toNat = (some d, none) ∧
    (descReason d).or (if descField d 16 4 = 1 then some 2 else s.launchReason l) = some r ∧ r < 16 :=
  ⟨{ launchB with mem := launchB.mem.writeNat 0x20800 2 2 }, launch1.desc ^^^ 3, 1, by decide +kernel, by decide +kernel, by decide⟩

theorem witness_EnergyEvents : ∃ (s t : State) (w : Wg) (x y : Region), s.wg? 0 = some w ∧ s.region? 1 = some x ∧ s.owns 5 1 = true ∧
    s.rcb 1 384 64 + x.win ≤ s.ptb0 ∧ s.rcb 1 192 48 = x.ebud ∧ s.rcb 1 256 48 = x.win ∧ x.deferred ≠ [] ∧ s.faultFull 1 = false ∧
    t.region? 1 = some y ∧ t.owns 5 1 = true ∧ t.rcb 1 384 64 + y.win ≤ t.ptb0 ∧ ¬(t.rcb 1 192 48 = y.ebud ∧ t.rcb 1 256 48 = y.win) ∧
    ¬(1000 ≤ t.rcb 1 256 48 ∧ (t.rcb 1 32 32 ≠ 0 ∨ t.powerOk 1 (t.rcb 1 192 48) (t.rcb 1 256 48) = true)) :=
  ⟨launchB.modRegion 1 (fun x => { x with ebud := 2 ^ 48 - 1, deferred := [5] }), launchB, _, _, _, some_get _ (by decide +kernel),
    some_get _ (by decide +kernel), by decide +kernel, by decide +kernel, (by decide +kernel), by decide +kernel, by decide +kernel,
    (by decide +kernel), some_get _ (by decide +kernel), by decide +kernel⟩

/-- A saved workgroup whose kind-7 record waits. -/
theorem witness_EnergyEvents_waiting : ∃ (s : State) (x : Region) (c : Ctx), s.region? 1 = some x ∧ x.deferred = [] ∧ s.unrecorded 1 = some c ∧
    s.faultFull 1 = false :=
  ⟨{ ctxB with ctxs := [{ ctx5 with reason := .debug 0, phase := .saved, record := none }] }, _, _, some_get _ (by decide +kernel),
    by decide +kernel, some_get _ (by decide +kernel), by decide +kernel⟩

theorem witness_EnergyEvents_power : ∃ s : State, s.pkg.powerAt + 1000000 ≤ s.ptb0 ∧ s.exportRegion = some 1 :=
  ⟨{ launchB with ptbFine := 10 ^ 16, fabric := { launchB.fabric with xroot := 0x80000, xreg := 1 } }, by decide +kernel⟩

theorem witness_EnergyEvents_new : ∃ (s : State) (x : Region), s.region? 1 = some x ∧ s.owns 5 1 = true ∧ s.rcb 1 384 64 + x.win ≤ s.ptb0 ∧
    ¬(s.rcb 1 192 48 = x.ebud ∧ s.rcb 1 256 48 = x.win) ∧ 1000 ≤ s.rcb 1 256 48 ∧ s.powerOk 1 (s.rcb 1 192 48) (s.rcb 1 256 48) = true :=
  ⟨{ launchB with mem := launchB.mem.writeNat (0x30100 + 32) 6 1000 }, _, some_get _ (by decide +kernel), by decide +kernel⟩

/-- The workgroup of the bench, stopped at 0x40 and draining since 0. -/
def stopB (reason : OutReason) (late : Bool) : State :=
  let i : StopInfo := ⟨reason, 0, false, 0x40, 0, 0, 0, [], 0, late, none⟩
  { onWg (fun w => { w with phase := .draining, stop := some i, halted := true }) launchB with ptbFine := 2 * 10 ^ 14 }

theorem witness_StopEvents_save : ∃ (s : State) (w : Wg) (i : StopInfo), s.wg? 0 = some w ∧ w.stop = some i ∧ i.reason ≠ .preempt ∧
    w.phase = .draining ∧ (∃ v ∈ s.unitOf w, s.drained v = false) ∧ i.onReservedPath = false ∧
    i.since + (if s.rcbOwned 9 w.region 1088 64 = 0 then 100000 else s.rcbOwned 9 w.region 1088 64) ≤ s.ptb (dieOf w.core) :=
  ⟨stopB .pages false, _, ⟨.pages, 0, false, 0x40, 0, 0, 0, [], 0, false, none⟩, some_get _ (by decide +kernel), by decide +kernel, by decide,
    by decide +kernel, by decide +kernel, rfl, by decide +kernel⟩

theorem witness_StopEvents_reset : ∃ (s : State) (w : Wg) (i : StopInfo), s.wg? 0 = some w ∧ w.stop = some i ∧ w.phase = .draining ∧
    (∃ v ∈ s.unitOf w, s.drained v = false) ∧ i.onReservedPath = true ∧ i.since + 100000 ≤ s.ptb (dieOf w.core) :=
  ⟨stopB .preempt true, _, ⟨.preempt, 0, false, 0x40, 0, 0, 0, [], 0, true, none⟩, some_get _ (by decide +kernel), by decide +kernel,
    by decide +kernel, (by decide +kernel), rfl, by decide +kernel⟩

theorem resume_of {s : State} {r n : Nat} {c : Ctx} {b : Bool}
    (h : s.ctxs.find? (fun c => c.region == r && c.record == some n && c.phase != .resumed) = some c) :
    s.resumeRecord r n b = some (s.sendBack c b) := by
  unfold State.resumeRecord
  rw [h]

theorem witness_StopEvents_resume : ∃ (s t : State) (c : Ctx) (x : Region), s.ctxs.find? (fun c => c.id == 5) = some c ∧
    c.phase = .waitingPages ∧ (∀ a ∈ c.needed, s.rangePresent c.shell.root a = true) ∧
    (∀ x ∈ s.ctxs, x.setId = c.setId → s.imageOk x = true) ∧ s.region? 1 = some x ∧ 0 ∈ x.recs ∧ s.resumeRecord 1 0 false = some t :=
  have h : ctxB.imageOk ctx5 = true := by decide +kernel
  have x : ctxB.rangePresent ctx5.shell.root 0x10000 = true := by
    rw [show ctx5.shell.root = 0x80000 from by decide +kernel]
    decide +kernel
  ⟨ctxB, _, ctx5, _, rfl, rfl, fun a ha => by
    have : a = 0x10000 := List.mem_singleton.1 ha
    exact this ▸ x, fun y hy _ => List.mem_singleton.1 hy ▸ h, some_get _ (by decide +kernel), by decide +kernel, resume_of rfl⟩

/-- The saved workgroup is of launch 3, and its image has no magic number. -/
def tornB : State := { ctxB with ctxs := [{ ctx5 with launch := some 3 }], mem := launchB.mem }

theorem witness_StopEvents_torn : ∃ (s : State) (c : Ctx), s.ctxs.find? (fun c => c.id == 5) = some c ∧ c.phase = .waitingPages ∧
    (∀ a ∈ c.needed, s.rangePresent c.shell.root a = true) ∧ (∃ x ∈ s.ctxs, x.setId = c.setId ∧ s.imageOk x = false) ∧ c.launch = some 3 :=
  have x : tornB.rangePresent ctx5.shell.root 0x10000 = true := by
    rw [show ctx5.shell.root = 0x80000 from by decide +kernel]
    decide +kernel
  ⟨tornB, { ctx5 with launch := some 3 }, rfl, rfl, fun a ha => List.mem_singleton.1 ha ▸ x,
    ⟨_, List.mem_singleton.2 rfl, rfl, by decide +kernel⟩, rfl⟩

/-- The workgroup of the bench, held in place for the page at 0x10000. -/
def heldB : State :=
  onWg (fun w => { w with root := 0x80000, phase := .heldInPlace true, halted := true,
                          stop := some ⟨.pages, 0, false, 0x40, 0, 0, 0, [0x10000], 0, false, some 0⟩ }) launchB

theorem witness_StopEvents_held : ∃ (s : State) (w : Wg) (i : StopInfo), (∀ c ∈ s.ctxs, c.id ≠ 0) ∧ s.wg? 0 = some w ∧
    w.phase = .heldInPlace true ∧ w.stop = some i ∧ i.reason = .pages ∧ i.pages ≠ [] ∧ ∀ a ∈ i.pages, s.rangePresent w.root a = true :=
  have x : heldB.rangePresent (heldB.wgs.headD (fetchWg 0)).root 0x10000 = true := by
    rw [show (heldB.wgs.headD (fetchWg 0)).root = 0x80000 from by decide +kernel]
    decide +kernel
  ⟨heldB, heldB.wgs.headD (fetchWg 0), ⟨.pages, 0, false, 0x40, 0, 0, 0, [0x10000], 0, false, some 0⟩,
    (fun c hc => (nomatch (show c ∈ [] from hc))), rfl, rfl, rfl, rfl, List.cons_ne_nil _ _, fun a ha => List.mem_singleton.1 ha ▸ x⟩

theorem witness_StopEvents_none : ∃ (s t : State) (x : Region), (s.region? 2).isNone = true ∧ (s.region? 1).isSome = true ∧
    s.recordAt 1 0 = false ∧ t.region? 1 = some x ∧ 4 ∈ x.recs ∧ t.resumeRecord 1 4 false = none :=
  ⟨launchB, launchB.modRegion 1 (fun x => { x with recs := [4] }), _, by decide +kernel, by decide +kernel, (by decide +kernel),
    some_get _ (by decide +kernel), by decide +kernel, Option.isNone_iff_eq_none.1 (by decide +kernel)⟩

/-- No progress for two ticks more than the period of 1,000. -/
def dogB : State := { launchB with ptbFine := 2 * 10 ^ 14, mem := launchB.mem.writeNat (0x30100 + 136) 8 1000 }

theorem dog_slice : (dogB.lowestSlice (dogB.wgs.headD (fetchWg 0))).map (fun p => p.2.2.hmode) = some false := by decide +kernel

theorem witness_StopEvents_watchdog : ∃ (s : State) (w : Wg) (g : Group) (a : Bool) (sl : Slice), s.wg? 0 = some w ∧
    s.lowestSlice w = some (g, a, sl) ∧ s.rcbOwned 9 w.region 1088 64 ≠ 0 ∧ w.phase = .running ∧
    w.progress + s.rcbOwned 9 w.region 1088 64 ≤ s.ptb (dieOf w.core) ∧ sl.hmode = false := by
  obtain ⟨⟨g, a, sl⟩, h, h'⟩ := Option.map_eq_some_iff.1 dog_slice
  exact ⟨dogB, _, g, a, sl, rfl, h, by decide +kernel, by decide +kernel, (by decide +kernel), h'⟩

/-- Dies 0 and 1 in service, joined by one circuit of 30 wavelengths; two circuits move. -/
def partB : State :=
  { launchB with pkg := { launchB.pkg with dies := 3, ctab := launchB.pkg.ctab.setIfInBounds 0 0x51E10, circuits := [0, 3] } }

theorem witness_ErrorEvents : ∃ (s : State) (w : Wg) (p : Nat) (x : BitVec 64) (c : Nat) (l : List Nat), s.wg? 0 = some w ∧
    s.canonPa 0x20000 = some p ∧ p < 2 ^ 51 ∧ (homeDie p).isSome = true ∧ s.inGuard p = false ∧
    s.pkg.ctab[0]? = some x ∧ x.getLsbD 18 = true ∧ (s.pkg.lostWl.filter (fun e => e == 0)).length < (x.extractLsb' 8 7).toNat ∧
    (s.die 0).present = true ∧ (s.die 0).fenced = false ∧ s.pkg.circuits = c :: l :=
  ⟨partB, _, 0x20000, 0x51E10, _, _, some_get _ (by decide +kernel), by decide +kernel, by decide +kernel, (by decide +kernel),
    by decide +kernel, by decide +kernel, (by decide +kernel), by decide +kernel, by decide +kernel, (by decide +kernel), rfl⟩

theorem witness_ErrorEvents_table : ∃ (s : State) (old a b c : BitVec 64), s.pkg.ctab[0]? = some old ∧ s.ctabEnds (a &&& 0x77FFF) = false ∧
    s.ctabEnds (b &&& 0x77FFF) = true ∧ (∃ d, d < 8 ∧ 60 < dieWl (s.pkg.ctab.setIfInBounds 0 (b &&& 0x77FFF)).toList d) ∧
    s.ctabEnds (c &&& 0x77FFF) = true ∧ (∀ d, d < 8 → dieWl (s.pkg.ctab.setIfInBounds 0 (c &&& 0x77FFF)).toList d ≤ 60) ∧
    ∀ d ∈ [0, 2, 4, 6], s.inService d = true → s.inService (d + 1) = true → 16 ≤ buddyWl (s.pkg.ctab.setIfInBounds 0 (c &&& 0x77FFF)).toList d :=
  ⟨partB, 0x51E10, 0x51E00, 0x53D10, 0x51010, by decide +kernel, by decide +kernel, (by decide +kernel), ⟨0, by decide, by decide +kernel⟩,
    by decide +kernel⟩

/-- Region 1 attached; record 0 of its fault queue, at 0x60000, is a debug stop of `ctx5`. -/
def debugB : State :=
  { ctxB with
    ctxs := [{ ctx5 with reason := .debug 0, phase := .saved }]
    regions := ctxB.regions.map (fun x => { x with attached := true })
    mem := ctxB.mem.take 37 ++ [(0x60000, 7)] ++ ctxB.mem.drop 37 }

theorem witness_DebugEvents : ∃ (s t u : State), (s.region? 2).isNone = true ∧ (s.region? 1).isSome = true ∧ s.attached 1 = false ∧
    (t.region? 1).isSome = true ∧ t.attached 1 = true ∧ t.recordAt 1 0 = true ∧ t.peek (t.rcb 1 832 64 + 512 * 0) 1 = 7 ∧
    t.resumeRecord 1 0 true = some u :=
  ⟨launchB, debugB, _, by decide +kernel, by decide +kernel, (by decide +kernel), by decide +kernel, by decide +kernel, (by decide +kernel),
    by decide +kernel, resume_of rfl⟩

/-- The workgroup of the bench has stepped. -/
def steppedB : State := both (fun sl => { sl with stepped := true }) (onWg (fun w => { w with stepping := true }) launchB)

theorem witness_DebugEvents_step : ∃ (s : State) (w : Wg), s.wg? 0 = some w ∧ s.stepOver w = true ∧
    let stop (sl : Slice) : Slice := if sl.ended || sl.hmode then { sl with halt := .stopped }
      else if sl.stepped then { sl.stopAt 0 with cause := 0x52, aux0 := 0, aux1 := 0 } else sl.stopAt 0
    let s2 := (s.modSleepers (fun g => g.wg == 0) stop).modWg 0 (fun w => { w with stepping := false })
    ∃ g a sl, s2.stepSlice w = some (g, a, sl) :=
  ⟨steppedB, _, some_get _ (by decide +kernel), by decide +kernel, _, _, _, some_triple _ (by decide +kernel)⟩

/-- The part has booted and both ports are up; region 1's port is port 0. -/
theorem witness_HostEvents : ∃ (s t : State), s.bar0Ok false = true ∧ s.bar2Ok false = true ∧ s.hostPlace (s.bar2 false 0x20000) 8 = .mem 0x20000 ∧
    s.poisoned 0x20000 = false ∧ s.hostPlace (s.bar2 false 0x20001) 8 = .none ∧ (s.region? 1).isSome = true ∧ (s.region? 2).isNone = true ∧
    (s.port false).adoptedFrom = false ∧ (s.port false).adopting = false ∧ (s.rcb 1 92 1 == 1) = false ∧ t.bar2Ok true = true ∧
    (t.region? 1).isSome = true ∧ (t.port true).adoptedFrom = false ∧ (t.port true).adopting = false ∧ (t.rcb 1 92 1 == 1) ≠ true ∧
    (t.modPort true (fun p => { p with adoptedFrom := true })).bar2Ok true = true ∧
    ((t.modPort true (fun p => { p with adoptedFrom := true })).port true).adoptedFrom = true ∧
    ((t.modPort true (fun p => { p with adopting := true })).port true).adopting = true ∧
    ((s.port false).msixRead 0x40000C 4).isSome = true ∧ 0x400000 ≤ 0x40000C ∧ 0x40000C < 0x408000 ∧ 0x40000C % 4 = 0 :=
  ⟨launchB, launchB, by decide +kernel⟩

/-- Port 0's link has been down for 10 ms. -/
def downB (b : Bool) : State :=
  { launchB with time := 100000000 }.modPort false (fun p => { p with up := false, downSince := 0, adoptedFrom := b })

theorem witness_HostEvents_ports : ∃ (s t : State), (s.port false).up = false ∧ s.failing (s.port false) = true ∧ (s.port false).failed = false ∧
    (s.port false).adopting = false ∧ s.alivePort (s.port (!false)) = true ∧ (s.port false).adoptedFrom = false ∧
    (s.port false).downSince + 100000000 ≤ s.time ∧
    t.failing (t.port false) = true ∧ (t.port false).adopting = false ∧ (t.port false).failed = false ∧ (t.port false).adoptedFrom = true :=
  ⟨downB false, downB true, by decide +kernel⟩

/-- Port 0 failed and its regions go to port 1: region 1 is still on it, or, of the second state, no region is; port 1 has failed again
after its recovery, with port 0 alive. -/
theorem witness_HostEvents_adopt : ∃ (s t u : State) (x : Region), (s.port false).adopting = true ∧
    s.regions.find? (fun x => (s.rcb x.num 92 1 == 1) == false) = some x ∧ (t.port false).adopting = true ∧
    (∀ x ∈ t.regions, (t.rcb x.num 92 1 == 1) ≠ false) ∧
    u.failing (u.port true) = true ∧ (u.port true).adopting = false ∧ (u.port true).failed = true ∧ u.alivePort (u.port (!true)) = true ∧
    (u.port true).adoptedFrom = false :=
  ⟨(downB false).modPort false (fun p => { p with adopting := true }), { (downB false) with regions := [] }.modPort false (fun p => { p with adopting := true }),
    { launchB with time := 100000000 }.modPort true (fun p => { p with up := false, downSince := 0, failed := true }), _, by decide +kernel,
    some_get _ (by decide +kernel), by decide +kernel⟩

/-- A write of the part to host memory waits for its link. -/
theorem witness_HostEvents_link : ∃ s : State, (s.port false).up = false ∧ s.pkg.heldHost = [(2 ^ 51, [1])] ∧ s.hostRefused (2 ^ 51) = false :=
  ⟨{ launchB with pkg := { launchB.pkg with heldHost := [(2 ^ 51, [1])] } }.modPort false (fun p => { p with up := false, downSince := 0 }),
    by decide +kernel⟩

/-- The package at a stage of its boot, signing for an address. -/
def bootB (stage : BitVec 4) (att : Nat) (trained : Bool) : State :=
  { launchB with pkg := { launchB.pkg with stage := stage, attBusy := true, attAddr := BitVec.ofNat _ att,
                                           images := ⟨true, true, trained, 0xFE⟩ } }

theorem witness_PackageEvents : ∃ (s t u v w x : State), s.bar0Ok false = true ∧ s.pkg.attBusy = false ∧ t.pkg.attBusy = true ∧
    t.hostWritable t.pkg.attAddr.toNat reportLen = true ∧ (t.port (bitAt t.pkg.attAddr.toNat 50)).up = true ∧
    u.pkg.attBusy = true ∧ u.hostWritable u.pkg.attAddr.toNat reportLen = false ∧ u.pkg.stage = 0 ∧ v.pkg.stage = 1 ∧
    v.pkg.images.trained = true ∧ v.pkg.images.diesAuth.getLsbD 0 = false ∧ w.pkg.stage = 2 ∧ 3 ≤ x.pkg.stage.toNat :=
  ⟨launchB, bootB 3 (2 ^ 51) true, bootB 0 0 true, bootB 1 0 true, bootB 2 0 true, bootB 15 0 false, by decide +kernel⟩

/-- A read of 4 bytes by device 5 at an offset of the exported window. -/
def peerRead (off : Nat) : FabReq :=
  { src := 5, op := .read, seq := 9, off := BitVec.ofNat _ off, len := 4, aop := 0, ty := 0, cas := false, cmp := 0,
    bytes := (List.range 4).map (fun i => (off + i, 0)) }

/-- The window's table is region 1's, with an entry that is not present at offset 2^37; 100 µs have passed. -/
def windowB (held : List (FabReq × Nat × Bool)) (answered : List (BitVec 12 × BitVec 32 × FabAnswer)) : State :=
  { launchB with
    time := 1000000
    mem := launchB.mem ++ [(0x82010, 2)]
    fabric := { launchB.fabric with dev := 4, xroot := 0x80000, xreg := 1, held := held, answered := answered } }

theorem witness_FabricEvents_arrive : ∃ (s t u : State) (r r' r'' : FabReq) (x : FabAnswer) (h : FabReq × Nat × Bool) (e : W64),
    s.pkg.stage = 3 ∧ s.fabric.answerTo r.src r.seq = some x ∧ r.src ≠ s.fabric.dev ∧
    t.pkg.stage = 3 ∧ t.fabric.answerTo r.src r.seq = none ∧ (∀ h ∈ t.fabric.held, ¬(h.1.src = r.src ∧ h.1.seq = r.seq)) ∧
    h ∈ t.fabric.held ∧ h.1.src = r.src ∧ reqLine h.1 = reqLine r ∧
    u.pkg.stage = 3 ∧ u.fabric.answerTo r.src r.seq = none ∧ (∀ h ∈ u.fabric.held, ¬(h.1.src = r.src ∧ h.1.seq = r.seq)) ∧
    (∀ h ∈ u.fabric.held, ¬(h.1.src = r.src ∧ reqLine h.1 = reqLine r)) ∧
    u.exportPlace r.off.toNat (reqWrites r) = .place 0x10000 ∧ u.exportPlace r'.off.toNat (reqWrites r') = .wait e ∧
    u.exportPlace r''.off.toNat (reqWrites r'') = .refuse :=
  ⟨windowB [] [(5, 9, .data [1])], windowB [({ peerRead 0x10004 with seq := 8 }, 0, true)] [],
    windowB [({ peerRead 0x20004 with seq := 8 }, 0, true)] [], peerRead 0x10000, peerRead (2 ^ 37), peerRead (3 * 2 ^ 36), .data [1],
    ({ peerRead 0x10004 with seq := 8 }, 0, true), 0x2000000002, rfl, rfl, by decide, rfl, rfl, by decide, List.mem_singleton.2 rfl, rfl, by decide,
    rfl, rfl, by decide, by decide, by decide +kernel⟩

theorem witness_FabricEvents_wait : ∃ (s t : State) (r r' : FabReq) (t0 : Nat) (pa : Nat) (e : W64),
    s.fabric.held[0]? = some (r, t0, true) ∧ (∀ h ∈ s.fabric.held.take 0, ¬(h.1.src = r.src ∧ reqLine h.1 = reqLine r)) ∧
    s.exportPlace r.off.toNat (reqWrites r) = .place pa ∧
    t.fabric.held[0]? = some (r', t0, true) ∧ (∀ h ∈ t.fabric.held.take 0, ¬(h.1.src = r'.src ∧ reqLine h.1 = reqLine r')) ∧
    t.exportPlace r'.off.toNat (reqWrites r') = .wait e ∧ t0 + 100000 ≤ t.time :=
  ⟨windowB [(peerRead 0x10000, 0, true)] [], windowB [(peerRead (2 ^ 37), 0, true)] [], _, _, 0, 0x10000, 0x2000000002, rfl, by simp, by decide +kernel,
    rfl, by simp, by decide +kernel, by decide⟩

/-- A request of this part to peer 5, of nobody, sent at 0 for the n-th time. -/
def outB (owner : FabOwner) (tries : Nat) : State :=
  { windowB [] [] with fabric := { (windowB [] []).fabric with outs := [⟨7, 5, 9, peerRead 0x10000, owner, 0, tries, 0⟩] } }

theorem witness_FabricEvents_answer : ∃ (s t : State) (o o' : FabOut) (x : Nat), s.exportRegion = some x ∧
    s.fabric.outs.find? (fun o => o.id == 7) = some o ∧ o.peer ≠ s.fabric.dev ∧ o.sent + 200000 ≤ s.time ∧ 3 ≤ o.tries ∧
    t.fabric.outs.find? (fun o => o.id == 7) = some o' ∧ o'.peer ≠ t.fabric.dev ∧ o'.sent + 200000 ≤ t.time ∧ o'.tries < 3 :=
  ⟨outB .part 3, outB (.releaseOf (.copy 0 0)) 0, _, _, 1, by decide +kernel, rfl, by decide, by decide, by decide, rfl, by decide, by decide, by decide⟩

/-- Fabric port 0, up or enabled. -/
def portB (up : Bool) : State :=
  { launchB with fabric := { launchB.fabric with ports := launchB.fabric.ports.setIfInBounds 0 { FabPort.reset with up := up, en := true } } }

theorem witness_FabricEvents_ports : ∃ (s t : State) (p q : FabPort) (c : Nat) (k : BitVec 16), s.fabric.ports[0]? = some p ∧
    p.credits[0]? = some c ∧ p.returns[0]? = some k ∧ p.up = true ∧
    t.fabric.ports[0]? = some q ∧ t.pkg.stage = 3 ∧ q.en = true ∧ q.dis = false ∧ q.up = false :=
  ⟨portB true, portB false, _, _, _, _, some_get _ (by decide +kernel), some_get _ (by decide +kernel), some_get _ (by decide +kernel),
    by decide +kernel, some_get _ (by decide +kernel), by decide +kernel⟩

theorem witness_WorkEntered_access : ∃ (e : Env) (x : NewPend) (s : State), x.kind ≠ .stage ∧ x.kind ≠ .reload ∧ EnterRoom e x.kind x.accs s ∧
    e.g.core < s.cores.size ∧ ∃ sl, s.slice? e.cur.grp e.cur.a = some sl :=
  ⟨envOf bench3, ⟨.load, .scalar 3, ⟨4, true⟩, [⟨0, 0x10000, .mem 0x20000, 4, [], [0, 0, 0, 0], 0, false, false⟩], .dev, 0, false, none⟩, bench3,
    by decide, by decide, enterRoom (by decide +kernel), by decide +kernel, _, some_get _ (by decide +kernel)⟩

theorem witness_WorkEntered_pass : ∃ (e : Env) (s : State), e.g.core < s.cores.size ∧ e.g.sub < (s.core e.g.core).subs.size ∧
    (∃ sl, s.slice? e.cur.grp e.cur.a = some sl) ∧ ∃ g, s.group? e.cur.grp = some g :=
  ⟨envOf bench, bench, by decide +kernel, by decide +kernel, ⟨_, some_get _ (by decide +kernel)⟩, _, some_get _ (by decide +kernel)⟩

theorem witness_WorkEntered_command : ∃ (e : Env) (c : Command) (s : State), c.engine = .copy e.g.core 1 ∧ e.g.core < s.cores.size ∧
    (s.core e.g.core).eng.size = 2 ∧ e.w.stepping = false ∧ c.corr.getLsbD 31 = false ∧
    (∀ r ∈ s.regions, r.num = c.region → r.holdTasks = false) ∧ s.fencesTo e .copy s = .ok ([], s) ∧
    ∃ sl, s.slice? e.cur.grp e.cur.a = some sl :=
  ⟨envOf bench, blankCommand (envOf bench) (.copy 0 1) .cpy false, bench, by decide +kernel, by decide +kernel, (by decide +kernel),
    by decide +kernel, by decide +kernel, (by decide +kernel), fencesTo_of (by decide +kernel) (by decide +kernel), _, some_get _ (by decide +kernel)⟩

/-- The hypotheses of `TrapTaken` about a state and its issuing slot. -/
def TakesTrap (s : State) : Prop :=
  ∃ (e : Env) (sl : Slice) (p : Path), s.slice? e.cur.grp e.cur.a = some sl ∧ sl.slot e.cur.slot1 = some p ∧ e.g.id = e.cur.grp ∧ e = envOf s

theorem takes_of {s : State} (h : (s.slice? (envOf s).cur.grp (envOf s).cur.a).isSome = true)
    (h' : (((s.slice? (envOf s).cur.grp (envOf s).cur.a).get h).slot (envOf s).cur.slot1).isSome = true)
    (h'' : (envOf s).g.id = (envOf s).cur.grp) : TakesTrap s :=
  ⟨envOf s, _, _, some_get _ h, some_get _ h', h'', rfl⟩

theorem witness_TrapTaken_handler : ∃ s : State, TakesTrap s ∧ muted (envOf s) = false ∧ (envOf s).sl.hmode = false ∧
    (resolutionD 0x21 && s.attached (envOf s).w.region) = false ∧ s.hpc (envOf s).w.region ≠ 0 ∧ (envOf s).sl.corr.getLsbD 31 = false :=
  ⟨bench1, takes_of (by decide +kernel) (by decide +kernel) (by decide +kernel), by decide +kernel⟩

theorem witness_TrapTaken_stop : ∃ (s t u : State) (w : Wg), TakesTrap s ∧ (envOf s).sl.hmode = true ∧ s.wg? (envOf s).w.id = some w ∧
    w.phase = .running ∧ TakesTrap t ∧ muted (envOf t) = true ∧
    TakesTrap u ∧ (envOf u).sl.hmode = false ∧ u.hpc (envOf u).w.region = 0 :=
  ⟨handler bench1, onWg (fun w => { w with halted := true }) bench1, { bench1 with mem := [] }, _,
    takes_of (by decide +kernel) (by decide +kernel) (by decide +kernel), by decide +kernel, some_get _ (by decide +kernel), by decide +kernel,
    takes_of (by decide +kernel) (by decide +kernel) (by decide +kernel), by decide +kernel,
    takes_of (by decide +kernel) (by decide +kernel) (by decide +kernel), by decide +kernel, by decide +kernel⟩

theorem traps_of {s : State} (h : s.env?.isSome = true) (h' : muted (envOf s) = false) : Traps (envOf s) s :=
  ⟨env_of h, h'⟩

/-- Legal and illegal frames: a code with no form, a `vadd` with a source C, and one that names g0. -/
theorem witness_TrapCauses_fields : ∃ (s : State) (l : LFrame) (h0 h1 k0 k1 : PHalf) (f g : FFrame) (sp sp' : FSpec) (op op' : IntOp) (c : CFrame),
    Traps (envOf s) s ∧ l.hasForm = false ∧ (h0.hasForm && h1.hasForm) = false ∧
    (k0.hasForm && k1.hasForm) = true ∧ pairCause k0 k1 = some 0x02 ∧ scalarOp false (.sadd f) = some (f, sp, op) ∧ f.ok sp false = false ∧
    vectorOp (.vadd g) = some (g, sp', op') ∧ g.ok sp' false = false ∧ c.ok .none true = false :=
  ⟨bench1, ⟨0x3F, 0, 0, 0, 5⟩, ⟨63, 1, 0, 20, 5⟩, ⟨1, 2, 0, 21, 6⟩, ⟨0, 1, 2, 20, 5⟩, ⟨1, 2, 0, 21, 6⟩, mkF 0 4 0x84 0x85 0 0 0 0, mkF 0x21 4 5 6 7 0 0 0,
    _, _, _, _, mkC 0 0 5, traps_of (by decide +kernel) (by decide +kernel), by decide, by decide, by decide, by decide +kernel, rfl, by decide, rfl,
    by decide, by decide⟩

/-- A frame whose registers a group does not hold. -/
theorem witness_TrapCauses_named : ∃ (s : State) (f g : FFrame) (sp sp' : FSpec) (op op' : IntOp) (c c' : Cond), Traps (envOf s) s ∧
    scalarOp false (.sadd f) = some (f, sp, op) ∧ f.ok sp false = true ∧ lowest (namedConds (envOf s) (operandsOf sp f none)) = some c ∧
    vectorOp (.vadd g) = some (g, sp', op') ∧ g.ok sp' false = true ∧ lowest (namedConds (envOf s) (operandsOf sp' g none)) = some c' :=
  ⟨bench1, mkF 0 0x84 0xA9 0x85 0 0 0 0, mkF 0x21 4 5 0x7F 0 0 0 0, _, _, _, _, _, _, traps_of (by decide +kernel) (by decide +kernel), rfl, by decide,
    some_get _ (by decide +kernel), rfl, by decide, some_get _ (by decide +kernel)⟩

theorem witness_TrapCauses_modes : ∃ (s t : State) (a b c : CFrame) (f g : FFrame), Traps (envOf s) s ∧ (envOf s).sl.hmode = true ∧
    a.ok (.test .p) true = true ∧ b.ok .none true = true ∧ b.ok .none false = true ∧ c.ok .long true = true ∧ a.ok .indirect true = false ∧
    Traps (envOf t) t ∧ (envOf t).sl.hmode = false ∧ f.ok (specSwr f) false = true ∧ f.srcC.toNat ∈ sysHandler ∧ RC.of f.srcB = .s ∧
    g.ok (specTlbi g) false = true :=
  ⟨handler bench1, bench1, mkR 0 0 0xB1 0, mkC 0 0 0, mkC 0 0 2, mkF 0 0 0 0x84 (sysHandler.headD 0) 0 0 0, mkF 0 0 0 0x85 0 0 1 0,
    traps_of (by decide +kernel) (by decide +kernel), by decide +kernel, by decide, by decide, by decide, by decide, by decide,
    traps_of (by decide +kernel) (by decide +kernel), by decide +kernel, by decide, by decide, by decide, by decide⟩

theorem witness_TrapCauses_target : ∃ (s : State) (c : CFrame) (x : W64), CReady (envOf s) c .indirect true s ∧ RegReady (envOf s) c s ∧
    (envOf s).active c.guard ≠ 0 ∧ RC.of c.reg = .s ∧ (envOf s).sl.s (regNo c.reg) = x ∧ x.toNat % 8 ≠ 0 :=
  ⟨bench1, mkR 0 0 0x85 0, 2, cready (by decide +kernel), reg_ready (by decide +kernel), by decide +kernel, by decide, by decide +kernel, by decide⟩

/-- A queue with an entry. -/
def popB : State := onGroup (fun g => { g with queues := g.queues.setIfInBounds 1 { (g.queue 1) with entries := [QEntry.ofScalar 5] } }) bench1

theorem witness_OperandForms : ∃ (e : Env) (s : State) (g : Group) (x : QEntry) (sl : Slice), s.group? e.cur.grp = some g ∧
    (g.queue 1).entries = [x] ∧ x.fill = none ∧ x.token = none ∧ SyncIdle e s ∧ 1 < g.queues.size ∧ s.slice? e.cur.grp e.cur.a = some sl ∧
    63 < sl.vreg.length :=
  ⟨envOf popB, popB, _, QEntry.ofScalar 5, _, some_get _ (by decide +kernel), by decide +kernel, rfl, rfl,
    by simp [SyncIdle, show (popB.core (envOf popB).g.core).pend = [] from by decide +kernel], by decide +kernel,
    some_get _ (by decide +kernel), by decide +kernel⟩

/-- An outcome that is a next state. -/
def isNext (o : Host.Outcome State Fault Refusal) : Bool := match o with | .next _ => true | _ => false

theorem next_of {o : Host.Outcome State Fault Refusal} (h : isNext o = true) : ∃ t, o = .next t := by
  cases o with
  | next t => exact ⟨t, rfl⟩
  | fault f => cases h
  | refused r => cases h

theorem witness_RegisterFrame : ∃ (i : Instr) (f : FFrame) (wide : Bool) (s t : State) (e : Env), registerOp (asF i).1 = some (f, wide) ∧
    s.env? = some e ∧ exec i s = .next t ∧ e.sl.halt = .running ∧ e.sl.hmode = false ∧ e.w.phase = .running ∧ e.w.halted = false ∧
    e.sl.corr.getLsbD 31 = false ∧ e.sl.evctl.extractLsb' 6 6 = 0 := by
  obtain ⟨t, h⟩ := next_of (o := exec (.vadd (mkF 0x21 4 5 6 0 3 0 0)) bench1) (by decide +kernel)
  exact ⟨_, _, _, bench1, t, envOf bench1, rfl, env_of (by decide +kernel), h, by decide +kernel⟩

/-- A store of two lanes that meet, a scalar load and a load of two lanes. -/
theorem witness_AccessPerformed_store : ∃ (s : State) (p : Pending), Serves s p ∧ p.kind = .store ∧ s.mem.wf = true ∧
    ∀ x ∈ s.readyAt 0 p, (∃ pa, x.place = .mem pa) ∧ x.data.length = x.size := by
  refine ⟨_, oneAcc 8 .store (.mem 0x20000) true, serves_of (by decide +kernel) rfl rfl (by decide +kernel) (by decide +kernel), rfl,
    by decide +kernel, ?_⟩
  have h : (accB (oneAcc 8 .store (.mem 0x20000) true)).readyAt 0 (oneAcc 8 .store (.mem 0x20000) true) =
      (oneAcc 8 .store (.mem 0x20000) true).accs := by decide +kernel
  intro x hx
  rw [h] at hx
  have := List.mem_singleton.1 hx
  subst this
  exact ⟨⟨_, rfl⟩, rfl⟩

/-- A load of lanes 3 and 5 at two words. -/
def loadB (dst : PendDst) (accs : List LaneAcc) : Pending := { oneAcc 8 .load (.mem 0x20000) true with dst := dst, accs := accs }

theorem witness_AccessPerformed_scalar : ∃ (s : State) (p : Pending) (x : LaneAcc) (sl : Slice), Serves s p ∧ p.kind = .load ∧ p.accs = [x] ∧
    x.done = false ∧ x.place = .mem 0x20000 ∧ p.scope.inL1 = false ∧ (s.core 0).mayPerform p x = true ∧ p.dst = .scalar 31 ∧
    s.slice? p.grp p.a = some sl :=
  ⟨_, loadB (.scalar 31) [⟨0, 0x10000, .mem 0x20000, 4, [], [0, 0, 0, 0], 0, true, false⟩], _, _,
    serves_of (by decide +kernel) rfl rfl (by decide +kernel) (by decide +kernel), rfl, rfl, rfl, rfl, rfl, by decide +kernel, rfl,
    some_get _ (by decide +kernel)⟩

theorem witness_AccessPerformed_vector : ∃ (s : State) (p : Pending) (sl : Slice), Serves s p ∧ p.kind = .load ∧ p.scope.inL1 = false ∧
    p.dst = .vec 63 1 ∧ 63 < sl.vreg.length ∧ s.slice? p.grp p.a = some sl ∧ (p.accs.map (fun x => x.lane)).Nodup ∧
    (∀ x ∈ p.accs, x.done = false ∧ (∃ pa, x.place = .mem pa) ∧ (s.core 0).mayPerform p x = true ∧ x.lane < 32) ∧ p.accs ≠ [] := by
  refine ⟨accB (loadB (.vec 63 1) [⟨0, 0x10000, .mem 0x20000, 4, [], [0, 0, 0, 0], 0, true, false⟩,
      ⟨31, 0x10004, .mem 0x20004, 4, [], [0, 0, 0, 0], 0, true, false⟩]), _, _,
    serves_of (by decide +kernel) rfl rfl (by decide +kernel) (by decide +kernel), rfl, rfl, rfl, ?_, some_get _ (by decide +kernel), by decide, ?_,
    List.cons_ne_nil _ _⟩
  · decide +kernel
  · intro x hx
    rcases List.mem_cons.1 hx with rfl | hx
    · exact ⟨rfl, ⟨_, rfl⟩, by decide +kernel, by decide⟩
    · rcases List.mem_singleton.1 hx with rfl
      exact ⟨rfl, ⟨_, rfl⟩, by decide +kernel, by decide⟩

theorem witness_PathLanesKept : ∃ ps : Paths, Apart ps ∧ ps.settled ≠ ps :=
  ⟨⟨some ⟨0x40, 0x0F, 0, 1, true⟩, some ⟨0x40, 0xF0, 1, 1, true⟩, []⟩, by unfold Apart; decide, by decide +kernel⟩

/-- The part right after `withFetchWord` of a `nop`. -/
def nopB : State := State.reset.withFetchWord 64 0x02

theorem witness_MemoryCanonical : ∃ s t : State, s.mem.wf = true ∧ step s = .next t := by
  obtain ⟨t, h⟩ := next_of (o := step { nopB with inputs := [.flitReplay 0] }) (by decide +kernel)
  exact ⟨_, t, by decide +kernel, h⟩

theorem witness_EncodingRoundTrip : ∃ (i : Instr) (bs : List Byte), ownWord i ∧ encodeBytes i = some bs ∧ decode bs = .ok (i, []) :=
  ⟨.vadd ⟨0x23, 0x04, 0x05, 0x06, 0x00, 3, 0, 0⟩, _, ⟨fun _ h => (by cases h), fun _ h => (by cases h), fun _ _ h => (by cases h)⟩, rfl, rfl⟩

theorem canFetch_of {e : Env} {s : State} {pc : Va} {a : Nat} {p : Place} (h : pc.getLsbD 55 = false)
    (h1 : e.xlate s (pc.setWidth 64) .load = .place p) (h2 : e.xlate s (pc.setWidth 64) .fetch = .place (.mem a))
    (h3 : s.poisoned a = false) : CanFetch e s pc a := ⟨h, ⟨p, h1⟩, h2, h3⟩

/-- The part right after `withFetchWord`, with slot 0 of the X-slice tried. -/
def tried (nbits w : Nat) : State := { State.reset.withFetchWord nbits w with cur := some { grp := 1, a := false, slot1 := false } }

theorem witness_StepRuns_word : ∃ (s : State) (e : Env) (a : Nat) (i : Instr), s.env? = some e ∧ e.path.pc.toNat % 8 = 0 ∧
    CanFetch e s e.path.pc a ∧ decode ((s.codeMem e).readBytes a 8) = .ok (i, []) :=
  ⟨tried 64 0, envOf (tried 64 0), 0x10000, .nop ⟨0, 0, 0⟩, env_of (by decide +kernel), by decide +kernel,
    canFetch_of (p := .mem 0x10000) (by decide +kernel) (by decide +kernel) (by decide +kernel) (by decide +kernel), rfl⟩

/-- An `mma`, of two words. -/
def mmaWord : Nat := 0xE8003882027E2C00 + 0xC4C5860000000000 * 2 ^ 64

theorem witness_StepRuns_words : ∃ (s : State) (e : Env) (a b : Nat) (i : Instr), s.env? = some e ∧ e.path.pc.toNat % 8 = 0 ∧
    CanFetch e s e.path.pc a ∧ (decode ((s.codeMem e).readBytes a 8)).toOption = none ∧ CanFetch e s (e.path.pc + 8) b ∧
    decode ((s.codeMem e).readBytes a 8 ++ (s.codeMem e).readBytes b 8) = .ok (i, []) :=
  ⟨tried 128 mmaWord, envOf (tried 128 mmaWord), 0x10000, 0x10008, .mma ⟨⟨0, 0xE2, 0x08, 0x09, 0xF8, 11, 0, 0⟩, 0xC4, 0xC5, 0x86, 0, 0⟩,
    env_of (by decide +kernel), by decide +kernel,
    canFetch_of (p := .mem 0x10000) (by decide +kernel) (by decide +kernel) (by decide +kernel) (by decide +kernel), by decide +kernel,
    canFetch_of (p := .mem 0x10008) (by decide +kernel) (by decide +kernel) (by decide +kernel) (by decide +kernel), rfl⟩

theorem next_after {s : State} {i : Instr} (h : isNext (exec i s) = true) : exec i s = .next (after s i) := by
  obtain ⟨t, ht⟩ := next_of h
  simp [after, ht]

theorem one_of {α : Type} {l : List α} (h : l.length = 1) : ∃ x, l = [x] := List.length_eq_one_iff.1 h

theorem ok_of {ε α : Type} {x : Except ε α} {a : α} (h : x.toOption = some a) : x = .ok a := by
  cases x with
  | ok b => simpa [Except.toOption] using h
  | error e => cases h

theorem witness_StepRuns_step : ∃ (s t : State) (e : Env) (i : Instr) (x : Group × Bool × Slice) (c : Cursor), s.inputs = [] ∧ s.earlyDue = none ∧
    s.openSubs = [0] ∧ s.order (0 / 4) (0 % 4) = [x] ∧ s.cursorsOf x = [c] ∧
    let s1 : State := { s with cur := some c }
    s1.env? = some e ∧ s1.earlyTrap e = none ∧ fetch s1 e = .ok i ∧ exec i s1 = .next t ∧ t.heldAt c = false ∧
    s.trapRank c { t with cur := none } = none := by
  obtain ⟨x, hx⟩ := one_of (l := (State.reset.withFetchWord 64 0).order 0 0) (by decide +kernel)
  have hc : ((State.reset.withFetchWord 64 0).order 0 0).map (State.reset.withFetchWord 64 0).cursorsOf = [[⟨1, false, false⟩]] := by decide +kernel
  rw [hx] at hc
  exact ⟨State.reset.withFetchWord 64 0, after (tried 64 0) (.nop ⟨0, 0, 0⟩), envOf (tried 64 0), .nop ⟨0, 0, 0⟩, x, ⟨1, false, false⟩, rfl,
    by decide +kernel, by decide +kernel, hx, List.head_eq_of_cons_eq hc, env_of (s := tried 64 0) (by decide +kernel),
    Option.isNone_iff_eq_none.1 (by decide +kernel), ok_of (by decide +kernel), next_after (s := tried 64 0) (by decide +kernel), by decide +kernel,
    by decide +kernel⟩

/-! ### Results, from the spec's tables and examples -/

/-- The bench with some scalar and vector registers, run through one instruction: the issuing slice. -/
def ran (rs : List (Nat × Nat)) (vs : List (Nat × List Nat)) (i : Instr) : Slice :=
  sliceOf (after (vecs (vs.map (fun p => (p.1, fun l => p.2.getD l 0))) (regs rs bench)) i)

/-- Lanes of a vector register. -/
def lanesOf (sl : Slice) (n : Nat) (ls : List Nat) : List Nat := ls.map (fun l => (((sl.v n)[l]?).getD 0).toNat)

/-- R92, R71: `.sat` clamps and records saturation; without it the sum wraps and is extended. -/
theorem test_sadd : (let x := ran [(4, 0x7FFFFFFF), (5, 1)] [] (.sadd (mkF 0 0x86 0x84 0x85 0 3 0 1)); (x.s 6, x.estat)) = (0x7FFFFFFF, 0x10) ∧
    (ran [(4, 0x7FFFFFFF), (5, 1)] [] (.sadd (mkF 0 0x86 0x84 0x85 0 3 0 0))).s 6 = 0xFFFFFFFF80000000 := by decide +kernel

/-- Table 4.4: floor, and counts of w or more. -/
theorem test_smulh : (ran [(4, 2)] [] (.smulh (mkF 0 0x86 0xFB 0x84 0 5 0 0))).s 6 = 0xFFFFFFFFFFFFFFFF := by decide +kernel
theorem test_shift_width : (ran [(4, 64)] [] (.sshl (mkF 0 0x86 0xF9 0x84 0 6 0 0))).s 6 = 0 ∧
    (ran [(4, 64)] [] (.ssra (mkF 0 0x86 0xFB 0x84 0 5 0 0))).s 6 = 0xFFFFFFFFFFFFFFFF := by decide +kernel

/-- R109's example. -/
theorem test_scmp : (ran [(4, 2 ^ 64 - 1), (5, 1)] [] (.scmp (mkF 0 0x83 0x84 0x85 0 6 2 0))).s 3 = 0 ∧
    (ran [(4, 2 ^ 64 - 1), (5, 1)] [] (.scmp (mkF 0 0x83 0x84 0x85 0 5 2 0))).s 3 = 1 := by decide +kernel

/-- B1 of a signed field; B2 of length 0 keeps c; leading zeros of 0; the two halves of `SLI`. -/
theorem test_fields : (ran [(4, 0xF0), (5, 0x0404)] [] (.sbfx (mkF 0 0x86 0x84 0x85 0 5 0 0))).s 6 = 0xFFFFFFFFFFFFFFFF ∧
    (ran [(4, 0xF0), (5, 4), (7, 9)] [] (.sbfi (mkF 0 0x86 0x84 0x85 0x87 5 0 0))).s 6 = 9 ∧
    (ran [] [] (.sclz (mkF 0 0x86 0 0xF8 0 0 0 0))).s 6 = 64 ∧
    (ran [(4, 5), (5, 6)] [] (.sli (mkF 0 0x86 0x84 0x85 0 0 0 0))).s 6 = 0x600000005 := by decide +kernel

/-- R114's example: lane 3 carries in and out. -/
theorem test_vaddc :
    let t := after (preds [(2, 8)] (vecs [(5, fun _ => 0xFFFFFFFF), (6, fun _ => 1)] bench)) (.vaddc (mkF 0 4 5 6 0 4 2 0))
    lanesOf (sliceOf t) 4 [2, 3] = [0, 1] ∧ (sliceOf t).p 2 = 0xFFFFFFFF := by decide +kernel

/-- R115's example. -/
theorem test_vidot4 : (let x := ran [] [(5, [0x80808080]), (6, [0x80808080]), (7, [0x7FFF0000])] (.vidot4 (mkF 0 4 5 6 7 1 0 1));
    (lanesOf x 4 [0, 1], x.estat)) = ([0x7FFFFFFF, 0], 0x10) := by decide +kernel

/-- R111: the most negative value, and `VNEG.sat` of an unsigned one. -/
theorem test_vabs : lanesOf (ran [] [(5, [0x80000000])] (.vabs (mkF 0 4 0 5 0 3 0 0))) 4 [0] = [0x80000000] ∧
    lanesOf (ran [] [(5, [0x80000000])] (.vabs (mkF 0 4 0 5 0 3 0 1))) 4 [0] = [0x7FFFFFFF] ∧
    lanesOf (ran [] [(5, [5])] (.vneg (mkF 0 4 0 5 0 4 0 1))) 4 [0] = [0] := by decide +kernel

theorem test_vbrev : lanesOf (ran [] [(5, [1, 0x12345678])] (.vbrev (mkF 0 4 0 5 0 4 0 0))) 4 [0, 1] = [0x80000000, 0x1E6A2C48] := by decide +kernel

/-- R54: a 64-bit type works on a pair, low half in the even register. -/
theorem test_vadd_pair : (let x := ran [] [(6, [0xFFFFFFFF]), (7, [1]), (8, [1]), (9, [2])] (.vadd (mkF 0 4 6 8 0 6 0 0));
    (lanesOf x 4 [0], lanesOf x 5 [0])) = ([0], [4]) := by decide +kernel

/-- R117's example: p2 = 0x0F0F under p5 = 0x00FF. -/
def pEx : State := preds [(2, 0x0F0F), (5, 0xFF)] bench

theorem test_predicates : (sliceOf (after pEx (.pany (mkF 0x25 0x81 0 0xB2 0 0 0 0)))).s 1 = 1 ∧
    (sliceOf (after pEx (.pall (mkF 0x25 0x81 0 0xB2 0 0 0 0)))).s 1 = 0 ∧
    (sliceOf (after pEx (.pto (mkF 0x25 0x81 0 0xB2 0 0 0 0)))).s 1 = 0x0F0F ∧
    (sliceOf (after (preds [(3, 0xABCDEF55)] pEx) (.pnot (mkF 0x25 0xB3 0 0xB2 0 0 0 0)))).p 3 = 0xABCDEFF0 := by decide +kernel

/-- R125's example, R77: 16,777,217.5 under `.rtz`, with inexact. -/
theorem test_vfma : (let x := ran [] [(5, [0x4B800001]), (6, [0x3F800000]), (7, [0xBF000000])] (.vfma (mkF 0x21 4 5 6 7 8 1 0)); lanesOf x 4 [0]) = [0] ∧
    (let x := ran [] [(5, [0x4B800001]), (6, [0x3F800000]), (7, [0xBF000000])] (.vfma (mkF 0 4 5 6 7 8 1 0)); (lanesOf x 4 [0], x.estat)) =
      ([0x4B800000], 8) := by decide +kernel

/-- R78, R121: an infinite result under `.sat`; R122: a NaN and a number, −0 below +0. -/
theorem test_float : (let x := ran [] [(5, [0x7F800000])] (.vfadd (mkF 0 4 5 0xF9 0 8 0 1)); (lanesOf x 4 [0], x.estat)) = ([0x7F7FFFFF], 0x1A) ∧
    lanesOf (ran [] [(5, [0x7FC00000, 0x80000000]), (6, [0x40000000, 0])] (.vfmin (mkF 0 4 5 6 0 8 0 0))) 4 [0, 1] = [0x40000000, 0x80000000] ∧
    lanesOf (ran [] [(5, [0xC0200000])] (.vfround (mkF 0 4 0 5 0 8 3 0))) 4 [0] = [0xC0400000] ∧
    lanesOf (ran [] [(5, [0x3FC00000]), (6, [0xFFFFFFFF])] (.vfscale (mkF 0 4 5 6 0 8 0 0))) 4 [0] = [0x3F400000] := by decide +kernel

/-- R123, R124. -/
theorem test_vfcmp : (ran [] [(5, [0x7FC00000, 0x80000000, 0x3F800000]), (6, [0, 0, 0])] (.vfcmp (mkF 0 0xB1 5 6 0 8 0x18 0))).p 1 = 1 ∧
    (ran [] [(5, [0x7FC00000, 0x80000000, 0x3F800000]), (6, [0, 0, 0])] (.vfcmp (mkF 0 0xB1 5 6 0 8 0 0))).p 1 = 0xFFFFFFFA ∧
    (ran [(4, 0x208)] [(5, [0x80000000, 0x7F800001, 0])] (.vfclass (mkF 0 0xB1 5 0x84 0 8 0 0))).p 1 = 3 := by decide +kernel

/-- R126: 1/3 and √2 are correctly rounded; Table 5.2. -/
theorem test_special : lanesOf (ran [] [(5, [0x40400000, 0x80000000])] (.vrcp (mkF 0 4 0 5 0 8 0 0))) 4 [0, 1] = [0x3EAAAAAB, 0xFF800000] ∧
    lanesOf (ran [] [(5, [0x40000000, 0xBF800000])] (.vsqrt (mkF 0 4 0 5 0 8 0 0))) 4 [0, 1] = [0x3FB504F3, 0x7FC00000] ∧
    lanesOf (ran [] [(5, [0x40400000, 0xFF800000])] (.vexp2 (mkF 0 4 0 5 0 8 0 0))) 4 [0, 1] = [0x41000000, 0] := by decide +kernel

/-- R128's table. -/
theorem test_vcvt : (let x := ran [] [(11, [0x43960000, 0x43980000, 0x43FA0000, 0x7FC00000])] (.vcvt (mkF 0 10 0 11 0 11 0x20 0));
    (lanesOf x 10 [0, 1, 2, 3], x.estat)) = ([0x79, 0x7A, 0x7E, 0x7E], 0x1B) := by decide +kernel

/-- R79's table. -/
theorem test_tapered : lanesOf (ran [] [(11, [0x40400000, 0x41880000, 0x41900000, 0xC47A0000])] (.vcvt (mkF 0 10 0 11 0 14 0x20 0))) 10 [0, 1, 2, 3] =
      [0x4C, 0x60, 0x60, 0xF4] ∧
    lanesOf (ran [] [(11, [0x43960000, 0x3A83126F, 0xBB449BA6])] (.vcvt (mkF 0 10 0 11 0 15 0x20 0))) 10 [0, 1, 2] = [0x1F, 0, 0x21] := by decide +kernel

/-- R81's blocks A and B. -/
theorem test_vcvtb : lanesOf (ran [] [(11, [0x40E00000, 0xC0E00000, 0x40200000, 0x40A00000, 0x3E800000, 0x3F400000, 0x3DCCCCCD])]
      (.vcvtb (mkF 0 10 0 11 0 13 0x20 0))) 10 [0, 1, 2, 3, 4, 5, 6] = [0x7F07, 0x7F0F, 0x7F04, 0x7F06, 0x7F00, 0x7F02, 0x7F00] ∧
    lanesOf (ran [] [(11, [0x42200000, 0x41A00000, 0xC1400000])] (.vcvtb (mkF 0 10 0 11 0 13 0x20 0))) 10 [0, 1, 2] = [0x8206, 0x8204, 0x820B] := by
  decide +kernel

/-- R130: raw tf6 codes, six bits each. -/
theorem test_vpack : lanesOf (ran [] [(11, List.range 32)] (.vpack (mkF 0 10 0 11 0 15 0 0))) 10 [0, 6] = [0x440C2040, 0] ∧
    lanesOf (ran [] [(11, [0x440C2040])] (.vunpack (mkF 0 10 0 11 0 15 0 0))) 10 [0, 1, 2, 3, 4] = [0, 1, 2, 3, 4] := by decide +kernel

/-- R132, R133. -/
theorem test_shfl : lanesOf (ran [(4, 1)] [(11, List.range 32)] (.shfl (mkF 0 10 11 0x84 0 0 5 0))) 10 [0, 1, 2, 3] = [0, 0, 2, 2] ∧
    lanesOf (ran [(4, 5)] [(11, List.range 32)] (.shfl (mkF 0 10 11 0x84 0 0 3 0))) 10 [0, 1, 31] = [5, 4, 26] ∧
    lanesOf (after (preds [(1, 0xF0)] (vecs [(11, fun l => l)] bench)) (.vcomp (mkF 0x21 10 0 11 0 0 0 0)) |> sliceOf) 10 [0, 3, 4] = [4, 7, 0] := by
  decide +kernel

/-- R135's table. -/
def matchB : State := preds [(1, 0x1F)] (vecs [(11, fun l => [0, 0x80000000, 0x7FC00000, 0x7FC00000, 0x7FC00001, 0].getD l 0), (10, fun _ => 7)] bench)

theorem test_match : lanesOf (sliceOf (after matchB (.matchLanes (mkF 0x21 10 0 11 0 8 0 0)))) 10 [0, 1, 2, 3, 4, 5] = [1, 2, 0xC, 0xC, 0x10, 7] ∧
    lanesOf (sliceOf (after matchB (.matchLanes (mkF 0x21 10 0 11 0 8 1 0)))) 10 [0, 1, 2, 3, 4, 5] = [3, 3, 4, 8, 0x10, 7] := by decide +kernel

/-- R85: the tree clamps pairs first; R136: the float identity is −0. -/
theorem test_vred : (ran [] [(11, [0x7FFFFFFF, 1, 0x80000000, 0xFFFFFFFF])] (.vred (mkF 0 0x86 0 11 0 3 0 1))).s 6 = 0xFFFFFFFFFFFFFFFF ∧
    lanesOf (ran [] [(11, [0x3F800000])] (.vscan (mkF 0 10 0 11 0 8 0x20 0))) 10 [0, 1] = [0x80000000, 0x3F800000] := by decide +kernel

/-- R134. -/
theorem test_vote : (ran [] [(11, [0, 1, 0, 2])] (.vote (mkF 0 0x86 0 11 0 0 0 0))).s 6 = 10 ∧
    (ran [] [(11, [0, 1, 0, 2])] (.vote (mkF 0 0x86 0 11 0 0 3 0))).s 6 = 0 := by decide +kernel

/-- R96's first issue of the example: the lanes of p1 take the other slot. -/
theorem test_brd : (let x := sliceOf (after (preds [(1, 0xFFFF)] bench) (.brd (mkR 0 0 0xB1 3))); (x.slot0, x.slot1)) =
    (some ⟨8, 0xFFFF0000, 0, 1, false⟩, some ⟨0x18, 0xFFFF, 1, 1, false⟩) := by decide +kernel

/-- Issues 5, 8 and 11 of the example of R98. -/
theorem test_join_exchange : Paths.settled ⟨some ⟨0x138, 0xFF, 2, 2, true⟩, some ⟨0x128, 0xFF00, 1, 2, false⟩, [⟨0x108, 0xFFFF0000, 0, 1, false⟩]⟩ =
    ⟨some ⟨0x108, 0xFFFF0000, 0, 1, false⟩, some ⟨0x128, 0xFF00, 1, 2, false⟩, [⟨0x138, 0xFF, 2, 2, true⟩]⟩ := by decide +kernel

theorem test_join_merge : Paths.settled ⟨some ⟨0x110, 0xFFFF0000, 0, 1, false⟩, some ⟨0x138, 0xFF00, 1, 2, true⟩, [⟨0x138, 0xFF, 2, 2, true⟩]⟩ =
      ⟨some ⟨0x110, 0xFFFF0000, 0, 1, false⟩, some ⟨0x140, 0xFFFF, 1, 1, false⟩, []⟩ ∧
    Paths.settled ⟨some ⟨0x140, 0xFFFF0000, 0, 1, true⟩, some ⟨0x140, 0xFFFF, 1, 1, true⟩, []⟩ =
      ⟨some ⟨0x148, 0xFFFFFFFF, 0, 0, false⟩, none, []⟩ := by decide +kernel

/-- R105, R140, R141: `trap 7` enters the handler at 0x100 with the next PC saved. -/
theorem test_trap : (let x := sliceOf (after bench (.trap ⟨0, 0, 7⟩)); (x.cause, x.aux0, x.epc, x.hmode, x.emask, x.slot0.map (fun p => p.pc))) =
    (0x50, 7, 8, true, 0xFFFFFFFF, some 0x100) := by decide +kernel

/-- R25, R13: a push to a queue of the other direction. -/
theorem test_queue_direction : (sliceOf (after bench (.smov (mkF 0 0xA3 0 0x84 0 0 0 0)))).cause = 0x19 := by decide +kernel

/-- R90's example: the third overflow in one window. -/
theorem test_numeric_event :
    let s := vecs [(5, fun _ => 0x7F7FFFFF)] (both (fun sl => { sl with evctl := 2, evc := sl.evc.setIfInBounds 1 ⟨2, 2, 0, 0⟩ }) bench)
    (let x := sliceOf (after s (.vfadd (mkF 0 4 5 5 0 8 0 0))); (lanesOf x 4 [0], x.cause, x.aux0, x.aux1, x.epc)) =
      ([0x7F800000], 0x48, 0x00030001, 0, 8) := by decide +kernel

/-- R209's table, in BF16. -/
def partG : Geom := { tileGeom 1 1 9 0 with leaves := [⟨4, 1⟩, ⟨4, 16⟩], mmask := 1 }

/-- The leaves and the change of the handle. -/
def leavesOf (r : Except GErr (Geom × Int)) : Option (List Leaf × Int) := r.toOption.map (fun x => (x.1.leaves, x.2))

/-- The cause and the reason of a refusal. -/
def whyOf {α : Type} : Except GErr α → Option (BitVec 8 × Nat)
  | .error x => some (x.cause, x.reason)
  | .ok _ => none

theorem test_gpart : leavesOf (partG.part 1 2 0) = some ([⟨4, 1⟩, ⟨2, 16⟩], 64) ∧ leavesOf (partG.part 3 8 0) = some ([⟨2, 1⟩], 36) ∧
    whyOf (partG.part 0 3 0) = some (0x2B, 1) ∧ whyOf (partG.slice 2 3 0) = some (0x2B, 2) := by decide +kernel

/-- R207's table. -/
def chainA : Geom := { tileGeom 1 1 9 0 with leaves := [⟨8, 1⟩, ⟨16, 8⟩], mmask := 3 }

/-- One leaf. -/
def chainB (e : Nat) (s : Int) : Geom := { tileGeom 1 1 9 0 with leaves := [⟨e, s⟩], mmask := 1 }

theorem test_gchain : ((chainA.chain (chainB 32 1)).toOption.map (fun g => g.leaves)) = some [⟨8, 1⟩, ⟨4, 8⟩] ∧
    ((chainA.chain (chainB 4 32)).toOption.map (fun g => g.leaves)) = some [⟨4, 32⟩] ∧
    whyOf (chainA.chain (chainB 5 3)) = some (0x2B, 3) := by decide +kernel

/-- R202, R203: the bank of an offset, plain and under the preset of R220's example, where l = 3 and c = 8. -/
theorem test_bank : (tileGeom 1 1 9 1).bank 0x8310 = 0x31 ∧
    (Geom.ofReg (swzPreset { tileGeom 1 1 9 1 with leaves := [⟨32, 128⟩, ⟨128, 1⟩] }.toReg 0x2C)).bank 0x8310 = 0x30 := by decide +kernel

/-- The examples of R182, R86 and R161. -/
theorem test_atomics : applyLanes .u32 0 false 10 [(0, 3), (0, 5), (0, 7)] = ([10, 13, 18], 25, 0) ∧
    applyLanes .u32 0 true 5 [(5, 9), (5, 7)] = ([5, 9], 9, 0) := by decide +kernel
theorem test_atomic_float : (let r := applyLanes (.fl .bf16) 0 false 0x4380 [(0, 0x3F80), (0, 0x3F80), (0, 0x3F80)]; (r.1, r.2.1)) =
    ([0x4380, 0x4380, 0x4381], 0x4382) := by decide +kernel
theorem test_tagHash : tagHash 0x123456789ABC 16 = 14 := by decide

/-- R259's example: 200 BF16 elements, three of them nonzero. -/
theorem test_hbm : (let bs := hbmForm 2 9 ((List.range 200).map (fun i => if i = 3 ∨ i = 70 ∨ i = 199 then 0x3F80 else 0));
    (bs.length, ofBytes (bs.take 8), ofBytes ((bs.drop 8).take 8), ofBytes ((bs.drop 16).take 8), ofBytes ((bs.drop 40).take 8))) =
      (56, 0x00000292000000C8, 0x0000000300000004, 0xB, 0x80) := by decide +kernel

/-- R324's scores and output for k = 2. -/
theorem test_psel : (pselScore [0x3F80, 0xC000, 0] [0, 0x3F00, 0] [0x4040, 0x3F00, 0]).1 = 0x40000000 ∧
    pselOutput 2 [0x40000000, 0x40400000, 0x40400000, 0xBFC00000, 0x40400000] =
      toBytes 4 1 ++ toBytes 4 0x40400000 ++ toBytes 4 2 ++ toBytes 4 0x40400000 := by decide +kernel

/-- R452's example, by leaf in the spine's order. -/
theorem test_fcoll : (collLine 0 8 4 [[toBytes 4 0x4B800000], [toBytes 4 0x3F800000, toBytes 4 0x3F800000]]).1 = toBytes 4 0x4B800001 ∧
    (collLine 0 9 2 [[toBytes 2 0x4B80], [toBytes 2 0x3F80, toBytes 2 0x3F80]]).1 = toBytes 2 0x4B80 := by decide +kernel

/-- R442's example. -/
theorem test_census :
    let s := { bench with fabric := { bench.fabric with ports := bench.fabric.ports.setIfInBounds 0 { FabPort.reset with returns := #v[0xFFFE, 0, 0, 0] } } }
    ((after s (.censusFlit 0 0 0x12)).fabric.ports[0]?).map (fun p => (p.credits[0], p.returns[0])) =
      some (FabPort.reset.credits[0] + 20, 0x12) := by decide +kernel

/-- R355's example, and R419's of a dark die. -/
theorem test_memory_map : ({ bench with pkg := { bench.pkg with dies := 0xFF, gres := 16 } }.canonPa (0x10000000000 + 7 * 2 ^ 21)) =
      some (2 ^ 36 + 32 * 2 ^ 30 + 2 * 2 ^ 21) ∧
    ({ bench with pkg := { bench.pkg with dies := 0xF7 } }.canonPa (0x8000000000 + 10 * 2 ^ 21)) = some (4 * 2 ^ 36 + 2 ^ 21) := by decide +kernel

end Sys2Proof.Tests
end

section
/-!
PROOFS. The statements of the family of integer and control instructions: `VADDC`, `VSUBB`, `VSEL` (R112, R114) and `TRAP`, `BKPT`,
`ERET` (R105, R106, R142).
-/
namespace Sys2Proof.Proofs
open Sys2Proof.Machine Sys2Proof.Claims Sys2Proof.Laws

/-! ### Reading sources -/

theorem orLower_ok {α : Type} {a : Exec α} {b : Exec Unit} {s : State} {r : α × State} (h : a s = .ok r) :
    orLower a b s = .ok r := by
  unfold orLower
  rw [h]

/-- Three sources that read without a stop are read one after the other (R24). -/
theorem sources_ok {α β γ : Type} {a : Exec α} {b : Exec β} {c : Exec γ} {s s1 s2 t : State} {x : α} {y : β} {z : γ}
    (ha : a s = .ok (x, s1)) (hb : b s1 = .ok (y, s2)) (hc : c s2 = .ok (z, t)) :
    sources a b c s = .ok ((x, y, z), t) := by
  unfold sources
  rw [exec_bind_ok (orLower_ok ha), exec_bind_ok (orLower_ok hb), exec_bind_ok hc]
  rfl

/-! ### An instruction in its F form or its L form (R45) -/

theorem mem_of_lookupCode {α : Type} {c : Nat} {l : List (Nat × α)} {x : α} (h : lookupCode c l = some x) : (c, x) ∈ l := by
  induction l with
  | nil => exact absurd h (by simp [lookupCode])
  | cons p l ih =>
    obtain ⟨k, y⟩ := p
    unfold lookupCode at h
    split at h
    · next hk => cases h; simp [hk]
    · exact List.mem_cons_of_mem _ (ih h)

/-- An instruction read as an F form is itself, or a literal frame with an entry of Table 2.9, or one without. -/
theorem asF_cases (i : Instr) :
    asF i = (i, none) ∨
      ∃ l, i = .literalFrame l ∧
        ((∃ k, (l.op.toNat + 0x40, k) ∈ mapF ∧ asF i = (k l.toF, some l.lit)) ∨ asF i = (.literalFrame l, some l.lit)) := by
  unfold asF
  split
  · next l =>
    refine .inr ⟨l, rfl, ?_⟩
    cases hk : lookupCode (l.op.toNat + 0x40) mapF with
    | none => exact .inr rfl
    | some k => exact .inl ⟨k, mem_of_lookupCode hk, rfl⟩
  · exact .inl rfl

/-- The codes of Table 2.9 at which `VADDC`, `VSUBB` and `VSEL` stand. -/
theorem code_of_mem_mapF {c : Nat} {k : FFrame → Instr} (h : (c, k) ∈ mapF) (g f : FFrame) :
    (k g = .vaddc f → c = 0x98 ∧ g = f) ∧ (k g = .vsubb f → c = 0x99 ∧ g = f) ∧ (k g = .vsel f → c = 0x95 ∧ g = f) := by
  have all : ∀ p ∈ mapF, (p.2 g = .vaddc f → p.1 = 0x98 ∧ g = f) ∧ (p.2 g = .vsubb f → p.1 = 0x99 ∧ g = f) ∧
      (p.2 g = .vsel f → p.1 = 0x95 ∧ g = f) := by
    simp [mapF, mapF0, mapF1, mapF2, mapF3, mapF4]
  exact all _ h

/-- A literal frame with a form whose body completes. -/
theorem exec_literalFrame_ok {l : LFrame} {s s1 : State} {e : Env} {ev : Events} (he : s.env? = some e) (hl : l.hasForm = true)
    (hb : literalBody l e s = .ok (ev, s1)) : exec (.literalFrame l) s = .next (done e (e.active l.guard) 8 ev s1) := by
  show issueF l.guard (fun e => do trapIf e (!l.hasForm) 0x01; literalBody l e) s = _
  refine issueF_ok he ?_
  rw [hl]
  exact (exec_bind_ok (trapIf_false e _ _ _ s)).trans hb

/-- An instruction that completes in its F form and in its L form: what its body leaves is recorded and moved past (R38, R45). `j` is
its F form, at the code c of Table 2.9. -/
theorem exec_asF_ok {j : FFrame → Instr} {c : Nat} {body : Option W32 → FFrame → Body} {i : Instr} {f : FFrame} {s s1 : State}
    {e : Env} {ev : Events} (hi : (asF i).1 = j f)
    (hF : exec (j f) s = issueF f.guard (body none f) s)
    (hcode : ∀ {c' k g}, (c', k) ∈ mapF → k g = j f → c' = c ∧ g = f)
    (hL : ∀ l : LFrame, l.op.toNat + 0x40 = c → l.hasForm = true ∧ literalBody l = body (some l.lit) l.toF)
    (hne : ∀ l, Instr.literalFrame l ≠ j f) (he : s.env? = some e) (hb : body (asF i).2 f e s = .ok (ev, s1)) :
    exec i s = .next (done e (e.active f.guard) 8 ev s1) := by
  obtain h | ⟨l, rfl, ⟨k, hk, h⟩ | h⟩ := asF_cases i
  · rw [h] at hi hb
    have hi : i = j f := hi
    rw [hi, hF]
    exact issueF_ok he hb
  · rw [h] at hi hb
    obtain ⟨hc, rfl⟩ := hcode hk hi
    obtain ⟨hform, hbody⟩ := hL l hc
    exact exec_literalFrame_ok he hform (by rw [hbody]; exact hb)
  · rw [h] at hi
    exact absurd hi (hne l)

/-- `VSEL` completes, in its F form and its L form, when its body does. -/
theorem exec_vsel_ok {i : Instr} {f : FFrame} {s s1 : State} {e : Env} {ev : Events} (hi : (asF i).1 = .vsel f)
    (he : s.env? = some e) (hb : bodyVsel (asF i).2 f e s = .ok (ev, s1)) :
    exec i s = .next (done e (e.active f.guard) 8 ev s1) := by
  refine exec_asF_ok hi rfl (fun hk => (code_of_mem_mapF hk _ f).2.2) (fun l hl => ?_) (fun l => by simp) he hb
  have hop : l.op.toNat = 0x55 := by omega
  simp [LFrame.hasForm, literalBody, hop]

/-- `VADDC` or `VSUBB` completes, in its F form and its L form, when its body does. -/
theorem exec_carry_ok {i : Instr} {sub : Bool} {f : FFrame} {s s1 : State} {e : Env} {ev : Events}
    (hi : carryOp (asF i).1 = some (sub, f)) (he : s.env? = some e) (hb : vcarry sub (asF i).2 f e s = .ok (ev, s1)) :
    exec i s = .next (done e (e.active f.guard) 8 ev s1) := by
  unfold carryOp at hi
  split at hi
  · next g hg =>
    cases hi
    refine exec_asF_ok (body := bodyVaddc) hg rfl (fun hk => (code_of_mem_mapF hk _ f).1) (fun l hl => ?_) (fun l => by simp) he hb
    have hop : l.op.toNat = 0x58 := by omega
    simp [LFrame.hasForm, literalBody, hop]
  · next g hg =>
    cases hi
    refine exec_asF_ok (body := bodyVsubb) hg rfl (fun hk => (code_of_mem_mapF hk _ f).2.1) (fun l hl => ?_) (fun l => by simp) he hb
    have hop : l.op.toNat = 0x59 := by omega
    simp [LFrame.hasForm, literalBody, hop]
  · cases hi

/-! ### `VADDC` and `VSUBB` (R114) -/

/-- The bits of a mask that is read from a vector of 32 lanes. -/
theorem bitsOf_tabulate {α : Type} (r : Nat → α × Bool) (d : α) :
    bitsOf (fun l => (((tabulate 32 (fun i => r i))[l]?).getD (d, false)).2) = bitsOf (fun l => (r l).2) := by
  unfold bitsOf maskOf
  refine List.foldl_rel rfl fun l hl m m' hm => ?_
  have hl : l < 32 := List.mem_range.mp hl
  simp only [hm, tabulate_getElem?, dif_pos hl, Option.getD_some]

/-- The model's lane of `VADDC` or `VSUBB` is the sum with carry or the difference with borrow of the lanes' low w bits. -/
theorem carryLane_eq_carried (sub : Bool) (w : Nat) (a b : W64) (ci : Bool) :
    carryLane sub w a.toNat b.toNat (if ci then 1 else 0) =
      ((carried sub (a.setWidth w) (b.setWidth w) ci).1.toNat, (carried sub (a.setWidth w) (b.setWidth w) ci).2) := by
  have hci : (if ci then 1 else 0) = ci.toNat := by cases ci <;> rfl
  rw [hci]
  cases sub with
  | true => simp [carryLane, carried, wrapInt, BitVec.toNat_ofInt]
  | false =>
    have hsum : ((a.toNat % 2 ^ w : Nat) + (b.toNat % 2 ^ w : Nat) + (ci.toNat : Int)) =
        ((a.toNat % 2 ^ w + b.toNat % 2 ^ w + ci.toNat : Nat) : Int) := by push_cast; rfl
    simp only [carryLane, carried, BitVec.toNat_setWidth, Bool.false_eq_true, if_false, hsum, BitVec.ofInt_natCast, BitVec.toNat_ofNat]
    norm_cast

/-- Lane l of `VADDC` or `VSUBB` with the operands a and b, in the type of the frame, under the carries of the predicate that variant
[3:0] names. -/
def carriedAt (sub : Bool) (e : Env) (f : FFrame) (a b : Lanes64) (l : Nat) : BitVec (Ty.ofCode .s32 f.ty).width × Bool :=
  carried sub ((lane a l).setWidth _) ((lane b l).setWidth _) ((e.sl.p (f.variant.toNat % 16)).getLsbD l)

theorem carryLane_eq_carriedAt (sub : Bool) (e : Env) (f : FFrame) (a b : Lanes64) (l : Nat) :
    carryLane sub (Ty.ofCode .s32 f.ty).width (laneNat a l) (laneNat b l)
        (if (e.sl.p (f.variant.toNat % 16)).getLsbD l then 1 else 0) =
      ((carriedAt sub e f a b l).1.toNat, (carriedAt sub e f a b l).2) :=
  carryLane_eq_carried ..

/-- The body of `VADDC` or `VSUBB` writes the lanes' values to the destination and their carries or borrows to the predicate. -/
theorem vcarry_ok {sub : Bool} {lit : Option W32} {f : FFrame} {s s1 t u : State} {e : Env} {a b : Lanes64}
    (hr : FReady e (specVcarry f) f lit s)
    (ha : srcV e (Ty.ofCode .s32 f.ty) f.srcA none s = .ok (a, s1)) (hb : srcV e (Ty.ofCode .s32 f.ty) f.srcB lit s1 = .ok (b, t))
    (hd : dstV e (Ty.ofCode .s32 f.ty).wide (e.active f.guard) f.dst
      (tabulate 32 (fun l => (carriedAt sub e f a b l).1.setWidth 64)) t = .ok ((), u)) :
    vcarry sub lit f e s =
      .ok (0, putP e (f.variant.toNat % 16) (e.active f.guard) (bitsOf (fun l => (carriedAt sub e f a b l).2)) u) := by
  unfold vcarry
  rw [exec_bind_ok (begin_ok hr), exec_bind_ok (sources_ok ha hb rfl)]
  simp only [carryLane_eq_carriedAt, Fin.getElem_fin, tabulate_getElem, BitVec.ofNat_toNat]
  rw [exec_bind_ok hd, ← bitsOf_tabulate (fun l => ((carriedAt sub e f a b l).1.toNat, (carriedAt sub e f a b l).2)) 0]
  rfl

/-- Settles O5: the body of either instruction, run on ready operands, gives each lane's exact sum or difference modulo 2^w, and the
bit that leaves it. -/
theorem vectorCarryResult : Obligations.VectorCarryResult := by
  intro i sub f s s1 t e a b hi hr _ ha hb hroom
  obtain ⟨u, hu⟩ := dstV_ok hroom
  exact ⟨u, hu, exec_carry_ok hi hr.1 (vcarry_ok hr ha hb hu)⟩

/-! ### `VSEL` (R112) -/

/-- The lane results of the model and of the statements are the same lanes, when each lane gives a 64-bit value. -/
theorem laneValues_eq_lanesOf (m : W32) (fn : Nat → W64) :
    laneValues (laneResults m (fun l => ((fn l).toNat, 0))) = (Claims.lanesOf m (fun l => (fn l, 0))).1 := by
  rw [laneValues_laneResults]
  simp [Claims.lanesOf]

/-- A lane is nonzero in a type when its low bits are. -/
theorem laneNat_mod_bne_zero (v : Lanes64) (l w : Nat) : (laneNat v l % 2 ^ w != 0) = ((lane v l).setWidth w != 0) := by
  rw [Bool.eq_iff_iff, bne_iff_ne, bne_iff_ne, ne_eq, ne_eq, BitVec.toNat_eq]
  simp [laneNat, lane]

/-- The condition of lane l of `VSEL` with the condition operand c (R112). -/
def selects (e : Env) (f : FFrame) (c : Lanes64) (l : Nat) : Bool :=
  if RC.of f.srcC = .p then (srcP e f.srcC).getLsbD l else (lane c l).setWidth (Ty.ofCode .s32 f.ty).width != 0

/-- The body of `VSEL` writes each active lane's a or b by its condition. The condition operand is read only where it is no
predicate. -/
theorem bodyVsel_ok {lit : Option W32} {f : FFrame} {s s1 s2 t u : State} {e : Env} {a b c : Lanes64}
    (hr : FReady e (specVsel f) f lit s)
    (ha : srcV e (Ty.ofCode .s32 f.ty) f.srcA none s = .ok (a, s1)) (hb : srcV e (Ty.ofCode .s32 f.ty) f.srcB lit s1 = .ok (b, s2))
    (hp : RC.of f.srcC = .p → t = s2) (hc : RC.of f.srcC ≠ .p → srcV e (Ty.ofCode .s32 f.ty) f.srcC none s2 = .ok (c, t))
    (hd : dstV e (Ty.ofCode .s32 f.ty).wide (e.active f.guard) f.dst
      (Claims.lanesOf (e.active f.guard) (fun l => (if selects e f c l then lane a l else lane b l, 0))).1 t = .ok ((), u)) :
    bodyVsel lit f e s = .ok (0, u) := by
  have hcond : ∃ x, (if RC.of f.srcC = .p then pure (splat 0) else srcV e (Ty.ofCode .s32 f.ty) f.srcC : Exec Lanes64) s2 = .ok (x, t) ∧
      ∀ l, (if RC.of f.srcC = .p then (srcP e f.srcC).getLsbD l else laneNat x l % 2 ^ (Ty.ofCode .s32 f.ty).width != 0) =
        selects e f c l := by
    by_cases h : RC.of f.srcC = .p
    · exact ⟨splat 0, by rw [if_pos h, hp h]; rfl, fun l => by simp [selects, h]⟩
    · exact ⟨c, by rw [if_neg h]; exact hc h, fun l => by simp only [selects, h, if_false, laneNat_mod_bne_zero]⟩
  obtain ⟨x, hx, hsel⟩ := hcond
  have hlane : ∀ l, (if selects e f c l then laneNat a l else laneNat b l) = (if selects e f c l then lane a l else lane b l).toNat :=
    fun l => (apply_ite BitVec.toNat _ _ _).symm
  unfold bodyVsel
  rw [exec_bind_ok (begin_ok hr), exec_bind_ok (sources_ok ha hb hx)]
  simp only [hsel, hlane, laneValues_eq_lanesOf]
  rw [exec_bind_ok hd]
  rfl

/-- Settles O6: with a predicate as srcC nothing more is read, and else the lanes of srcC decide. -/
theorem vectorSelectResult : Obligations.VectorSelectResult := by
  intro i f s s1 s2 t e a b c hi hr _ ha hb hp hc hroom
  obtain ⟨u, hu⟩ := dstV_ok hroom
  exact ⟨u, hu, exec_vsel_ok hi hr.1 (bodyVsel_ok hr ha hb hp hc hu)⟩

/-! ### Control instructions -/

/-- A ready control frame passes the static check (R56). -/
theorem checkedC_eq {c : CFrame} {form : CForm} {g : Bool} {body : Env → Exec Unit} {s : State} {e : Env} (h : CReady e c form g s) :
    (do trapIf e (!c.ok form g) 0x02; body e : Exec Unit) s = body e s := by
  rw [h.2]
  exact exec_bind_ok (trapIf_false e _ _ _ s)

/-- A ready control frame whose body completes. -/
theorem issueC_ok {c : CFrame} {form : CForm} {g : Bool} {body : Env → Exec Unit} {s t : State} {e : Env}
    (h : CReady e c form g s) (hb : body e s = .ok ((), t)) : issueC c form g body s = .next (issued e (e.active c.guard) t) := by
  unfold issueC issue
  rw [h.1]
  simp only [checkedC_eq h, hb, issued]
  simp

/-- A ready control frame whose body traps, in a slice that takes its traps. -/
theorem issueC_trap {c : CFrame} {form : CForm} {g : Bool} {body : Env → Exec Unit} {s : State} {e : Env} {x : TrapInfo}
    (h : CReady e c form g s) (hm : muted e = false) (hb : body e s = .error (.trap x none)) :
    issueC c form g body s = .next (Claims.trapped e (e.active c.guard) x s) := by
  have hm : e.muted = false := hm
  unfold issueC issue
  rw [h.1]
  simp only [checkedC_eq h, hb, hm, Claims.trapped]
  simp

theorem anyActive_of_ne {e : Env} {g : BitVec 6} (h : e.active g ≠ 0) : e.some_ g = true := bne_iff_ne.mpr h

theorem not_anyActive_of_eq {e : Env} {g : BitVec 6} (h : e.active g = 0) : e.some_ g = false := by simp [Env.some_, h]

/-- A control instruction that acts only where a lane is active moves on where none is (R53). -/
theorem issueC_idle {c : CFrame} {form : CForm} {g : Bool} {act : Env → Exec Unit} {s : State} {e : Env}
    (h : CReady e c form g s) (hm : e.active c.guard = 0) :
    issueC c form g (fun e => if e.some_ c.guard then act e else advance e 8) s = .next (issued e (e.active c.guard) (movePast e 8 s)) :=
  issueC_ok h (by rw [not_anyActive_of_eq hm]; rfl)

/-! ### `TRAP` and `BKPT` (R105) -/

theorem exec_trap_active {c : CFrame} {s : State} {e : Env} (h : CReady e c .code true s) (ha : e.active c.guard ≠ 0)
    (hm : muted e = false) :
    exec (.trap c) s = .next (Claims.trapped e (e.active c.guard) ⟨0x50, c.low.setWidth 64, 0, e.path.pc + 8, none⟩ s) :=
  issueC_trap h hm (by rw [anyActive_of_ne ha]; rfl)

theorem exec_bkpt_active {c : CFrame} {s : State} {e : Env} (h : CReady e c .none true s) (ha : e.active c.guard ≠ 0)
    (hm : muted e = false) :
    exec (.bkpt c) s = .next (Claims.trapped e (e.active c.guard) ⟨0x51, 0, 0, e.path.pc, none⟩ s) :=
  issueC_trap h hm (by rw [anyActive_of_ne ha]; rfl)

/-! ### `ERET` (R106, R142) -/

/-- The lanes that the path held when handler mode was entered. -/
def heldLanes (e : Env) : W32 := (e.sl.frozen.map (fun f => f.mask)).getD e.path.mask

/-- The lanes that `ERET` resumes. -/
def keptLanes (e : Env) : W32 := e.sl.emask.extractLsb' 0 32 &&& heldLanes e

/-- In handler mode `ERET` is its body where a lane is active. -/
theorem exec_eret_ok {c : CFrame} {s t : State} {e : Env} (h : CReady e c .none true s) (hh : e.sl.hmode = true)
    (hb : (if e.some_ c.guard then eret e else advance e 8) s = .ok ((), t)) :
    exec (.eret c) s = .next (issued e (e.active c.guard) t) := by
  refine issueC_ok h ?_
  rw [hh]
  exact (exec_bind_ok (trapIf_false e _ _ _ s)).trans hb

/-- An aligned target passes (R39). -/
theorem checkTarget_ok (e : Env) {pc : Va} (h : pc.toNat % 8 = 0) (s : State) : checkTarget e (pc.setWidth 64) s = .ok (pc, s) := by
  have hmod : (pc.setWidth 64).toNat % 8 = 0 := by
    rw [BitVec.toNat_setWidth_of_le (by decide)]
    exact h
  unfold checkTarget
  rw [hmod]
  refine (exec_bind_ok (trapIf_false e _ _ _ s)).trans ?_
  simp only [BitVec.setWidth_setWidth_of_le _ (by decide : 56 ≤ 64), BitVec.setWidth_eq]
  rfl

/-- What `ERET` does once the lanes given up have ended: the lanes of the mask resume at a PC, or with none the path ends; then
handler mode is left. -/
def resumeOrEnd (e : Env) (pc : Va) (mask : W32) : Exec Unit := do
  if mask = 0 then do
    let ps ← readPaths e
    writePaths e (ps.setSlot e.cur.slot1 none).settled
  else modSl e (fun sl => sl.setSlot e.cur.slot1 (some { e.path with mask := mask, pc := pc }))
  modify (fun s => s.leaveHandler e)

theorem eret_eq (e : Env) : eret e = (do
    let pc ← checkTarget e (e.sl.epc.setWidth 64)
    endLanes e (heldLanes e &&& ~~~keptLanes e)
    resumeOrEnd e pc (keptLanes e)) := by
  unfold eret keptLanes heldLanes
  cases e.sl.frozen <;> rfl

/-- An aligned `sys.epc` and lanes that end leave the rest of `ERET`. -/
theorem eret_run {e : Env} {s t : State} (hpc : e.sl.epc.toNat % 8 = 0)
    (hend : endLanes e (heldLanes e &&& ~~~keptLanes e) s = .ok ((), t)) :
    eret e s = resumeOrEnd e e.sl.epc (keptLanes e) t := by
  rw [eret_eq, exec_bind_ok (checkTarget_ok e hpc s), exec_bind_ok hend]

/-- Lanes that are left resume at `sys.epc`. -/
theorem eret_resume {e : Env} {s t : State} (hpc : e.sl.epc.toNat % 8 = 0)
    (hend : endLanes e (heldLanes e &&& ~~~keptLanes e) s = .ok ((), t)) (hk : keptLanes e ≠ 0) :
    eret e s = .ok ((), (putPath e { e.path with mask := keptLanes e, pc := e.sl.epc } t).leaveHandler e) := by
  rw [eret_run hpc hend, resumeOrEnd, if_neg hk]
  rfl

/-- With no lane left the path ends. -/
theorem eret_end {e : Env} {s t u w : State} {ps : Paths} (hpc : e.sl.epc.toNat % 8 = 0)
    (hend : endLanes e (heldLanes e &&& ~~~keptLanes e) s = .ok ((), t)) (hk : keptLanes e = 0)
    (hread : readPaths e t = .ok (ps, u)) (hwrite : writePaths e (ps.setSlot e.cur.slot1 none).settled u = .ok ((), w)) :
    eret e s = .ok ((), w.leaveHandler e) := by
  rw [eret_run hpc hend, resumeOrEnd, if_pos hk, exec_bind_ok hread, exec_bind_ok hwrite]
  rfl

/-- Settles O16: with a lane active, `TRAP` and `BKPT` stop with their trap and `ERET` ends the lanes given up and either resumes the
kept ones or ends the path; with none each moves on. -/
theorem trapAndReturn : Obligations.TrapAndReturn := by
  intro c s t u w e ps
  refine ⟨exec_trap_active, exec_bkpt_active, fun hm => ⟨fun h => issueC_idle h hm, fun h => issueC_idle h hm, ?_⟩, ?_⟩
  · intro h hh
    exact exec_eret_ok h hh (by rw [not_anyActive_of_eq hm]; rfl)
  · intro h ha hh hpc hend
    have run : ∀ {v}, eret e s = .ok ((), v) → exec (.eret c) s = .next (issued e (e.active c.guard) v) := fun hv =>
      exec_eret_ok h hh (by rw [anyActive_of_ne ha]; exact hv)
    exact ⟨fun hk => run (eret_resume hpc hend hk), fun hk hread hwrite => run (eret_end hpc hend hk hread hwrite)⟩

end Sys2Proof.Proofs
end

section
/-!
PROOFS. Decoding and encoding agree (R5, R38 to R57): a word's fields are read back as they were put in, the code of a word names
one form of its frame kind, and a word is put together again from its fields.
-/
namespace Sys2Proof.Proofs
open Sys2Proof.Machine Sys2Proof.Claims

/-! ### Fields of a word (Tables 2.2 to 2.5, 2.9a)

The widths of the fields are written out as a sum, so that the library's lemmas about fields of an appended word apply. -/

theorem FFrame.kind_word (k : BitVec 2) (op : BitVec 10) (f : FFrame) : (f.word k op).extractLsb' 62 2 = k := by
  change @BitVec.extractLsb' (2 + 10 + 6 + 8 + 8 + 8 + 8 + 4 + 6 + 4) _ _ _ = _
  simp (disch := decide) only [FFrame.word, BitVec.extractLsb'_append_eq_of_le, Nat.reduceSub, BitVec.extractLsb'_eq_self]

theorem FFrame.op_word (k : BitVec 2) (op : BitVec 10) (f : FFrame) : (f.word k op).extractLsb' 52 10 = op := by
  change @BitVec.extractLsb' (2 + 10 + 6 + 8 + 8 + 8 + 8 + 4 + 6 + 4) _ _ _ = _
  simp (disch := decide) only [FFrame.word, BitVec.extractLsb'_append_eq_of_le, BitVec.extractLsb'_append_eq_of_add_le,
    Nat.reduceSub, BitVec.extractLsb'_eq_self]

theorem FFrame.ofWord_word (k : BitVec 2) (op : BitVec 10) (f : FFrame) : FFrame.ofWord (f.word k op) = f := by
  simp (disch := decide) only [FFrame.ofWord, FFrame.word, BitVec.extractLsb'_append_eq_of_le,
    BitVec.extractLsb'_append_eq_of_add_le, Nat.reduceSub, BitVec.extractLsb'_eq_self]

theorem FFrame.word_ofWord (w : W64) : (FFrame.ofWord w).word (w.extractLsb' 62 2) (w.extractLsb' 52 10) = w := by
  change ((_ : BitVec (2 + 10 + 6 + 8 + 8 + 8 + 8 + 4 + 6 + 4)) = _)
  simp (disch := decide) only [FFrame.ofWord, FFrame.word, BitVec.extractLsb'_append_extractLsb'_eq_extractLsb',
    BitVec.extractLsb'_eq_self]

theorem CFrame.kind_word (op : BitVec 10) (c : CFrame) : (c.word op).extractLsb' 62 2 = 0 := by
  change @BitVec.extractLsb' (2 + 10 + 6 + 8 + 38) _ _ _ = _
  simp (disch := decide) only [CFrame.word, BitVec.extractLsb'_append_eq_of_le, Nat.reduceSub, BitVec.extractLsb'_eq_self]
  rfl

theorem CFrame.op_word (op : BitVec 10) (c : CFrame) : (c.word op).extractLsb' 52 10 = op := by
  change @BitVec.extractLsb' (2 + 10 + 6 + 8 + 38) _ _ _ = _
  simp (disch := decide) only [CFrame.word, BitVec.extractLsb'_append_eq_of_le, BitVec.extractLsb'_append_eq_of_add_le,
    Nat.reduceSub, BitVec.extractLsb'_eq_self]

theorem CFrame.ofWord_word (op : BitVec 10) (c : CFrame) : CFrame.ofWord (c.word op) = c := by
  simp (disch := decide) only [CFrame.ofWord, CFrame.word, BitVec.extractLsb'_append_eq_of_le,
    BitVec.extractLsb'_append_eq_of_add_le, Nat.reduceSub, BitVec.extractLsb'_eq_self]

theorem CFrame.word_ofWord (w : W64) (h : w.extractLsb' 62 2 = 0) : (CFrame.ofWord w).word (w.extractLsb' 52 10) = w := by
  change (0#2 ++ w.extractLsb' 52 10 ++ w.extractLsb' 46 6 ++ w.extractLsb' 38 8 ++ w.extractLsb' 0 38 :
    BitVec (2 + 10 + 6 + 8 + 38)) = w
  rw [show (0#2) = w.extractLsb' 62 2 from h.symm]
  simp (disch := decide) only [BitVec.extractLsb'_append_extractLsb'_eq_extractLsb', BitVec.extractLsb'_eq_self]

/-- The second word of a W frame gives its fields back. -/
theorem WFrame.ofWords_words (op : BitVec 10) (w : WFrame) :
    WFrame.ofWords (w.f.word 3#2 op) (w.srcD ++ w.srcE ++ w.srcF ++ w.wflags ++ w.imm) = w := by
  have field (s n : Nat) : BitVec.extractLsb' s n (w.srcD ++ w.srcE ++ w.srcF ++ w.wflags ++ w.imm : W64) =
      @BitVec.extractLsb' (8 + 8 + 8 + 8 + 32) s n (w.srcD ++ w.srcE ++ w.srcF ++ w.wflags ++ w.imm) := rfl
  simp (disch := decide) only [WFrame.ofWords, FFrame.ofWord_word, field, BitVec.extractLsb'_append_eq_of_le,
    BitVec.extractLsb'_append_eq_of_add_le, Nat.reduceSub, BitVec.extractLsb'_eq_self]

theorem WFrame.words_ofWords (w0 w1 : W64) (h : w0.extractLsb' 62 2 = 3) :
    (WFrame.ofWords w0 w1).words (w0.extractLsb' 52 10) = [w0, w1] := by
  have h0 : (FFrame.ofWord w0).word 3#2 (w0.extractLsb' 52 10) = w0 := by
    rw [show (3#2) = w0.extractLsb' 62 2 from h.symm]
    exact FFrame.word_ofWord w0
  have h1 : (w1.extractLsb' 56 8 ++ w1.extractLsb' 48 8 ++ w1.extractLsb' 40 8 ++ w1.extractLsb' 32 8 ++ w1.extractLsb' 0 32 :
      BitVec (8 + 8 + 8 + 8 + 32)) = w1 := by
    simp (disch := decide) only [BitVec.extractLsb'_append_extractLsb'_eq_extractLsb', BitVec.extractLsb'_eq_self]
  exact congr (congrArg (fun a b => [a, b]) h0) h1

theorem LFrame.kind_word (l : LFrame) : l.word.extractLsb' 62 2 = 1 := by
  change @BitVec.extractLsb' (2 + 8 + 6 + 8 + 8 + 32) _ _ _ = _
  simp (disch := decide) only [LFrame.word, BitVec.extractLsb'_append_eq_of_le, Nat.reduceSub, BitVec.extractLsb'_eq_self]
  rfl

theorem LFrame.ofWord_word (l : LFrame) : LFrame.ofWord l.word = l := by
  simp (disch := decide) only [LFrame.ofWord, LFrame.word, BitVec.extractLsb'_append_eq_of_le,
    BitVec.extractLsb'_append_eq_of_add_le, Nat.reduceSub, BitVec.extractLsb'_eq_self]

theorem LFrame.word_ofWord (w : W64) (h : w.extractLsb' 62 2 = 1) : (LFrame.ofWord w).word = w := by
  change (1#2 ++ w.extractLsb' 54 8 ++ w.extractLsb' 48 6 ++ w.extractLsb' 40 8 ++ w.extractLsb' 32 8 ++ w.extractLsb' 0 32 :
    BitVec (2 + 8 + 6 + 8 + 8 + 32)) = w
  rw [show (1#2) = w.extractLsb' 62 2 from h.symm]
  simp (disch := decide) only [BitVec.extractLsb'_append_extractLsb'_eq_extractLsb', BitVec.extractLsb'_eq_self]

theorem PHalf.ofBits_bits (h : PHalf) : PHalf.ofBits h.bits = h := by
  simp (disch := decide) only [PHalf.ofBits, PHalf.bits, BitVec.extractLsb'_append_eq_of_le,
    BitVec.extractLsb'_append_eq_of_add_le, Nat.reduceSub, BitVec.extractLsb'_eq_self]

theorem PHalf.bits_ofBits (x : BitVec 31) : (PHalf.ofBits x).bits = x := by
  change ((_ : BitVec (7 + 4 + 4 + 8 + 8)) = _)
  simp (disch := decide) only [PHalf.ofBits, PHalf.bits, BitVec.extractLsb'_append_extractLsb'_eq_extractLsb',
    BitVec.extractLsb'_eq_self]

/-- The kind and the halves of a pair word. -/
theorem pairWord_fields (a b : BitVec 31) :
    let w : W64 := 2#2 ++ a ++ b
    w.extractLsb' 62 2 = 2 ∧ w.extractLsb' 31 31 = a ∧ w.extractLsb' 0 31 = b := by
  have field (s n : Nat) : BitVec.extractLsb' s n (2#2 ++ a ++ b : W64) = @BitVec.extractLsb' (2 + 31 + 31) s n (2#2 ++ a ++ b) := rfl
  simp (disch := decide) only [field, BitVec.extractLsb'_append_eq_of_le, BitVec.extractLsb'_append_eq_of_add_le, Nat.reduceSub,
    BitVec.extractLsb'_eq_self, true_and]
  exact ⟨rfl, trivial⟩

theorem pairWord_eq (w : W64) (h : w.extractLsb' 62 2 = 2) : (2#2 ++ w.extractLsb' 31 31 ++ w.extractLsb' 0 31 : W64) = w := by
  rw [show (2#2) = w.extractLsb' 62 2 from h.symm]
  simp (disch := decide) only [BitVec.extractLsb'_append_extractLsb'_eq_extractLsb', BitVec.extractLsb'_eq_self]

/-! ### Bytes of a word (R5) -/

theorem takeWord_wordBytes (w : W64) (rest : List Byte) : takeWord (wordBytes w ++ rest) = some (w, rest) := by
  have hw : (w.extractLsb' 56 8 ++ w.extractLsb' 48 8 ++ w.extractLsb' 40 8 ++ w.extractLsb' 32 8 ++ w.extractLsb' 24 8 ++
      w.extractLsb' 16 8 ++ w.extractLsb' 8 8 ++ w.extractLsb' 0 8 : BitVec (8 + 8 + 8 + 8 + 8 + 8 + 8 + 8)) = w := by
    simp (disch := decide) only [BitVec.extractLsb'_append_extractLsb'_eq_extractLsb', BitVec.extractLsb'_eq_self]
  exact congrArg (fun x => some (x, rest)) hw

/-- A word that is taken from bytes stands at their head. -/
theorem eq_of_takeWord {bs r : List Byte} {w : W64} (h : takeWord bs = some (w, r)) : bs = wordBytes w ++ r := by
  unfold takeWord at h
  split at h
  · next b0 b1 b2 b3 b4 b5 b6 b7 r =>
    cases h
    have field (s n : Nat) : BitVec.extractLsb' s n (b7 ++ b6 ++ b5 ++ b4 ++ b3 ++ b2 ++ b1 ++ b0 : W64) =
        @BitVec.extractLsb' (8 + 8 + 8 + 8 + 8 + 8 + 8 + 8) s n (b7 ++ b6 ++ b5 ++ b4 ++ b3 ++ b2 ++ b1 ++ b0) := rfl
    simp (disch := decide) only [wordBytes, field, BitVec.extractLsb'_append_eq_of_le, BitVec.extractLsb'_append_eq_of_add_le,
      Nat.reduceSub, BitVec.extractLsb'_eq_self, List.cons_append, List.nil_append]
  · cases h

/-! ### The words of an instruction -/

/-- The words are those of an instruction: one word that decodes to it, or the two words of a W frame (R38). -/
def WordsOf (ws : List W64) (i : Instr) : Prop :=
  match ws with
  | [w] => decodeWord w = some i
  | [w0, w1] => decodeWord w0 = none ∧ decodeWide w0 w1 = i
  | _ => False

/-- The bytes of an instruction's words decode to it, whatever follows. -/
theorem WordsOf.decode {ws : List W64} {i : Instr} (h : WordsOf ws i) (rest : List Byte) :
    decode ((ws.map wordBytes).flatten ++ rest) = .ok (i, rest) := by
  match ws, h with
  | [w], h =>
    have h : decodeWord w = some i := h
    simp [Sys2Proof.decode, takeWord_wordBytes, h]
  | [w0, w1], h =>
    obtain ⟨h0, h1⟩ : decodeWord w0 = none ∧ decodeWide w0 w1 = i := h
    simp [Sys2Proof.decode, takeWord_wordBytes, h0, h1]

/-- Bytes that decode begin with the words of an instruction. -/
theorem WordsOf.of_decode {bs rest : List Byte} {i : Instr} (h : Sys2Proof.decode bs = .ok (i, rest)) :
    ∃ ws, WordsOf ws i ∧ bs = (ws.map wordBytes).flatten ++ rest := by
  unfold Sys2Proof.decode at h
  split at h
  · cases h
  · next w0 r h0 =>
    split at h
    · next j hj =>
      cases h
      exact ⟨[w0], hj, by simpa using eq_of_takeWord h0⟩
    · next hn =>
      split at h
      · cases h
      · next w1 r' h1 =>
        cases h
        refine ⟨[w0, w1], ⟨hn, rfl⟩, ?_⟩
        rw [eq_of_takeWord h0, eq_of_takeWord h1]
        simp

/-! ### Decoding what was encoded -/

/-- The word of a control frame, at a code of Table 2.9. -/
theorem wordsOf_C {op : BitVec 10} {k : CFrame → Instr} (c : CFrame) (h : lookupCode op.toNat mapC = some k) :
    WordsOf [c.word op] (k c) := by
  change decodeWord (c.word op) = _
  unfold decodeWord
  dsimp only
  rw [CFrame.kind_word, CFrame.op_word, CFrame.ofWord_word, h]
  rfl

/-- A map made of parts is searched part by part. -/
theorem lookupCode_append {α : Type} (c : Nat) (l m : List (Nat × α)) :
    lookupCode c (l ++ m) = (lookupCode c l).or (lookupCode c m) := by
  induction l with
  | nil => rfl
  | cons p l ih =>
    simp only [List.cons_append, lookupCode, ih]
    split <;> rfl

theorem lookupCode_mapF (c : Nat) : lookupCode c mapF = ((((lookupCode c mapF0).or (lookupCode c mapF1)).or
    (lookupCode c mapF2)).or (lookupCode c mapF3)).or (lookupCode c mapF4) := by
  simp only [mapF, lookupCode_append]

/-- The word of an F frame, at a code of Table 2.9 that is no control code. -/
theorem wordsOf_F {op : BitVec 10} {k : FFrame → Instr} (f : FFrame) (hc : lookupCode op.toNat mapC = none)
    (h : lookupCode op.toNat mapF = some k) : WordsOf [f.word 0#2 op] (k f) := by
  change decodeWord (f.word 0#2 op) = _
  unfold decodeWord
  dsimp only
  rw [FFrame.kind_word, FFrame.op_word, FFrame.ofWord_word, hc, h]
  rfl

/-- The words of a W frame, at a code of Table 2.9. -/
theorem wordsOf_W {op : BitVec 10} {k : WFrame → Instr} (w : WFrame) (h : lookupCode op.toNat mapW = some k) :
    WordsOf (w.words op) (k w) := by
  refine ⟨?_, ?_⟩
  · unfold decodeWord
    dsimp only
    rw [FFrame.kind_word, FFrame.op_word, h]
    rfl
  · unfold decodeWide
    rw [FFrame.op_word, h]
    exact congrArg k (WFrame.ofWords_words op w)

theorem wordsOf_literalFrame {l : LFrame} (h : l.hasForm = true) : WordsOf [l.word] (.literalFrame l) := by
  change decodeWord l.word = _
  unfold decodeWord
  dsimp only
  rw [LFrame.kind_word, LFrame.ofWord_word, h]
  rfl

theorem wordsOf_pairFrame {h0 h1 : PHalf} (f0 : h0.hasForm = true) (f1 : h1.hasForm = true) :
    WordsOf [2#2 ++ h0.bits ++ h1.bits] (.pairFrame h0 h1) := by
  obtain ⟨hk, ha, hb⟩ := pairWord_fields h0.bits h1.bits
  change decodeWord (2#2 ++ h0.bits ++ h1.bits) = _
  unfold decodeWord
  dsimp only
  rw [hk, ha, hb, PHalf.ofBits_bits, PHalf.ofBits_bits, f0, f1]
  rfl

/-- A well-formed reserved word decodes to itself. -/
theorem wordsOf_reserved {w : W64} (h : wf (.reservedOpcode w) = true) : WordsOf [w] (.reservedOpcode w) := by
  have hd : Sys2Proof.decode (wordBytes w) = (match decodeWord w with
      | some i => .ok (i, [])
      | none => .error .truncatedWideFrame) := by
    have ht : takeWord (wordBytes w) = some (w, []) := by simpa using takeWord_wordBytes w []
    unfold Sys2Proof.decode
    simp only [ht]
    cases decodeWord w <;> rfl
  change decodeWord w = _
  simp only [wf, hd] at h
  cases hw : decodeWord w with
  | none => simp [hw] at h
  | some i =>
    rw [hw] at h
    cases i <;> simp_all

/-- What the encoder gives are the instruction's words. -/
theorem wordsOf_encode {i : Instr} {ws : List W64} (own : ownWord i) (h : encode i = some ws) : WordsOf ws i := by
  obtain ⟨hres, hlit, hpair⟩ := own
  cases i
  case nop | bra | brz | brnz | brx | brd | join | brq | call | callx | ret | exit | yield | sleep | trap | bkpt | eret => cases h; exact wordsOf_C _ rfl
  case sadd | ssub | smul | smulh | sand | sor | sxor | snot | sshl | sshr | ssra | smin | smax | smov | sli | scmp | ssel
      | sclz | spopc | sbfx | sbfi | vadd | vsub | vmul | vmulh | vmad | vand | vor | vxor | vnot | vshl | vshr | vsra | vmin
      | vmax | vabs | vneg | vclz | vpopc | vbfx | vbfi | vbrev | vsel | vmov | vli | vaddc | vsubb | vcmp | vidot4 | vfadd
      | vfsub | vfmul | vfma | vfmin | vfmax | vfabs | vfneg | vfcmp | vfclass | vfround | vfdot2 | vfscale | vrcp | vrsq
      | vsqrt | vexp2 | vlog2 | vsin | vcos | vtanh | vcvt | vcvtb | vpack | vunpack | pand | por | pxor | pnot | pmov | pfrom
      | pto | pany | pall | shfl | vote | matchLanes | vred | vscan | bcast | vcomp | gfence | qcnt | qroom | qdrain | lds
      | sts | ld | st | ldl | stl | ldq | stc | ldx | pref | cctl | atom | red | cas | fence | fencex | waitcnt | tlook | tset
      | tclr | binit | barr | barrx | bwait | btest | bwatch | jdec | tget | eget | epost | srd | swr | tlbi | trace | tmark
      | perf => cases h; exact wordsOf_F _ rfl ((lookupCode_mapF _).trans rfl)
  case gdef | gld | gst | gmov | gchain | gpart | gtran | gflat | gslice | gswz | gchk | gbank | mma | mmad | mmsp | fbset
      | aczero | acld | acst | acrd | acwr | acmax | cpy | cpyg | cpys | cpyz | cpym | psel | cpyr | strep | fcoll | spawn
      | spawnj | launch => cases h; exact wordsOf_W _ rfl
  case literalFrame l => cases h; exact wordsOf_literalFrame (hlit l rfl)
  case pairFrame h0 h1 => cases h; exact wordsOf_pairFrame (hpair h0 h1 rfl).1 (hpair h0 h1 rfl).2
  case reservedOpcode w => cases h; exact wordsOf_reserved (hres w rfl)
  all_goals exact absurd h (by simp [encode])

/-! ### Encoding what was decoded -/

/-- The encoder writes the code at which Table 2.9 lists an instruction. -/
theorem encode_of_mem_mapC {p : Nat × (CFrame → Instr)} (h : p ∈ mapC) (c : CFrame) :
    encode (p.2 c) = some [c.word (BitVec.ofNat 10 p.1)] :=
  List.map_inj_left.mp (show mapC.map (fun p => encode (p.2 c)) = mapC.map (fun p => some [c.word (BitVec.ofNat 10 p.1)]) from rfl) p h

theorem encode_of_mem_mapF {p : Nat × (FFrame → Instr)} (h : p ∈ mapF) (f : FFrame) :
    encode (p.2 f) = some [f.word 0#2 (BitVec.ofNat 10 p.1)] :=
  List.map_inj_left.mp (show mapF.map (fun p => encode (p.2 f)) = mapF.map (fun p => some [f.word 0#2 (BitVec.ofNat 10 p.1)]) from rfl) p h

theorem encode_of_mem_mapW {p : Nat × (WFrame → Instr)} (h : p ∈ mapW) (w : WFrame) :
    encode (p.2 w) = some (w.words (BitVec.ofNat 10 p.1)) :=
  List.map_inj_left.mp (show mapW.map (fun p => encode (p.2 w)) = mapW.map (fun p => some (w.words (BitVec.ofNat 10 p.1))) from rfl) p h

theorem extract_eq_of_toNat {w : W64} {n : Nat} (h : (w.extractLsb' 62 2).toNat = n) : w.extractLsb' 62 2 = BitVec.ofNat 2 n := by
  rw [← h, BitVec.ofNat_toNat, BitVec.setWidth_eq]

/-- A word that decodes to an instruction is its encoding. -/
theorem encode_of_decodeWord {w : W64} {i : Instr} (h : decodeWord w = some i) : encode i = some [w] := by
  unfold decodeWord at h
  dsimp only at h
  split at h
  · next hk =>
    have hk := extract_eq_of_toNat hk
    split at h
    · next k hc =>
      cases h
      rw [encode_of_mem_mapC (mem_of_lookupCode hc), BitVec.ofNat_toNat, BitVec.setWidth_eq, CFrame.word_ofWord w hk]
    · split at h
      · next k hf =>
        cases h
        rw [encode_of_mem_mapF (mem_of_lookupCode hf), BitVec.ofNat_toNat, BitVec.setWidth_eq,
          show (0#2) = w.extractLsb' 62 2 from hk.symm, FFrame.word_ofWord]
      · cases h; rfl
  · next hk =>
    split at h <;> cases h
    · rw [encode, LFrame.word_ofWord w (extract_eq_of_toNat hk)]
    · rfl
  · next hk =>
    split at h <;> cases h
    · rw [encode, PHalf.bits_ofBits, PHalf.bits_ofBits, pairWord_eq w (extract_eq_of_toNat hk)]
    · rfl
  · split at h <;> cases h
    rfl

theorem eq_three_of_toNat {x : BitVec 2} (h0 : x.toNat ≠ 0) (h1 : x.toNat ≠ 1) (h2 : x.toNat ≠ 2) : x = 3 := by
  have := x.isLt
  exact BitVec.eq_of_toNat_eq (by simp; omega)

/-- A word that decodes to nothing alone is of kind W, with a code that the table lists. -/
theorem wide_of_decodeWord {w : W64} (h : decodeWord w = none) :
    w.extractLsb' 62 2 = 3 ∧ ∃ k, lookupCode (w.extractLsb' 52 10).toNat mapW = some k := by
  unfold decodeWord at h
  dsimp only at h
  split at h
  · split at h
    · cases h
    · split at h <;> cases h
  · split at h <;> cases h
  · split at h <;> cases h
  · next h0 h1 h2 =>
    split at h
    · next k hk => exact ⟨eq_three_of_toNat h0 h1 h2, k, hk⟩
    · cases h

/-- The words of an instruction are its encoding. -/
theorem WordsOf.encode {ws : List W64} {i : Instr} (h : WordsOf ws i) : encode i = some ws := by
  match ws, h with
  | [w], h => exact encode_of_decodeWord h
  | [w0, w1], h =>
    obtain ⟨h0, rfl⟩ : decodeWord w0 = none ∧ decodeWide w0 w1 = i := h
    obtain ⟨hk, k, hw⟩ := wide_of_decodeWord h0
    have he := encode_of_mem_mapW (mem_of_lookupCode hw) (WFrame.ofWords w0 w1)
    rw [BitVec.ofNat_toNat, BitVec.setWidth_eq, WFrame.words_ofWords w0 w1 hk] at he
    simpa only [decodeWide, hw] using he

/-- Settles O58: both directions go through the words of an instruction. -/
theorem encodingRoundTrip : Obligations.EncodingRoundTrip := by
  refine ⟨fun i bs rest own h => ?_, fun i bs rest h => ?_⟩
  · obtain ⟨ws, hws, rfl⟩ := Option.map_eq_some_iff.mp h
    exact (wordsOf_encode own hws).decode rest
  · obtain ⟨ws, hws, hbs⟩ := WordsOf.of_decode h
    exact ⟨_, by rw [encodeBytes, hws.encode]; rfl, hbs⟩

end Sys2Proof.Proofs
end

section
/-!
PROOFS. The integer, float, comparison and pair instructions (R47 to R50, R107 to R116, R120 to R128): a form and its L form have one body,
which computes the result of the tables.
-/
namespace Sys2Proof.Proofs
open Sys2Proof.Machine Sys2Proof.Claims Sys2Proof.Laws

/-! ### Integers of w bits (R92) -/

/-- The low w bits of a number, read in a type, are the value of the w-bit word. -/
theorem readInt_eq_num (signed : Bool) {w : Nat} (a : Nat) : readInt signed w a = num signed (BitVec.ofNat w a) := by
  cases signed with
  | false => simp [readInt, num]
  | true =>
    rw [num, if_pos rfl, BitVec.toInt_eq_msb_cond, BitVec.msb_eq_getLsbD_last, BitVec.getLsbD]
    simp [readInt]

theorem toNat_written (signed : Bool) (w : Nat) (sat : Bool) (x : Int) :
    ((written signed w sat x).1.toNat, (written signed w sat x).2) = writeInt signed w sat x := by
  have hb : bounds signed w = intBounds signed w := by cases signed <;> simp [bounds, intBounds]
  have hw : ∀ y : Int, (BitVec.ofInt w y).toNat = wrapInt w y := fun y => by simp [wrapInt, BitVec.toNat_ofInt]
  cases sat with
  | false => simp [written, writeInt, hw]; rfl
  | true =>
    simp only [written, writeInt, satInt, hb, true_and, if_true]
    by_cases h1 : x < (intBounds signed w).1
    · simp [h1, hw]
    · by_cases h2 : (intBounds signed w).2 < x <;> simp [h1, h2, hw]; rfl

/-- A w-bit result as it enters a scalar register (R107). -/
theorem scalarOf_eq (signed : Bool) {w : Nat} (x : BitVec w) :
    (if signed then BitVec.ofInt 64 (readInt true w x.toNat) else BitVec.ofNat 64 x.toNat) = scalarOf signed x := by
  cases signed with
  | false => simp [scalarOf]
  | true => simp [scalarOf, readInt_eq_num, num, BitVec.signExtend]


/-! ### The exact results of Tables 4.4 and 4.6 -/

/-- The model's function of an operation. -/
def intFn : IntOp → IntFn
  | .add => iAdd
  | .sub => iSub
  | .mul => iMul
  | .mulh => iMulh
  | .mad => iMad
  | .and => iAnd
  | .or => iOr
  | .xor => iXor
  | .not => iNot
  | .shl => iShl
  | .shr => iShr
  | .sra => iSra
  | .min => iMin
  | .max => iMax
  | .mov => iMov
  | .abs => iAbs
  | .neg => iNeg
  | .clz => iClz
  | .popc => iPopc
  | .bfx => iBfx
  | .bfi => iBfi
  | .brev => iBrev
  | .sel => iSel
  | .join => iJoin
  | .cmp cond => iCmp cond

theorem condHolds_eq_holds (cond : Nat) (x y : Int) : condHolds cond x y = holds cond x y := by
  match cond with
  | 0 | 2 | 3 | 4 | _ + 5 => rfl
  | 1 => exact (decide_not (p := x = y)).symm

theorem iNot_eq {w : Nat} (b : Nat) : (2 ^ w - 1 - b % 2 ^ w : Nat) = (~~~(BitVec.ofNat w b)).toNat := by
  rw [BitVec.toNat_not, BitVec.toNat_ofNat]

theorem iShr_eq {w : Nat} (a b : Nat) :
    (if w ≤ b % 2 ^ w then 0 else ((a % 2 ^ w) / 2 ^ (b % 2 ^ w) : Nat) : Int) =
      ((BitVec.ofNat w a >>> (BitVec.ofNat w b).toNat).toNat : Nat) := by
  rw [BitVec.toNat_ushiftRight, BitVec.toNat_ofNat, BitVec.toNat_ofNat, Nat.shiftRight_eq_div_pow]
  split
  · next h =>
    have hlt : a % 2 ^ w < 2 ^ (b % 2 ^ w) :=
      Nat.lt_of_lt_of_le (Nat.mod_lt _ (Nat.two_pow_pos w)) (Nat.pow_le_pow_right (by decide) h)
    rw [Nat.div_eq_of_lt hlt]; rfl
  · rfl

/-- A number smaller than the divisor leaves its sign. -/
theorem ediv_of_small {x m : Int} (h : -m ≤ x) (h' : x < m) : x / m = if x < 0 then -1 else 0 := by
  split
  · next hx =>
    rw [Int.ediv_eq_iff_of_pos (by omega)]
    omega
  · exact Int.ediv_eq_zero_of_lt (by omega) h'

/-- A shift of w or more leaves the sign, as a shift of w does. -/
theorem iSra_eq {w : Nat} (a b : Nat) :
    readInt true w a / (2 ^ (min (b % 2 ^ w) w) : Nat) = ((BitVec.ofNat w a).sshiftRight (BitVec.ofNat w b).toNat).toInt := by
  rw [BitVec.toInt_sshiftRight, readInt_eq_num, num, if_pos rfl, BitVec.toNat_ofNat]
  generalize BitVec.ofNat w a = x
  rw [Int.shiftRight_eq_div_pow]
  by_cases h : b % 2 ^ w ≤ w
  · rw [Nat.min_eq_left h]
  · rw [Nat.min_eq_right (by omega)]
    have hlt := x.toInt_lt
    have hle := x.le_toInt
    have hw : (2 : Int) ^ (w - 1) ≤ 2 ^ w := by exact_mod_cast Nat.pow_le_pow_right (by decide) (Nat.sub_le w 1)
    have hpow : (2 : Int) ^ w ≤ 2 ^ (b % 2 ^ w) := by
      exact_mod_cast Nat.pow_le_pow_right (by decide) (show w ≤ b % 2 ^ w by omega)
    push_cast
    rw [ediv_of_small (m := 2 ^ w) (by omega) (by omega), ediv_of_small (m := 2 ^ (b % 2 ^ w)) (by omega) (by omega)]

theorem popCount_eq {n : Nat} (x : Nat) : popCount x n = ((List.range n).filter (fun i => x.testBit i)).length := by
  induction n generalizing x with
  | zero => rfl
  | succ n ih =>
    rw [popCount, ih, List.range_succ_eq_map, List.filter_cons, List.filter_map, Nat.testBit_zero]
    have hf : ((fun i => x.testBit i) ∘ Nat.succ) = (fun i => (x / 2).testBit i) := by
      funext i; simp [Nat.testBit_succ]
    rw [hf]
    rcases Nat.mod_two_eq_zero_or_one x with h | h <;> simp [h]; omega


theorem iClz_eq {w : Nat} (hw : 0 < w) (b : Nat) :
    (if b % 2 ^ w = 0 then (w : Int) else ((w - 1 - Nat.log2 (b % 2 ^ w) : Nat) : Int)) = ((BitVec.ofNat w b).clz.toNat : Nat) := by
  have hb : (BitVec.ofNat w b).toNat = b % 2 ^ w := BitVec.toNat_ofNat ..
  generalize BitVec.ofNat w b = x at hb
  rw [← hb]
  split
  · next h =>
    have hx : x = 0#w := BitVec.eq_of_toNat_eq (by simpa using h)
    have hc : x.clz = w := (BitVec.clz_eq_iff_eq_zero).mpr hx
    rw [hc, BitVec.natCast_eq_ofNat, BitVec.toNat_ofNat, Nat.mod_eq_of_lt Nat.lt_two_pow_self]
  · next h =>
    have hx : x ≠ 0#w := fun e => h (by simp [e])
    have hlo := BitVec.two_pow_sub_clz_le_toNat_of_ne_zero hw hx
    have hhi := BitVec.toNat_lt_two_pow_sub_clz (x := x)
    have hlt : x.clz.toNat < w := by
      have := BitVec.clz_lt_iff_ne_zero.mpr hx
      rwa [BitVec.lt_def, BitVec.natCast_eq_ofNat, BitVec.toNat_ofNat, Nat.mod_eq_of_lt Nat.lt_two_pow_self] at this
    have hlog : Nat.log2 x.toNat = w - 1 - x.clz.toNat := by
      refine (Nat.log2_eq_iff h).mpr ⟨hlo, ?_⟩
      rwa [show w - 1 - x.clz.toNat + 1 = w - x.clz.toNat by omega]
    rw [hlog]
    omega

/-- The bits of a number with a field replaced. -/
theorem testBit_setBits (x lo w v i : Nat) :
    (setBits x lo w v).testBit i = if i < lo ∨ lo + w ≤ i then x.testBit i else v.testBit (i - lo) := by
  have hs : setBits x lo w v = 2 ^ lo * (2 ^ w * (x / 2 ^ (lo + w)) + v % 2 ^ w) + x % 2 ^ lo := by
    unfold setBits
    rw [Nat.pow_add]
    grind
  rw [hs, Nat.testBit_two_pow_mul_add _ (Nat.mod_lt _ (Nat.two_pow_pos lo)),
    Nat.testBit_two_pow_mul_add _ (Nat.mod_lt _ (Nat.two_pow_pos w)), Nat.testBit_mod_two_pow, Nat.testBit_mod_two_pow,
    Nat.testBit_div_two_pow]
  by_cases h1 : i < lo
  · simp [h1]
  · by_cases h2 : lo + w ≤ i
    · have h3 : ¬ i - lo < w := by omega
      have h4 : lo + w + (i - lo - w) = i := by omega
      simp [h1, h2, h3, h4, Nat.add_comm]
    · have h3 : i - lo < w := by omega
      simp [h1, h2, h3]

/-- The field length lies inside the word. -/
theorem fieldLen_le (pos len w : Nat) (h : fieldLen pos len w ≠ 0) : pos + fieldLen pos len w ≤ w := by
  unfold fieldLen at *
  split at h
  · exact absurd rfl h
  · next hc => rw [if_neg hc]; omega

theorem iBfx_eq (signed : Bool) {w : Nat} (a pos n : Nat) :
    (if n = 0 then 0 else readInt signed n (bitsAt (a % 2 ^ w) pos n)) = num signed ((BitVec.ofNat w a >>> pos).setWidth n) := by
  have hx : BitVec.ofNat n (bitsAt (a % 2 ^ w) pos n) = (BitVec.ofNat w a >>> pos).setWidth n :=
    BitVec.eq_of_toNat_eq (by simp [bitsAt, Nat.shiftRight_eq_div_pow])
  split
  · next h => subst h; cases signed <;> simp [num, BitVec.of_length_zero]
  · rw [readInt_eq_num, hx]

theorem iBfi_eq {w : Nat} (a c pos n : Nat) (h : n ≠ 0 → pos + n ≤ w) :
    (if n = 0 then (c % 2 ^ w : Nat) else (setBits (c % 2 ^ w) pos n a : Nat)) =
      ((BitVec.ofNat w c &&& ~~~((BitVec.allOnes w >>> (w - n)) <<< pos)) |||
        ((BitVec.ofNat w a <<< pos) &&& ((BitVec.allOnes w >>> (w - n)) <<< pos))).toNat := by
  refine Nat.eq_of_testBit_eq fun i => ?_
  rw [← BitVec.getLsbD]
  have hm : ((BitVec.allOnes w >>> (w - n)) <<< pos).getLsbD i = decide (pos ≤ i ∧ i < pos + n ∧ i < w) := by
    simp only [BitVec.getLsbD_shiftLeft, BitVec.getLsbD_ushiftRight, BitVec.getLsbD_allOnes]
    grind
  simp only [BitVec.getLsbD_or, BitVec.getLsbD_and, BitVec.getLsbD_not, hm, BitVec.getLsbD_ofNat, BitVec.getLsbD_shiftLeft]
  split
  · rw [Nat.testBit_mod_two_pow]
    grind
  · rw [testBit_setBits, Nat.testBit_mod_two_pow]
    grind

theorem iBrev_eq {w : Nat} (b : Nat) :
    (List.range w).foldl (fun x i => if b.testBit i then x + 2 ^ (w - 1 - i) else x) 0 = (BitVec.ofNat w b).reverse.toNat := by
  generalize hR : (BitVec.ofNat w b).reverse.toNat = R
  have hbit : ∀ i, i < w → R.testBit (w - 1 - i) = b.testBit i := by
    intro i hi
    have hback : w - 1 - (w - 1 - i) = i := by omega
    have hlt : w - 1 - i < w := by omega
    rw [← hR, ← BitVec.getLsbD, BitVec.getLsbD_reverse, BitVec.getMsbD, hback, BitVec.getLsbD_ofNat]
    simp only [hlt, hi, decide_true, Bool.true_and]
  have top : ∀ n, n ≤ w → (List.range n).foldl (fun x i => if b.testBit i then x + 2 ^ (w - 1 - i) else x) 0 =
      2 ^ (w - n) * (R / 2 ^ (w - n)) := by
    intro n hn
    induction n with
    | zero =>
      have hlt : R < 2 ^ w := hR ▸ (BitVec.ofNat w b).reverse.isLt
      simp [Nat.div_eq_of_lt hlt]
    | succ n ih =>
      rw [List.range_succ, List.foldl_append, ih (by omega), List.foldl_cons, List.foldl_nil]
      have hpow : 2 ^ (w - n) = 2 ^ (w - 1 - n) * 2 := by rw [← Nat.pow_succ]; congr 1; omega
      have hb := hbit n (by omega)
      rw [show w - (n + 1) = w - 1 - n by omega, ← hb, hpow, ← Nat.div_div_eq_div_mul, Nat.testBit_eq_decide_div_mod_eq]
      have hmod := Nat.div_add_mod (R / 2 ^ (w - 1 - n)) 2
      rcases Nat.mod_two_eq_zero_or_one (R / 2 ^ (w - 1 - n)) with h | h <;> rw [h] at hmod <;> simp only [h] <;>
        conv => rhs; rw [← hmod]
      · simp only [Nat.zero_ne_one, decide_false, Bool.false_eq_true, if_false]; grind
      · simp only [decide_true, if_true]; grind
  simpa using top w (Nat.le_refl w)

theorem mod_two_pow_mod {w k : Nat} (h : k ≤ w) (b : Nat) : b % 2 ^ w % 2 ^ k = b % 2 ^ k :=
  Nat.mod_mod_of_dvd b (Nat.pow_dvd_pow 2 h)

theorem fieldLen_eq_lenOf : fieldLen = lenOf := rfl

/-- The length byte of a bit-field operand lies in its low 16 bits. -/
theorem lenByte_mod {w : Nat} (hw : 16 ≤ w) (b : Nat) : b % 2 ^ w / 256 % 256 = b / 256 % 256 := by
  have h := mod_two_pow_mod hw b
  omega

/-- The model's integer functions give the exact results of Tables 4.4 and 4.6 of the operands' low w bits. -/
theorem intFn_eq_exact (op : IntOp) (signed : Bool) {w : Nat} (hw : 32 ≤ w) (a b c : Nat) :
    intFn op signed w a b c = exact op signed (BitVec.ofNat w a) (BitVec.ofNat w b) (BitVec.ofNat w c) := by
  have hpos : b % 2 ^ w % 256 = b % 256 := mod_two_pow_mod (k := 8) (by omega) b
  have hlen := lenByte_mod (show 16 ≤ w by omega) b
  cases op with
  | add => simp only [intFn, iAdd, exact, readInt_eq_num]
  | sub => simp only [intFn, iSub, exact, readInt_eq_num]
  | mul => simp only [intFn, iMul, exact, readInt_eq_num]
  | mulh =>
    simp only [intFn, iMulh, exact, readInt_eq_num]
    rw [Int.fdiv_eq_ediv_of_nonneg _ (Int.le_of_lt (Int.pow_pos (by decide)))]
    norm_cast
  | mad => simp only [intFn, iMad, exact, readInt_eq_num]
  | and => simp [intFn, iAnd, exact]
  | or => simp [intFn, iOr, exact]
  | xor => simp [intFn, iXor, exact]
  | not => exact congrArg Nat.cast (iNot_eq b)
  | shl => simp [intFn, iShl, exact]
  | shr => exact iShr_eq a b
  | sra => exact iSra_eq a b
  | min => simp only [intFn, iMin, exact, readInt_eq_num]
  | max => simp only [intFn, iMax, exact, readInt_eq_num]
  | mov => simp only [intFn, iMov, exact, readInt_eq_num]
  | abs => simp only [intFn, iAbs, exact, readInt_eq_num]
  | neg => simp only [intFn, iNeg, exact, readInt_eq_num]
  | clz => exact iClz_eq (by omega) b
  | popc => simp [intFn, iPopc, exact, popCount_eq, BitVec.getLsbD]
  | bfx =>
    unfold exact
    rw [BitVec.toNat_ofNat, hpos, hlen]
    exact iBfx_eq signed a _ _
  | bfi =>
    simp only [intFn, iBfi, exact, BitVec.toNat_ofNat, hpos, hlen]
    rw [fieldLen_eq_lenOf, ← iBfi_eq a c _ _ (fieldLen_eq_lenOf ▸ fieldLen_le _ _ _)]
    exact (apply_ite Nat.cast _ _ _).symm
  | brev => exact congrArg Nat.cast (iBrev_eq b)
  | sel =>
    simp only [intFn, iSel, exact, readInt_eq_num, ← BitVec.toNat_inj, BitVec.toNat_ofNat, BitVec.ofNat_eq_ofNat, Nat.zero_mod]
  | join =>
    simp only [intFn, iJoin, exact, BitVec.toNat_ofNat, mod_two_pow_mod hw]
  | cmp cond => simp only [intFn, iCmp, exact, readInt_eq_num, condHolds_eq_holds]

/-- The frame of an instruction that has an L form, and what the instruction does, of its literal (R45). -/
def formOf : Instr → Option (FFrame × (Option W32 → FFrame → Body))
  | .sadd f => some (f, bodySadd)
  | .ssub f => some (f, bodySsub)
  | .smul f => some (f, bodySmul)
  | .smulh f => some (f, bodySmulh)
  | .sand f => some (f, bodySand)
  | .sor f => some (f, bodySor)
  | .sxor f => some (f, bodySxor)
  | .snot f => some (f, bodySnot)
  | .sshl f => some (f, bodySshl)
  | .sshr f => some (f, bodySshr)
  | .ssra f => some (f, bodySsra)
  | .smin f => some (f, bodySmin)
  | .smax f => some (f, bodySmax)
  | .smov f => some (f, bodySmov)
  | .sli f => some (f, bodySli)
  | .scmp f => some (f, bodyScmp)
  | .ssel f => some (f, bodySsel)
  | .sclz f => some (f, bodySclz)
  | .spopc f => some (f, bodySpopc)
  | .sbfx f => some (f, bodySbfx)
  | .sbfi f => some (f, bodySbfi)
  | .vadd f => some (f, bodyVadd)
  | .vsub f => some (f, bodyVsub)
  | .vmul f => some (f, bodyVmul)
  | .vmulh f => some (f, bodyVmulh)
  | .vmad f => some (f, bodyVmad)
  | .vand f => some (f, bodyVand)
  | .vor f => some (f, bodyVor)
  | .vxor f => some (f, bodyVxor)
  | .vnot f => some (f, bodyVnot)
  | .vshl f => some (f, bodyVshl)
  | .vshr f => some (f, bodyVshr)
  | .vsra f => some (f, bodyVsra)
  | .vmin f => some (f, bodyVmin)
  | .vmax f => some (f, bodyVmax)
  | .vabs f => some (f, bodyVabs)
  | .vneg f => some (f, bodyVneg)
  | .vclz f => some (f, bodyVclz)
  | .vpopc f => some (f, bodyVpopc)
  | .vbfx f => some (f, bodyVbfx)
  | .vbfi f => some (f, bodyVbfi)
  | .vbrev f => some (f, bodyVbrev)
  | .vsel f => some (f, bodyVsel)
  | .vmov f => some (f, bodyVmov)
  | .vli f => some (f, bodyVli)
  | .vaddc f => some (f, bodyVaddc)
  | .vsubb f => some (f, bodyVsubb)
  | .vcmp f => some (f, bodyVcmp)
  | .vidot4 f => some (f, bodyVidot4)
  | .vfadd f => some (f, bodyVfadd)
  | .vfsub f => some (f, bodyVfsub)
  | .vfmul f => some (f, bodyVfmul)
  | .vfma f => some (f, bodyVfma)
  | .vfmin f => some (f, bodyVfmin)
  | .vfmax f => some (f, bodyVfmax)
  | .vfabs f => some (f, bodyVfabs)
  | .vfneg f => some (f, bodyVfneg)
  | .vfcmp f => some (f, bodyVfcmp)
  | .vfclass f => some (f, bodyVfclass)
  | .vfround f => some (f, bodyVfround)
  | .vfdot2 f => some (f, bodyVfdot2)
  | .vfscale f => some (f, bodyVfscale)
  | .vrcp f => some (f, bodyVrcp)
  | .vrsq f => some (f, bodyVrsq)
  | .vsqrt f => some (f, bodyVsqrt)
  | .vexp2 f => some (f, bodyVexp2)
  | .vlog2 f => some (f, bodyVlog2)
  | .vsin f => some (f, bodyVsin)
  | .vcos f => some (f, bodyVcos)
  | .vtanh f => some (f, bodyVtanh)
  | _ => none

/-- What the instruction of an L code does (Table 2.10). -/
def literalAt : Nat → Option (Option W32 → FFrame → Body)
  | 0x00 => some bodySadd
  | 0x01 => some bodySsub
  | 0x02 => some bodySmul
  | 0x03 => some bodySmulh
  | 0x04 => some bodySand
  | 0x05 => some bodySor
  | 0x06 => some bodySxor
  | 0x07 => some bodySnot
  | 0x08 => some bodySshl
  | 0x09 => some bodySshr
  | 0x0A => some bodySsra
  | 0x0B => some bodySmin
  | 0x0C => some bodySmax
  | 0x0D => some bodySmov
  | 0x0E => some bodySli
  | 0x0F => some bodyScmp
  | 0x10 => some bodySsel
  | 0x11 => some bodySclz
  | 0x12 => some bodySpopc
  | 0x13 => some bodySbfx
  | 0x14 => some bodySbfi
  | 0x40 => some bodyVadd
  | 0x41 => some bodyVsub
  | 0x42 => some bodyVmul
  | 0x43 => some bodyVmulh
  | 0x44 => some bodyVmad
  | 0x45 => some bodyVand
  | 0x46 => some bodyVor
  | 0x47 => some bodyVxor
  | 0x48 => some bodyVnot
  | 0x49 => some bodyVshl
  | 0x4A => some bodyVshr
  | 0x4B => some bodyVsra
  | 0x4C => some bodyVmin
  | 0x4D => some bodyVmax
  | 0x4E => some bodyVabs
  | 0x4F => some bodyVneg
  | 0x50 => some bodyVclz
  | 0x51 => some bodyVpopc
  | 0x52 => some bodyVbfx
  | 0x53 => some bodyVbfi
  | 0x54 => some bodyVbrev
  | 0x55 => some bodyVsel
  | 0x56 => some bodyVmov
  | 0x57 => some bodyVli
  | 0x58 => some bodyVaddc
  | 0x59 => some bodyVsubb
  | 0x5A => some bodyVcmp
  | 0x5B => some bodyVidot4
  | 0xA0 => some bodyVfadd
  | 0xA1 => some bodyVfsub
  | 0xA2 => some bodyVfmul
  | 0xA3 => some bodyVfma
  | 0xA4 => some bodyVfmin
  | 0xA5 => some bodyVfmax
  | 0xA6 => some bodyVfabs
  | 0xA7 => some bodyVfneg
  | 0xA8 => some bodyVfcmp
  | 0xA9 => some bodyVfclass
  | 0xAA => some bodyVfround
  | 0xAB => some bodyVfdot2
  | 0xAC => some bodyVfscale
  | 0xC0 => some bodyVrcp
  | 0xC1 => some bodyVrsq
  | 0xC2 => some bodyVsqrt
  | 0xC3 => some bodyVexp2
  | 0xC4 => some bodyVlog2
  | 0xC5 => some bodyVsin
  | 0xC6 => some bodyVcos
  | 0xC7 => some bodyVtanh
  | _ => none

/-- An F code of Table 2.9 names what its L code, 0x40 below it, names (R45). -/
theorem formOf_of_mem_mapF {p : Nat × (FFrame → Instr)} (h : p ∈ mapF) (f : FFrame) :
    formOf (p.2 f) = (literalAt (p.1 - 0x40)).map (fun b => (f, b)) := by
  revert p
  simp only [← List.map_inj_left]
  have h0 : mapF0.map (fun p => formOf (p.2 f)) = mapF0.map (fun p => (literalAt (p.1 - 0x40)).map (fun b => (f, b))) := rfl
  have h1 : mapF1.map (fun p => formOf (p.2 f)) = mapF1.map (fun p => (literalAt (p.1 - 0x40)).map (fun b => (f, b))) := rfl
  have h2 : mapF2.map (fun p => formOf (p.2 f)) = mapF2.map (fun p => (literalAt (p.1 - 0x40)).map (fun b => (f, b))) := rfl
  have h3 : mapF3.map (fun p => formOf (p.2 f)) = mapF3.map (fun p => (literalAt (p.1 - 0x40)).map (fun b => (f, b))) := rfl
  have h4 : mapF4.map (fun p => formOf (p.2 f)) = mapF4.map (fun p => (literalAt (p.1 - 0x40)).map (fun b => (f, b))) := rfl
  simp only [mapF, List.map_append, h0, h1, h2, h3, h4]

theorem literalBody_of_literalAt {l : LFrame} {b : Option W32 → FFrame → Body} (h : literalAt l.op.toNat = some b) :
    literalBody l = b (some l.lit) l.toF := by
  unfold literalBody
  unfold literalAt at h
  generalize l.op.toNat = n at h ⊢
  split at h <;> cases h <;> rfl

theorem hasForm_iff (l : LFrame) : l.hasForm = (literalAt l.op.toNat).isSome := by
  have all : ∀ n : BitVec 8, (decide (n.toNat ≤ 0x14) || (decide (0x40 ≤ n.toNat) && decide (n.toNat ≤ 0x5B)) ||
      (decide (0xA0 ≤ n.toNat) && decide (n.toNat ≤ 0xAC)) || (decide (0xC0 ≤ n.toNat) && decide (n.toNat ≤ 0xC7))) =
        (literalAt n.toNat).isSome := by decide
  exact all l.op

theorem exec_of_formOf {i : Instr} {f : FFrame} {b : Option W32 → FFrame → Body} (h : formOf i = some (f, b)) (s : State) :
    exec i s = issueF f.guard (b none f) s := by
  unfold formOf at h
  split at h <;> cases h <;> rfl

/-- An instruction with an L form, in either form, is its body under its guard. -/
theorem exec_of_formOf_asF {i : Instr} {f : FFrame} {b : Option W32 → FFrame → Body} (h : formOf (asF i).1 = some (f, b)) (s : State) :
    exec i s = issueF f.guard (b (asF i).2 f) s := by
  obtain hi | ⟨l, rfl, ⟨k, hk, hi⟩ | hi⟩ := asF_cases i
  · rw [hi] at h ⊢
    exact exec_of_formOf h s
  · rw [hi] at h ⊢
    have hat := formOf_of_mem_mapF hk l.toF
    rw [h, Nat.add_sub_cancel] at hat
    obtain ⟨b', hb', heq⟩ := Option.map_eq_some_iff.mp hat.symm
    cases heq
    have hform : l.hasForm = true := by rw [hasForm_iff, hb']; rfl
    show issueF l.guard (fun e => do trapIf e (!l.hasForm) 0x01; literalBody l e) s = _
    rw [hform, literalBody_of_literalAt hb']
    rfl
  · rw [hi] at h
    cases h

/-! ### Scalar integer instructions (Table 4.4) -/

theorem formOf_of_scalarOp {lit : Option W32} {j : Instr} {f : FFrame} {sp : FSpec} {op : IntOp}
    (h : scalarOp lit.isSome j = some (f, sp, op)) : ∃ b, formOf j = some (f, b) ∧ b lit f = scalarInt sp (intFn op) lit f := by
  unfold scalarOp at h
  split at h
  case h_15 => cases h; exact ⟨_, rfl, by cases lit <;> rfl⟩
  all_goals cases h
  all_goals exact ⟨_, rfl, rfl⟩

theorem scalarOp_tys {lit : Bool} {j : Instr} {f : FFrame} {sp : FSpec} {op : IntOp} (h : scalarOp lit j = some (f, sp, op)) :
    sp.tys ⊆ intTys := by
  unfold scalarOp at h
  split at h
  case h_15 => cases h; change [0, 5, 6] ⊆ intTys; decide
  case h_16 => cases h; exact List.Subset.refl intTys
  all_goals cases h
  all_goals decide

/-- The integer types of R107 and R110 have 32 or 64 bits. -/
theorem width_of_intTys {f : FFrame} {sp : FSpec} {lit : Bool} {d : Ty} (hd : 32 ≤ d.width) (hs : sp.tys ⊆ intTys)
    (h : f.ok sp lit = true) : 32 ≤ (Ty.ofCode d f.ty).width := by
  have hty : f.ty.toNat ∈ intTys := by
    simp only [FFrame.ok, Bool.and_eq_true] at h
    exact hs (List.contains_iff_mem.mp h.1.1.2)
  simp only [intTys, List.mem_cons, List.not_mem_nil, or_false] at hty
  obtain h0 | hty := hty
  · simpa only [Ty.ofCode, h0] using hd
  · rcases hty with h | h | h | h <;> simp only [Ty.ofCode, h, Ty.width] <;> decide

theorem scalarBody_ok {sp : FSpec} {f : FFrame} {lit : Option W32} {fn : W64 → W64 → W64 → W64 × Events} {s t : State} {e : Env}
    {a b c : W64} (hr : FReady e sp f lit s) (hsrc : ScalarSources e sp f lit s a b c t) (hroom : Room e f.dst 1 t) :
    ∃ u, dstS e (e.active f.guard) f.dst (fn a b c).1 t = .ok ((), u) ∧
      scalarBody sp f lit fn e s = .ok (if e.active f.guard = 0 then 0 else (fn a b c).2, u) := by
  obtain ⟨s1, s2, ha, hb, hc⟩ := hsrc
  obtain ⟨u, hu⟩ := dstS_ok (m := e.active f.guard) (x := (fn a b c).1) hroom
  refine ⟨u, hu, ?_⟩
  unfold scalarBody
  rw [exec_bind_ok (begin_ok hr), exec_bind_ok (sources_ok ha hb hc)]
  exact exec_bind_ok hu

/-- The exact result of a scalar instruction, written by R92 and extended by R107. -/
def scalarResult (op : IntOp) (ty : Ty) (sat : Bool) (a b c : W64) : W64 × Events :=
  let r := written ty.signed ty.width sat (exact op ty.signed (a.setWidth ty.width) (b.setWidth ty.width) (c.setWidth ty.width))
  (scalarOf ty.signed r.1, r.2)

theorem scalarInt_eq {op : IntOp} {sp : FSpec} {lit : Option W32} {f : FFrame} (hw : 32 ≤ (Ty.ofCode .s64 f.ty).width) :
    scalarInt sp (intFn op) lit f = scalarBody sp f lit (scalarResult op (Ty.ofCode .s64 f.ty) (f.flags.getLsbD 0)) := by
  unfold scalarInt scalarResult
  simp only [intFn_eq_exact op _ hw, ← toNat_written, ← scalarOf_eq, BitVec.ofNat_toNat]

/-- Settles O1: an F form and its L form have one body, which reads the sources, computes the exact result and writes it. -/
theorem scalarIntegerResult : Obligations.ScalarIntegerResult := by
  intro i f sp op s t e a b c hop hr hsrc hroom ty r
  obtain ⟨body, hform, hbody⟩ := formOf_of_scalarOp hop
  have hw : 32 ≤ ty.width := width_of_intTys (by decide) (scalarOp_tys hop) hr.2.1
  obtain ⟨u, hu, hrun⟩ := scalarBody_ok (fn := scalarResult op ty (f.flags.getLsbD 0)) hr hsrc hroom
  refine ⟨u, hu, ?_⟩
  rw [exec_of_formOf_asF hform]
  exact issueF_ok hr.1 (by rw [hbody, scalarInt_eq hw]; exact hrun)

/-! ### Vector instructions whose lanes stand alone (Tables 4.6, 5.1 and 5.2) -/

theorem vectorBody_ok {sp : FSpec} {f : FFrame} {lit : Option W32} {ta tb tc : Ty} {wide : Bool}
    {fn : Nat → Nat → Nat → Nat → Nat × Events} {g : Nat → W64 × Events} {s t : State} {e : Env} {a b c : Lanes64}
    (hr : FReady e sp f lit s) (hsrc : vecSources e sp f lit ta tb tc s = .ok ((a, b, c), t))
    (hroom : Room e f.dst (if wide then 2 else 1) t)
    (hg : ∀ l, (let y := fn l (laneNat a l) (laneNat b l) (laneNat c l); (BitVec.ofNat 64 y.1, y.2)) = g l) :
    ∃ u, dstV e wide (e.active f.guard) f.dst (Claims.lanesOf (e.active f.guard) g).1 t = .ok ((), u) ∧
      vectorBody sp f lit ta tb tc wide fn e s = .ok ((Claims.lanesOf (e.active f.guard) g).2, u) := by
  obtain ⟨u, hu⟩ := dstV_ok (m := e.active f.guard) (x := (Claims.lanesOf (e.active f.guard) g).1) hroom
  refine ⟨u, hu, ?_⟩
  unfold vectorBody
  rw [exec_bind_ok (begin_ok hr), exec_bind_ok hsrc]
  simp only [laneValues_laneResults, laneEvents_laneResults]
  obtain rfl : _ = g := funext hg
  exact exec_bind_ok hu

theorem formOf_of_vectorOp {j : Instr} {f : FFrame} {sp : FSpec} {op : IntOp} (h : vectorOp j = some (f, sp, op)) :
    ∃ b, formOf j = some (f, b) ∧
      ((b = bodyVli ∧ sp = specVli f ∧ op = .mov) ∨ ∀ lit, b lit f = vectorInt sp (intFn op) lit f) := by
  unfold vectorOp at h
  split at h
  case h_23 => cases h; exact ⟨_, rfl, .inl ⟨rfl, rfl, rfl⟩⟩
  all_goals cases h
  all_goals exact ⟨_, rfl, .inr fun _ => rfl⟩

theorem vectorOp_tys {j : Instr} {f : FFrame} {sp : FSpec} {op : IntOp} (h : vectorOp j = some (f, sp, op)) : sp.tys = intTys := by
  unfold vectorOp at h
  split at h <;> cases h <;> rfl

/-- A lane of a vector integer instruction: the exact result written by R92. -/
def vectorResult (op : IntOp) (ty : Ty) (sat : Bool) (a b c : Nat) : Nat × Events :=
  let r := written ty.signed ty.width sat
    (exact op ty.signed (BitVec.ofNat ty.width a) (BitVec.ofNat ty.width b) (BitVec.ofNat ty.width c))
  (r.1.toNat, r.2)

theorem vectorInt_eq {op : IntOp} {sp : FSpec} {lit : Option W32} {f : FFrame} (hw : 32 ≤ (Ty.ofCode .s32 f.ty).width) :
    vectorInt sp (intFn op) lit f =
      let t := Ty.ofCode .s32 f.ty
      vectorBody sp f lit t t t t.wide (fun _ => vectorResult op t (f.flags.getLsbD 0)) := by
  unfold vectorInt vectorResult
  simp only [intFn_eq_exact op _ hw, ← toNat_written]

/-- Moving a value that is not saturated keeps its low bits. -/
theorem vectorResult_mov (ty : Ty) : vectorResult .mov ty false = fun _ b _ => (b % 2 ^ ty.width, 0) := by
  funext a b c
  have hcast : ((b : Int) % 2 ^ ty.width).toNat = b % 2 ^ ty.width := by exact_mod_cast Int.toNat_natCast (b % 2 ^ ty.width)
  cases h : ty.signed <;> simp [vectorResult, written, exact, num, h, hcast]

/-- `VLI` takes no `.sat`. -/
theorem flags_of_specVli {f : FFrame} {lit : Bool} (h : f.ok (specVli f) lit = true) : f.flags.getLsbD 0 = false := by
  simp only [FFrame.ok, Bool.and_eq_true] at h
  obtain ⟨_, hflags⟩ := h
  have hz : f.flags = 0 := BitVec.eq_of_toNat_eq (by simpa [specVli, specV] using hflags)
  rw [hz]; rfl

/-- Settles O2: an F form and its L form have one body, which computes the exact result lane by lane. -/
theorem vectorIntegerResult : Obligations.VectorIntegerResult := by
  intro i f sp op s t e a b c hop hr ty hsrc hroom r
  obtain ⟨body, hform, hbody⟩ := formOf_of_vectorOp hop
  have hw : 32 ≤ ty.width := width_of_intTys (by decide) (vectorOp_tys hop ▸ List.Subset.refl _) hr.2.1
  have hb : body (asF i).2 f = vectorBody sp f (asF i).2 ty ty ty ty.wide (fun _ => vectorResult op ty (f.flags.getLsbD 0)) := by
    obtain ⟨rfl, rfl, rfl⟩ | hbody := hbody
    · rw [flags_of_specVli hr.2.1]
      rw [vectorResult_mov]
      rfl
    · rw [hbody, vectorInt_eq hw]
  obtain ⟨u, hu, hrun⟩ := vectorBody_ok (g := fun l =>
    let x := written ty.signed ty.width (f.flags.getLsbD 0)
      (exact op ty.signed ((lane a l).setWidth ty.width) ((lane b l).setWidth ty.width) ((lane c l).setWidth ty.width))
    (x.1.setWidth 64, x.2)) (fn := fun _ => vectorResult op ty (f.flags.getLsbD 0)) hr hsrc hroom (fun l => by
      simp only [vectorResult, laneNat, lane, BitVec.ofNat_toNat])
  refine ⟨u, hu, ?_⟩
  rw [exec_of_formOf_asF hform]
  exact issueF_ok hr.1 (by rw [hb]; exact hrun)

/-! ### Float, special-function and dot-product lanes -/

theorem idot4_eq (signed : Bool) (a b c : Nat) : idot4 signed a b c = dot4 signed a b c := by
  have hbyte : ∀ x : Nat, BitVec.ofNat 8 (x % 2 ^ 8) = BitVec.ofNat 8 x := fun x => BitVec.eq_of_toNat_eq (by simp)
  simp only [idot4, dot4, List.range, List.range.loop, List.foldl_cons, List.foldl_nil, readInt_eq_num, bitsAt, hbyte]

theorem bodyVfscale_eq (lit : Option W32) (f : FFrame) :
    bodyVfscale lit f = vectorBody (specFscale f) f lit (fty f) .s32 (fty f) (fty f).wide (fun _ a b _ =>
      let x := readF (fty f).fmt a
      let r := roundTo (fty f).fmt (x.1.scale (max (-8192) (min 8192 (num true (BitVec.ofNat 32 b)))))
        (Mode.ofCode f.variant.toNat) (f.flags.getLsbD 0)
      (r.1, x.2 ||| r.2)) := by
  simp only [← readInt_eq_num]
  rfl

theorem bodyVidot4_eq (lit : Option W32) (f : FFrame) :
    bodyVidot4 lit f = vectorBody specVidot f lit .s32 .s32 .s32 false (fun _ a b c =>
      let r := written (f.ty != 2) 32 (f.flags.getLsbD 0) (dot4 (f.ty != 2) a b c)
      (r.1.toNat, r.2)) := by
  have hty : (f.ty.toNat != 2) = (f.ty != 2) := by
    rw [Bool.eq_iff_iff, bne_iff_ne, bne_iff_ne, ne_eq, ne_eq, BitVec.toNat_eq]
    rfl
  unfold bodyVidot4
  simp only [hty, idot4_eq, toNat_written]

theorem formOf_of_laneOp {j : Instr} {x : LaneOp} (h : laneOp j = some x) (hc : ∀ g, j ≠ .vcvt g) :
    ∃ b, formOf j = some (x.f, b) ∧ ∀ lit, b lit x.f = vectorBody x.sp x.f lit x.ta x.tb x.tc x.wide (fun _ => x.fn) := by
  unfold laneOp at h
  split at h
  case h_19 => exact absurd rfl (hc _)
  all_goals cases h
  all_goals refine ⟨_, rfl, fun lit => ?_⟩
  case h_10 => exact bodyVfscale_eq lit _
  case h_20 => exact bodyVidot4_eq lit _
  all_goals rfl

/-- Settles O3: an instruction with an L form has one body in both; the conversion has its F form only. -/
theorem vectorLaneResult : Obligations.VectorLaneResult := by
  intro i x s t e a b c hop hcvt hr hsrc hroom m r
  obtain ⟨u, hu, hrun⟩ := vectorBody_ok (fn := fun _ => x.fn) hr hsrc hroom (fun l => rfl)
  refine ⟨u, hu, ?_⟩
  by_cases hc : ∃ g, (asF i).1 = .vcvt g
  · obtain ⟨g, hg⟩ := hc
    have hi : asF i = (i, none) := by
      obtain h | ⟨l, rfl, _⟩ := asF_cases i
      · exact h
      · exact absurd hg (hcvt l g rfl)
    rw [hi] at hg hop hrun
    cases hg
    cases hop
    exact issueF_ok hr.1 hrun
  · obtain ⟨body, hform, hbody⟩ := formOf_of_laneOp hop (fun g hg => hc ⟨g, hg⟩)
    rw [exec_of_formOf_asF hform]
    exact issueF_ok hr.1 (by rw [hbody]; exact hrun)

/-! ### Comparisons and the class test -/

/-- A mask given lane by lane has the bits that it is given. -/
theorem getLsbD_maskOf (fn : Nat → Bool) {l : Nat} (hl : l < 32) : (maskOf fn).getLsbD l = fn l := by
  have step : ∀ (m : W32) (n : Nat), (if fn n then m ||| (1#32 <<< n) else m).getLsbD l = (m.getLsbD l || (decide (l = n) && fn n)) := by
    intro m n
    have hbit : (1#32 <<< n).getLsbD l = decide (l = n) := by
      rw [BitVec.getLsbD_shiftLeft, BitVec.getLsbD_one, decide_eq_true hl]
      by_cases h : l = n
      · simp [h]
      · have h' : ¬ (¬ l < n ∧ l - n = 0) := by omega
        simpa [h] using h'
    split
    · next h => rw [BitVec.getLsbD_or, hbit, h, Bool.and_true]
    · next h => rw [Bool.not_eq_true] at h; rw [h, Bool.and_false, Bool.or_false]
  have upTo : ∀ n, ((List.range n).foldl (fun m l => if fn l then m ||| (1#32 <<< l) else m) 0).getLsbD l = (decide (l < n) && fn l) := by
    intro n
    induction n with
    | zero => rw [List.range_zero, List.foldl_nil]; exact BitVec.getLsbD_zero
    | succ n ih =>
      rw [List.range_succ, List.foldl_append, List.foldl_cons, List.foldl_nil, step, ih]
      by_cases h : l = n
      · subst h; simp
      · have hlt : l < n + 1 ↔ l < n := by omega
        simp only [h, hlt, decide_false, Bool.false_and, Bool.or_false]
  exact (upTo 32).trans (by simp [hl])

/-- A lane of lane results: computed in the lanes of the mask, 0 elsewhere. -/
theorem laneNat_laneValues (m : W32) (g : Nat → Nat × Events) {l : Nat} (hl : l < 32) (hm : m.getLsbD l = true) :
    laneNat (laneValues (laneResults m g)) l = (g l).1 % 2 ^ 64 := by
  simp only [laneNat, laneValues_laneResults, tabulate_getElem?, dif_pos hl, Option.getD_some, hm, if_true, BitVec.toNat_ofNat]

/-- Masks that agree in the lanes of m are equal there. -/
theorem maskOf_and_congr {m : W32} {fn gn : Nat → Bool} (h : ∀ l < 32, m.getLsbD l = true → fn l = gn l) :
    maskOf fn &&& m = maskOf gn &&& m := by
  refine BitVec.eq_of_getLsbD_eq fun l hl => ?_
  rw [BitVec.getLsbD_and, BitVec.getLsbD_and, getLsbD_maskOf _ hl, getLsbD_maskOf _ hl]
  cases hm : m.getLsbD l
  · simp
  · rw [h l hl hm]

theorem predBody_ok {sp : FSpec} {f : FFrame} {lit : Option W32} {ta tb : Ty} {fn : Nat → Nat → Bool × Events} {s t : State} {e : Env}
    {a b c : Lanes64} (hr : FReady e sp f lit s) (hsrc : vecSources e sp f lit ta tb ta s = .ok ((a, b, c), t)) :
    predBody sp f lit ta tb (fun a b => (if (fn a b).1 then 1 else 0, (fn a b).2)) e s =
      .ok ((Claims.lanesOf (e.active f.guard) (fun l => (0, (fn (laneNat a l) (laneNat b l)).2))).2,
        putP e (regNo f.dst) (e.active f.guard) (bitsOf (fun l => (fn (laneNat a l) (laneNat b l)).1)) t) := by
  unfold predBody
  rw [exec_bind_ok (begin_ok hr), exec_bind_ok hsrc]
  have hbits : ∀ sl : Slice, sl.setP (regNo f.dst) (e.active f.guard) (maskOf (fun l => laneNat (laneValues (laneResults (e.active f.guard)
      (fun l => (if (fn (laneNat a l) (laneNat b l)).1 then 1 else 0, (fn (laneNat a l) (laneNat b l)).2)))) l == 1)) =
      { sl with pred := sl.pred.setIfInBounds (regNo f.dst) ((bitsOf (fun l => (fn (laneNat a l) (laneNat b l)).1) &&& e.active f.guard) |||
        (sl.p (regNo f.dst) &&& ~~~(e.active f.guard))) } := by
    intro sl
    rw [Slice.setP, bitsOf, maskOf_and_congr]
    intro l hl hm
    rw [laneNat_laneValues _ _ hl hm]
    cases (fn (laneNat a l) (laneNat b l)).1 <;> rfl
  have hrun : dstP e (e.active f.guard) f.dst (maskOf (fun l => laneNat (laneValues (laneResults (e.active f.guard)
      (fun l => (if (fn (laneNat a l) (laneNat b l)).1 then 1 else 0, (fn (laneNat a l) (laneNat b l)).2)))) l == 1)) t = .ok ((),
      putP e (regNo f.dst) (e.active f.guard) (bitsOf (fun l => (fn (laneNat a l) (laneNat b l)).1)) t) := by
    unfold dstP putP
    simp only [hbits]
    rfl
  simp only [laneEvents_laneResults]
  exact exec_bind_ok hrun

theorem formOf_of_testOp {j : Instr} {f : FFrame} {sp : FSpec} {ta tb : Ty} {fn : Nat → Nat → Bool × Events}
    (h : testOp j = some (f, sp, ta, tb, fn)) :
    ∃ b, formOf j = some (f, b) ∧ ∀ lit, b lit f = predBody sp f lit ta tb (fun a b => (if (fn a b).1 then 1 else 0, (fn a b).2)) := by
  unfold testOp at h
  split at h <;> cases h
  · refine ⟨_, rfl, fun lit => ?_⟩
    simp only [← readInt_eq_num, ← condHolds_eq_holds]
    rfl
  · exact ⟨_, rfl, fun lit => rfl⟩
  · exact ⟨_, rfl, fun lit => rfl⟩

/-- Settles O4: an F form and its L form have one body, which sets the bits of the active lanes. -/
theorem vectorTestResult : Obligations.VectorTestResult := by
  intro i f sp ta tb fn s t e a b c hop hr hsrc m r
  obtain ⟨body, hform, hbody⟩ := formOf_of_testOp hop
  rw [exec_of_formOf_asF hform]
  exact issueF_ok hr.1 (by rw [hbody]; exact predBody_ok hr hsrc)

/-! ### `VFDOT2` -/

/-- What an instruction does with its lanes: the values are written and the events answered. -/
theorem lanes_ok {e : Env} {wide : Bool} {m : W32} {dst : BitVec 8} {g : Nat → Nat × Events} {h : Nat → W64 × Events} {t u : State}
    (hg : ∀ l, (BitVec.ofNat 64 (g l).1, (g l).2) = h l) (hu : dstV e wide m dst (Claims.lanesOf m h).1 t = .ok ((), u)) :
    (do dstV e wide m dst (laneValues (laneResults m g)); pure (laneEvents (laneResults m g)) : Exec Events) t =
      .ok ((Claims.lanesOf m h).2, u) := by
  obtain rfl : _ = h := funext hg
  simp only [laneValues_laneResults, laneEvents_laneResults]
  exact exec_bind_ok hu

/-- The second source of `VFDOT2`: the literal in every lane, or the operand. -/
def dotSrcB (e : Env) (ft : Fmt) (f : FFrame) : Option W32 → Exec Lanes64
  | some x => pure (splat (x.setWidth 64))
  | none => dotSrc e ft f.srcB none

/-- The elements of a lane that the model's `VFDOT2` reads are the two halves of the lane. -/
theorem readF_bitsAt (ft : Fmt) (v : Lanes64) (l i : Nat) : readF ft (bitsAt (laneNat v l) (16 * i) 16) = half ft v l i := rfl

theorem when_or (x y : Bool) : Events.when (x || y) Events.invalid = Events.when x Events.invalid ||| Events.when y Events.invalid := by
  revert x y; decide

/-- Settles O7: both forms read a, b and c, and round each active lane once. -/
theorem dotPairResult : Obligations.DotPairResult := by
  intro i f s s1 s2 t e a b c hop hr ft ha hlit hb hc hroom m r
  obtain ⟨u, hu⟩ := dstV_ok (wide := false) (m := m) (x := r.1) hroom
  refine ⟨u, hu, ?_⟩
  have hty : f.ty.toNat = 10 ↔ f.ty = 10 := by rw [BitVec.toNat_eq]; rfl
  rw [exec_of_formOf_asF (b := bodyVfdot2) (f := f) (by rw [hop]; rfl)]
  refine issueF_ok hr.1 ?_
  unfold bodyVfdot2
  simp only [hty, readF_bitsAt]
  rw [exec_bind_ok (begin_ok hr), exec_bind_ok (sources_ok ha (y := b) (s2 := s2) ?_ hc)]
  · refine lanes_ok (fun l => Prod.ext rfl ?_) hu
    show _ ||| Events.when (_ || _) Events.invalid = _
    rw [when_or]
    show _ = _ ||| (product _ _).2 ||| (product _ _).2 ||| _ ||| _ ||| _ ||| _ ||| _ ||| _
    simp only [product]
    ac_rfl
  · cases hl : (asF i).2 with
    | none => exact hb hl
    | some x => obtain ⟨rfl, rfl⟩ := hlit x hl; rfl

/-! ### Pair frames (R47 to R50) -/

/-- The P codes with a P form (Table 2.10). -/
def pCodes : List Nat :=
  [0x00, 0x01, 0x02, 0x03, 0x05, 0x06, 0x07, 0x08, 0x09, 0x0A, 0x0B, 0x0C, 0x0D, 0x0E, 0x0F, 0x10, 0x11, 0x12, 0x14, 0x16, 0x17, 0x60,
    0x61, 0x62, 0x64, 0x65, 0x66, 0x67, 0x6A, 0x6C]

theorem mem_pCodes {h : PHalf} (hf : h.hasForm = true) : h.op.toNat ∈ pCodes := by
  have all : ∀ n : BitVec 7, n.toNat ∉ pCodes →
      [0x00, 0x01, 0x02, 0x03, 0x05, 0x06, 0x07, 0x09, 0x0A, 0x0B, 0x0C, 0x0D, 0x12].contains n.toNat = false ∧
      [0x08, 0x0E, 0x0F, 0x10, 0x11, 0x14, 0x16].contains n.toNat = false ∧ n.toNat ≠ 0x17 ∧
      [0x60, 0x61, 0x62].contains n.toNat = false ∧ ¬(n.toNat = 0x64 ∨ n.toNat = 0x65) ∧
      ¬(n.toNat = 0x66 ∨ n.toNat = 0x67 ∨ n.toNat = 0x6A) ∧ n.toNat ≠ 0x6C := by decide
  refine Decidable.byContradiction fun hc => ?_
  obtain ⟨h1, h2, h3, h4, h5, h6, h7⟩ := all h.op hc
  have hn : pSpec h = none := by
    unfold pSpec
    simp only [h1, h2, h3, h4, h5, h6, h7, Bool.false_eq_true, if_false]
  rw [PHalf.hasForm, hn] at hf
  cases hf

/-- A half with a form stands for the F form 0x80 above its code. -/
theorem exec_of_halfForm {h : PHalf} (hf : h.hasForm = true) (s : State) :
    ∃ i, halfForm h = some i ∧ exec i s = issueF h.fguard (halfBody h) s := by
  have hc := mem_pCodes hf
  unfold halfForm halfBody
  generalize h.op.toNat = c at hc ⊢
  simp only [pCodes, List.mem_cons, List.not_mem_nil, or_false] at hc
  rcases hc with rfl | rfl | rfl | rfl | rfl | rfl | rfl | rfl | rfl | rfl | rfl | rfl | rfl | rfl | rfl | rfl | rfl | rfl | rfl |
    rfl | rfl | rfl | rfl | rfl | rfl | rfl | rfl | rfl | rfl | rfl
  all_goals exact ⟨_, rfl, rfl⟩

/-- An issue whose body completes. -/
theorem issue_ok {gs : List (BitVec 6)} {body : Env → Exec Unit} {s t : State} {e : Env} (he : s.env? = some e)
    (hb : body e s = .ok ((), t)) : issue gs body s = .next (issued e (gs.foldl (fun m g => m ||| e.active g) 0) t) := by
  unfold issue
  rw [he]
  simp only [hb, issued]

/-- Settles O36: with both codes formed and no static cause, the two bodies run one after the other. -/
theorem pairResult : Obligations.PairResult := by
  refine ⟨fun h s hf => exec_of_halfForm hf s, ?_⟩
  intro h0 h1 s s1 t e ev0 ev1 hf0 hf1 hc he hb0 hb1
  have hrun : (do
      let ev0 ← halfBody h0 e
      let ev1 ← halfBody h1 e
      recordEv e (ev0 ||| ev1)
      advance e 8 : Exec Unit) s = .ok ((), movePast e 8 (t.record e.g e.cur.a e.w.region (ev0 ||| ev1) e.path.pc)) := by
    rw [exec_bind_ok hb0, exec_bind_ok hb1]
    rfl
  have hissue : exec (.pairFrame h0 h1) s = .next (issued e ([h0.fguard, h1.fguard].foldl (fun m g => m ||| e.active g) 0)
      (movePast e 8 (t.record e.g e.cur.a e.w.region (ev0 ||| ev1) e.path.pc))) := by
    refine issue_ok he ?_
    rw [hf0, hf1, hc]
    exact (exec_bind_ok (trapIf_false e _ _ _ s)).trans hrun
  rw [hissue]
  simp [done]

end Sys2Proof.Proofs
end

section
/-!
PROOFS. The control instructions (R93 to R104): what each does where a lane is active, and that it moves on where none is.
-/
namespace Sys2Proof.Proofs
open Sys2Proof.Machine Sys2Proof.Claims Sys2Proof.Laws

/-! ### Operands of control frames -/

theorem exec_get (s : State) : (get : Exec State) s = .ok (s, s) := rfl

/-- A control frame that names an s register gives its value. -/
theorem controlScalar_ok {e : Env} {c : CFrame} {s : State} (hc : RC.of c.reg = .s) (h : RegReady e c s) :
    controlScalar e c s = .ok (e.sl.s (regNo c.reg), s) := by
  unfold controlScalar
  rw [exec_bind_ok (checkNamed_ok (by simpa using h)), srcS]
  simp only [hc]
  rfl

theorem regClass_of_test {e : Env} {c : CFrame} {rc : RC} {g : Bool} {s : State} (h : CReady e c (.test rc) g s) : RC.of c.reg = rc := by
  obtain ⟨_, h⟩ := h
  simp only [CFrame.ok, Bool.and_eq_true, beq_iff_eq] at h
  exact h.2

theorem regClass_of_indirect {e : Env} {c : CFrame} {g : Bool} {s : State} (h : CReady e c .indirect g s) : RC.of c.reg = .s := by
  obtain ⟨_, h⟩ := h
  simp only [CFrame.ok, Bool.and_eq_true, beq_iff_eq] at h
  exact h.2.1

/-- An aligned value of a register is a target (R39). -/
theorem checkTarget_reg (e : Env) {v : W64} (h : v.toNat % 8 = 0) (s : State) : checkTarget e v s = .ok (v.setWidth 56, s) := by
  unfold checkTarget
  rw [h]
  exact exec_bind_ok (trapIf_false e _ _ _ s)

theorem some_iff (e : Env) (g : BitVec 6) : e.some_ g = decide (e.active g ≠ 0) := by
  rw [Env.some_, Bool.eq_iff_iff, bne_iff_ne, decide_eq_true_iff]

/-! ### Branches, `YIELD` and `SLEEP` -/

theorem exec_bra {c : CFrame} {s : State} {e : Env} (h : CReady e c .long true s) :
    exec (.bra c) s = .next (issued e (e.active c.guard)
      (if e.active c.guard = 0 then movePast e 8 s else goTo e (offsetPc e c.body) s)) := by
  refine issueC_ok h ?_
  by_cases hm : e.active c.guard = 0
  · rw [not_anyActive_of_eq hm, if_pos hm]; rfl
  · rw [anyActive_of_ne hm, if_neg hm]; rfl

theorem branchTest_ok {c : CFrame} {s : State} {e : Env} (hc : RC.of c.reg = .s) (h : RegReady e c s) (nonzero : Bool) :
    branchTest nonzero c e s = .ok ((), if e.active c.guard ≠ 0 ∧ ((e.sl.s (regNo c.reg) = 0) ↔ nonzero = false) then
      goTo e (offsetPc e c.low) s else movePast e 8 s) := by
  unfold branchTest
  rw [exec_bind_ok (controlScalar_ok hc h), some_iff]
  have hcond : (decide (e.active c.guard ≠ 0) && (e.sl.s (regNo c.reg) == 0) != nonzero) = true ↔
      (e.active c.guard ≠ 0 ∧ ((e.sl.s (regNo c.reg) = 0) ↔ nonzero = false)) := by
    cases nonzero <;> simp
  by_cases hb : e.active c.guard ≠ 0 ∧ ((e.sl.s (regNo c.reg) = 0) ↔ nonzero = false)
  · rw [if_pos (hcond.mpr hb), if_pos hb]; rfl
  · rw [if_neg (mt hcond.mp hb), if_neg hb]; rfl

theorem exec_brx {c : CFrame} {s : State} {e : Env} (h : CReady e c .indirect true s) (hr : RegReady e c s)
    (ha : (e.sl.s (regNo c.reg)).toNat % 8 = 0) :
    exec (.brx c) s = .next (issued e (e.active c.guard)
      (if e.active c.guard = 0 then movePast e 8 s else goTo e ((e.sl.s (regNo c.reg)).setWidth 56) s)) := by
  refine issueC_ok h ((exec_bind_ok (controlScalar_ok (regClass_of_indirect h) hr)).trans ?_)
  by_cases hm : e.active c.guard = 0
  · rw [not_anyActive_of_eq hm, if_pos hm]; rfl
  · rw [anyActive_of_ne hm, if_neg hm]
    exact exec_bind_ok (checkTarget_reg e ha s)

theorem exec_yield {c : CFrame} {s : State} {e : Env} (h : CReady e c .none true s) :
    exec (.yield c) s = .next (issued e (e.active c.guard) (movePast e 8 (if e.active c.guard = 0 then s else
      onSlice e (fun sl => { sl with yieldEnd := some ((s.die (dieOf e.g.core)).dcyc + 33) }) s))) := by
  refine issueC_ok h ((exec_bind_ok (exec_get s)).trans ?_)
  by_cases hm : e.active c.guard = 0
  · rw [not_anyActive_of_eq hm, if_pos hm]; rfl
  · rw [anyActive_of_ne hm, if_neg hm]; rfl

theorem exec_sleep {c : CFrame} {s : State} {e : Env} (h : CReady e c .indirect true s) (hr : RegReady e c s) :
    exec (.sleep c) s = .next (issued e (e.active c.guard)
      (if e.active c.guard ≠ 0 ∧ s.ptb (dieOf e.g.core) < (e.sl.s (regNo c.reg)).toNat then
        onSlice e (fun sl => { sl with sleep := some (e.sl.s (regNo c.reg)) }) s else movePast e 8 s)) := by
  refine issueC_ok h ((exec_bind_ok (controlScalar_ok (regClass_of_indirect h) hr)).trans ((exec_bind_ok (exec_get s)).trans ?_))
  rw [some_iff, ← Bool.decide_and]
  by_cases hb : e.active c.guard ≠ 0 ∧ s.ptb (dieOf e.g.core) < (e.sl.s (regNo c.reg)).toNat
  · rw [if_pos hb, decide_eq_true hb]; rfl
  · rw [if_neg hb, decide_eq_false hb]; rfl

/-- Settles O12: each instruction in turn. -/
theorem controlTransfer : Obligations.ControlTransfer := by
  intro c s e m v
  refine ⟨fun h => issueC_ok h rfl, exec_bra, fun h hr => ⟨?_, ?_⟩, exec_brx, exec_yield, exec_sleep⟩
  · exact issueC_ok h (by simpa [m, v] using branchTest_ok (regClass_of_test h) hr false)
  · exact issueC_ok h (by simpa [m, v] using branchTest_ok (regClass_of_test h) hr true)

/-! ### Calls and returns -/

/-- Outside handler mode the instruction is its body. -/
theorem notInHandler_ok {e : Env} (h : e.sl.hmode = false) (s : State) : notInHandler e s = .ok ((), s) := by
  unfold notInHandler
  rw [h]; rfl

/-- A call with room for its entry. -/
theorem callTo_ok {e : Env} {s u : State} (target : Va) (hroom : e.sl.cstackN < cstackOf e.w.desc)
    (hw : writeEntry e true e.sl.cstackN (callEntry (e.path.pc + 8) e.path.mask) s = .ok ((), u)) :
    callTo e target s = .ok ((), goTo e target (onSlice e (fun sl => { sl with cstackN := e.sl.cstackN + 1 }) u)) := by
  unfold callTo
  rw [decide_eq_false (by omega), exec_bind_ok (trapIf_false e _ _ _ s), exec_bind_ok hw]
  rfl

theorem ret_ok {e : Env} {s u w : State} {l l1 : List (Va × W32)} {pc : Va} (hread : readCalls e e.sl.cstackN s = .ok (l, u))
    (hmatch : matchReturn e.path.mask l = some (pc, l1)) (ha : pc.toNat % 8 = 0) (hset : setCalls e l1 u = .ok ((), w)) :
    ret e s = .ok ((), goTo e pc w) := by
  unfold ret
  rw [exec_bind_ok hread, hmatch]
  exact (exec_bind_ok (checkTarget_ok e ha u)).trans (exec_bind_ok hset)

theorem call_run {c : CFrame} {s t : State} {e : Env} (h : CReady e c .long true s) (hh : e.sl.hmode = false)
    (hb : (if e.some_ c.guard then callTo e (offsetTarget e c.body) else advance e 8) s = .ok ((), t)) :
    exec (.call c) s = .next (issued e (e.active c.guard) t) :=
  issueC_ok h ((exec_bind_ok (notInHandler_ok hh s)).trans hb)

theorem callx_run {c : CFrame} {s t : State} {e : Env} (h : CReady e c .indirect true s) (hr : RegReady e c s) (hh : e.sl.hmode = false)
    (hb : (if e.some_ c.guard then do
        let t ← checkTarget e (e.sl.s (regNo c.reg))
        callTo e t
      else advance e 8) s = .ok ((), t)) : exec (.callx c) s = .next (issued e (e.active c.guard) t) :=
  issueC_ok h ((exec_bind_ok (notInHandler_ok hh s)).trans ((exec_bind_ok (controlScalar_ok (regClass_of_indirect h) hr)).trans hb))

theorem ret_run {c : CFrame} {s t : State} {e : Env} (h : CReady e c .none true s) (hh : e.sl.hmode = false)
    (hb : (if e.some_ c.guard then ret e else advance e 8) s = .ok ((), t)) :
    exec (.ret c) s = .next (issued e (e.active c.guard) t) :=
  issueC_ok h ((exec_bind_ok (notInHandler_ok hh s)).trans hb)

/-- Settles O13: each instruction outside handler mode, with no lane active and with one. -/
theorem callReturn : Obligations.CallReturn := by
  intro c s u w e l l1 pc m v entry pushed hh
  refine ⟨fun h hm => ?_, fun h hr hm => ?_, fun h hm => ?_, fun hm hroom hw => ⟨fun h => ?_, fun h hr ha => ?_⟩,
    fun h hm hread hmatch ha hset => ?_⟩
  · exact call_run h hh (by rw [not_anyActive_of_eq hm]; rfl)
  · exact callx_run h hr hh (by rw [not_anyActive_of_eq hm]; rfl)
  · exact ret_run h hh (by rw [not_anyActive_of_eq hm]; rfl)
  · exact call_run h hh (by rw [anyActive_of_ne hm]; exact callTo_ok _ hroom hw)
  · exact callx_run h hr hh (by
      rw [anyActive_of_ne hm]
      exact (exec_bind_ok (checkTarget_reg e ha s)).trans (callTo_ok _ hroom hw))
  · exact ret_run h hh (by rw [anyActive_of_ne hm]; exact ret_ok hread hmatch ha hset)

/-! ### `BRD` -/

/-- Settles O14: the three outcomes of `split`. -/
theorem splitResult : Obligations.SplitResult := by
  intro c s u w e ps m taken rest one old new h hh
  have run : ∀ {t}, split e c s = .ok ((), t) → exec (.brd c) s = .next (issued e m t) := fun ht =>
    issueC_ok h ((exec_bind_ok (notInHandler_ok hh s)).trans ht)
  refine ⟨fun ht => run ?_, fun ht hr => run ?_, ?_⟩
  · unfold split
    rw [if_pos ht]; rfl
  · unfold split
    rw [if_neg ht, if_pos hr]; rfl
  · intro ht hr hd hread hroom qs hwrite
    refine run ?_
    have hdepth : (e.path.depth == 0xFFFF#16) = false := beq_eq_false_iff_ne.mpr hd
    unfold split
    rw [if_neg ht, if_neg hr, hdepth, exec_bind_ok (trapIf_false e _ _ _ s), exec_bind_ok hread]
    have hdone : (do
        writePaths e qs.settled
        modSl e (fun sl => { sl with ageCtr := e.sl.ageCtr + 1 }) : Exec Unit) u =
        .ok ((), onSlice e (fun sl => { sl with ageCtr := e.sl.ageCtr + 1 }) w) := exec_bind_ok hwrite
    refine Eq.trans ?_ hdone
    cases ho : e.sl.slot (!one) with
    | none =>
      have hqs : qs = (ps.setSlot one (some old)).setSlot (!one) (some new) := by simp only [qs, ho]
      rw [hqs]
      rfl
    | some o =>
      have htrap : decide (dstackOf e.w.desc ≤ e.sl.dstackN) = false := decide_eq_false (by have := hroom o ho; omega)
      refine (exec_bind_ok (by rw [htrap]; rfl)).trans ?_
      by_cases hage : e.path.age < o.age
      · have hqs : qs = { ps.setSlot one (some new) with stack := old :: ps.stack } := by simp only [qs, ho, if_pos hage]
        rw [if_pos hage, hqs]
        rfl
      · have hqs : qs = { (ps.setSlot one (some old)).setSlot (!one) (some new) with stack := o :: ps.stack } := by
          simp only [qs, ho, if_neg hage]
        rw [if_neg hage, hqs]
        rfl

/-! ### `JOIN`, `EXIT` and `BRQ` -/

theorem exec_join {c : CFrame} {s t : State} {e : Env} (h : CReady e c .none false s) (hh : e.sl.hmode = false)
    (hb : joinPath e s = .ok ((), t)) : exec (.join c) s = .next (issued e (e.active c.guard) t) :=
  issueC_ok h ((exec_bind_ok (notInHandler_ok hh s)).trans hb)

/-- What an `EXIT` with an active lane does: its lanes end, and handler mode is left where it held. -/
theorem exec_exit_active {c : CFrame} {s t : State} {e : Env} (h : CReady e c .none true s) (hm : e.active c.guard ≠ 0)
    (hb : exitLanes e (if e.sl.hmode then e.path.mask else e.active c.guard) s = .ok ((), t)) :
    exec (.exit c) s = .next (issued e (e.active c.guard) (if e.sl.hmode then t.leaveHandler e else t)) := by
  refine issueC_ok h ?_
  rw [anyActive_of_ne hm]
  cases hh : e.sl.hmode with
  | false =>
    rw [hh] at hb
    exact hb
  | true =>
    rw [hh] at hb
    exact exec_bind_ok hb

theorem exitLanes_rest {e : Env} {m : W32} {s t : State} (hend : endLanes e m s = .ok ((), t)) (hrest : e.path.mask &&& ~~~m ≠ 0) :
    exitLanes e m s = .ok ((), putPath e { e.path with mask := e.path.mask &&& ~~~m, pc := e.path.pc + 8 } t) := by
  unfold exitLanes
  rw [exec_bind_ok hend, if_pos (bne_iff_ne.mpr hrest)]
  rfl

theorem exitLanes_all {e : Env} {m : W32} {s t u w : State} {ps : Paths} (hend : endLanes e m s = .ok ((), t))
    (hrest : e.path.mask &&& ~~~m = 0) (hread : readPaths e t = .ok (ps, u))
    (hwrite : writePaths e (ps.setSlot e.cur.slot1 none).settled u = .ok ((), w)) : exitLanes e m s = .ok ((), w) := by
  unfold exitLanes
  rw [exec_bind_ok hend, if_neg (fun h => bne_iff_ne.mp h hrest), exec_bind_ok hread]
  exact hwrite

/-- The scalar of `BRQ`: the one that an earlier issue popped, or the head of its queue. -/
theorem brq_ok {c : CFrame} {e : Env} {s t : State} {v : W64} (ha : e.cur.a = true) (hq : brqConds e (regNo c.reg) = [])
    (hv : (e.sl.heldPop = some (.brq, v) ∧ t = s) ∨
      ((∀ x, e.sl.heldPop ≠ some (.brq, x)) ∧ ∃ x, popEntry e (regNo c.reg) s = .ok (x, t) ∧ v = x.scalar)) :
    let t1 := (onSlice e (fun sl => { sl with heldPop := sl.heldPop.filter (fun h => h.1 != .brq) }) t).modCore e.g.core
      (fun k => k.count 9 1 (some (e.path.pc, e.w.asn)))
    brq c e s = .ok ((), if e.active c.guard ≠ 0 ∧ v ≠ 0 then goTo e (offsetPc e c.low) t1 else movePast e 8 t1) := by
  intro t1
  have hrest : (do
      modSl e (fun sl => { sl with heldPop := sl.heldPop.filter (fun h => h.1 != .brq) })
      modify (fun s => s.modCore e.g.core (fun k => k.count 9 1 (some (e.path.pc, e.w.asn))))
      if e.some_ c.guard && v != 0 then jump e (offsetTarget e c.low) else advance e 8 : Exec Unit) t =
      .ok ((), if e.active c.guard ≠ 0 ∧ v ≠ 0 then goTo e (offsetPc e c.low) t1 else movePast e 8 t1) := by
    show (if e.some_ c.guard && v != 0 then jump e (offsetTarget e c.low) else advance e 8 : Exec Unit) t1 = _
    have hcond : (e.some_ c.guard && v != 0) = decide (e.active c.guard ≠ 0 ∧ v ≠ 0) := by
      rw [some_iff, Bool.decide_and, Bool.eq_iff_iff]; simp
    rw [hcond]
    by_cases hb : e.active c.guard ≠ 0 ∧ v ≠ 0
    · rw [if_pos hb, decide_eq_true hb]; rfl
    · rw [if_neg hb, decide_eq_false hb]; rfl
  unfold brq
  rw [ha, Bool.not_true, hq, exec_bind_ok (trapIf_false e _ _ _ s), exec_bind_ok (raiseLowest_nil e s)]
  refine Eq.trans ?_ hrest
  obtain ⟨hheld, rfl⟩ | ⟨hheld, x, hpop, rfl⟩ := hv
  · rw [hheld]; rfl
  · cases hp : e.sl.heldPop with
    | none => exact exec_bind_ok hpop
    | some p =>
      obtain ⟨k, y⟩ := p
      cases k with
      | brq => exact absurd hp (hheld y)
      | _ => exact exec_bind_ok hpop

/-- Settles O15: each instruction with no lane active and with one. -/
theorem joinExitResult : Obligations.JoinExitResult := by
  intro c s t u w e ps v m p parked
  refine ⟨fun h hh hd => ?_, fun h hh hd hread hwrite => ?_, fun h hm => ?_, fun h hm hh hrest hend => ?_,
    fun h hm hall hend hread hwrite => ?_, fun h ha hq hv => ?_⟩
  · exact exec_join h hh (by unfold joinPath; rw [if_pos hd]; rfl)
  · exact exec_join h hh (by unfold joinPath; rw [if_neg hd, exec_bind_ok hread]; exact hwrite)
  · exact issueC_ok h (by rw [not_anyActive_of_eq hm]; rfl)
  · have hx := exec_exit_active h hm (by rw [hh]; exact exitLanes_rest hend hrest)
    rw [hh] at hx
    exact hx
  · refine exec_exit_active h hm (exitLanes_all hend ?_ hread hwrite)
    cases hh : e.sl.hmode with
    | false => simpa [hh] using hall
    | true => simp
  · exact issueC_ok h (brq_ok ha hq hv)

end Sys2Proof.Proofs
end

section
/-!
PROOFS. Releasing and restoring paths (R96 to R98): a release puts one path with their lanes in the place of the paths that merge, and
a restore only rearranges them.
-/
namespace Sys2Proof.Proofs
open Sys2Proof.Machine Sys2Proof.Claims Sys2Proof.Laws

/-! ### Rearranging paths -/

theorem perm_of_takeUnparked {l r : List Machine.Path} {p : Machine.Path} (h : takeUnparked l = some (p, r)) : l.Perm (p :: r) := by
  induction l generalizing r with
  | nil => cases h
  | cons q l ih =>
    unfold takeUnparked at h
    split at h
    · cases h; exact List.Perm.refl _
    · split at h
      · next x r' hx => cases h; exact ((ih hx).cons q).trans (List.Perm.swap _ _ _)
      · cases h

theorem perm_of_swapUnparked {x p : Machine.Path} {l r : List Machine.Path} (h : swapUnparked x l = some (p, r)) :
    (x :: l).Perm (p :: r) := by
  induction l generalizing r with
  | nil => cases h
  | cons q l ih =>
    unfold swapUnparked at h
    split at h
    · cases h; exact List.Perm.swap _ _ _
    · split at h
      · next y r' hy =>
        cases h
        exact (List.Perm.swap _ _ _).trans (((ih hy).cons q).trans (List.Perm.swap _ _ _))
      · cases h

/-- Exchanging the path of slot 0 and one of the stack. -/
theorem perm_slot0 {x q : Machine.Path} {o : Option Machine.Path} {l r : List Machine.Path} (h : (x :: l).Perm (q :: r)) :
    (Paths.all ⟨some q, o, r⟩).Perm (Paths.all ⟨some x, o, l⟩) := by
  have front : ∀ (y : Machine.Path) k, (Paths.all ⟨some y, o, k⟩).Perm (o.toList ++ y :: k) := fun y k => by
    simpa [Paths.all] using (List.perm_middle (a := y) (l₁ := o.toList) (l₂ := k)).symm
  exact (front q r).trans ((h.symm.append_left _).trans (front x l).symm)

/-- Exchanging the path of slot 1 and one of the stack. -/
theorem perm_slot1 {x q : Machine.Path} {o : Option Machine.Path} {l r : List Machine.Path} (h : (x :: l).Perm (q :: r)) :
    (Paths.all ⟨o, some q, r⟩).Perm (Paths.all ⟨o, some x, l⟩) := by
  simpa [Paths.all, List.append_assoc] using h.symm.append_left o.toList

/-- R98 loses no path and adds none. -/
theorem perm_of_restoreStep {ps qs : Paths} (h : restoreStep ps = some qs) : qs.all.Perm ps.all := by
  obtain ⟨s0, s1, st⟩ := ps
  unfold restoreStep at h
  split at h
  · cases h
  · next p r hp =>
    have hst := perm_of_takeUnparked hp
    cases s0 with
    | none =>
      cases h
      have hfront := (List.perm_middle (a := p) (l₁ := s1.toList) (l₂ := r)).symm
      simpa [Paths.all] using hfront.trans (hst.symm.append_left _)
    | some x =>
      cases s1 with
      | none =>
        cases h
        simpa [Paths.all] using hst.symm.cons x
      | some y =>
        simp only [Option.isNone_some, Bool.false_eq_true, if_false] at h
        split at h
        · obtain ⟨q, hq, rfl⟩ := Option.map_eq_some_iff.mp h
          exact perm_slot0 (perm_of_swapUnparked hq)
        · split at h
          · obtain ⟨q, hq, rfl⟩ := Option.map_eq_some_iff.mp h
            exact perm_slot1 (perm_of_swapUnparked hq)
          · cases h

/-! ### Replacing the merging paths -/

theorem mergesWith_self {p : Machine.Path} (h : p.parked = true) : mergesWith p p = true := by simp [mergesWith, h]

/-- The stack's merging entries give way to the merged path, at the first one's place. -/
theorem replaceFirst_perm (p m : Machine.Path) {l : List Machine.Path} (h : ∃ q ∈ l, mergesWith p q = true) :
    (replaceFirst p m l).Perm (m :: l.filter (fun q => !mergesWith p q)) := by
  induction l with
  | nil => obtain ⟨q, hq, _⟩ := h; cases hq
  | cons q l ih =>
    unfold replaceFirst
    split
    · next hq => simp [hq]
    · next hq =>
      obtain ⟨x, hx, hm⟩ := h
      have hx : x ∈ l := by
        rcases List.mem_cons.mp hx with rfl | hx
        · exact absurd hm hq
        · exact hx
      rw [List.filter_cons_of_pos (by simpa using hq)]
      exact ((ih ⟨x, hx, hm⟩).cons q).trans (List.Perm.swap _ _ _)

/-- A release leaves the merged path and the paths that do not merge. -/
theorem release_perm {ps : Paths} {p : Machine.Path} (hp : p ∈ ps.all) (hpk : p.parked = true) :
    (release ps p).all.Perm (mergedPath ps p :: ps.all.filter (fun q => !mergesWith p q)) := by
  have hself := mergesWith_self hpk
  have hdrop : ∀ o : Option Machine.Path, (dropMerged p o).toList = o.toList.filter (fun q => !mergesWith p q) := by
    intro o
    cases o with
    | none => rfl
    | some q => cases h : mergesWith p q <;> simp [dropMerged, h]
  unfold release
  split
  · next h0 =>
    have h0 : ps.slot0 = some p := by simpa using h0
    simp [Paths.all, h0, hdrop, hself]
  · next h0 =>
    split
    · next h1 =>
      have h1 : ps.slot1 = some p := by simpa using h1
      simp only [Paths.all, h1, hdrop, Option.toList_some, List.filter_append, List.append_assoc]
      simp [hself]
    · next h1 =>
      have hst : p ∈ ps.stack := by
        simp only [Paths.all, List.mem_append, Option.mem_toList] at hp
        rcases hp with (h | h) | h
        · simp [h] at h0
        · simp [h] at h1
        · exact h
      simp only [Paths.all, hdrop, List.filter_append]
      refine (List.Perm.append_left _ (replaceFirst_perm p _ ⟨p, hst, hself⟩)).trans ?_
      exact List.perm_middle

/-! ### Lanes -/

/-- Is a lane on one of the paths? -/
def onPath (l : List Machine.Path) (i : Nat) : Bool := l.any (fun p => p.mask.getLsbD i)

theorem getLsbD_foldl_or {l : List Machine.Path} {m : W32} {i : Nat} :
    (l.foldl (fun m p => m ||| p.mask) m).getLsbD i = (m.getLsbD i || onPath l i) := by
  induction l generalizing m with
  | nil => simp [onPath]
  | cons p l ih => rw [List.foldl_cons, ih, BitVec.getLsbD_or, Bool.or_assoc]; rfl

theorem getLsbD_lanesUnion (ps : Paths) (i : Nat) : (lanesUnion ps).getLsbD i = onPath ps.all i := by
  rw [lanesUnion, getLsbD_foldl_or, show (0 : W32) = 0#32 from rfl, BitVec.getLsbD_zero, Bool.false_or]

theorem lanesUnion_eq {ps qs : Paths} (h : ∀ i, onPath ps.all i = onPath qs.all i) : lanesUnion ps = lanesUnion qs :=
  BitVec.eq_of_getLsbD_eq fun i _ => by rw [getLsbD_lanesUnion, getLsbD_lanesUnion, h]

theorem onPath_perm {l r : List Machine.Path} (h : l.Perm r) (i : Nat) : onPath l i = onPath r i := h.any_eq

/-- Paths whose lanes are apart, as a property of the list. -/
def ApartList (l : List Machine.Path) : Prop := l.Pairwise (fun p q => p.mask &&& q.mask = 0)

theorem apartList_perm {l r : List Machine.Path} (h : l.Perm r) : ApartList l ↔ ApartList r :=
  h.pairwise_iff fun hxy => by rwa [BitVec.and_comm]

theorem and_eq_zero_iff {x y : W32} : x &&& y = 0 ↔ ∀ i, x.getLsbD i = true → y.getLsbD i = false := by
  constructor
  · intro h i hx
    have hi := congrArg (fun z => BitVec.getLsbD z i) h
    simpa [hx] using hi
  · intro h
    refine BitVec.eq_of_getLsbD_eq fun i _ => ?_
    rw [BitVec.getLsbD_and]
    cases hx : x.getLsbD i
    · simp
    · simp [h i hx]

/-- The merged path has the lanes of the paths that merge. -/
theorem getLsbD_mergedPath {ps : Paths} {p : Machine.Path} (hp : p ∈ ps.all) (hpk : p.parked = true) (i : Nat) :
    (mergedPath ps p).mask.getLsbD i = onPath (ps.all.filter (mergesWith p)) i := by
  show ((ps.all.filter (mergesWith p)).foldl (fun m q => m ||| q.mask) p.mask).getLsbD i = _
  rw [getLsbD_foldl_or]
  have hmem : p ∈ ps.all.filter (mergesWith p) := List.mem_filter.mpr ⟨hp, mergesWith_self hpk⟩
  cases hi : p.mask.getLsbD i with
  | false => rw [Bool.false_or]
  | true => rw [Bool.true_or]; exact (List.any_eq_true.mpr ⟨p, hmem, hi⟩).symm

/-- A list of paths is the merging ones and the others. -/
theorem split_perm (p : Machine.Path) (l : List Machine.Path) :
    l.Perm (l.filter (mergesWith p) ++ l.filter (fun q => !mergesWith p q)) :=
  (List.filter_append_perm (mergesWith p) l).symm

theorem lanesUnion_release {ps : Paths} {p : Machine.Path} (hp : p ∈ ps.all) (hpk : p.parked = true) :
    lanesUnion (release ps p) = lanesUnion ps := by
  refine lanesUnion_eq fun i => ?_
  rw [onPath_perm (release_perm hp hpk), onPath_perm (split_perm p ps.all)]
  show ((mergedPath ps p).mask.getLsbD i || onPath _ i) = _
  rw [getLsbD_mergedPath hp hpk]
  exact (List.any_append ..).symm

theorem apart_release {ps : Paths} {p : Machine.Path} (hp : p ∈ ps.all) (hpk : p.parked = true) (h : Apart ps) :
    Apart (release ps p) := by
  have hsplit : ApartList (ps.all.filter (mergesWith p) ++ ps.all.filter (fun q => !mergesWith p q)) :=
    (apartList_perm (split_perm p ps.all)).mp h
  obtain ⟨_, hrest, hcross⟩ := List.pairwise_append.mp hsplit
  refine (apartList_perm (release_perm hp hpk)).mpr (List.pairwise_cons.mpr ⟨fun q hq => and_eq_zero_iff.mpr fun i hi => ?_, hrest⟩)
  rw [getLsbD_mergedPath hp hpk] at hi
  obtain ⟨x, hx, hxi⟩ := List.any_eq_true.mp hi
  exact and_eq_zero_iff.mp (hcross x hx q hq) i hxi

theorem settle_keeps (n : Nat) (ps : Paths) : lanesUnion (settle n ps) = lanesUnion ps ∧ (Apart ps → Apart (settle n ps)) := by
  induction n generalizing ps with
  | zero => exact ⟨rfl, id⟩
  | succ n ih =>
    unfold settle
    split
    · next p hp =>
      have hmem := List.mem_of_find?_eq_some hp
      have hpk : p.parked = true := by
        have := List.find?_some hp
        simp only [Bool.and_eq_true] at this
        exact this.1
      obtain ⟨hu, ha⟩ := ih (release ps p)
      exact ⟨hu.trans (lanesUnion_release hmem hpk), fun h => ha (apart_release hmem hpk h)⟩
    · split
      · next qs hq =>
        have hperm := perm_of_restoreStep hq
        obtain ⟨hu, ha⟩ := ih qs
        exact ⟨hu.trans (lanesUnion_eq (onPath_perm hperm)), fun h => ha ((apartList_perm hperm).mpr h)⟩
      · exact ⟨rfl, id⟩

/-- Settles O55: each release and each restore keeps the union and keeps lanes apart. -/
theorem pathLanesKept : Obligations.PathLanesKept := fun ps => settle_keeps _ ps

end Sys2Proof.Proofs
end

section
/-!
PROOFS. The reset values, fetching and issuing an instruction, and words written out (R18, R19, R38 to R40, R147, Tables 2.2 to 2.10).
-/
namespace Sys2Proof.Proofs
open Sys2Proof.Machine Sys2Proof.Claims Sys2Proof.Laws

/-- Settles O60: each word is taken apart by evaluation. -/
theorem decodedWords : Obligations.DecodedWords := ⟨rfl, rfl, rfl, rfl, rfl⟩

/-- Settles O56: the reset state is a table of constants; a vector of equal entries holds that entry everywhere. -/
theorem resetState : Obligations.ResetState := by
  refine ⟨rfl, rfl, rfl, rfl, rfl, rfl, rfl, rfl, rfl, rfl, rfl, rfl, rfl, rfl, rfl, rfl, rfl, rfl, rfl, rfl, fun i => ?_, fun i => ?_,
    fun i => ?_, fun i => ?_, rfl, rfl, rfl, rfl, fun i => ?_⟩
  · simp [State.reset, Core.reset]
  · simp [State.reset, Package.reset]
  · simp [State.reset, Package.reset]
  · simp [State.reset, Fabric.reset, FabPort.reset]
  · simp [Slice.reset]

/-! ### Fetch -/

theorem fetchWord_ok {s : State} {e : Env} {pc : Va} {a : Nat} (h : CanFetch e s pc a) :
    fetchWord s e pc = .ok ((s.codeMem e).readBytes a 8) := by
  obtain ⟨hpc, ⟨p, hload⟩, hfetch, hpoison⟩ := h
  simp only [fetchWord, hpc, hload, hfetch, hpoison, Bool.false_eq_true, if_false]

theorem fetch_word {s : State} {e : Env} {a : Nat} {i : Instr} {r : List Byte} (ha : e.path.pc.toNat % 8 = 0)
    (h : CanFetch e s e.path.pc a) (hd : decode ((s.codeMem e).readBytes a 8) = .ok (i, r)) : fetch s e = .ok i := by
  simp [fetch, ha, fetchWord_ok h, hd]

theorem fetch_words {s : State} {e : Env} {a b : Nat} {i : Instr} {r : List Byte} (ha : e.path.pc.toNat % 8 = 0)
    (h : CanFetch e s e.path.pc a) (hn : ∀ x, decode ((s.codeMem e).readBytes a 8) ≠ .ok x) (h' : CanFetch e s (e.path.pc + 8) b)
    (hd : decode ((s.codeMem e).readBytes a 8 ++ (s.codeMem e).readBytes b 8) = .ok (i, r)) : fetch s e = .ok i := by
  cases hw : decode ((s.codeMem e).readBytes a 8) with
  | ok x => exact absurd hw (hn x)
  | error x => simp only [fetch, ha, ne_eq, not_true_eq_false, if_false, fetchWord_ok h, hw, fetchWord_ok h', hd]

/-! ### A step that issues -/

/-- A subcore is open only once the package has booted. -/
theorem stage_of_openSubs {s : State} {k : Nat} {l : List Nat} (h : s.openSubs = k :: l) : s.pkg.stage = 3 := by
  cases hf : s.groups.filter (fun g => s.coreRuns g.core && !s.hasIssued g.core g.sub) with
  | nil => simp [State.openSubs, hf] at h
  | cons g gs =>
    have hg : g ∈ s.groups.filter (fun g => s.coreRuns g.core && !s.hasIssued g.core g.sub) := by rw [hf]; exact List.mem_cons_self
    simp only [List.mem_filter, Bool.and_eq_true, State.coreRuns, beq_iff_eq] at hg
    obtain ⟨_, ⟨⟨hs, _⟩, _⟩, _⟩ := hg
    exact hs

/-- With no halt of a resident workgroup due, no `LDQ` is waited for. -/
theorem walkingLdq_none {s : State} (hs : s.pkg.stage = 3) (h : s.earlyDue = none) : s.walkingLdq = none := by
  have hhalt : s.halts.find? (fun h => decide (h.due ≤ (s.die (dieOf h.core)).dcyc) && (s.wg? h.wg).isSome) = none := by
    cases hf : s.halts.find? (fun h => decide (h.due ≤ (s.die (dieOf h.core)).dcyc) && (s.wg? h.wg).isSome) with
    | none => rfl
    | some x => simp [State.earlyDue, hs, firstOf, hf] at h
  unfold State.walkingLdq
  rw [List.findSome?_eq_none_iff]
  intro x hx
  obtain ⟨hx, hdue⟩ := List.mem_filter.mp hx
  have := List.find?_eq_none.mp hhalt x hx
  simp only [hdue, Bool.true_and] at this
  cases hw : s.wg? x.wg with
  | none => rfl
  | some w => simp [hw] at this

/-- Settles O59: with nothing before the issue, the first slot of the first open subcore is tried, and it issues. -/
theorem stepRuns : Obligations.StepRuns := by
  refine ⟨fun s e a i r he ha h => ⟨fetch_word ha h, fun b hn h' => fetch_words ha h hn h'⟩, ?_⟩
  intro s t e i k l x xs c cs hin hearly hopen horder hcur s1 he htrap hfetch hexec hheld hrank
  have hwalk := walkingLdq_none (stage_of_openSubs hopen) hearly
  have htry : s1.tryIssue = .next t := by simp [State.tryIssue, he, htrap, hfetch, hexec]
  have hcursors : s.tryCursors (c :: cs) = .done c (.next { t with cur := none }) := by
    unfold State.tryCursors
    rw [show ({ s with cur := some c } : State).tryIssue = .next t from htry]
    simp [hheld]
  have hslices : s.trySlices (x :: xs) = .done c (.next { t with cur := none }) := by
    rw [State.trySlices, hcur, hcursors]
  have hsubs : s.trySubs (k :: l) = .done c (.next { t with cur := none }) := by
    rw [State.trySubs, horder, hslices]
    simp only [State.firstTrap, hrank]
  unfold step State.advance
  rw [hin, hwalk, hearly, hopen, hsubs]

end Sys2Proof.Proofs
end

section
/-!
PROOFS. The instructions on predicates, across lanes and on queues (R117, R129, R130, R132 to R136, R138).
-/
namespace Sys2Proof.Proofs
open Sys2Proof.Machine Sys2Proof.Claims Sys2Proof.Laws

/-! ### Predicates (R117) -/

theorem dstP_ok (e : Env) (m : W32) (code : BitVec 8) (x : W32) (s : State) :
    dstP e m code x s = .ok ((), putP e (regNo code) m x s) := rfl

theorem exec_maskOp {i : Instr} {f : FFrame} {n : Nat} {fn : W32 → W32 → W32} (h : maskOp i = some (f, n, fn)) (s : State) :
    exec i s = issueF f.guard (predOp n fn f) s := by
  unfold maskOp at h
  split at h <;> cases h <;> rfl

theorem predOp_ok {n : Nat} {fn : W32 → W32 → W32} {f : FFrame} {s : State} {e : Env} (h : FReady e (specP n) f none s) :
    predOp n fn f e s = .ok (0, putP e (regNo f.dst) (e.active f.guard) (fn (srcP e f.srcA) (srcP e f.srcB)) s) := by
  unfold predOp
  rw [exec_bind_ok (begin_ok h)]
  rfl

/-- The model's test of a scalar code. -/
theorem scalarCode_iff (e : Env) (code : BitVec 8) : (RC.of code = .s ∨ scalarQueue e code = true) ↔ IsScalar e code := by
  simp [scalarQueue, IsScalar]

theorem exec_pfrom_scalar {f : FFrame} {s t : State} {e : Env} {x : W64} (h : FReady e specPfrom f none s) (hs : IsScalar e f.srcB)
    (hx : srcS e f.srcB none s = .ok (x, t)) :
    exec (.pfrom f) s = .next (done e (e.active f.guard) 8 0 (putP e (regNo f.dst) (e.active f.guard) (x.setWidth 32) t)) := by
  refine issueF_ok h.1 ?_
  unfold bodyPfrom
  rw [exec_bind_ok (begin_ok h), if_pos ((scalarCode_iff e _).mpr hs)]
  exact (exec_bind_ok hx).trans (exec_bind_ok (dstP_ok ..))

theorem laneNat_bne_zero (v : Lanes64) (l : Nat) : (laneNat v l != 0) = (lane v l != 0) := by
  rw [Bool.eq_iff_iff, bne_iff_ne, bne_iff_ne, ne_eq, ne_eq, BitVec.toNat_eq]
  rfl

theorem exec_pfrom_vector {f : FFrame} {s t : State} {e : Env} {v : Lanes64} (h : FReady e specPfrom f none s)
    (hs : ¬ IsScalar e f.srcB) (hv : srcV e .u32 f.srcB none s = .ok (v, t)) :
    exec (.pfrom f) s = .next (done e (e.active f.guard) 8 0
      (putP e (regNo f.dst) (e.active f.guard) (bitsOf (fun l => lane v l != 0)) t)) := by
  refine issueF_ok h.1 ?_
  rw [show bitsOf (fun l => lane v l != 0) = maskOf (fun l => laneNat v l != 0) by simp only [laneNat_bne_zero]; rfl]
  unfold bodyPfrom
  rw [exec_bind_ok (begin_ok h), if_neg (mt (scalarCode_iff e _).mp hs)]
  exact (exec_bind_ok hv).trans (exec_bind_ok (dstP_ok ..))

theorem exec_pto {f : FFrame} {s u : State} {e : Env} (h : FReady e specPto f none s)
    (hu : (if IsScalar e f.dst then dstS e (e.active f.guard) f.dst ((srcP e f.srcB).setWidth 64)
      else dstV e false (e.active f.guard) f.dst (tabulate 32 (fun l => if (srcP e f.srcB).getLsbD l then 1 else 0))) s =
        .ok ((), u)) :
    exec (.pto f) s = .next (done e (e.active f.guard) 8 0 u) := by
  refine issueF_ok h.1 ?_
  unfold bodyPto
  simp only [scalarCode_iff]
  rw [exec_bind_ok (begin_ok h)]
  by_cases hs : IsScalar e f.dst
  · rw [if_pos hs] at hu ⊢
    exact exec_bind_ok hu
  · rw [if_neg hs] at hu ⊢
    exact exec_bind_ok hu

theorem predFold_ok {all : Bool} {f : FFrame} {s u : State} {e : Env} (h : FReady e specPanyall f none s)
    (hu : dstS e (e.active f.guard) f.dst (if (if all then decide (e.active f.guard &&& ~~~(srcP e f.srcB) = 0)
      else decide (e.active f.guard &&& srcP e f.srcB ≠ 0)) then 1 else 0) s = .ok ((), u)) :
    predFold all f e s = .ok (0, u) := by
  unfold predFold
  rw [exec_bind_ok (begin_ok h)]
  exact exec_bind_ok hu

/-- A frame that is legal has a legal destination. -/
theorem dst_ok {f : FFrame} {sp : FSpec} {lit : Bool} (h : f.ok sp lit = true) : sp.dst.ok f.dst = true := by
  simp only [FFrame.ok, Bool.and_eq_true] at h
  obtain ⟨⟨⟨⟨⟨⟨⟨_, h⟩, _⟩, _⟩, _⟩, _⟩, _⟩, _⟩ := h
  exact h

/-- A destination that is an s register is no queue. -/
theorem regClass_of_sreg {code : BitVec 8} (h : Pos.sreg.ok code = true) : RC.of code = .s := by
  simpa [Pos.ok, Pos.sreg] using h

theorem room_of_sreg {e : Env} {code : BitVec 8} (h : Pos.sreg.ok code = true) (k : Nat) (s : State) : Room e code k s := by
  intro hq
  rw [regClass_of_sreg h] at hq
  cases hq

/-- Settles O8: each instruction in turn. -/
theorem predicateResult : Obligations.PredicateResult := by
  intro s e
  refine ⟨fun i f n fn hop h => ?_, fun f x t h hs hx => exec_pfrom_scalar h hs hx, fun f v t h hs hv => exec_pfrom_vector h hs hv,
    fun f h hroom => ?_, fun f h => ⟨?_, ?_⟩⟩
  · rw [exec_maskOp hop]
    exact issueF_ok h.1 (predOp_ok h)
  · by_cases hs : IsScalar e f.dst
    · obtain ⟨u, hu⟩ := dstS_ok (m := e.active f.guard) (x := (srcP e f.srcB).setWidth 64) hroom
      exact ⟨u, by rw [if_pos hs]; exact hu, exec_pto h (by rw [if_pos hs]; exact hu)⟩
    · obtain ⟨u, hu⟩ := dstV_ok (wide := false) (m := e.active f.guard)
        (x := tabulate 32 (fun l => if (srcP e f.srcB).getLsbD l then 1 else 0)) hroom
      exact ⟨u, by rw [if_neg hs]; exact hu, exec_pto h (by rw [if_neg hs]; exact hu)⟩
  · obtain ⟨u, hu⟩ := dstS_ok (m := e.active f.guard) (x := if e.active f.guard &&& srcP e f.srcB ≠ 0 then 1 else 0)
      (room_of_sreg (dst_ok h.2.1) 1 s)
    exact ⟨u, hu, issueF_ok h.1 (predFold_ok (all := false) h (by simpa using hu))⟩
  · obtain ⟨u, hu⟩ := dstS_ok (m := e.active f.guard) (x := if e.active f.guard &&& ~~~(srcP e f.srcB) = 0 then 1 else 0)
      (room_of_sreg (dst_ok h.2.1) 1 s)
    exact ⟨u, hu, issueF_ok h.1 (predFold_ok (all := true) h (by simpa using hu))⟩

/-! ### Queue inspection (R138) -/

/-- What `QCNT`, `QROOM` and `QDRAIN` count: the entries held and the depth. -/
theorem queueCount_eq (e : Env) (n : Nat) :
    e.queueCount n = (if 12 ≤ n then (e.sl.engq n).length else ((e.g.queue n).entries.takeWhile (fun x => x.fill.isNone)).length,
      if 12 ≤ n then 16 else (e.g.queue n).depth) := by
  unfold Env.queueCount Queue.held
  split <;> rfl

theorem dstS_sreg {e : Env} {m : W32} {code : BitVec 8} (h : Pos.sreg.ok code = true) (x : W64) (s : State) :
    dstS e m code x s = .ok ((), if m = 0 then s else onSlice e (fun sl => sl.setS (regNo code) x) s) := by
  unfold dstS
  rw [regClass_of_sreg h]
  by_cases hm : m = 0
  · simp only [hm, if_true]; rfl
  · simp only [hm, if_false]; rfl

/-- A slice's registers are no part of what a queue operation waits for. -/
theorem syncIdle_onSlice {e : Env} {f : Slice → Slice} {s : State} (h : SyncIdle e s) : SyncIdle e (onSlice e f s) := h

/-- What `QDRAIN` removes. -/
def drained (e : Env) (n held : Nat) (s : State) : State :=
  if 12 ≤ n then s.modSlice e.cur.grp e.cur.a (fun sl => sl.setEngq n ((sl.engq n).drop held))
  else onSlice e (fun sl => { sl with acqIds := addIds sl.acqIds (((e.g.queue n).entries.take held).map (fun x => x.after)).flatten })
    (s.modGroup e.cur.grp (fun g => g.setQueue n ((g.queue n).drain held)))

theorem drain_ok {e : Env} {n held : Nat} {s : State} (hs : SyncIdle e s) :
    (do
      syncReady e
      if 12 ≤ n then modSl e (fun sl => sl.setEngq n ((sl.engq n).drop held))
      else do
        modGrp e (fun g => g.setQueue n ((g.queue n).drain held))
        acquireIds e ((e.g.queue n).afterOf held)
      pure 0 : Exec Events) s = .ok (0, drained e n held s) := by
  rw [exec_bind_ok (syncReady_ok hs), drained]
  split <;> rfl

/-- Settles O11: one body serves the three. -/
theorem queueCountResult : Obligations.QueueCountResult := by
  intro i kind f s e hi he hf hconds hbusy hsync n q held depth m s1 s2
  have hexec : exec i s = issueF f.guard (inspect kind f) s := by
    rcases hi with ⟨rfl, rfl⟩ | ⟨rfl, rfl⟩ | ⟨rfl, rfl⟩ <;> rfl
  have hdst : dstS e m f.dst (BitVec.ofNat 64 (if kind = 1 then depth - held else held)) s = .ok ((), s1) := dstS_sreg (dst_ok hf) _ s
  have hs1 : kind = 2 → SyncIdle e s1 := fun hk => by
    by_cases hm : m = 0
    · simpa [s1, hm] using hsync hk
    · simp only [s1, hm, if_false]
      exact syncIdle_onSlice (hsync hk)
  rw [hexec]
  refine issueF_ok he ?_
  unfold inspect
  rw [hf, Bool.not_true, exec_bind_ok (trapIf_false e _ _ _ s), hconds, exec_bind_ok (raiseLowest_nil e s), exec_bind_ok (exec_get s), hbusy,
    exec_bind_ok (holdIf_false _ s), queueCount_eq]
  refine (exec_bind_ok hdst).trans ?_
  by_cases hk : kind = 2 ∧ m ≠ 0
  · have hs2 : s2 = drained e n held s1 := by
      have hc : ¬ (kind ≠ 2 ∨ m = 0) := not_or.mpr ⟨Classical.not_not.mpr hk.1, hk.2⟩
      simp only [s2, hc, if_false, drained]
      rfl
    rw [if_pos hk, hs2]
    exact drain_ok (hs1 hk.1)
  · have hs2 : s2 = s1 := by
      have hc : kind ≠ 2 ∨ m = 0 := (Classical.not_and_iff_not_or_not.mp hk).imp_right Classical.not_not.mp
      simp only [s2, hc, if_true]
    rw [if_neg hk, hs2]
    rfl

/-! ### Block conversion, packing and unpacking (R129, R130) -/

theorem repack_eq_repacked (d t : Ty) (mode : Mode) (sat : Bool) (c : Nat) : repack d t mode sat c = repacked d t mode sat c := by
  cases d <;> cases t <;> rfl

theorem width_le (t : Ty) : t.width ≤ 64 := by
  cases t with
  | fl f => cases f <;> decide
  | _ => decide

theorem exec_vcvtb {f : FFrame} {s t u : State} {e : Env} {b : Lanes64} (h : FReady e (specCvtb f) f none s)
    (hb : srcV e (Ty.ofCode (.fl .f32) (ty2 f)) f.srcB none s = .ok (b, t)) {g : Nat → W64 × Events}
    (hg : ∀ l, g l =
      let val (l : Nat) := readF (Ty.ofCode (.fl .f32) (ty2 f)).fmt (laneNat b l)
      let scale := blockScale (fty f).fmt ((actives (e.active f.guard)).map (fun l => (val l).1))
      let y := roundTo (fty f).fmt ((val l).1.scale (127 - (scale : Int))) (Mode.ofCode f.variant.toNat) true
      (BitVec.ofNat 64 (scale * 256 + y.1), y.2 ||| (val l).2))
    (hu : dstV e false (e.active f.guard) f.dst (Claims.lanesOf (e.active f.guard) g).1 t = .ok ((), u)) :
    exec (.vcvtb f) s = .next (done e (e.active f.guard) 8 (Claims.lanesOf (e.active f.guard) g).2 u) := by
  refine issueF_ok h.1 ?_
  unfold bodyVcvtb
  rw [exec_bind_ok (begin_ok h), exec_bind_ok hb]
  exact lanes_ok (fun l => (hg l).symm) hu

/-- The stream of the model's lanes is the stream of the codes. -/
theorem stream_eq_packed {w : Nat} (hw : w ≤ 64) (m : W32) (y : Nat → Nat × Events) :
    (List.range 32).foldl (fun x i => x + laneNat (laneValues (laneResults m (fun l => ((y l).1 % 2 ^ w, (y l).2)))) i * 2 ^ (w * i)) 0 =
      packed w m (fun l => (y l).1) := by
  unfold packed
  refine List.foldl_rel rfl fun i hi x x' hx => ?_
  have hi : i < 32 := List.mem_range.mp hi
  have hlane : laneNat (laneValues (laneResults m (fun l => ((y l).1 % 2 ^ w, (y l).2)))) i =
      if m.getLsbD i then (y i).1 % 2 ^ w else 0 := by
    cases hm : m.getLsbD i with
    | true =>
      have hlt : (y i).1 % 2 ^ w < 2 ^ 64 := Nat.lt_of_lt_of_le (Nat.mod_lt _ (Nat.two_pow_pos w)) (Nat.pow_le_pow_right (by decide) hw)
      rw [laneNat_laneValues _ _ hi hm]
      exact Nat.mod_eq_of_lt hlt
    | false => simp only [laneNat, laneValues_laneResults, tabulate_getElem?, dif_pos hi, Option.getD_some, hm]; rfl
  rw [hx, hlane]

/-- The code of a lane of `VPACK`, with the events of its conversion. -/
def packCode (f : FFrame) (b : Lanes64) (l : Nat) : Nat × Events :=
  if ty2 f = 0 then (laneNat b l, 0)
  else repacked (Ty.ofCode .s8 f.ty) (Ty.ofCode (.fl .f32) (ty2 f)) (Mode.ofCode f.variant.toNat) true (laneNat b l)

theorem bodyVpack_ok {f : FFrame} {s t u : State} {e : Env} {b : Lanes64} (h : FReady e (specPack f false) f none s)
    (hb : srcV e .u32 f.srcB none s = .ok (b, t))
    (hu : dstV e false (e.active f.guard &&& BitVec.ofNat 32 (2 ^ (Ty.ofCode .s8 f.ty).width - 1)) f.dst
      (tabulate 32 (fun j => BitVec.ofNat 64 (packed (Ty.ofCode .s8 f.ty).width (e.active f.guard) (fun l => (packCode f b l).1) /
        2 ^ (32 * j.val) % 2 ^ 32))) t = .ok ((), u)) :
    bodyVpack f e s = .ok ((Claims.lanesOf (e.active f.guard) (fun l => (0, (packCode f b l).2))).2, u) := by
  have hcode : ∀ l, (if (ty2 f == 0) = true then (laneNat b l % 2 ^ (packTy f).width, (0 : Events))
      else let (c, ev) := repack (packTy f) (Ty.ofCode (.fl .f32) (ty2 f)) (Mode.ofCode f.variant.toNat) true (laneNat b l)
        (c % 2 ^ (packTy f).width, ev)) = ((packCode f b l).1 % 2 ^ (packTy f).width, (packCode f b l).2) := by
    intro l
    unfold packCode
    by_cases hz : ty2 f = 0
    · rw [if_pos (beq_iff_eq.mpr hz), if_pos hz]
    · rw [if_neg (mt beq_iff_eq.mp hz), if_neg hz, repack_eq_repacked]
      rfl
  unfold bodyVpack
  rw [exec_bind_ok (begin_ok h), exec_bind_ok hb]
  simp only [hcode, stream_eq_packed (width_le _), laneEvents_laneResults]
  exact exec_bind_ok hu

theorem bodyVunpack_ok {f : FFrame} {s t u : State} {e : Env} {b : Lanes64} (h : FReady e (specPack f true) f none s)
    (hb : srcV e .u32 f.srcB none s = .ok (b, t)) {g : Nat → W64 × Events}
    (hg : ∀ l, g l =
      let ty := Ty.ofCode .s8 f.ty
      let x := (List.range ty.width).foldl (fun x j => x + laneNat b j % 2 ^ 32 * 2 ^ (32 * j)) 0
      let c := x / 2 ^ (ty.width * l) % 2 ^ ty.width
      let y := if ty2 f = 0 then (c, 0) else
        repacked (Ty.ofCode (.fl .f32) (ty2 f)) ty (Mode.ofCode f.variant.toNat) (f.flags.getLsbD 0) c
      (BitVec.ofNat 64 y.1, y.2))
    (hu : dstV e false (e.active f.guard) f.dst (Claims.lanesOf (e.active f.guard) g).1 t = .ok ((), u)) :
    bodyVunpack f e s = .ok ((Claims.lanesOf (e.active f.guard) g).2, u) := by
  unfold bodyVunpack
  rw [exec_bind_ok (begin_ok h), exec_bind_ok hb]
  refine lanes_ok (fun l => ?_) hu
  rw [hg]
  simp only [beq_iff_eq, repack_eq_repacked]
  rfl

/-- Settles O10: each instruction in turn. -/
theorem packResult : Obligations.PackResult := by
  intro f s t e b m mode src
  refine ⟨fun h hb hroom => ?_, fun h hb hroom => ?_, fun h hb hroom => ?_⟩
  · intro d val scale r
    obtain ⟨u, hu⟩ := dstV_ok (wide := false) (m := m) (x := r.1) hroom
    exact ⟨u, hu, exec_vcvtb h hb (fun l => rfl) hu⟩
  · intro y x
    obtain ⟨u, hu⟩ := dstV_ok (wide := false) hroom
    exact ⟨u, hu, issueF_ok h.1 (bodyVpack_ok h hb hu)⟩
  · intro x r
    obtain ⟨u, hu⟩ := dstV_ok (wide := false) (m := m) (x := r.1) hroom
    exact ⟨u, hu, issueF_ok h.1 (bodyVunpack_ok h hb (fun l => rfl) hu)⟩

/-! ### Values that fit their type (R84, R85, R136) -/

theorem wrapInt_lt (w : Nat) (x : Int) : wrapInt w x < 2 ^ w := by
  have hpos : (0 : Int) < 2 ^ w := Int.pow_pos (by decide)
  have h := Int.emod_lt_of_pos x hpos
  have h' := Int.emod_nonneg x (Int.ne_of_gt hpos)
  have : ((wrapInt w x : Nat) : Int) < 2 ^ w := by
    simp only [wrapInt]
    push_cast
    omega
  exact_mod_cast this

/-- The formats of the cross-lane types (R131). -/
def WideFloat (f : Fmt) : Prop := f = .f64 ∨ f = .f32

theorem signed_lt {f : Fmt} (hf : WideFloat f) (neg : Bool) {c : Nat} (hc : c ≤ f.maxCode + 1) : f.signed neg c < 2 ^ f.width := by
  obtain rfl | rfl := hf <;> cases neg <;> simp only [Fmt.signed, Fmt.maxCode, Fmt.width] at * <;> simp <;> omega

theorem overflowed_lt {f : Fmt} (hf : WideFloat f) (neg : Bool) (mode : Mode) (sat : Bool) :
    (overflowed f neg mode sat).1 < 2 ^ f.width := by
  have hmax := signed_lt hf neg (Nat.le_succ f.maxCode)
  have hinf := signed_lt hf neg (Nat.le_refl (f.maxCode + 1))
  unfold overflowed
  dsimp only
  repeat' split
  all_goals assumption

theorem nanCode_lt (f : Fmt) : f.nanCode < 2 ^ f.width := by cases f <;> decide

/-- A rounded value of a wide format is a code of it. -/
theorem roundTo_lt {f : Fmt} (hf : WideFloat f) (v : Machine.Num) (mode : Mode) (sat : Bool) : (roundTo f v mode sat).1 < 2 ^ f.width := by
  have htap : f.tapered = false := by obtain rfl | rfl := hf <;> rfl
  cases v with
  | nan => exact nanCode_lt f
  | inf neg =>
    unfold roundTo
    dsimp only
    split
    · exact signed_lt hf neg (Nat.le_refl _)
    · exact signed_lt hf neg (Nat.le_succ _)
  | fin neg man exp =>
    unfold roundTo
    simp only [htap, Bool.false_eq_true, if_false]
    split
    · exact signed_lt hf neg (Nat.zero_le _)
    · split
      · exact overflowed_lt hf neg mode sat
      · next h => exact signed_lt hf neg (by omega)

theorem fMinMax_lt (isMax : Bool) (f : Fmt) (a b : Nat) : fMinMax isMax f a b < 2 ^ f.width := by
  have ha : a % 2 ^ f.width < 2 ^ f.width := Nat.mod_lt _ (Nat.two_pow_pos _)
  have hb : b % 2 ^ f.width < 2 ^ f.width := Nat.mod_lt _ (Nat.two_pow_pos _)
  have hn := nanCode_lt f
  unfold fMinMax
  dsimp only
  repeat' split
  all_goals assumption

theorem combine2_lt (t : Ty) (op : Nat) {x y : Nat} (hx : x < 2 ^ t.width) (hy : y < 2 ^ t.width) : combine2 t op x y < 2 ^ t.width := by
  have hint : (match op with
      | 1 => wrapInt t.width (min (readInt t.signed t.width x) (readInt t.signed t.width y))
      | 2 => wrapInt t.width (max (readInt t.signed t.width x) (readInt t.signed t.width y))
      | 3 => x &&& y
      | 4 => x ||| y
      | _ => x ^^^ y) < 2 ^ t.width := by
    split
    · exact wrapInt_lt _ _
    · exact wrapInt_lt _ _
    · exact Nat.and_lt_two_pow _ hy
    · exact Nat.or_lt_two_pow hx hy
    · exact Nat.xor_lt_two_pow hx hy
  cases t with
  | fl f => exact fMinMax_lt _ f x y
  | _ => exact hint

theorem foldl_combine2_lt (t : Ty) (op : Nat) {l : List Nat} {c : Nat} (hc : c < 2 ^ t.width) (hl : ∀ x ∈ l, x < 2 ^ t.width) :
    l.foldl (combine2 t op) c < 2 ^ t.width := by
  induction l generalizing c with
  | nil => exact hc
  | cons x l ih =>
    exact ih (combine2_lt t op hc (hl x List.mem_cons_self)) fun y hy => hl y (List.mem_cons_of_mem _ hy)

theorem identityOf_lt {t : Ty} (ht : ∀ f, t ≠ .fl f) (op : Nat) : identityOf t op < 2 ^ t.width := by
  have hpos := Nat.two_pow_pos t.width
  have hint : (match op with
      | 1 => wrapInt t.width (intBounds t.signed t.width).2
      | 2 => wrapInt t.width (intBounds t.signed t.width).1
      | 3 => 2 ^ t.width - 1
      | _ => 0) < 2 ^ t.width := by
    split
    · exact wrapInt_lt _ _
    · exact wrapInt_lt _ _
    · omega
    · exact hpos
  cases t with
  | fl f => exact absurd rfl (ht f)
  | _ => exact hint

theorem combineAll_lt (t : Ty) (op : Nat) {cs : List Nat} (hcs : ∀ x ∈ cs, x < 2 ^ t.width) : (combineAll t op cs).1 < 2 ^ t.width := by
  have hint : (∀ f, t ≠ .fl f) → (match cs with
      | [] => (identityOf t op, (0 : Events))
      | c :: l => (l.foldl (combine2 t op) c, 0)).1 < 2 ^ t.width := by
    intro ht
    cases cs with
    | nil => exact identityOf_lt ht op
    | cons c l => exact foldl_combine2_lt t op (hcs c List.mem_cons_self) fun y hy => hcs y (List.mem_cons_of_mem _ hy)
  cases t with
  | fl f =>
    simp only [combineAll]
    split
    · exact nanCode_lt f
    · next c l hl =>
      have hmem : ∀ x ∈ c :: l, x < 2 ^ f.width := fun x hx => hcs x ((List.mem_filter.mp (hl ▸ hx)).1)
      exact foldl_combine2_lt (.fl f) op (hmem c List.mem_cons_self) fun y hy => hmem y (List.mem_cons_of_mem _ hy)
  | _ => exact hint fun f h => by cases h

/-- What `VRED` gives is a code of its type. -/
theorem reduce_lt {t : Ty} (ht : ∀ f, t = .fl f → WideFloat f) (op : Nat) (mode : Mode) (sat : Bool) (v : Lanes64) (m : W32) :
    (reduce t op mode sat v m).1 < 2 ^ t.width := by
  unfold reduce
  dsimp only
  split
  · cases t with
    | fl f => exact roundTo_lt (ht f rfl) _ _ _
    | _ => dsimp only; exact wrapInt_lt _ _
  · refine combineAll_lt t op fun x hx => ?_
    obtain ⟨l, _, rfl⟩ := List.mem_map.mp hx
    exact Nat.mod_lt _ (Nat.two_pow_pos _)

/-! ### Shuffles and votes (R132 to R134) -/

theorem shflLane_eq {mode : Nat} (hm : mode < 4) (w l k : Nat) : shflLane mode w l k = shuffleLane mode w l k := by
  match mode with
  | 0 | 1 | 2 | 3 => rfl

theorem mask_eq_zero_iff {fn : Nat → Bool} : maskOf fn = 0 ↔ ∀ l < 32, fn l = false := by
  constructor
  · intro h l hl
    rw [← getLsbD_maskOf fn hl, h]
    exact BitVec.getLsbD_zero
  · intro h
    refine BitVec.eq_of_getLsbD_eq fun l hl => ?_
    rw [getLsbD_maskOf fn hl, h l hl]
    exact BitVec.getLsbD_zero.symm

theorem mem_actives {m : W32} {l : Nat} : l ∈ actives m ↔ l < 32 ∧ m.getLsbD l = true := by simp [actives]

/-- A ballot with a vote is one that some active lane casts. -/
theorem ballot_eq_zero (m : W32) (c : Nat → Bool) :
    maskOf (fun l => m.getLsbD l && c l) = 0 ↔ ¬ (actives m).any (fun l => m.getLsbD l && c l) = true := by
  rw [mask_eq_zero_iff, List.any_eq_true]
  constructor
  · rintro h ⟨l, hl, hc⟩
    exact Bool.false_ne_true ((h l (mem_actives.mp hl).1).symm.trans hc)
  · intro h l hl
    exact Bool.eq_false_iff.mpr fun hc => h ⟨l, mem_actives.mpr ⟨hl, (Bool.and_eq_true_iff.mp hc).1⟩, hc⟩

/-- A ballot that is the mask is one that every active lane casts. -/
theorem ballot_eq_mask (m : W32) (c : Nat → Bool) :
    maskOf (fun l => m.getLsbD l && c l) = m ↔ (actives m).all (fun l => m.getLsbD l && c l) = true := by
  rw [List.all_eq_true]
  constructor
  · intro h l hl
    obtain ⟨hl, hm⟩ := mem_actives.mp hl
    rwa [← h, getLsbD_maskOf _ hl] at hm
  · intro h
    refine BitVec.eq_of_getLsbD_eq fun l hl => ?_
    rw [getLsbD_maskOf _ hl]
    cases hm : m.getLsbD l with
    | false => rfl
    | true => simpa [hm] using h l (mem_actives.mpr ⟨hl, hm⟩)

/-- All equal to the first is all equal to each other. -/
theorem all_eq_head {l : List Nat} {fn : Nat → W64} :
    l.all (fun x => fn x == fn (l.headD 0)) = l.all (fun x => l.all (fun y => fn x == fn y)) := by
  cases l with
  | nil => rfl
  | cons a l =>
    rw [Bool.eq_iff_iff, List.all_eq_true, List.all_eq_true]
    simp only [List.headD_cons, beq_iff_eq, List.all_eq_true]
    exact ⟨fun h x hx y hy => (h x hx).trans (h y hy).symm, fun h x hx => h x hx a List.mem_cons_self⟩

theorem laneNat_beq (v : Lanes64) (k l : Nat) : (laneNat v k == laneNat v l) = (lane v k == lane v l) := by
  rw [Bool.eq_iff_iff, beq_iff_eq, beq_iff_eq, BitVec.toNat_eq]
  rfl

/-- The model's result of `VOTE`. -/
def voteOf (mode : Nat) (m : W32) (b : Lanes64) : Nat :=
  let c := maskOf (fun l => m.getLsbD l && laneNat b l != 0)
  match mode with
  | 0 => c.toNat
  | 1 => if c = 0 then 0 else 1
  | 2 => if c = m then 1 else 0
  | _ => if (lanesIn m).all (fun l => laneNat b l == laneNat b ((lanesIn m).headD 0)) then 1 else 0

theorem voteOf_eq_ballot {mode : Nat} (hm : mode < 4) (m : W32) (b : Lanes64) : voteOf mode m b = ballot mode m b := by
  simp only [voteOf, ballot, laneNat_bne_zero, laneNat_beq]
  match mode with
  | 0 => rfl
  | 1 =>
    have h := ballot_eq_zero m (fun l => lane b l != 0)
    show (if _ then 0 else 1) = if _ then 1 else 0
    by_cases hc : maskOf (fun l => m.getLsbD l && lane b l != 0) = 0
    · exact (if_pos hc).trans (if_neg (h.mp hc)).symm
    · exact (if_neg hc).trans (if_pos (Classical.not_not.mp (mt h.mpr hc))).symm
  | 2 =>
    have h := ballot_eq_mask m (fun l => lane b l != 0)
    show (if _ then 1 else 0) = if _ then 1 else 0
    by_cases hc : maskOf (fun l => m.getLsbD l && lane b l != 0) = m
    · exact (if_pos hc).trans (if_pos (h.mp hc)).symm
    · exact (if_neg hc).trans (if_neg (mt h.mpr hc)).symm
  | 3 =>
    simp only [all_eq_head (fn := lane b)]
    rfl

/-! ### The cross-lane instructions -/

theorem keysMatch_eq_agrees (t : Ty) (feq : Bool) (x y : Nat) : keysMatch t feq x y = agrees t feq x y := by
  cases feq with
  | false => rfl
  | true =>
    simp only [keysMatch, agrees, if_true]
    cases (t.fmt.decode x).1 <;> cases (t.fmt.decode y).1 <;> rfl

theorem ofNat_laneNat (v : Lanes64) (l : Nat) : BitVec.ofNat 64 (laneNat v l) = lane v l := by
  simp [laneNat, lane]

theorem variant_mod_four (f : FFrame) : f.variant.toNat % 4 < 4 := Nat.mod_lt _ (by decide)

theorem bodyShfl_ok {f : FFrame} {s s1 t u : State} {e : Env} {a b : Lanes64} (h : FReady e (specShfl f) f none s)
    (ha : srcV e (laneTy f) f.srcA none s = .ok (a, s1)) (hb : srcV e .u32 f.srcB none s1 = .ok (b, t))
    (hu : dstV e (laneTy f).wide (e.active f.guard) f.dst (tabulate 32 (fun l =>
      lane a (shuffleLane (f.variant.toNat % 4) (shflWidth (f.variant.toNat / 4 % 8)) l (laneNat b l % 2 ^ 32)))) t = .ok ((), u)) :
    bodyShfl f e s = .ok (0, u) := by
  unfold bodyShfl
  rw [exec_bind_ok (begin_ok h), exec_bind_ok (sources_ok ha hb rfl)]
  simp only [ofNat_laneNat, shflLane_eq (variant_mod_four f)]
  exact exec_bind_ok hu

theorem bodyBcast_ok {f : FFrame} {s s1 t u : State} {e : Env} {a : Lanes64} {x : W64} (h : FReady e (specBcast f) f none s)
    (ha : srcV e (laneTy f) f.srcA none s = .ok (a, s1)) (hx : srcS e f.srcB none s1 = .ok (x, t))
    (hu : dstV e (laneTy f).wide (e.active f.guard) f.dst (splat (lane a (x.toNat % 32))) t = .ok ((), u)) :
    bodyBcast f e s = .ok (0, u) := by
  unfold bodyBcast
  rw [exec_bind_ok (begin_ok h), exec_bind_ok (sources_ok ha hx rfl)]
  simp only [ofNat_laneNat]
  exact exec_bind_ok hu

theorem bodyVcomp_ok {f : FFrame} {s t u : State} {e : Env} {b : Lanes64} (h : FReady e (specVcomp f) f none s)
    (hb : srcV e (laneTy f) f.srcB none s = .ok (b, t))
    (hu : dstV e (laneTy f).wide (BitVec.ofNat 32 (2 ^ (actives (e.active f.guard)).length - 1)) f.dst
      (tabulate 32 (fun i => lane b ((actives (e.active f.guard)).getD i 0))) t = .ok ((), u)) : bodyVcomp f e s = .ok (0, u) := by
  unfold bodyVcomp
  rw [exec_bind_ok (begin_ok h), exec_bind_ok hb]
  simp only [ofNat_laneNat]
  exact exec_bind_ok hu

theorem bodyVote_ok {f : FFrame} {s t u : State} {e : Env} {b : Lanes64} (h : FReady e (specVote f) f none s)
    (hp : RC.of f.srcB = .p → t = s ∧ b = tabulate 32 (fun l => if (srcP e f.srcB).getLsbD l then 1 else 0))
    (hb : RC.of f.srcB ≠ .p → srcV e .u32 f.srcB none s = .ok (b, t))
    (hu : dstS e (e.active f.guard) f.dst (BitVec.ofNat 64 (ballot (f.variant.toNat % 4) (e.active f.guard) b)) t = .ok ((), u)) :
    bodyVote f e s = .ok (0, u) := by
  have hrest : (do
      dstS e (e.active f.guard) f.dst (BitVec.ofNat 64 (voteOf (f.variant.toNat % 4) (e.active f.guard) b))
      pure 0 : Exec Events) t = .ok (0, u) := by
    rw [voteOf_eq_ballot (variant_mod_four f)]
    exact exec_bind_ok hu
  unfold bodyVote
  rw [exec_bind_ok (begin_ok h)]
  by_cases hc : RC.of f.srcB = .p
  · obtain ⟨rfl, rfl⟩ := hp hc
    rw [if_pos hc]
    exact hrest
  · rw [if_neg hc]
    exact (exec_bind_ok (hb hc)).trans hrest

theorem bodyMatch_ok {f : FFrame} {s t u : State} {e : Env} {b : Lanes64} (h : FReady e (specMatch f) f none s)
    (hb : srcV e (laneTy f) f.srcB none s = .ok (b, t))
    (hu : dstV e false (e.active f.guard) f.dst (tabulate 32 (fun l => (bitsOf (fun k => (e.active f.guard).getLsbD k &&
      (k == l.val || agrees (laneTy f) (f.variant.getLsbD 0) (laneNat b k) (laneNat b l)))).setWidth 64)) t = .ok ((), u)) :
    bodyMatch f e s = .ok (if f.variant.getLsbD 0 then (Claims.lanesOf (e.active f.guard)
      (fun l => (0, (readF (laneTy f).fmt (laneNat b l % 2 ^ (laneTy f).width)).2))).2 else 0, u) := by
  unfold bodyMatch
  rw [exec_bind_ok (begin_ok h), exec_bind_ok hb]
  simp only [keysMatch_eq_agrees]
  exact exec_bind_ok hu

/-- The float types of `VRED` are the two wide formats. -/
theorem laneTy_wideFloat {f : FFrame} {lit : Bool} (h : f.ok (specVred f) lit = true) (g : Fmt) (hg : laneTy f = .fl g) : WideFloat g := by
  have hty : f.ty.toNat ∈ laneTys ++ [1, 2] := by
    simp only [FFrame.ok, Bool.and_eq_true] at h
    obtain ⟨⟨⟨_, hty⟩, _⟩, _⟩ := h
    have hty : f.ty.toNat ∈ laneTys ++ (if f.variant.toNat % 8 = 0 then [1, 2] else []) := List.contains_iff_mem.mp hty
    rcases List.mem_append.mp hty with h | h
    · exact List.mem_append_left _ h
    · split at h
      · exact List.mem_append_right _ h
      · cases h
  simp only [laneTys, List.cons_append, List.nil_append, List.mem_cons, List.not_mem_nil, or_false] at hty
  rcases hty with h | h | h | h | h | h | h | h | h <;> simp only [laneTy, Ty.ofCode, h, Ty.fl.injEq, reduceCtorEq] at hg
  · exact .inl hg.symm
  · exact .inr hg.symm

theorem bodyVred_ok {f : FFrame} {s t u : State} {e : Env} {b : Lanes64} (h : FReady e (specVred f) f none s)
    (hb : srcV e (laneTy f) f.srcB none s = .ok (b, t)) {r : Nat × Events}
    (hr : r = reduce (laneTy f) (f.variant.toNat % 8) (Mode.ofCode (f.variant.toNat / 8)) (f.flags.getLsbD 0) b (e.active f.guard))
    (hu : (if IsScalar e f.dst then dstS e (e.active f.guard) f.dst (scalarOf (laneTy f).signed (BitVec.ofNat (laneTy f).width r.1)) t
      else dstV e (laneTy f).wide (e.active f.guard) f.dst (splat (BitVec.ofNat 64 r.1)) t) = .ok ((), u)) :
    bodyVred f e s = .ok (if e.active f.guard = 0 then 0 else r.2, u) := by
  have hval : (if (laneTy f).signed then BitVec.ofInt 64 (readInt true (laneTy f).width r.1) else BitVec.ofNat 64 r.1) =
      scalarOf (laneTy f).signed (BitVec.ofNat (laneTy f).width r.1) := by
    have hlt : r.1 < 2 ^ (laneTy f).width := hr ▸ reduce_lt (laneTy_wideFloat h.2.1) _ _ _ _ _
    rw [← scalarOf_eq, BitVec.toNat_ofNat, Nat.mod_eq_of_lt hlt]
  unfold bodyVred
  rw [exec_bind_ok (begin_ok h), exec_bind_ok hb]
  simp only [← hr, hval, scalarCode_iff]
  by_cases hs : IsScalar e f.dst
  · rw [if_pos hs] at hu ⊢
    exact exec_bind_ok hu
  · rw [if_neg hs] at hu ⊢
    exact exec_bind_ok hu

theorem bodyVscan_ok {f : FFrame} {s t u : State} {e : Env} {b : Lanes64} (h : FReady e (specVscan f) f none s)
    (hb : srcV e (laneTy f) f.srcB none s = .ok (b, t)) {g : Nat → W64 × Events}
    (hg : ∀ l, g l =
      let y := scanLane (laneTy f) (f.variant.toNat % 8) (Mode.ofCode (f.variant.toNat / 8)) (f.flags.getLsbD 0)
        ((scanned (e.active f.guard) (f.variant.getLsbD 5) l).map (laneCode (laneTy f) b))
      (BitVec.ofNat 64 y.1, y.2))
    (hu : dstV e (laneTy f).wide (e.active f.guard) f.dst (Claims.lanesOf (e.active f.guard) g).1 t = .ok ((), u)) :
    bodyVscan f e s = .ok ((Claims.lanesOf (e.active f.guard) g).2, u) := by
  unfold bodyVscan
  rw [exec_bind_ok (begin_ok h), exec_bind_ok hb]
  exact lanes_ok (fun l => (hg l).symm) hu

/-- A destination that is written as a scalar or as a vector takes its value. -/
theorem dst_scalarOrVector_ok {e : Env} {wide : Bool} {m : W32} {code : BitVec 8} {x : W64} {v : Lanes64} {t : State}
    (h : Room e code (if IsScalar e code then 1 else if wide then 2 else 1) t) :
    ∃ u, (if IsScalar e code then dstS e m code x t else dstV e wide m code v t) = .ok ((), u) := by
  by_cases hs : IsScalar e code
  · rw [if_pos hs] at h ⊢
    exact dstS_ok h
  · rw [if_neg hs] at h ⊢
    exact dstV_ok h

/-- Settles O9: each instruction in turn. -/
theorem crossLaneResult : Obligations.CrossLaneResult := by
  intro f s s1 t e a b x ty m wide
  refine ⟨fun h ha hb hroom => ?_, fun h ha hx hroom => ?_, fun h hb hroom => ?_, fun h hroom hp hb => ?_, fun h hb hroom => ?_,
    fun h hb hroom => ?_, fun h hb hroom => ?_⟩
  · intro w
    obtain ⟨u, hu⟩ := dstV_ok hroom
    exact ⟨u, hu, issueF_ok h.1 (bodyShfl_ok h ha hb hu)⟩
  · obtain ⟨u, hu⟩ := dstV_ok hroom
    exact ⟨u, hu, issueF_ok h.1 (bodyBcast_ok h ha hx hu)⟩
  · intro n
    obtain ⟨u, hu⟩ := dstV_ok hroom
    exact ⟨u, hu, issueF_ok h.1 (bodyVcomp_ok h hb hu)⟩
  · obtain ⟨u, hu⟩ := dstS_ok hroom
    exact ⟨u, hu, issueF_ok h.1 (bodyVote_ok h hp hb hu)⟩
  · obtain ⟨u, hu⟩ := dstV_ok (wide := false) hroom
    exact ⟨u, hu, issueF_ok h.1 (bodyMatch_ok h hb hu)⟩
  · intro r
    obtain ⟨u, hu⟩ := dst_scalarOrVector_ok hroom
    exact ⟨u, hu, issueF_ok h.1 (bodyVred_ok h hb rfl hu)⟩
  · intro r
    obtain ⟨u, hu⟩ := dstV_ok (m := m) (x := r.1) hroom
    exact ⟨u, hu, issueF_ok h.1 (bodyVscan_ok h hb (fun l => rfl) hu)⟩

end Sys2Proof.Proofs
end

section
/-!
PROOFS. Entering accesses (R30, R149, R163, R164, R169, R172, R176 to R183, R391, R438): what an access instruction does at issue where nothing
holds it, traps it or stops it.
-/
namespace Sys2Proof.Proofs
open Sys2Proof.Machine Sys2Proof.Claims Sys2Proof.Laws

/-! ### Room -/

theorem throttle_ok {e : Env} {s : State} (h : Allowed e s) : throttle e s = .ok ((), s) := by
  unfold throttle
  exact if_pos (List.contains_iff_mem.mpr h)

theorem curSlice_ok (e : Env) (s : State) : curSlice e s = .ok ((s.slice? e.cur.grp e.cur.a).getD e.sl, s) := rfl

theorem counterRoom_ok {e : Env} {k : PendKind} {s : State}
    (h : (if k.isLoad then ((s.slice? e.cur.grp e.cur.a).getD e.sl).loads else ((s.slice? e.cur.grp e.cur.a).getD e.sl).stores) < 63) :
    counterRoom e k s = .ok ((), s) := by
  unfold counterRoom
  rw [exec_bind_ok (curSlice_ok e s), decide_eq_false (by omega)]
  rfl

/-- The entries that waiters ask for, summed up. -/
theorem foldl_waits_eq_sum (l : List (Cursor × Nat)) (n : Nat) : l.foldl (fun m w => m + w.2) n = n + (l.map (fun w => w.2)).sum := by
  induction l generalizing n with
  | nil => rfl
  | cons x l ih => rw [List.foldl_cons, ih, List.map_cons, List.sum_cons, Nat.add_assoc]

/-- With room in the table the entries are obtained; only the core's list of waiters may change. -/
theorem tableRoom_ok {e : Env} {n : Nat} {s : State} (h : TableRoom e n s) :
    ∃ g : Core → Core, tableRoom e (min 32 n) s = .ok ((), s.modCore e.g.core g) ∨ tableRoom e (min 32 n) s = .ok ((), s) := by
  unfold tableRoom
  dsimp only
  rcases h with rfl | h
  · exact ⟨id, .inr (if_pos rfl)⟩
  · by_cases hn : min 32 n = 0
    · exact ⟨id, .inr (if_pos hn)⟩
    · rw [if_neg hn, foldl_waits_eq_sum, Nat.zero_add, if_pos h]
      exact ⟨_, .inl rfl⟩

theorem windowRoom_ok {accs : List LaneAcc} {s : State}
    (h : ∀ p ∈ accs.filterMap (fun a => match a.place with | .fabric p _ => some p | _ => none),
      s.fabric.unanswered p + entriesOf (accs.filter (fun a => match a.place with | .fabric q _ => q == p | _ => false)) ≤ 4096) :
    windowRoom accs s = .ok ((), s) := by
  have hany : ((accs.filterMap (fun a => match a.place with | .fabric p _ => some p | _ => none)).eraseDups).any (fun p => decide (4096 <
      s.fabric.unanswered p + entriesOf (accs.filter (fun a => match a.place with | .fabric q _ => q == p | _ => false)))) = false := by
    rw [List.any_eq_false]
    intro p hp
    have := h p (List.mem_eraseDups.mp hp)
    simpa using this
  unfold windowRoom
  rw [exec_bind_ok (exec_get s)]
  exact (congrArg (fun b => holdIf b .requestWindow s) hany).trans rfl

theorem depsFor_ok (e : Env) (write : Bool) (order : Nat) (s : State) : ∃ l, depsFor e write order s = .ok (l, s) := by
  unfold depsFor
  rw [exec_bind_ok (exec_get s), exec_bind_ok (curSlice_ok e s)]
  by_cases h : 2 ≤ order
  · exact ⟨_, by rw [if_pos h]; rfl⟩
  · exact ⟨_, by rw [if_neg h]; rfl⟩

/-- An access with room is entered. -/
theorem enter_ok {e : Env} {x : NewPend} {s : State} (h : EnterRoom e x.kind x.accs s) : ∃ u, enter e x s = .ok ((), u) := by
  obtain ⟨hcount, htable, hwindow⟩ := h
  have hrest : ∀ t : State, t.fabric = s.fabric → ∃ u, (do
      windowRoom x.accs
      let deps ← depsFor e x.kind.writes x.order
      let s ← get
      let id := (s.core e.g.core).nextPend
      let p : Pending :=
        { id := id, grp := e.cur.grp, a := e.cur.a, pc := e.path.pc, kind := x.kind, dst := x.dst, ext := x.ext, accs := x.accs,
          scope := x.scope, acquire := x.order % 2 == 1, sync := x.order != 0, nc := x.nc, deps := deps, token := x.token,
          corr := e.sl.corr, refused := none }
      modify (fun s => s.addPend e.g.core p)
      modSl e (fun sl =>
        let sl1 := if !x.kind.counted then sl
                   else if x.kind.isLoad then { sl with loads := sl.loads + 1 } else { sl with stores := sl.stores + 1 }
        if x.order % 2 == 1 then { sl1 with acqIds := sl1.acqIds ++ [id] } else sl1) : Exec Unit) t = .ok ((), u) := by
    intro t ht
    obtain ⟨l, hl⟩ := depsFor_ok e x.kind.writes x.order t
    rw [exec_bind_ok (windowRoom_ok (by rw [ht]; exact hwindow)), exec_bind_ok hl]
    exact ⟨_, rfl⟩
  unfold enter
  rw [exec_bind_ok (counterRoom_ok hcount)]
  obtain ⟨g, hg | hg⟩ := tableRoom_ok htable
  · rw [exec_bind_ok (show tableRoom e (tableNeed x.accs) s = _ from hg)]
    exact hrest _ rfl
  · rw [exec_bind_ok (show tableRoom e (tableNeed x.accs) s = _ from hg)]
    exact hrest _ rfl

/-! ### Addresses and places -/

theorem laneVas_ok {e : Env} {f : FFrame} {m : W32} {size : Nat} {s s1 t : State} {a b : Lanes64}
    (ha : srcV e .u64 f.srcA none s = .ok (a, s1)) (hb : srcV e .u32 f.srcB none s1 = .ok (b, t)) :
    laneVas e f (dispOf f size) m s = .ok ((actives m).map (fun l => (l, laneVa a b f size l)), t) := by
  unfold laneVas
  simp only [ofNat_laneNat, ite_self]
  rw [exec_bind_ok ha, exec_bind_ok hb]
  rfl

/-- Translations that all end at places miss nothing. -/
theorem missesOf_places {l : List Xlat} (h : ∀ x ∈ l, ∃ p, x = .place p) : missesOf l = [] := by
  unfold missesOf
  refine List.foldlRecOn (motive := fun acc => acc = []) l _ rfl fun acc hacc x hx => ?_
  obtain ⟨p, rfl⟩ := h x hx
  exact hacc

/-- The addresses of an access that finds each at a place, aligned, give those places. -/
theorem placesOf_ok {e : Env} {vas : List (Nat × W64)} {size : Nat} {acc : Access} {all : Option W32} {s : State} {pl : Nat → Place}
    (h : ∀ p ∈ vas, e.xlate s p.2 acc = .place (pl p.1) ∧ p.2.toNat % size = 0) :
    placesOf e vas size acc all s = .ok (vas.map (fun p => (p.1, p.2, pl p.1)), s) := by
  have hxs : vas.map (fun p => (p.1, p.2, e.xlate s p.2 acc)) = vas.map (fun p => (p.1, p.2, Xlat.place (pl p.1))) :=
    List.map_congr_left fun p hp => by rw [(h p hp).1]
  have hmiss : missesOf ((vas.map (fun p => (p.1, p.2, Xlat.place (pl p.1)))).map (fun x => x.2.2)) = [] := by
    refine missesOf_places fun x hx => ?_
    obtain ⟨y, hy, rfl⟩ := List.mem_map.mp hx
    obtain ⟨p, _, rfl⟩ := List.mem_map.mp hy
    exact ⟨_, rfl⟩
  have haligned : vas.filterMap (fun p => if p.2.toNat % size = 0 then none else some (0x12 : BitVec 8)) = [] := by
    rw [List.filterMap_eq_nil_iff]
    exact fun p hp => if_pos (h p hp).2
  unfold placesOf
  rw [exec_bind_ok (exec_get s)]
  simp only [hxs]
  rw [hmiss]
  simp only [List.filterMap_map, Function.comp_def, Xlat.cause?, haligned, List.foldl_nil]
  exact congrArg (fun x => Except.ok (x, s)) (congrFun (List.filterMap_eq_map (f := fun p : Nat × W64 => (p.1, p.2, pl p.1))) vas)

theorem noPoison_ok {ps : List (Nat × W64 × Place)} {s : State} (h : ∀ x ∈ ps, ∀ a, x.2.2 = .mem a → s.poisoned a = false) :
    noPoison ps s = .ok ((), s) := by
  have hbad : ps.filter (fun x => match x.2.2 with | .mem a => s.poisoned a | _ => false) = [] := by
    rw [List.filter_eq_nil_iff]
    intro x hx
    cases hp : x.2.2 with
    | mem a => simp [h x hx a hp]
    | _ => simp
  unfold noPoison
  exact (congrArg (fun l : List (Nat × W64 × Place) => (match (l.map (fun x => x.2.1)).foldl
    (fun r v => match r with | none => some v | some u => some (if v < u then v else u)) none with
    | none => Except.ok ((), s)
    | some va => Except.error (Stop.poison va))) hbad).trans rfl

/-- The accesses of the active lanes as the model enters them. -/
theorem markPeers_lanesAt (m : W32) (size : Nat) (va : Nat → W64) (pl : Nat → Place) (data cmp : Nat → List Byte) :
    markPeers (((actives m).map (fun l => (l, va l, pl l))).map (laneAcc size data cmp)) = lanesAt m size va pl data cmp := by
  simp only [markPeers, lanesAt, List.map_map]
  refine List.map_congr_left fun l _ => ?_
  simp only [Function.comp_apply, laneAcc]
  cases pl l <;> rfl

/-- The access of a slice as the model enters it. -/
theorem markPeers_onceAt (size : Nat) (va : W64) (pl : Place) (data cmp : Nat → List Byte) (hc : cmp 32 = []) :
    markPeers ([(32, va, pl)].map (laneAcc size data cmp)) = onceAt size va pl (data 32) := by
  simp only [markPeers, onceAt, List.map_cons, List.map_nil, laneAcc, hc]
  cases pl <;> rfl

/-! ### What an access instruction checks first -/

/-- An instruction that is throttled and checked, and then does the rest. -/
theorem throttled_ok {α : Type} {e : Env} {sp : FSpec} {f : FFrame} {conds : List Cond} {ns : List Named} {s : State} {k : Exec α}
    (ha : Allowed e s) (h : MReady e sp f conds ns s) :
    (do throttle e; trapIf e (!f.ok sp false) 0x02; checkNamed e conds ns; k : Exec α) s = k s := by
  obtain ⟨_, hf, hc, hn⟩ := h
  rw [exec_bind_ok (throttle_ok ha), hf, hc]
  exact (exec_bind_ok (trapIf_false e _ _ _ s)).trans (exec_bind_ok (checkNamed_ok hn))

/-! ### `LD` and `ST` -/

/-- The lanes of a vector access find their places. -/
theorem placesOf_lanes {e : Env} {m : W32} {size : Nat} {acc : Access} {all : Option W32} {t : State} {va : Nat → W64} {pl : Nat → Place}
    (hp : Placed e t m size acc va pl) :
    placesOf e ((actives m).map (fun l => (l, va l))) size acc all t = .ok ((actives m).map (fun l => (l, va l, pl l)), t) := by
  rw [placesOf_ok (pl := pl) ?_, List.map_map]
  · rfl
  · intro p hp'
    obtain ⟨l, hl, rfl⟩ := List.mem_map.mp hp'
    exact hp l hl

/-- The addresses of the active lanes are formed and found. -/
theorem lanePlaces_ok {e : Env} {f : FFrame} {m : W32} {size : Nat} {acc : Access} {s s1 t : State} {a b : Lanes64} {pl : Nat → Place}
    (ha : srcV e .u64 f.srcA none s = .ok (a, s1)) (hb : srcV e .u32 f.srcB none s1 = .ok (b, t))
    (hp : Placed e t m size acc (laneVa a b f size) pl) :
    (laneVas e f (dispOf f size) m >>= fun vas => placesOf e vas size acc none) s =
      .ok ((actives m).map (fun l => (l, laneVa a b f size l, pl l)), t) :=
  (exec_bind_ok (laneVas_ok ha hb)).trans (placesOf_lanes hp)

theorem unpoisoned_ok {s : State} {m : W32} {va : Nat → W64} {pl : Nat → Place} (h : Unpoisoned s m pl) :
    noPoison ((actives m).map (fun l => (l, va l, pl l))) s = .ok ((), s) := by
  refine noPoison_ok fun x hx a ha => ?_
  obtain ⟨l, hl, rfl⟩ := List.mem_map.mp hx
  exact h l hl a ha

theorem pushZeros_ok {e : Env} {f : FFrame} {s : State} (h : Room e f.dst (memRegs f) s) : ∃ u, pushZeros e f s = .ok ((), u) := by
  unfold pushZeros
  by_cases hq : RC.of f.dst = .q
  · rw [if_pos hq]
    exact pushEntries_ok hq (by simpa using h)
  · rw [if_neg hq]
    exact ⟨s, rfl⟩

theorem exec_ld_idle {f : FFrame} {s u : State} {e : Env} (ha : Allowed e s)
    (h : MReady e (specLd f) f (v4Conds e f true f.dst) (loadNamed (specLd f) f) s) (hm : e.active f.guard = 0)
    (hu : pushZeros e f s = .ok ((), u)) : exec (.ld f) s = .next (done e (e.active f.guard) 8 0 u) := by
  refine issueF_ok h.1 ((throttled_ok ha h).trans ?_)
  rw [if_pos hm]
  exact exec_bind_ok hu

theorem exec_ld_active {f : FFrame} {s s1 s2 t u : State} {e : Env} {a b : Lanes64} {pl : Nat → Place} {d : PendDst} (hal : Allowed e s)
    (h : MReady e (specLd f) f (v4Conds e f true f.dst) (loadNamed (specLd f) f) s) (hm : e.active f.guard ≠ 0)
    (ha : srcV e .u64 f.srcA none s = .ok (a, s1)) (hb : srcV e .u32 f.srcB none s1 = .ok (b, s2))
    (hp : Placed e s2 (e.active f.guard) (vecExt f).size .load (laneVa a b f (vecExt f).size) pl) (hpo : Unpoisoned s2 (e.active f.guard) pl)
    (hd : loadDst e f s2 = .ok (d, t))
    (hu : enter e (access f .load d (vecExt f) (lanesAt (e.active f.guard) (vecExt f).size (laneVa a b f (vecExt f).size) pl (fun _ => [])
      (fun _ => [])) (f.flags.getLsbD 1)) t = .ok ((), u)) : exec (.ld f) s = .next (done e (e.active f.guard) 8 0 u) := by
  refine issueF_ok h.1 ((throttled_ok hal h).trans ?_)
  rw [if_neg hm, exec_bind_ok (laneVas_ok ha hb), exec_bind_ok (placesOf_lanes hp), exec_bind_ok (unpoisoned_ok hpo), exec_bind_ok hd,
    markPeers_lanesAt]
  exact exec_bind_ok hu

/-- Where a store's lanes lead, its data read first. -/
theorem exec_st_body {f : FFrame} {s s0 u : State} {e : Env} {data : Nat → List Byte} (hal : Allowed e s)
    (h : MReady e (specSt f) f (v4Conds e f false f.dst) (storeNamed (specSt f) f) s) (hd : storeData e f s = .ok (data, s0))
    (hu : (if e.active f.guard = 0 then pure 0
      else do
        let ps ← laneVas e f (dispOf f (vecExt f).size) (e.active f.guard) >>= fun vas => placesOf e vas (vecExt f).size .store
        enter e { kind := .store, dst := .none, ext := vecExt f, accs := markPeers (ps.map (laneAcc (vecExt f).size data noBytes)),
                  scope := Scope.ofCode (f.variant.toNat % 8), order := orderOf f }
        pure 0 : Exec Events) s0 = .ok (0, u)) : exec (.st f) s = .next (done e (e.active f.guard) 8 0 u) := by
  refine issueF_ok h.1 ((throttled_ok hal h).trans ?_)
  exact (exec_bind_ok (orLower_ok hd)).trans hu

/-- Settles O17: the lanes find their places and enter one access. -/
theorem vectorAccessIssue : Obligations.VectorAccessIssue := by
  intro f s s0 s1 s2 t e a b pl d data m x va
  refine ⟨fun hal h => ⟨fun hm hroom => ?_, fun hm ha hb hp hpo hd => ?_⟩, fun hal h hdata => ⟨fun hm => ?_, fun hm ha hb hp => ?_⟩⟩
  · obtain ⟨u, hu⟩ := pushZeros_ok hroom
    exact ⟨u, hu, exec_ld_idle hal h hm hu⟩
  · intro accs hroom
    obtain ⟨u, hu⟩ := enter_ok (x := access f .load d x accs (f.flags.getLsbD 1)) hroom
    exact ⟨u, hu, exec_ld_active hal h hm ha hb hp hpo hd hu⟩
  · exact exec_st_body hal h hdata (by rw [if_pos hm]; rfl)
  · intro accs hroom
    obtain ⟨u, hu⟩ := enter_ok (x := access f .store .none x accs false) hroom
    refine ⟨u, hu, exec_st_body hal h hdata ?_⟩
    rw [if_neg hm, exec_bind_ok (lanePlaces_ok ha hb hp), markPeers_lanesAt]
    exact exec_bind_ok hu

/-! ### `LDS` and `STS` -/

/-- The base of a slice-wide access is an s register. -/
theorem scalarVa_ok {e : Env} {f : FFrame} (hc : RC.of f.srcA = .s) (size : Nat) (s : State) :
    scalarVa e f size s = .ok (e.sl.s (regNo f.srcA) + BitVec.ofInt 64 (f.srcC.toInt * (size : Int)), s) := by
  unfold scalarVa srcS
  simp only [hc]
  rfl

theorem srcA_ok {f : FFrame} {sp : FSpec} {lit : Bool} (h : f.ok sp lit = true) : sp.a.ok f.srcA = true := by
  simp only [FFrame.ok, Bool.and_eq_true] at h
  obtain ⟨⟨⟨⟨⟨⟨_, h⟩, _⟩, _⟩, _⟩, _⟩, _⟩ := h
  exact h

theorem placesOf_once {e : Env} {va : W64} {size : Nat} {acc : Access} {all : Option W32} {s : State} {pl : Place}
    (hx : e.xlate s va acc = .place pl) (ha : va.toNat % size = 0) :
    placesOf e [(32, va)] size acc all s = .ok ([(32, va, pl)], s) :=
  placesOf_ok (pl := fun _ => pl) (by simpa using ⟨hx, ha⟩)

theorem exec_pure {α : Type} (x : α) (s : State) : (pure x : Exec α) s = .ok (x, s) := rfl

/-- Settles O18: one lane, numbered 32, stands for the slice. -/
theorem scalarAccessIssue : Obligations.ScalarAccessIssue := by
  intro f s s0 t e pl d x m ext va
  refine ⟨fun hal h => ?_, fun hal h hdata => ?_⟩
  · have hreg : RC.of f.srcA = .s := regClass_of_sreg (srcA_ok h.2.1)
    refine ⟨fun hm hroom => ?_, fun hm hx ha hpo hd => ?_⟩
    · obtain ⟨u, hu⟩ := dstS_ok (m := 0) (x := 0) hroom
      refine ⟨u, hu, issueF_ok h.1 ((throttled_ok hal h).trans ?_)⟩
      rw [if_pos hm]
      exact exec_bind_ok hu
    · intro accs hroom
      obtain ⟨u, hu⟩ := enter_ok (x := access f .load d ext accs (f.flags.getLsbD 1)) hroom
      refine ⟨u, hu, issueF_ok h.1 ((throttled_ok hal h).trans ?_)⟩
      rw [if_neg hm, exec_bind_ok (scalarVa_ok hreg _ s), exec_bind_ok (placesOf_once hx ha),
        exec_bind_ok (noPoison_ok (by simpa using hpo))]
      have hacc := markPeers_onceAt ext.size va pl noBytes noBytes rfl
      by_cases hq : RC.of f.dst = .q
      · rw [if_pos hq] at hd ⊢
        rw [exec_bind_ok hd, hacc]
        exact exec_bind_ok hu
      · rw [if_neg hq] at hd ⊢
        obtain ⟨rfl, rfl⟩ := hd
        rw [hacc]
        exact (exec_bind_ok (exec_pure _ _)).trans (exec_bind_ok hu)
  · have hreg : RC.of f.srcA = .s := regClass_of_sreg (srcA_ok h.2.1)
    refine ⟨fun hm => ?_, fun hm hx ha => ?_⟩
    · refine issueF_ok h.1 ((throttled_ok hal h).trans ((exec_bind_ok (orLower_ok hdata)).trans ?_))
      rw [if_pos hm]
      rfl
    · intro accs hroom
      obtain ⟨u, hu⟩ := enter_ok (x := access f .store .none ext accs false) hroom
      refine ⟨u, hu, issueF_ok h.1 ((throttled_ok hal h).trans ((exec_bind_ok (orLower_ok hdata)).trans ?_))⟩
      have hplaces : (scalarVa e f (loadExt f.ty).size >>= fun va =>
          placesOf e (if e.active f.guard = 0 then [] else [(32, va)]) (loadExt f.ty).size .store (some (e.active f.guard))) s0 =
          .ok ([(32, va, pl)], s0) := by
        refine (exec_bind_ok (scalarVa_ok hreg _ s0)).trans ?_
        rw [if_neg hm]
        exact placesOf_once hx ha
      rw [if_neg hm, exec_bind_ok hplaces, markPeers_onceAt ext.size va pl (fun _ => toBytes ext.size x.toNat) noBytes rfl]
      exact exec_bind_ok hu

/-! ### Local store -/

theorem lsReady_ok {e : Env} {s : State} (h : s.banksWait e.g.core e.g.sub = false) : lsReady e s = .ok ((), s) := by
  unfold lsReady
  rw [exec_bind_ok (exec_get s), h]
  exact holdIf_false .bankQueue s

/-- Where an access has entered, a local-store one writes the conflict degree and offers its requests to the banks. -/
theorem enterLs_ok {e : Env} {x : NewPend} {s u : State} (hu : enter e x s = .ok ((), u)) :
    enterLs e x s = .ok ((), (onSlice e (fun sl => { sl with gbank := BitVec.ofNat 8 (s.degree x.accs) }) u).enqueueBanks e.g.core
      (s.core e.g.core).nextPend (x.accs.filter (fun a => a.arrived))) := by
  unfold enterLs
  rw [exec_bind_ok (exec_get s), exec_bind_ok hu]
  rfl

theorem noLanes_ok (e : Env) (s : State) : noLanes e s = .ok ((), onSlice e (fun sl => { sl with gbank := 0 }) s) := rfl

/-- What a local-store access checks, and then does the rest. -/
theorem localChecked_ok {α : Type} {e : Env} {sp : FSpec} {f : FFrame} {conds : List Cond} {ns : List Named} {s : State} {k : Exec α}
    (hg : lgeomReady e s = .ok ((), s)) (hb : s.banksWait e.g.core e.g.sub = false) (h : MReady e sp f conds ns s) :
    (do trapIf e (!f.ok sp false) 0x02; checkNamed e conds ns; lgeomReady e; lsReady e; k : Exec α) s = k s := by
  obtain ⟨_, hf, hc, hn⟩ := h
  rw [hf, hc]
  exact (exec_bind_ok (trapIf_false e _ _ _ s)).trans ((exec_bind_ok (checkNamed_ok hn)).trans
    ((exec_bind_ok hg).trans (exec_bind_ok (lsReady_ok hb))))

/-- Settles O19: one access with its bank requests. -/
theorem localAccessIssue : Obligations.LocalAccessIssue := by
  intro f s s0 s1 t e refs g d data m x bank none0 hg hb
  refine ⟨fun h => ⟨fun hm hroom => ?_, fun hm hrefs hd => ?_⟩, fun h hdata => ⟨fun hm => ?_, fun hm hrefs => ?_⟩⟩
  · obtain ⟨u, hu⟩ := pushZeros_ok hroom
    refine ⟨u, hu, issueF_ok h.1 ((localChecked_ok hg hb h).trans ?_)⟩
    rw [if_pos hm, exec_bind_ok (noLanes_ok e s)]
    exact exec_bind_ok hu
  · intro accs hroom
    obtain ⟨u, hu⟩ := enter_ok (x := access f .load d x accs false) hroom
    refine ⟨u, hu, issueF_ok h.1 ((localChecked_ok hg hb h).trans ?_)⟩
    rw [if_neg hm, exec_bind_ok hrefs]
    exact (exec_bind_ok hd).trans (exec_bind_ok (enterLs_ok hu))
  · refine issueF_ok h.1 ((localChecked_ok hg hb h).trans ((exec_bind_ok (orLower_ok hdata)).trans ?_))
    rw [if_pos hm]
    exact exec_bind_ok (noLanes_ok e s0)
  · intro accs hroom
    obtain ⟨u, hu⟩ := enter_ok (x := access f .store .none x accs false) hroom
    refine ⟨u, hu, issueF_ok h.1 ((localChecked_ok hg hb h).trans ((exec_bind_ok (orLower_ok hdata)).trans ?_))⟩
    rw [if_neg hm, exec_bind_ok hrefs]
    exact exec_bind_ok (enterLs_ok hu)

/-! ### `LDQ` -/

theorem exec_modify (g : State → State) (s : State) : (modify g : Exec Unit) s = .ok ((), g s) := rfl

/-- The places among the translations of an `LDQ`. -/
def ldqPlaces (xs : List (Nat × W64 × Xlat)) : List (Nat × W64 × Place) :=
  xs.filterMap (fun x => match x.2.2 with | .place p => some (x.1, x.2.1, p) | _ => none)

/-- The entry that an `LDQ` pushes: the offsets of the lanes that met a cause, and the token when no lane has a place. -/
def ldqEntry (off : Lanes64) (xs : List (Nat × W64 × Xlat)) (tok : Option Token) : QEntry :=
  let bad := (xs.filter (fun x => x.2.2.cause?.isSome)).map (fun x => x.1)
  { QEntry.ofLanes (tabulate 32 (fun l => if bad.contains l.val then BitVec.ofNat 32 (laneNat off l.val) else 0)) with
    token := if (ldqPlaces xs).isEmpty then tok else none }

/-- What `LDQ` does once every lane's translation has ended. -/
def ldqEnd (e : Env) (f : FFrame) (base : W64) (off : Lanes64) (xs : List (Nat × W64 × Xlat)) : Exec Events := do
  noPoison (ldqPlaces xs)
  modify (fun s => s.dropFaults e.g.core e.w.asn)
  let n := regNo f.dst
  let scalar := (e.g.queue n).scalar
  let tok := ldqToken e f base xs scalar
  if (ldqPlaces xs).isEmpty then do
    pushEntries e n [ldqEntry off xs tok]
    pure 0
  else do
    let dst ← reserve e n scalar [ldqEntry off xs tok]
    enter e { kind := .ldq, dst := dst, ext := loadExt f.ty,
              accs := markPeers ((ldqPlaces xs).map (laneAcc (loadExt f.ty).size noBytes noBytes)),
              scope := Scope.ofCode (f.variant.toNat % 8), order := orderOf f, token := tok }
    pure 0

/-- What `LDQ` does with aligned addresses. -/
def ldqFind (e : Env) (f : FFrame) (base : W64) (off : Lanes64) (vas : List (Nat × W64)) : Exec Events := do
  let s ← get
  let xs := vas.map (fun v => (v.1, v.2, e.unfinished (e.xlate s v.2 .load)))
  match missesOf (xs.map (fun x => x.2.2)) with
  | w :: ws => hold .walk (w :: ws)
  | [] => ldqEnd e f base off xs

theorem ldqFind_ok {e : Env} {f : FFrame} {base : W64} {off : Lanes64} {vas : List (Nat × W64)} {xs : List (Nat × W64 × Xlat)} {s : State}
    (hxs : vas.map (fun v => (v.1, v.2, e.unfinished (e.xlate s v.2 .load))) = xs) (hmiss : missesOf (xs.map (fun x => x.2.2)) = []) :
    ldqFind e f base off vas s = ldqEnd e f base off xs s := by
  unfold ldqFind
  rw [exec_bind_ok (exec_get s)]
  simp only [hxs, hmiss]

theorem ldqEnd_push {e : Env} {f : FFrame} {base : W64} {off : Lanes64} {xs : List (Nat × W64 × Xlat)} {s u : State}
    (hpo : noPoison (ldqPlaces xs) s = .ok ((), s)) (hps : ldqPlaces xs = [])
    (hu : pushEntries e (regNo f.dst) [ldqEntry off xs (ldqToken e f base xs (e.g.queue (regNo f.dst)).scalar)]
      (s.dropFaults e.g.core e.w.asn) = .ok ((), u)) : ldqEnd e f base off xs s = .ok (0, u) := by
  unfold ldqEnd
  rw [exec_bind_ok hpo, hps]
  exact (exec_bind_ok (exec_modify _ s)).trans (exec_bind_ok hu)

theorem ldqEnd_enter {e : Env} {f : FFrame} {base : W64} {off : Lanes64} {xs : List (Nat × W64 × Xlat)} {s t u : State} {d : PendDst}
    (hpo : noPoison (ldqPlaces xs) s = .ok ((), s)) (hps : ldqPlaces xs ≠ [])
    (hd : reserve e (regNo f.dst) (e.g.queue (regNo f.dst)).scalar
      [ldqEntry off xs (ldqToken e f base xs (e.g.queue (regNo f.dst)).scalar)] (s.dropFaults e.g.core e.w.asn) = .ok (d, t))
    (hu : enter e { access f .ldq d (loadExt f.ty) (markPeers ((ldqPlaces xs).map (laneAcc (loadExt f.ty).size noBytes noBytes))) false with
      token := ldqToken e f base xs (e.g.queue (regNo f.dst)).scalar } t = .ok ((), u)) : ldqEnd e f base off xs s = .ok (0, u) := by
  unfold ldqEnd
  rw [exec_bind_ok hpo]
  refine (exec_bind_ok (exec_modify _ s)).trans ?_
  rw [if_neg (by simpa using hps), exec_bind_ok hd]
  exact exec_bind_ok hu

/-- Where `LDQ` with an active lane and aligned addresses leads. -/
theorem exec_ldq_body {f : FFrame} {s s1 s2 u : State} {e : Env} {base : W64} {off : Lanes64} {vas : List (Nat × W64)} (hal : Allowed e s)
    (ha : e.cur.a = true) (h : MReady e (specLdq f) f (ldqConds e f) (loadNamed (specLdq f) f) s) (hm : e.active f.guard ≠ 0)
    (hbase : scalarVa e f (loadExt f.ty).size s = .ok (base, s1)) (hoff : srcV e .u32 f.srcB none s1 = .ok (off, s2))
    (hvas : vas = if (e.g.queue (regNo f.dst)).scalar then [(32, base)] else
      (actives (e.active f.guard)).map (fun l => (l, base + lane off l)))
    (haligned : ∀ v ∈ vas, v.2.toNat % (loadExt f.ty).size = 0) (hu : ldqFind e f base off vas s2 = .ok (0, u)) :
    exec (.ldq f) s = .next (done e (e.active f.guard) 8 0 u) := by
  obtain ⟨henv, hf, hc, hn⟩ := h
  refine issueF_ok henv ((exec_bind_ok (throttle_ok hal)).trans ?_)
  rw [hf, ha, hc]
  refine (exec_bind_ok (raiseLowest_nil e s)).trans ((exec_bind_ok (checkNamed_ok hn)).trans ?_)
  rw [if_neg hm, exec_bind_ok hbase, exec_bind_ok hoff]
  have hlist : (if (e.g.queue (regNo f.dst)).scalar then [(32, base)] else
      (lanesIn (e.active f.guard)).map (fun l => (l, base + BitVec.ofNat 64 (laneNat off l)))) = vas := by
    simp only [ofNat_laneNat]
    exact hvas.symm
  have hmis : vas.filter (fun v => v.2.toNat % (loadExt f.ty).size != 0) = [] :=
    List.filter_eq_nil_iff.mpr fun v hv => by simpa using haligned v hv
  simp only [hlist, hmis]
  exact hu

theorem exec_ldq_idle {f : FFrame} {s u : State} {e : Env} (hal : Allowed e s) (ha : e.cur.a = true)
    (h : MReady e (specLdq f) f (ldqConds e f) (loadNamed (specLdq f) f) s) (hm : e.active f.guard = 0)
    (hu : pushEntries e (regNo f.dst) [QEntry.ofLanes Lanes.zero] s = .ok ((), u)) :
    exec (.ldq f) s = .next (done e (e.active f.guard) 8 0 u) := by
  obtain ⟨henv, hf, hc, hn⟩ := h
  refine issueF_ok henv ((exec_bind_ok (throttle_ok hal)).trans ?_)
  rw [hf, ha, hc]
  refine (exec_bind_ok (raiseLowest_nil e s)).trans ((exec_bind_ok (checkNamed_ok hn)).trans ?_)
  rw [if_pos hm]
  exact exec_bind_ok hu

/-- Settles O20: a filled entry, a token, or both. -/
theorem queueLoadIssue : Obligations.QueueLoadIssue := by
  intro f s s1 s2 t e base off d n scalar m x hal ha h
  refine ⟨fun hm hroom hq => ?_, fun hm hbase hoff => ?_⟩
  · obtain ⟨u, hu⟩ := pushEntries_ok (xs := [QEntry.ofLanes Lanes.zero]) hq hroom
    exact ⟨u, hu, exec_ldq_idle hal ha h hm hu⟩
  · intro vas found xs ps s3 bad tok entry haligned hmiss hpo
    have hxs : vas.map (fun v => (v.1, v.2, e.unfinished (e.xlate s2 v.2 .load))) = xs := by
      refine List.map_congr_left fun v _ => ?_
      dsimp only [found]
      cases e.xlate s2 v.2 .load <;> rfl
    have hentry : entry = ldqEntry off xs tok := by
      simp only [entry, ldqEntry, List.contains_iff_mem, List.isEmpty_iff]
      rfl
    have hfind (u : State) (hu : ldqEnd e f base off xs s2 = .ok (0, u)) :=
      exec_ldq_body hal ha h hm hbase hoff rfl haligned ((ldqFind_ok hxs hmiss).trans hu)
    rw [hentry]
    refine ⟨fun hps hroom hq => ?_, fun hps hd => ?_⟩
    · obtain ⟨u, hu⟩ := pushEntries_ok (xs := [ldqEntry off xs tok]) hq hroom
      exact ⟨u, hu, hfind u (ldqEnd_push hpo hps hu)⟩
    · intro accs hroom
      obtain ⟨u, hu⟩ := enter_ok (x := { access f .ldq d x accs false with token := tok }) hroom
      exact ⟨u, hu, hfind u (ldqEnd_enter hpo hps hd hu)⟩

/-! ### Whole forms -/

theorem placesOf_pieces {e : Env} {va : W64} {n : Nat} {acc : Access} {all : Option W32} {s : State} {pl : Nat → Place}
    (h : ∀ p ∈ piecesOf va n, e.xlate s p.2.1 acc = .place (pl p.1)) :
    placesOf e ((piecesOf va n).map (fun p => (p.1, p.2.1))) 1 acc all s =
      .ok ((piecesOf va n).map (fun p => (p.1, p.2.1, pl p.1)), s) := by
  rw [placesOf_ok (pl := pl), List.map_map]
  · rfl
  · intro p hp
    obtain ⟨q, hq, rfl⟩ := List.mem_map.mp hp
    exact ⟨h q hq, Nat.mod_one _⟩

/-- The size of a piece follows from its number. -/
theorem size_of_mem_piecesOf {va : W64} {n : Nat} {p : Nat × W64 × Nat} (h : p ∈ piecesOf va n) : min 8 (n - 8 * (p.1 - 32)) = p.2.2 := by
  obtain ⟨i, _, rfl⟩ := List.mem_map.mp h
  simp

/-- The last step of `STC`: its form is stored piece by piece. -/
def stcEnd (e : Env) (f : FFrame) (form : List Byte) (m : W32) : Exec Events := do
  let ps ← placesOf e ((piecesOf (e.sl.s (regNo f.dst)) form.length).map (fun p => (p.1, p.2.1))) 1 .store (some m)
  let sizeOf (lane : Nat) : Nat := min 8 (form.length - 8 * (lane - 32))
  let accs := ps.map (fun x => { laneAcc (sizeOf x.1) (fun l => (form.drop (8 * (l - 32))).take 8) noBytes x with lane := x.1 })
  enter e { kind := .store, dst := .none, ext := { size := 8, signed := false }, accs := markPeers accs,
            scope := Scope.ofCode (f.variant.toNat % 8), order := orderOf f }
  pure 0

theorem stcEnd_ok {e : Env} {f : FFrame} {form : List Byte} {m : W32} {s u : State} {pl : Nat → Place}
    (hp : ∀ p ∈ piecesOf (e.sl.s (regNo f.dst)) form.length, e.xlate s p.2.1 .store = .place (pl p.1))
    (hu : enter e (access f .store .none { size := 8, signed := false }
      (markPeers ((piecesOf (e.sl.s (regNo f.dst)) form.length).map (fun p =>
        { laneAcc p.2.2 (fun l => (form.drop (8 * (l - 32))).take 8) noBytes (p.1, p.2.1, pl p.1) with lane := p.1 }))) false) s =
      .ok ((), u)) : stcEnd e f form m s = .ok (0, u) := by
  have haccs : ((piecesOf (e.sl.s (regNo f.dst)) form.length).map (fun p => (p.1, p.2.1, pl p.1))).map (fun x =>
      { laneAcc (min 8 (form.length - 8 * (x.1 - 32))) (fun l => (form.drop (8 * (l - 32))).take 8) noBytes x with lane := x.1 }) =
      (piecesOf (e.sl.s (regNo f.dst)) form.length).map (fun p =>
        { laneAcc p.2.2 (fun l => (form.drop (8 * (l - 32))).take 8) noBytes (p.1, p.2.1, pl p.1) with lane := p.1 }) := by
    rw [List.map_map]
    refine List.map_congr_left fun p hp => ?_
    simp only [Function.comp_apply, size_of_mem_piecesOf hp]
  unfold stcEnd
  rw [exec_bind_ok (placesOf_pieces hp)]
  dsimp only
  rw [haccs]
  exact exec_bind_ok hu

theorem tableRoom_pos {e : Env} {n : Nat} {s : State} (h : TableRoom e n s) (hpos : n ≠ 0) (hle : n ≤ 32) :
    tableRoom e n s = .ok ((), s.modCore e.g.core (fun k => { k with ttWait := k.ttWait.filter (fun w => w.1 != e.cur) })) := by
  have hroom := h.resolve_left hpos
  rw [Nat.min_eq_right hle] at hroom
  unfold tableRoom
  rw [if_neg hpos, foldl_waits_eq_sum, Nat.zero_add]
  exact if_pos hroom

/-- A read at issue is seen by the watchpoints. -/
theorem readSeen_ok {e : Env} {va : W64} {n : Nat} {sc : Scope} {m : W32} {own sync : Bool} {s t : State} {bs : List Byte}
    (h : readNow e va n sc m own sync s = .ok (bs, t)) :
    readSeen e va n sc m own sync s = .ok (bs, t.watchHit e.cur.grp e.cur.a [(va, n)] true false) := by
  unfold readSeen
  rw [exec_bind_ok h]
  exact exec_bind_ok (exec_modify _ t)

/-- A form of at least one byte lies in at least one line. -/
theorem lines_pos (src len : Nat) : min 32 ((src + 8 + len + 127) / 128 - src / 128) ≠ 0 := by omega

/-- Settles O21: the form is stored piece by piece, or read and expanded. -/
theorem compressedAccessIssue : Obligations.CompressedAccessIssue := by
  intro f s e r pl hb rest x xs m code vb
  refine ⟨fun hal h => ?_, fun hal h => ?_⟩
  · intro dst src n
    refine ⟨fun hm => ?_, fun hm hn hn' hdst hr hready hbehind => ?_⟩
    · refine issueF_ok h.1 ((exec_bind_ok (throttle_ok hal)).trans ((exec_bind_ok (begin_ok h)).trans ?_))
      rw [if_pos hm]
      rfl
    · intro form pieces hlen hp accs hroom
      obtain ⟨u, hu⟩ := enter_ok (x := access f .store .none { size := 8, signed := false } accs false) hroom
      refine ⟨u, hu, issueF_ok h.1 ((exec_bind_ok (throttle_ok hal)).trans ((exec_bind_ok (begin_ok h)).trans ?_))⟩
      rw [if_neg hm]
      refine (exec_bind_ok (exec_get s)).trans ?_
      have hbad : (decide (n = 0) || decide (16777215 < n)) = false := by simp; omega
      dsimp only
      rw [hbad, if_neg Bool.false_ne_true, hr]
      dsimp only
      refine (exec_bind_ok hready).trans ?_
      rw [hbehind, if_pos hdst, if_pos hlen]
      refine (exec_bind_ok (holdIf_false .bankQueue s)).trans ((exec_bind_ok (orLower_ok (raiseLowest_nil e s))).trans ?_)
      exact stcEnd_ok hp hu
  · intro dst src sc
    refine ⟨fun hm => ?_, fun hm hbanks hsrc hx => ?_⟩
    · refine issueF_ok h.1 ((exec_bind_ok (throttle_ok hal)).trans ((exec_bind_ok (begin_ok h)).trans ?_))
      rw [if_pos hm]
      rfl
    · intro acq seen s1 s2 hread hhead nm len hread2 hexp s3 hr lines hroom s4 accs henter
      obtain ⟨u, hu⟩ := enter_ok (x := access f .expand .none { size := 16, signed := false } accs false) henter
      refine ⟨_, enterLs_ok hu, issueF_ok h.1 ((exec_bind_ok (throttle_ok hal)).trans ((exec_bind_ok (begin_ok h)).trans ?_))⟩
      rw [if_neg hm]
      refine (exec_bind_ok (lsReady_ok hbanks)).trans ((exec_bind_ok (placesOf_once hx hsrc)).trans
        ((exec_bind_ok (readSeen_ok hread)).trans ?_))
      rw [hhead]
      refine (exec_bind_ok (readSeen_ok hread2)).trans ?_
      rw [hexp]
      refine (exec_bind_ok (exec_get s3)).trans ?_
      dsimp only
      rw [hr]
      refine (exec_bind_ok (tableRoom_pos hroom (lines_pos _ _) (Nat.min_le_left _ _))).trans ((exec_bind_ok (exec_modify _ _)).trans
        ((exec_bind_ok (enterLs_ok hu)).trans ?_))
      by_cases hacq : orderOf f = 1
      · rw [if_pos (by simpa using hacq), if_pos hacq]
        refine (exec_bind_ok (exec_modify _ _)).trans ?_
        cases pl 32 <;> rfl
      · rw [if_neg (by simpa using hacq), if_neg hacq]
        rfl

/-! ### `PREF` and `CCTL` -/

/-- Settles O22: by the bit that chooses the cache and by the active lanes. -/
theorem cacheControl : Obligations.CacheControl := by
  intro f s t e ls m
  refine ⟨fun hal h hls => ?_, fun h => ⟨fun hm => ?_, fun hm h5 => ?_, fun hm h5 hls => ?_⟩⟩
  · refine issueF_ok h.1 ((exec_bind_ok (throttle_ok hal)).trans ((exec_bind_ok (begin_ok h)).trans ((exec_bind_ok hls).trans ?_)))
    by_cases h5 : f.variant.getLsbD 5 = true
    · rw [if_pos h5]
      exact if_pos h5 ▸ rfl
    · rw [if_neg h5]
      exact if_neg h5 ▸ rfl
  · refine issueF_ok h.1 ((exec_bind_ok (begin_ok h)).trans ?_)
    rw [if_pos hm]
    rfl
  · refine issueF_ok h.1 ((exec_bind_ok (begin_ok h)).trans ?_)
    rw [if_neg hm, bit5, h5]
    rfl
  · refine issueF_ok h.1 ((exec_bind_ok (begin_ok h)).trans ?_)
    rw [if_neg hm, bit5, h5, if_neg Bool.false_ne_true, exec_bind_ok hls]
    simp only [List.contains_eq_mem, decide_not]
    rfl

/-! ### Atomics -/

/-- The destination that an atomic reserves, once it has a slot. -/
def atomicDst (e : Env) (f : FFrame) (ret : Bool) : Exec PendDst := do
  if ret then atomicRoom e
  if ret && RC.of f.dst == .q then reserve e (regNo f.dst) false (List.replicate (if wideMem f then 2 else 1) (QEntry.ofLanes Lanes.zero))
  else if ret then pure (.vec (regNo f.dst) (if wideMem f then 2 else 1))
  else pure .none

theorem atomicDst_ret {e : Env} {f : FFrame} {s t : State} {d : PendDst}
    (hslot : ((s.core e.g.core).pend.filter (fun p => p.grp == e.cur.grp && p.a == e.cur.a &&
      (match p.kind with | .atomic _ _ _ ret => ret | _ => false))).length < 16)
    (hd : if RC.of f.dst = .q then
        reserve e (regNo f.dst) false (List.replicate (if wideMem f then 2 else 1) (QEntry.ofLanes Lanes.zero)) s = .ok (d, t)
      else d = .vec (regNo f.dst) (if wideMem f then 2 else 1) ∧ t = s) : atomicDst e f true s = .ok (d, t) := by
  have hroom : atomicRoom e s = .ok ((), s) := by
    unfold atomicRoom
    rw [exec_bind_ok (exec_get s)]
    exact (congrArg (fun b => holdIf b .atomicSlot s) (decide_eq_false (Nat.not_le.mpr hslot))).trans rfl
  unfold atomicDst
  refine (exec_bind_ok hroom).trans ?_
  by_cases hq : RC.of f.dst = .q
  · rw [if_pos hq] at hd
    rw [hq]
    exact hd
  · rw [if_neg hq] at hd
    obtain ⟨rfl, rfl⟩ := hd
    rw [beq_false_of_ne hq]
    rfl

theorem beginAtomic_ok {e : Env} {sp : FSpec} {f : FFrame} {s : State} (h : FReady e sp f none s) (hal : bit5 f = false → Allowed e s) :
    beginAtomic e sp f s = .ok ((), s) := by
  unfold beginAtomic
  cases h5 : bit5 f with
  | true => exact begin_ok h
  | false => exact (exec_bind_ok (throttle_ok (hal h5))).trans (begin_ok h)

/-- The state in which an atomic's own work begins: one on local store with no active lane has set `sys.gbank`. -/
theorem enterAtomic_idle_pushes {e : Env} {f : FFrame} {cas : Bool} {data cmp : Nat → List Byte} {s u : State}
    (hm : e.active f.guard = 0)
    (hu : (if RC.of f.dst = .q then
        pushEntries e (regNo f.dst) (List.replicate (if wideMem f then 2 else 1) (QEntry.ofLanes Lanes.zero))
          (if bit5 f then onSlice e (fun sl => { sl with gbank := 0 }) s else s)
      else .ok ((), if bit5 f then onSlice e (fun sl => { sl with gbank := 0 }) s else s)) = .ok ((), u)) :
    enterAtomic e f cas true data cmp s = .ok ((), u) := by
  unfold enterAtomic
  dsimp only
  rw [if_pos hm]
  by_cases hq : RC.of f.dst = .q
  · rw [if_pos hq] at hu
    rw [hq]
    cases h5 : bit5 f with
    | true =>
      rw [h5] at hu
      exact (exec_bind_ok (noLanes_ok e s)).trans hu
    | false =>
      rw [h5] at hu
      exact hu
  · rw [if_neg hq] at hu
    rw [beq_false_of_ne hq]
    cases h5 : bit5 f with
    | true =>
      rw [h5] at hu
      exact (exec_bind_ok (noLanes_ok e s)).trans hu
    | false =>
      rw [h5] at hu
      exact hu

theorem enterAtomic_idle {e : Env} {f : FFrame} {cas : Bool} {data cmp : Nat → List Byte} {s : State} (hm : e.active f.guard = 0) :
    enterAtomic e f cas false data cmp s = .ok ((), if bit5 f then onSlice e (fun sl => { sl with gbank := 0 }) s else s) := by
  unfold enterAtomic
  dsimp only
  rw [if_pos hm]
  cases bit5 f <;> rfl

theorem enterAtomic_global {e : Env} {f : FFrame} {cas ret : Bool} {data cmp : Nat → List Byte} {s s1 s2 t u : State} {a b : Lanes64}
    {pl : Nat → Place} {d : PendDst} (hm : e.active f.guard ≠ 0) (h5 : bit5 f = false)
    (ha : srcV e .u64 f.srcA none s = .ok (a, s1)) (hb : srcV e .u32 f.srcB none s1 = .ok (b, s2))
    (hp : Placed e s2 (e.active f.guard) (loadExt f.ty).size .store (fun l => lane a l + lane b l) pl)
    (hpo : Unpoisoned s2 (e.active f.guard) pl) (hd : atomicDst e f ret s2 = .ok (d, t))
    (hu : enter e (access f (.atomic f.flags f.ty cas ret) d { loadExt f.ty with signed := false }
      (lanesAt (e.active f.guard) (loadExt f.ty).size (fun l => lane a l + lane b l) pl data cmp) false) t = .ok ((), u)) :
    enterAtomic e f cas ret data cmp s = .ok ((), u) := by
  have hvas : laneVas e f 0 (e.active f.guard) s = .ok ((actives (e.active f.guard)).map (fun l => (l, lane a l + lane b l)), s2) := by
    unfold laneVas
    simp only [ofNat_laneNat, ite_self]
    rw [exec_bind_ok ha, exec_bind_ok hb]
    have hzero : BitVec.ofInt 64 0 = 0#64 := rfl
    simp only [hzero, BitVec.add_zero]
    rfl
  unfold enterAtomic
  dsimp only
  rw [if_neg hm, h5, if_neg Bool.false_ne_true, exec_bind_ok hvas, exec_bind_ok (placesOf_lanes hp), exec_bind_ok (unpoisoned_ok hpo)]
  refine (exec_bind_ok (show _ = Except.ok (d, t) from hd)).trans ?_
  rw [markPeers_lanesAt]
  exact hu

theorem enterAtomic_local {e : Env} {f : FFrame} {cas ret : Bool} {data cmp : Nat → List Byte} {s s2 t u : State}
    {refs : List (Nat × W32 × LsRef)} {g : Option Geom} {d : PendDst} (hm : e.active f.guard ≠ 0) (h5 : bit5 f = true)
    (hg : lgeomReady e s = .ok ((), s)) (hb : s.banksWait e.g.core e.g.sub = false)
    (hrefs : lsRefs e f (loadExt f.ty).size false (e.active f.guard) s = .ok ((refs, g), s2)) (hd : atomicDst e f ret s2 = .ok (d, t))
    (hu : enterLs e (access f (.atomic f.flags f.ty cas ret) d { loadExt f.ty with signed := false }
      (lsAccs g (loadExt f.ty).size data cmp refs) false) t = .ok ((), u)) :
    enterAtomic e f cas ret data cmp s = .ok ((), u) := by
  unfold enterAtomic
  dsimp only
  rw [if_neg hm, h5, if_pos rfl, exec_bind_ok hg, exec_bind_ok (lsReady_ok hb), exec_bind_ok hrefs]
  exact (exec_bind_ok (show _ = Except.ok (d, t) from hd)).trans hu

/-- The bytes of an operand of `CAS`: the k-th register or pair from srcC. -/
def casValue (e : Env) (f : FFrame) (k l : Nat) : List Byte :=
  let regs := if wideMem f then 2 else 1
  let r (j : Nat) : Nat := (((e.sl.v (regNo f.srcC + regs * k + j))[l]?).getD 0).toNat
  toBytes (loadExt f.ty).size (if wideMem f then r 0 + 2 ^ 32 * r 1 else r 0)

/-- An atomic instruction with its fields, and the data that it has read in the state `t`. -/
def AtomicForm (e : Env) (f : FFrame) (s t : State) (i : Instr) (sp : FSpec) (cas ret : Bool) (data cmp : Nat → List Byte) : Prop :=
  (i = .atom f ∧ sp = specAtom f true ∧ cas = false ∧ ret = true ∧ cmp = noBytes ∧ atomData e f s = .ok (data, t)) ∨
  (i = .red f ∧ sp = specAtom f false ∧ cas = false ∧ ret = false ∧ cmp = noBytes ∧ atomData e f s = .ok (data, t)) ∨
  (i = .cas f ∧ sp = specCas f ∧ cas = true ∧ ret = true ∧ cmp = casValue e f 0 ∧ data = casValue e f 1 ∧ t = s)

/-- Where an atomic's data has been read, entering it completes the instruction. -/
theorem exec_atomic {e : Env} {f : FFrame} {s t u : State} {i : Instr} {sp : FSpec} {cas ret : Bool} {data cmp : Nat → List Byte}
    (hi : AtomicForm e f s t i sp cas ret data cmp) (h : FReady e sp f none s) (hal : bit5 f = false → Allowed e s)
    (hu : enterAtomic e f cas ret data cmp t = .ok ((), u)) : exec i s = .next (done e (e.active f.guard) 8 0 u) := by
  rcases hi with ⟨rfl, rfl, rfl, rfl, rfl, hd⟩ | ⟨rfl, rfl, rfl, rfl, rfl, hd⟩ | ⟨rfl, rfl, rfl, rfl, rfl, rfl, rfl⟩
  · exact issueF_ok h.1 ((exec_bind_ok (beginAtomic_ok h hal)).trans ((exec_bind_ok (orLower_ok hd)).trans (exec_bind_ok hu)))
  · exact issueF_ok h.1 ((exec_bind_ok (beginAtomic_ok h hal)).trans ((exec_bind_ok (orLower_ok hd)).trans (exec_bind_ok hu)))
  · refine issueF_ok h.1 ((exec_bind_ok (beginAtomic_ok h hal)).trans (exec_bind_ok (Eq.trans ?_ hu)))
    unfold casValue
    cases wideMem f <;> rfl

/-- Settles O23: the data is read, then one atomic is entered. -/
theorem atomicIssue : Obligations.AtomicIssue := by
  intro i f sp cas ret s s0 s1 s2 t e data cmp a b pl refs g d m x regs kind value destination hi h hal z
  have hdone (u : State) := exec_atomic (u := u) hi h hal
  have hdst (v : State) (hd : destination v t) : atomicDst e f ret v = .ok (d, t) := by
    cases ret with
    | true => exact atomicDst_ret hd.1 hd.2
    | false =>
      obtain ⟨rfl, rfl⟩ := hd
      rfl
  refine ⟨fun hm hret hroom => ?_, fun hm hret => ?_, fun h5 hm ha hb => ?_, fun h5 hm hg hbanks hrefs hd => ?_⟩
  · subst hret
    by_cases hq : RC.of f.dst = .q
    · obtain ⟨u, hu⟩ := pushEntries_ok (xs := List.replicate regs (QEntry.ofLanes Lanes.zero)) hq (by simpa using hroom)
      rw [if_pos hq]
      exact ⟨u, hu, hdone u (enterAtomic_idle_pushes hm ((if_pos hq).trans hu))⟩
    · rw [if_neg hq]
      exact ⟨z, rfl, hdone z (enterAtomic_idle_pushes hm (if_neg hq))⟩
  · subst hret
    exact hdone z (enterAtomic_idle hm)
  · intro va hp hpo hd accs hroom
    obtain ⟨u, hu⟩ := enter_ok (x := access f kind d x accs false) hroom
    exact ⟨u, hu, hdone u (enterAtomic_global hm h5 ha hb hp hpo (hdst _ hd) hu)⟩
  · intro accs hroom
    obtain ⟨u, hu⟩ := enter_ok (x := access f kind d x accs false) hroom
    exact ⟨_, enterLs_ok hu, hdone _ (enterAtomic_local hm h5 hg hbanks hrefs (hdst _ hd) (enterLs_ok hu))⟩

end Sys2Proof.Proofs
end

section
/-!
PROOFS. Fences, the tag table and barrier objects (R137, R160, R161, R185 to R196).
-/
namespace Sys2Proof.Proofs
open Sys2Proof.Machine Sys2Proof.Claims Sys2Proof.Laws

/-! ### Fences and wait counters -/

/-- A step that is taken under a condition. -/
theorem exec_when_ok {α : Type} {c : Prop} [Decidable c] {a : Exec Unit} {k : Exec α} {s t : State}
    (h : (if c then a s else .ok ((), s)) = .ok ((), t)) : (if c then a >>= fun _ => k else k) s = k t := by
  by_cases hc : c
  · rw [if_pos hc] at h ⊢
    exact exec_bind_ok h
  · rw [if_neg hc] at h ⊢
    injection h with h
    rw [show s = t from congrArg Prod.snd h]

theorem holdDeps_nil (e : Env) (s : State) : holdDeps e [] s = .ok ((), s) := by
  unfold holdDeps
  rw [exec_bind_ok (exec_get s)]
  have hnone : (s.core e.g.core).pend.any (fun p => ([] : List Nat).contains p.id) = false := by simp
  rw [hnone]
  exact holdIf_false .fence s

theorem pendingOf_eq (e : Env) (s : State) : s.pendingOf e = ((mine e s).filter (fun p => p.kind != .stage)).map (fun p => p.id) := by
  simp only [State.pendingOf, mine, List.filter_filter]
  congr 2
  funext p
  exact Bool.and_comm _ _

theorem exec_gfence {f : FFrame} {s : State} {e : Env} (h : FReady e specGfence f none s) :
    exec (.gfence f) s = .next (done e (e.active f.guard) 8 0 (if e.active f.guard = 0 then s else
      onSlice e (fun sl => { sl with acqIds := addIds sl.acqIds (s.pendingOf e) }) s)) := by
  refine issueF_ok h.1 ((exec_bind_ok (begin_ok h)).trans ((exec_bind_ok (exec_get s)).trans ?_))
  by_cases hm : e.active f.guard = 0
  · rw [if_pos hm, if_pos hm]
    rfl
  · rw [if_neg hm, if_neg hm]
    rfl

/-- Settles O24: each fence marks what it covers. -/
theorem fenceResult : Obligations.FenceResult := by
  intro f s e sl hsl m ids order sc covered
  refine ⟨fun h => by rw [exec_gfence h, pendingOf_eq], fun h => ⟨fun hm => ?_, fun hm hcov => ?_⟩, fun h => ?_, fun h hw => ?_⟩
  · refine issueF_ok h.1 ((exec_bind_ok (begin_ok h)).trans ?_)
    rw [if_pos hm]
    rfl
  · intro s1 s2
    refine issueF_ok h.1 ((exec_bind_ok (begin_ok h)).trans ?_)
    rw [if_neg hm]
    refine (exec_bind_ok (exec_get s)).trans ((exec_when_ok (t := s) ?_).trans ((exec_when_ok (t := s1) ?_).trans ?_))
    · refine ite_eq_right_iff.mpr fun hwait => ?_
      rw [Bool.and_eq_true, bne_iff_ne, Bool.not_eq_true'] at hwait
      obtain ⟨ho, hl⟩ := hwait
      exact (congrArg (fun l => holdDeps e l s) (hcov ho hl)).trans (holdDeps_nil e s)
    · by_cases ho : orderOf f = 1
      · rw [if_neg (by simpa using ho)]
        exact congrArg (fun x => Except.ok ((), x)) (if_neg (Classical.not_not.mpr ho)).symm
      · rw [if_pos (by simpa using ho)]
        exact congrArg (fun x => Except.ok ((), x)) (if_pos ho).symm
    · by_cases ho : orderOf f = 2
      · rw [if_neg (by simpa using ho)]
        exact congrArg (fun x => Except.ok (0, x)) (if_neg (Classical.not_not.mpr ho)).symm
      · rw [if_pos (by simpa using ho)]
        exact congrArg (fun x => Except.ok (0, x)) (if_pos ho).symm
  · intro later p
    refine ⟨fun hm => ?_, fun hm hl hopen => ?_, fun hm hl => ?_⟩
    · refine issueF_ok h.1 ((exec_bind_ok (begin_ok h)).trans ?_)
      rw [if_pos hm]
      rfl
    · refine issueF_ok h.1 ((exec_bind_ok (begin_ok h)).trans ?_)
      rw [if_neg hm]
      refine (exec_bind_ok (exec_get s)).trans ?_
      dsimp only
      rw [if_pos hl, hopen]
      rfl
    · refine issueF_ok h.1 ((exec_bind_ok (begin_ok h)).trans ?_)
      rw [if_neg hm]
      refine (exec_bind_ok (exec_get s)).trans ?_
      dsimp only
      rw [if_neg hl]
      rfl
  · refine issueF_ok h.1 ((exec_bind_ok (begin_ok h)).trans ?_)
    by_cases hm : m = 0
    · rw [if_pos hm]
      rfl
    · obtain ⟨h1, h2, h3, h4⟩ := hw.resolve_left hm
      rw [if_neg hm, exec_bind_ok (curSlice_ok e s), hsl, Option.getD_some, decide_eq_false (Nat.not_lt.mpr h1),
        decide_eq_false (Nat.not_lt.mpr h2), decide_eq_false (Nat.not_lt.mpr h3), decide_eq_false (Nat.not_lt.mpr h4)]
      rfl

/-! ### The tag table -/

/-- The hash of the spec, by its six bytes, is the model's for a table with sets. -/
theorem tagHash_eq_hashOf (k : BitVec 48) {n : Nat} (hn : n ≠ 0) : tagHash k n = hashOf k n := by
  unfold tagHash hashOf
  simp only [if_neg hn, bitsAt, List.range_succ, List.range_zero, List.nil_append, List.cons_append, List.foldl_cons, List.foldl_nil,
    BitVec.toNat_xor, BitVec.extractLsb'_toNat, Nat.shiftRight_eq_div_pow, Nat.mul_zero, Nat.zero_xor, Nat.reduceMul]

theorem curTags_ok {e : Env} {write : Bool} {s : State} (h : Ordered e write s) : curTags e write s = .ok (tagTable e s, s) := by
  have hdeps : holdDeps e (((s.slice? e.cur.grp e.cur.a).getD e.sl).acqIds ++
      (if write then ((s.slice? e.cur.grp e.cur.a).getD e.sl).relIds else [])) s = .ok ((), s) := by
    have hnone : (s.core e.g.core).pend.any (fun p => (((s.slice? e.cur.grp e.cur.a).getD e.sl).acqIds ++
        (if write then ((s.slice? e.cur.grp e.cur.a).getD e.sl).relIds else [])).contains p.id) = false := by
      rw [List.any_eq_false]
      intro p hp
      obtain ⟨hacq, hrel⟩ := h p hp
      cases write <;> simp_all
    unfold holdDeps
    rw [exec_bind_ok (exec_get s), hnone]
    exact holdIf_false .fence s
  unfold curTags
  rw [exec_bind_ok (curSlice_ok e s), exec_bind_ok hdeps]
  rfl

theorem raiseTag_zero (e : Env) (n : Nat) (key : Nat → BitVec 48) (way : Nat → Nat) (s : State) :
    raiseTag e n key way 0 s = .ok ((), s) := rfl

/-- The table after a list of lanes has set entries, the first of those that name one entry winning. -/
def tagsSetBy (t : List (List TagEntry)) (lanes : List Nat) (key : Nat → BitVec 48) (slot way : Nat → Nat) : List (List TagEntry) :=
  t.mapIdx (fun i set => set.mapIdx (fun j x =>
    match lanes.find? (fun l => hashOf (key l) t.length == i && way l == j) with
    | some l => { key := key l, slot := BitVec.ofNat 32 (slot l), valid := true }
    | none => x))

theorem mapIdx_snd {α : Type} (l : List α) : l.mapIdx (fun _ x => x) = l := List.ext_getElem? fun i => by simp

theorem setEntry_eq_mapIdx (t : List (List TagEntry)) (set way : Nat) (x : TagEntry) :
    setEntry t set way x = t.mapIdx (fun i s => s.mapIdx (fun j y => if set == i && way == j then x else y)) := by
  unfold setEntry
  apply List.ext_getElem?
  intro i
  rw [List.getElem?_set, List.getElem?_mapIdx]
  by_cases hi : set = i
  · subst hi
    rw [if_pos rfl]
    by_cases hlt : set < t.length
    · rw [if_pos hlt, List.getD_eq_getElem?_getD, List.getElem?_eq_getElem hlt, Option.getD_some]
      congr 1
      apply List.ext_getElem?
      intro j
      rw [List.getElem?_set, List.getElem?_mapIdx]
      by_cases hj : way = j
      · subst hj
        by_cases hw : way < t[set].length <;> simp [hw]
      · simp [hj]
    · rw [if_neg hlt, List.getElem?_eq_none (Nat.not_lt.mp hlt)]
      rfl
  · rw [if_neg hi]
    simp [hi, mapIdx_snd]

theorem length_tagsSetBy (t : List (List TagEntry)) (lanes : List Nat) (key : Nat → BitVec 48) (slot way : Nat → Nat) :
    (tagsSetBy t lanes key slot way).length = t.length := List.length_mapIdx

/-- Writing the lanes from the last to the first lets the first win. -/
theorem foldl_setEntry (t : List (List TagEntry)) (ht : t ≠ []) (key : Nat → BitVec 48) (slot way : Nat → Nat) (lanes : List Nat) :
    lanes.reverse.foldl (fun t l => setEntry t (tagHash (key l) t.length) (way l)
      { key := key l, slot := BitVec.ofNat 32 (slot l), valid := true }) t = tagsSetBy t lanes key slot way := by
  have hlen : t.length ≠ 0 := fun h => ht (List.eq_nil_of_length_eq_zero h)
  induction lanes with
  | nil =>
    simp only [List.reverse_nil, List.foldl_nil, tagsSetBy, List.find?_nil, mapIdx_snd]
  | cons l lanes ih =>
    rw [List.reverse_cons, List.foldl_append, ih, List.foldl_cons, List.foldl_nil, length_tagsSetBy, tagHash_eq_hashOf _ hlen,
      setEntry_eq_mapIdx]
    simp only [tagsSetBy, List.mapIdx_mapIdx]
    refine congrArg (fun g => t.mapIdx g) (funext fun i => funext fun set => ?_)
    simp only [Function.comp_apply, List.mapIdx_mapIdx]
    refine congrArg (fun g => set.mapIdx g) (funext fun j => funext fun x => ?_)
    simp only [Function.comp_apply, List.find?_cons]
    cases hashOf (key l) t.length == i && way l == j <;> rfl

theorem room_of_vreg {e : Env} {code : BitVec 8} {pair : Bool} (h : (Pos.vreg pair).ok code = true) (k : Nat) (s : State) :
    Room e code k s := by
  intro hq
  simp [Pos.ok, Pos.vreg, hq] at h

/-- Settles O25: the lookup, the entries written from the highest lane down, and the clearing. -/
theorem tagResult : Obligations.TagResult := by
  intro f s s1 t e slot way m tags htags
  have hlen : tags.length ≠ 0 := fun h => htags (List.eq_nil_of_length_eq_zero h)
  have hempty : tags.isEmpty = false := List.isEmpty_eq_false_iff.mpr htags
  refine ⟨fun h ho => ?_, fun h ho hslot hway hlt => ?_, fun h ho => ⟨fun hm => ?_, fun hm => ?_⟩⟩
  · intro found
    obtain ⟨u, hu⟩ := dstV_ok (e := e) (wide := false) (m := m) (x := tabulate 32 (fun l => found l))
      (room_of_vreg (dst_ok h.2.1) 1 s)
    refine ⟨u, hu, issueF_ok h.1 ((exec_bind_ok (begin_ok h)).trans ((exec_bind_ok (curTags_ok ho)).trans ?_))⟩
    rw [hempty]
    refine (exec_bind_ok (raiseTag_zero e _ _ _ s)).trans ?_
    refine exec_bind_ok (Eq.trans (congrArg (fun x => dstV e false m f.dst x s) (congrArg (tabulate 32) (funext fun l => ?_))) hu)
    dsimp only [found]
    rw [tagHash_eq_hashOf _ hlen]
    cases (tags.getD (hashOf (keyOf e f.srcA l) tags.length) []).find? (fun x => x.valid && x.key == keyOf e f.srcA l) with
    | none => rfl
    | some x => exact BitVec.ofNat_toNat _ _
  · refine issueF_ok h.1 ((exec_bind_ok (begin_ok h)).trans ((exec_bind_ok (curTags_ok ho)).trans
      ((exec_bind_ok hslot).trans ((exec_bind_ok hway).trans ?_))))
    have hmask : maskOf (fun l => m.getLsbD l && (tags.isEmpty || decide (7 < laneNat way l))) = 0 := by
      refine mask_eq_zero_iff.mpr fun l hl => ?_
      rw [hempty, Bool.false_or, Bool.and_eq_false_iff, decide_eq_false_iff_not]
      by_cases hl' : m.getLsbD l = true
      · have := hlt l (mem_actives.mpr ⟨hl, hl'⟩)
        exact .inr (by omega)
      · exact .inl (by simpa using hl')
    rw [hmask, exec_bind_ok (raiseTag_zero e _ _ _ t)]
    have hfold := foldl_setEntry tags htags (keyOf e f.srcA) (laneNat slot) (laneNat way) (actives m)
    exact congrArg (fun x => Except.ok (0, putTags e x t)) hfold
  · refine issueF_ok h.1 ((exec_bind_ok (begin_ok h)).trans ((exec_bind_ok (curTags_ok ho)).trans ?_))
    rw [hempty]
    refine (exec_bind_ok (raiseTag_zero e _ _ _ s)).trans ?_
    rw [if_pos hm]
    rfl
  · refine issueF_ok h.1 ((exec_bind_ok (begin_ok h)).trans ((exec_bind_ok (curTags_ok ho)).trans ?_))
    rw [hempty]
    refine (exec_bind_ok (raiseTag_zero e _ _ _ s)).trans ?_
    rw [if_neg hm]
    cases hall : f.variant.getLsbD 0 with
    | true =>
      simp only [Bool.true_or, true_or, if_true]
      rfl
    | false =>
      simp only [Bool.false_or, List.contains_iff_mem, Bool.false_eq_true, if_false, false_or]
      rfl

/-! ### Barrier objects -/

theorem checkObj_ok {e : Env} {o : BarObj} {op : BarOp} {s : State} (h : objReason (s.objRead o.ref) op = none) :
    checkObj e o op s = .ok ((), s) := by
  unfold checkObj
  rw [exec_bind_ok (exec_get s), h]
  rfl

theorem noteStore_ok (e : Env) (o : BarObj) (rd wr : Bool) (s : State) : noteStore e o rd wr s = .ok ((), noted e o rd wr s) := by
  unfold noteStore noted
  cases o.grid <;> rfl

theorem releaseReady_ok {e : Env} {s : State} (h : s.pushAfter e = []) : releaseReady e s = .ok ((), s) := by
  unfold releaseReady
  rw [exec_bind_ok (exec_get s), h]
  exact holdIf_false .fence s

/-- An arrival, or an addition, at an object that takes it. -/
theorem arrive_ok {f : FFrame} {op : BarOp} {fn : Nat → Nat} {release : Bool} {e : Env} {s t : State} {o : BarObj}
    (hm : e.active f.guard ≠ 0) (hrel : release = true → s.pushAfter e = []) (ho : Found e f true op s o t)
    (hgrid : o.grid = true → descField e.w.desc 26 1 = 1) :
    arrive f op fn release e s = .ok ((), noted e o true true (t.objModify o.ref fn)) := by
  have hcoop : (o.grid && descField e.w.desc 26 1 == 0) = false := by
    cases hg : o.grid with
    | false => rfl
    | true => rw [hgrid hg]; rfl
  unfold arrive
  dsimp only
  rw [if_neg hm]
  refine (exec_when_ok (t := s) ?_).trans ((exec_bind_ok ho.1).trans ((exec_bind_ok (checkObj_ok ho.2)).trans ?_))
  · exact ite_eq_right_iff.mpr fun h => releaseReady_ok (hrel h)
  · rw [hcoop]
    exact (exec_bind_ok (trapIf_false e _ _ _ t)).trans ((exec_bind_ok (exec_modify _ t)).trans (noteStore_ok e o true true _))

theorem arrive_idle {f : FFrame} {op : BarOp} {fn : Nat → Nat} {release : Bool} {e : Env} (hm : e.active f.guard = 0) (s : State) :
    arrive f op fn release e s = .ok ((), s) := by
  unfold arrive
  dsimp only
  rw [if_pos hm]
  rfl

/-- The write of a fresh object, on a pair object in both halves with their own counts. -/
def initWrite (e : Env) (o : ObjRef) (pair : Bool) (v : Nat) : Exec Unit :=
  let obj (x : Nat) : Nat := x + 5 * 2 ^ 61 + (if pair then 2 ^ 58 else 0)
  match o, pair with
  | .ls w _ off, true => do
    let s ← get
    holdIf (s.rangeBehind e.g.core w e.g.half1 off 32 || s.rangeBehind e.g.core w (!e.g.half1) off 32) .bankQueue
    modify (fun s => (s.objWrite (.ls w e.g.half1 off) (obj (v % 2 ^ 16))).objWrite (.ls w (!e.g.half1) off) (obj (bitsAt v 16 16)))
  | _, _ => modify (fun s => s.objWrite o (obj (v % 2 ^ 16)))

/-- A fresh object of an expected count. -/
def freshObj (pair : Bool) (count : Nat) : Nat := count + (if pair then 2 ^ 58 else 0) + 5 * 2 ^ 61

/-- The state after `BINIT` has written its object. -/
def putFresh (e : Env) (o : ObjRef) (pair : Bool) (v : Nat) (s : State) : State :=
  match o with
  | .ls w _ off =>
    if pair then (s.objWrite (.ls w e.g.half1 off) (freshObj pair (v % 2 ^ 16))).objWrite (.ls w (!e.g.half1) off)
      (freshObj pair (v / 2 ^ 16 % 2 ^ 16))
    else s.objWrite o (freshObj pair (v % 2 ^ 16))
  | .mem _ => s.objWrite o (freshObj pair (v % 2 ^ 16))

theorem initWrite_ok {e : Env} {o : ObjRef} {pair : Bool} {v : Nat} {s : State}
    (h : ∀ w h off, pair = true → o = .ls w h off → ∀ half1, s.rangeBehind e.g.core w half1 off 32 = false) :
    initWrite e o pair v s = .ok ((), putFresh e o pair v s) := by
  have hobj (x : Nat) : x + 5 * 2 ^ 61 + (if pair then 2 ^ 58 else 0) = freshObj pair x := Nat.add_right_comm _ _ _
  unfold initWrite
  simp only [hobj]
  cases o with
  | mem a => rfl
  | ls w half off =>
    cases pair with
    | false => rfl
    | true =>
      refine (exec_bind_ok (exec_get s)).trans ?_
      rw [h w half off rfl rfl, h w half off rfl rfl]
      rfl

/-- Settles O26: an object is found, holds nothing that refuses the update, and is updated. -/
theorem barrierUpdate : Obligations.BarrierUpdate := by
  intro f s t e o m v pair fresh
  refine ⟨fun h hm ho hpair hlow hhigh hbehind => ?_, fun h hm hpush ho hgrid => ?_, fun h hm hgrid => ⟨fun h5 ho => ?_, fun h5 hpush ho => ?_⟩,
    fun hm => ⟨fun h => ?_, fun h => ?_, fun h => ?_⟩⟩
  · intro t1 one t2
    refine issueF_ok h.1 ((exec_bind_ok (begin_ok h)).trans ?_)
    rw [if_neg hm]
    refine (exec_bind_ok ho.1).trans ((exec_bind_ok (checkObj_ok ho.2)).trans ((exec_when_ok (t := t) ?_).trans
      ((exec_when_ok (t := t) ?_).trans ?_)))
    · refine if_neg fun hc => ?_
      rw [Bool.and_eq_true] at hc
      simp [hpair hc.1] at hc
    · refine if_neg fun hc => ?_
      rw [Bool.or_eq_true, decide_eq_true_iff, Bool.and_eq_true, beq_iff_eq] at hc
      exact hc.elim hlow fun hc => hhigh hc.1 hc.2
    · have hw := initWrite_ok (e := e) (v := v) (s := t1) hbehind
      exact (exec_bind_ok (exec_modify _ t)).trans ((exec_bind_ok hw).trans (exec_bind_ok (noteStore_ok e o false true _)))
  · exact issueF_ok h.1 ((exec_bind_ok (begin_ok h)).trans (exec_bind_ok (arrive_ok hm (fun _ => hpush) ho hgrid)))
  · refine issueF_ok h.1 ((exec_bind_ok (begin_ok h)).trans ?_)
    rw [h5]
    exact exec_bind_ok (arrive_ok hm (fun h => nomatch h) ho hgrid)
  · refine issueF_ok h.1 ((exec_bind_ok (begin_ok h)).trans ?_)
    rw [h5]
    exact exec_bind_ok (arrive_ok hm (fun _ => hpush) ho hgrid)
  · refine issueF_ok h.1 ((exec_bind_ok (begin_ok h)).trans ?_)
    rw [if_pos hm]
    rfl
  · exact issueF_ok h.1 ((exec_bind_ok (begin_ok h)).trans (exec_bind_ok (arrive_idle hm s)))
  · refine issueF_ok h.1 ((exec_bind_ok (begin_ok h)).trans ?_)
    cases bit5 f <;> exact exec_bind_ok (arrive_idle hm s)

/-! ### `BWAIT`, `BTEST` and `BWATCH` -/

/-- The wait that a `BWAIT` leaves on its slot. -/
def waitOf (o : BarObj) (b : W64) (ti : Option (W64 × Bool)) : BWaitRec :=
  { obj := o.ref, va := o.va, bit := b.getLsbD 0, wide := o.wide, held := ti.map (fun x => x.1), asleep := false,
    missed := (ti.map (fun x => x.2)).getD false }

/-- Does a `BWAIT` with an instant sleep until it? -/
def sleepsOn (ptb : Nat) (ti : Option (W64 × Bool)) : Bool :=
  match ti with | some (i, missed) => !missed && decide (ptb < i.toNat) | none => false

/-- How a `BWAIT` goes on: it sleeps, moves on, or waits, by what the state s shows. -/
def bwaitChoose (e : Env) (o : BarObj) (b : W64) (ti : Option (W64 × Bool)) (s : State) : Exec Unit :=
  let w := waitOf o b ti
  if sleepsOn (s.ptb (dieOf e.g.core)) ti then do
    modify (fun s => s.setProm o.ref true)
    modSl e (fun sl => { (sl.setWait e.cur.slot1 (some { w with asleep := true })) with sleep := w.held })
  else if s.phaseOf o.ref != w.bit then do
    modSl e (fun sl => sl.setWait e.cur.slot1 none)
    modify (fun s => s.barAcquire e.g.core o.wide)
    noteStore e o true false
    advance e 8
  else match ti with
    | some (i, false) =>
      if s.rcbOwned 6 e.w.region 93 1 = 1 then raisePromise e i (s.ptb (dieOf e.g.core))
      else do
        modify (fun s => s.missPromise e i)
        modSl e (fun sl => sl.setWait e.cur.slot1 (some { w with missed := true }))
    | _ => modSl e (fun sl => sl.setWait e.cur.slot1 (some w))

/-- A popped instant is no longer held. -/
def dropHeld (e : Env) (s : State) : State := onSlice e (fun sl => { sl with heldPop := sl.heldPop.filter (fun h => h.1 == .brq) }) s

/-- What `BWAIT` does once it has its object and its instant. -/
def bwaitEnd (e : Env) (o : BarObj) (b : W64) (ti : Option (W64 × Bool)) : Exec Unit := do
  let s ← get
  modify (dropHeld e)
  bwaitChoose e o b ti s

/-- The checks of a ready `BWAIT`. -/
theorem bwait_checked {f : FFrame} {s : State} {e : Env} (h : FReady e (specBwait f) f none s) :
    checkNamed e [] ([{ pos := (specBwait f).a, code := f.srcA }, { pos := (specBwait f).b, code := f.srcB }] ++
      (if bit5 f && (e.sl.heldInstant e.cur.slot1).isSome then [] else [{ pos := (specBwait f).c, code := f.srcC }])) s = .ok ((), s) := by
  refine checkNamed_ok fun n hn => h.2.2 n ?_
  rw [List.mem_append] at hn
  have hc : n ∈ (if bit5 f && (e.sl.heldInstant e.cur.slot1).isSome then [] else [{ pos := (specBwait f).c, code := f.srcC }] : List Named) →
      n = { pos := (specBwait f).c, code := f.srcC } := by
    split <;> simp
  rcases hn with hn | hn
  · simp only [List.mem_cons, List.not_mem_nil, or_false] at hn
    rcases hn with rfl | rfl <;> simp [operandsOf]
  · rw [hc hn]
    simp [operandsOf]

/-- A frame with one guard that completes. -/
theorem issueOne_ok {g : BitVec 6} {body : Env → Exec Unit} {s t : State} {e : Env} (he : s.env? = some e)
    (hb : body e s = .ok ((), t)) : issue [g] body s = .next (issued e (e.active g) t) := by
  rw [issue_ok he hb]
  simp

/-- A `BWAIT` with an active lane finds its object and its instant, and then does the rest. -/
theorem exec_bwait_body {f : FFrame} {s s1 s2 t u : State} {e : Env} {o : BarObj} {b : W64} {ti : Option (W64 × Bool)}
    (h : FReady e (specBwait f) f none s) (hm : e.active f.guard ≠ 0) (hb : srcS e f.srcB none s = .ok (b, s1))
    (ho : Found e f false .look s1 o s2) (ht : promInstant e f s2 = .ok (ti, t)) (hu : bwaitChoose e o b ti t (dropHeld e t) = .ok ((), u)) :
    exec (.bwait f) s = .next (issued e (e.active f.guard) u) := by
  refine issueOne_ok h.1 ?_
  unfold bwait
  rw [show f.ok (specBwait f) false = true from h.2.1]
  refine (exec_bind_ok (trapIf_false e _ _ _ s)).trans ((exec_bind_ok (bwait_checked h)).trans ?_)
  rw [if_neg hm]
  have hfound : (findObj e f false (e.active f.guard) >>= fun o => checkObj e o .look >>= fun _ => pure o) s1 = .ok (o, s2) :=
    (exec_bind_ok ho.1).trans (exec_bind_ok (checkObj_ok ho.2))
  refine (exec_bind_ok hb).trans ((exec_bind_ok (orLower_ok hfound)).trans ((exec_bind_ok ht).trans ?_))
  have hend : bwaitEnd e o b ti t = .ok ((), u) := hu
  cases ti <;> exact hend

theorem modSl_ok (e : Env) (g : Slice → Slice) (s : State) : modSl e g s = .ok ((), onSlice e g s) := rfl

/-- Without a sleep and with the phase passed the wait is over. -/
theorem bwaitChoose_passed {e : Env} {o : BarObj} {b : W64} {ti : Option (W64 × Bool)} {s : State}
    (hs : sleepsOn (s.ptb (dieOf e.g.core)) ti = false) (hph : s.phaseOf o.ref ≠ b.getLsbD 0) (t : State) :
    bwaitChoose e o b ti s t = .ok ((), movePast e 8 (noted e o true false
      ((onSlice e (fun sl => sl.setWait e.cur.slot1 none) t).barAcquire e.g.core o.wide))) := by
  have hbit : (s.phaseOf o.ref != (waitOf o b ti).bit) = true := bne_iff_ne.mpr hph
  unfold bwaitChoose
  dsimp only
  rw [hs, if_neg Bool.false_ne_true, if_pos hbit]
  exact (exec_bind_ok (modSl_ok e _ t)).trans ((exec_bind_ok (exec_modify _ _)).trans (exec_bind_ok (noteStore_ok e o true false _)))

theorem bwaitChoose_sleeps {e : Env} {o : BarObj} {b : W64} {ti : Option (W64 × Bool)} {s : State}
    (hs : sleepsOn (s.ptb (dieOf e.g.core)) ti = true) (t : State) :
    bwaitChoose e o b ti s t = .ok ((), onSlice e (fun sl =>
      { (sl.setWait e.cur.slot1 (some { waitOf o b ti with asleep := true })) with sleep := (waitOf o b ti).held })
      (t.setProm o.ref true)) := by
  unfold bwaitChoose
  dsimp only
  rw [hs]
  rfl

theorem bwaitChoose_waits {e : Env} {o : BarObj} {b : W64} {ti : Option (W64 × Bool)} {s : State}
    (hti : ∀ i, ti ≠ some (i, false)) (hph : s.phaseOf o.ref = b.getLsbD 0) (t : State) :
    bwaitChoose e o b ti s t = .ok ((), onSlice e (fun sl => sl.setWait e.cur.slot1 (some (waitOf o b ti))) t) := by
  have hbit : (s.phaseOf o.ref != (waitOf o b ti).bit) = false := by
    rw [hph]
    exact bne_self_eq_false _
  unfold bwaitChoose
  dsimp only
  match ti, hti with
  | none, _ => rw [hbit]; rfl
  | some (i, true), _ => rw [hbit]; rfl
  | some (i, false), hti => exact absurd rfl (hti i)

theorem bwaitChoose_missed {e : Env} {o : BarObj} {b i : W64} {s : State} (hle : i.toNat ≤ s.ptb (dieOf e.g.core))
    (hph : s.phaseOf o.ref = b.getLsbD 0) (hown : s.rcbOwned 6 e.w.region 93 1 ≠ 1) (t : State) :
    bwaitChoose e o b (some (i, false)) s t = .ok ((), onSlice e (fun sl =>
      sl.setWait e.cur.slot1 (some { waitOf o b (some (i, false)) with missed := true })) (t.missPromise e i)) := by
  have hbit : (s.phaseOf o.ref != (waitOf o b (some (i, false))).bit) = false := by
    rw [hph]
    exact bne_self_eq_false _
  have hs : sleepsOn (s.ptb (dieOf e.g.core)) (some (i, false)) = false := by simpa [sleepsOn] using hle
  unfold bwaitChoose
  dsimp only
  rw [hs, hbit, if_neg hown]
  rfl

/-- What `BTEST` gives of an object. -/
theorem phaseWord_eq (x : Nat) :
    BitVec.ofNat 64 (bitsAt x 64 32 * 2 ^ 32 + bitsAt x 56 1) = BitVec.ofNat 64 (x / 2 ^ 56 % 2 + x / 2 ^ 64 % 2 ^ 32 * 2 ^ 32) :=
  congrArg (BitVec.ofNat 64) (Nat.add_comm _ _)

theorem exec_btest {f : FFrame} {s t : State} {e : Env} {o : BarObj} (h : FReady e (specBtest f) f none s) (hm : e.active f.guard ≠ 0)
    (ho : Found e f false .look s o t) :
    exec (.btest f) s = .next (done e (e.active f.guard) 8 0 (noted e o true false
      (let t2 := onSlice e (fun sl => sl.setS (regNo f.dst)
        (BitVec.ofNat 64 (t.objRead o.ref / 2 ^ 56 % 2 + t.objRead o.ref / 2 ^ 64 % 2 ^ 32 * 2 ^ 32))) t
       if f.variant.toNat / 8 % 4 = 1 ∧ o.wide then t2.l1Drop e.g.core else t2))) := by
  refine issueF_ok h.1 ((exec_bind_ok (begin_ok h)).trans ?_)
  rw [if_neg hm]
  refine (exec_bind_ok ho.1).trans ((exec_bind_ok (checkObj_ok ho.2)).trans ((exec_bind_ok (exec_get t)).trans ?_))
  dsimp only
  rw [phaseWord_eq, exec_bind_ok (dstS_sreg (dst_ok h.2.1) _ t), if_neg hm]
  by_cases ho1 : orderOf f = 1
  · rw [if_pos ho1]
    refine (exec_bind_ok (exec_modify _ _)).trans ((exec_bind_ok (noteStore_ok e o true false _)).trans ?_)
    have horder : f.variant.toNat / 8 % 4 = 1 := ho1
    cases o.wide <;> simp only [horder] <;> rfl
  · rw [if_neg ho1]
    refine (exec_bind_ok (noteStore_ok e o true false _)).trans ?_
    have hnone : ¬ (f.variant.toNat / 8 % 4 = 1 ∧ o.wide = true) := fun hc => ho1 hc.1
    rw [if_neg hnone]
    rfl

theorem exec_bwatch {f : FFrame} {s t : State} {e : Env} {o : BarObj} {pl : Place} {wg off : Nat} {half : Bool}
    (h : FReady e (specBwatch f) f none s) (hm : e.active f.guard ≠ 0) (hx : e.xlate s (e.sl.s (regNo f.srcB)) .load = .place pl)
    (ha : (e.sl.s (regNo f.srcB)).toNat % 8 = 0) (hpo : ∀ a, pl = .mem a → s.poisoned a = false) (ho : Found e f true .watch s o t)
    (href : o.ref = .ls wg half off) :
    let armed : Watch := { wg := wg, half1 := half, off := off, va := e.sl.s (regNo f.srcB), place := pl,
                           next := t.ptb (dieOf e.g.core) + 1000, event := false }
    exec (.bwatch f) s = .next (done e (e.active f.guard) 8 0
      (({ t with watches := t.watches.filter (fun v => !Watch.of o.ref v) ++ [armed] }.objModify o.ref (fun y =>
        setBits (setBits (setBits y 57 1 1) 128 64 (e.sl.s (regNo f.srcB)).toNat) 192 64 (e.sl.s (regNo f.srcC)).toNat)).askWatch armed)) := by
  intro armed
  refine issueF_ok h.1 ((exec_bind_ok (begin_ok h)).trans ?_)
  rw [if_neg hm]
  refine (exec_bind_ok (placesOf_once hx ha)).trans ((exec_bind_ok (noPoison_ok (by simpa using hpo))).trans
    ((exec_bind_ok ho.1).trans ((exec_bind_ok (checkObj_ok ho.2)).trans ((exec_bind_ok (exec_get t)).trans ?_))))
  rw [href]
  rfl

/-- Settles O27: the cases of a wait, the test, and the arming of a watch. -/
theorem barrierWait : Obligations.BarrierWait := by
  intro f s s1 s2 t e o b ti pl m ptb w t1 counted waiting
  refine ⟨fun h hm hb ho ht => ⟨fun hi hph => ?_, fun hi hph => ?_, fun i hi hlt => ?_, fun i hi hle hph hown => ?_⟩, fun h hm h5 => ?_,
    fun h hm ho => exec_btest h hm ho, fun h hm hx ha hpo ho wg hf off href => ?_, fun hm => ⟨fun h => ?_, fun h => ?_⟩⟩
  · have hs : sleepsOn (t.ptb (dieOf e.g.core)) ti = false := by
      match ti, hi with
      | none, _ => rfl
      | some (i, true), _ => rfl
      | some (i, false), hi => simpa [sleepsOn] using hi i rfl
    exact exec_bwait_body h hm hb ho ht (bwaitChoose_passed hs hph _)
  · exact exec_bwait_body h hm hb ho ht (bwaitChoose_waits hi hph _)
  · have hs : sleepsOn (t.ptb (dieOf e.g.core)) ti = true := by simpa [sleepsOn, hi] using hlt
    have hu := bwaitChoose_sleeps (o := o) (b := b) hs (dropHeld e t)
    subst hi
    exact exec_bwait_body h hm hb ho ht hu
  · subst hi
    exact exec_bwait_body h hm hb ho ht (bwaitChoose_missed hle hph hown _)
  · refine issueOne_ok h.1 ?_
    unfold bwait
    rw [show f.ok (specBwait f) false = true from h.2.1]
    refine (exec_bind_ok (trapIf_false e _ _ _ s)).trans ((exec_bind_ok (bwait_checked h)).trans ?_)
    rw [if_pos hm, bit5, h5]
    rfl
  · intro armed t2
    rw [exec_bwatch h hm hx ha hpo ho href]
    cases pl <;> rfl
  · refine issueF_ok h.1 ((exec_bind_ok (begin_ok h)).trans ?_)
    rw [if_pos hm]
    rfl
  · refine issueF_ok h.1 ((exec_bind_ok (begin_ok h)).trans ?_)
    rw [if_pos hm]
    rfl

end Sys2Proof.Proofs
end

section
/-!
PROOFS. Geometry, images, multiply instructions and accumulators (R206 to R241).
-/
namespace Sys2Proof.Proofs
open Sys2Proof.Machine Sys2Proof.Claims Sys2Proof.Laws

/-! ### Geometry instructions -/

theorem onceW_ok {sp : WSpec} {w : WFrame} {act : Env → Exec Unit} {e : Env} {s u : State} (h : WReady e sp w false s)
    (hm : e.active w.f.guard ≠ 0) (hu : act e s = .ok ((), u)) : onceW sp w act s = .next (doneW e (e.active w.f.guard) 16 u) := by
  refine issueW_ok h.1 ((exec_bind_ok (beginW_ok h)).trans ?_)
  rw [if_neg hm]
  exact hu

theorem onceW_idle {sp : WSpec} {w : WFrame} {act : Env → Exec Unit} {e : Env} {s : State} (h : WReady e sp w false s)
    (hm : e.active w.f.guard = 0) : onceW sp w act s = .next (doneW e (e.active w.f.guard) 16 s) := by
  refine issueW_ok h.1 ((exec_bind_ok (beginW_ok h)).trans ?_)
  rw [if_pos hm]
  rfl

/-- The two ways to say that a field of a number is replaced. -/
theorem setBits_eq_withField (x lo w v : Nat) : setBits x lo w v = withField x lo w v := by
  have h1 := Nat.div_add_mod x (2 ^ lo)
  have h2 := Nat.div_add_mod (x / 2 ^ lo) (2 ^ w)
  unfold setBits withField
  rw [Nat.pow_add, ← Nat.div_div_eq_div_mul]
  generalize x / 2 ^ lo % 2 ^ w = mid at *
  generalize x / 2 ^ lo / 2 ^ w = high at *
  generalize x % 2 ^ lo = low at *
  generalize v % 2 ^ w = new
  have hx : x = low + 2 ^ lo * 2 ^ w * high + mid * 2 ^ lo := by
    rw [← h1, ← h2]
    grind
  rw [hx, Nat.add_sub_cancel]
  grind

theorem putFields_cons (x lo w v : Nat) (l : List (Nat × Nat × Nat)) : putFields x ((lo, w, v) :: l) = putFields (withField x lo w v) l := by
  rw [← setBits_eq_withField]
  rfl

theorem putFields_nil (x : Nat) : putFields x [] = x := rfl

theorem withField_bitsAt (x lo w v k : Nat) : withField x lo w (bitsAt v k w) = withField x lo w (v / 2 ^ k) := by
  unfold withField bitsAt
  rw [Nat.mod_mod]

theorem withField_bitsAt_zero (x lo w v : Nat) : withField x lo w (bitsAt v 0 w) = withField x lo w v := by
  rw [withField_bitsAt, Nat.pow_zero, Nat.div_one]

theorem gdefField_eq (x : BitVec 512) (n : Nat) (v : W64) :
    gdefField x n v = BitVec.ofNat 512 (if n < 8 then
        withField (withField x.toNat (16 * n) 16 v.toNat) (128 + 32 * n) 32 (v.toNat / 2 ^ 16)
      else withField (withField (withField (withField (withField x.toNat 490 8 v.toNat) 498 6 (v.toNat / 2 ^ 8)) 504 3
        (v.toNat / 2 ^ 14)) 507 1 (v.toNat / 2 ^ 17)) 508 3 (v.toNat / 2 ^ 18)) := by
  unfold gdefField
  by_cases hn : n < 8
  · rw [if_pos hn, if_pos hn, putFields_cons, putFields_cons, putFields_nil, withField_bitsAt_zero, withField_bitsAt]
  · rw [if_neg hn, if_neg hn, putFields_cons, putFields_cons, putFields_cons, putFields_cons, putFields_cons, putFields_nil,
      withField_bitsAt_zero, withField_bitsAt, withField_bitsAt, withField_bitsAt, withField_bitsAt]

theorem wellFormed_ok {e : Env} {code : BitVec 8} (h : (geoOf e code).ok = true) (s : State) :
    wellFormed e code s = .ok (geoOf e code, s) := by
  unfold wellFormed
  exact congrFun (if_pos h) s

/-- The destination of a W frame is legal. -/
theorem dstW_ok {sp : WSpec} {w : WFrame} (h : w.ok sp = true) : sp.f.dst.ok w.f.dst = true := by
  simp only [WFrame.ok, Bool.and_eq_true] at h
  obtain ⟨⟨⟨⟨⟨⟨h, _⟩, _⟩, _⟩, _⟩, _⟩, _⟩ := h
  exact dst_ok (sp := { sp.f with flags := sp.f.flags ||| 1 }) h

/-- A restriction that succeeds writes the geometry and moves the handle. -/
theorem restrict_ok {w : WFrame} {fn : Geom → Nat → Nat → Nat → Except GErr (Geom × Int)} {e : Env} {s s1 t : State} {v x : W64} {g : Geom}
    {d : Int} (ha : (geoOf e w.f.srcA).ok = true) (hv : srcS e w.f.srcB w.lit s = .ok (v, s1)) (hx : srcS e w.f.srcC none s1 = .ok (x, t))
    (hfn : fn (geoOf e w.f.srcA) v.toNat x.toNat w.wflags.toNat = .ok (g, d)) :
    restrict w fn e s = .ok ((), onSlice e (fun sl => sl.setS (regNo w.srcE) (e.sl.s (regNo w.srcE) + BitVec.ofInt 64 d))
      (putGeo e w.f.dst g.toReg t)) := by
  unfold restrict
  rw [exec_bind_ok (wellFormed_ok ha s), exec_bind_ok hv, exec_bind_ok hx, hfn]
  rfl

/-- Settles O28. -/
theorem geometryResult : Obligations.GeometryResult := by
  intro w s s1 t e v x g d m f a old
  refine ⟨fun h => ⟨fun hm => onceW_idle h hm, fun hm hv => ?_⟩, fun h => ?_, fun h hm ha hb hg => ?_, fun h hm ha hg => ?_, fun h hm ha hg => ?_,
    fun h hm ha hv hx => ?_, fun h hm => ?_, fun hm hv => ⟨fun h => ?_, fun h => ?_⟩,
    fun hm => ⟨fun h => onceW_idle h hm, fun h => onceW_idle h hm, fun h => onceW_idle h hm,
      fun h => ⟨onceW_idle h hm, onceW_idle h hm⟩, fun h => onceW_idle h hm, fun h => onceW_idle h hm, fun h => onceW_idle h hm⟩⟩
  · intro n y new
    refine onceW_ok h hm ((exec_bind_ok hv).trans ?_)
    rw [gdefField_eq]
    rfl
  · by_cases hm : m = 0
    · rw [if_pos hm]
      exact onceW_idle h hm
    · rw [if_neg hm]
      exact onceW_ok h hm rfl
  · refine onceW_ok h hm ((exec_bind_ok (wellFormed_ok ha s)).trans ((exec_bind_ok (wellFormed_ok hb s)).trans ?_))
    rw [hg]
    rfl
  · refine onceW_ok h hm ((exec_bind_ok (wellFormed_ok ha s)).trans ?_)
    rw [hg]
    rfl
  · refine onceW_ok h hm ((exec_bind_ok (wellFormed_ok ha s)).trans ?_)
    rw [hg]
    rfl
  · exact ⟨fun hg => onceW_ok h hm (restrict_ok ha hv hx hg), fun hg => onceW_ok h hm (restrict_ok ha hv hx hg)⟩
  · exact onceW_ok h hm rfl
  · refine onceW_ok h hm ((exec_bind_ok hv).trans ?_)
    rw [dstS_sreg (dstW_ok h.2.1), if_neg hm]
    rfl
  · refine onceW_ok h hm ((exec_bind_ok hv).trans ?_)
    rw [dstS_sreg (dstW_ok h.2.1), if_neg hm]
    rfl

/-! ### Images of geometry registers and descriptors -/

/-- The first piece of a range lies at its address. -/
theorem first_mem_piecesOf (va : W64) {n : Nat} (hn : 8 ≤ n) : (32, va, 8) ∈ piecesOf va n := by
  unfold piecesOf
  refine List.mem_map.mpr ⟨0, List.mem_range.mpr (by omega), ?_⟩
  simp [Nat.min_eq_left hn]

/-- The pieces of an aligned access made once for the slice find their places. -/
theorem piecesPlaced_ok {α : Type} {e : Env} {va : W64} {n : Nat} {acc : Access} {all : Option W32} {s : State} {pl : Nat → Place}
    {k : List (Nat × W64 × Place) → Exec α} (hn : 8 ≤ n) (h : PiecesPlaced e s va n acc pl) :
    (do
      let _ ← placesOf e [(32, va)] n acc all
      let ps ← placesOf e ((piecesOf va n).map (fun p => (p.1, p.2.1))) 1 acc all
      k ps : Exec α) s = k ((piecesOf va n).map (fun p => (p.1, p.2.1, pl p.1))) s :=
  (exec_bind_ok (placesOf_once (h.2 _ (first_mem_piecesOf va hn)) h.1)).trans (exec_bind_ok (placesOf_pieces h.2))

theorem unpoisonedPieces_ok {va : W64} {n : Nat} {s : State} {pl : Nat → Place}
    (h : ∀ p ∈ piecesOf va n, ∀ a, pl p.1 = .mem a → s.poisoned a = false) :
    noPoison ((piecesOf va n).map (fun p => (p.1, p.2.1, pl p.1))) s = .ok ((), s) := by
  refine noPoison_ok fun x hx a ha => ?_
  obtain ⟨p, hp, rfl⟩ := List.mem_map.mp hx
  exact h p hp a ha

/-- An image moves to or from memory. -/
theorem moveImage_global {w : WFrame} {kind : PendKind} {dst : PendDst} {data : List Byte} {acc : Access} {e : Env} {s u : State}
    {pl : Nat → Place} (h5 : bit5 w.f = false)
    (hp : PiecesPlaced e s (e.sl.s (regNo w.f.srcA) + w.imm.signExtend 64) 64 acc pl)
    (hpo : acc = .load → ∀ p ∈ piecesOf (e.sl.s (regNo w.f.srcA) + w.imm.signExtend 64) 64, ∀ a, pl p.1 = .mem a → s.poisoned a = false)
    (hu : enter e (access w.f kind dst { size := 8, signed := false }
      (piecesAt (e.sl.s (regNo w.f.srcA) + w.imm.signExtend 64) 64 pl data) false) s = .ok ((), u)) :
    moveImage w kind dst data acc e s = .ok ((), u) := by
  have hparts : imageParts e (e.sl.s (regNo w.f.srcA) + w.imm.signExtend 64) acc (e.active w.f.guard) s =
      .ok ((piecesOf (e.sl.s (regNo w.f.srcA) + w.imm.signExtend 64) 64).map (fun p => (p.1, p.2.1, pl p.1)), s) :=
    (exec_bind_ok (placesOf_once (hp.2 _ (first_mem_piecesOf _ (by decide))) hp.1)).trans (placesOf_pieces hp.2)
  unfold moveImage
  dsimp only
  rw [h5, if_neg Bool.false_ne_true, exec_bind_ok hparts]
  refine (exec_when_ok (t := s) ?_).trans ?_
  · exact ite_eq_right_iff.mpr fun hacc => unpoisonedPieces_ok (hpo hacc)
  · rw [List.map_map]
    exact hu

/-- An image moves to or from local store. -/
theorem moveImage_local {w : WFrame} {kind : PendKind} {dst : PendDst} {data : List Byte} {acc : Access} {e : Env} {s u : State}
    {r : LsRef} (h5 : bit5 w.f = true) (hb : s.banksWait e.g.core e.g.sub = false)
    (hr : s.lsRef e.w e.g.half1 ((e.sl.s (regNo w.f.srcA) + w.imm.signExtend 64).setWidth 32) 64 = some r)
    (ha : ((e.sl.s (regNo w.f.srcA) + w.imm.signExtend 64).setWidth 32 : W32).toNat % 64 = 0)
    (hu : enterLs e (access w.f kind dst { size := 16, signed := false }
      (lsRange ((e.sl.s (regNo w.f.srcA) + w.imm.signExtend 64).setWidth 32) r data 64) false) s = .ok ((), u)) :
    moveImage w kind dst data acc e s = .ok ((), u) := by
  have hls : imageLs e (e.sl.s (regNo w.f.srcA) + w.imm.signExtend 64) (e.active w.f.guard) s =
      .ok (((e.sl.s (regNo w.f.srcA) + w.imm.signExtend 64).setWidth 32, r), s) := by
    unfold imageLs
    refine (exec_bind_ok (exec_get s)).trans ?_
    rw [hr]
    dsimp only
    rw [if_neg (Classical.not_not.mpr ha)]
    rfl
  unfold moveImage
  dsimp only
  rw [h5, if_pos rfl]
  exact (exec_bind_ok (lsReady_ok hb)).trans ((exec_bind_ok hls).trans hu)

/-- The words of a descriptor, the low one last, as a number. -/
theorem words_eq_ofNat (lo mid hi : W64) :
    0#64 ++ hi ++ mid ++ lo = BitVec.ofNat 256 (lo.toNat + mid.toNat * 2 ^ 64 + hi.toNat * 2 ^ 128) := by
  have h0 := lo.isLt
  have h1 := mid.isLt
  have h2 := hi.isLt
  apply BitVec.eq_of_toNat_eq
  rw [BitVec.toNat_append, BitVec.toNat_append, BitVec.toNat_append, BitVec.toNat_ofNat, BitVec.toNat_ofNat, Nat.zero_mod, Nat.zero_shiftLeft,
    Nat.zero_or, ← Nat.shiftLeft_add_eq_or_of_lt h1, ← Nat.shiftLeft_add_eq_or_of_lt h0, Nat.shiftLeft_eq, Nat.shiftLeft_eq]
  omega

theorem fblockLoad_global {w : WFrame} {e : Env} {s u : State} {pl : Nat → Place} (h0 : w.wflags.getLsbD 0 = false)
    (hp : PiecesPlaced e s (e.sl.s (regNo w.f.srcA) + w.imm.signExtend 64) 32 .load pl)
    (hpo : ∀ p ∈ piecesOf (e.sl.s (regNo w.f.srcA) + w.imm.signExtend 64) 32, ∀ a, pl p.1 = .mem a → s.poisoned a = false)
    (hu : enter e (access w.f .load (.fblock (regNo w.f.dst)) { size := 8, signed := false }
      (piecesAt (e.sl.s (regNo w.f.srcA) + w.imm.signExtend 64) 32 pl []) false) s = .ok ((), u)) :
    fblockLoad w e s = .ok ((), u) := by
  unfold fblockLoad
  dsimp only
  refine (exec_bind_ok (exec_get s)).trans ?_
  rw [h0, if_neg Bool.false_ne_true]
  refine (piecesPlaced_ok (by decide) hp).trans ((exec_bind_ok (unpoisonedPieces_ok hpo)).trans ?_)
  rw [List.map_map]
  have hnone : (fun l => (([] : List Byte).drop (8 * (l - 32))).take 8) = noBytes := by
    funext l
    simp [noBytes]
  unfold piecesAt at hu
  rw [hnone] at hu
  exact hu

theorem fblockLoad_local {w : WFrame} {e : Env} {s u : State} {r : LsRef} (h0 : w.wflags.getLsbD 0 = true)
    (hf : s.fencesTo e .matrix s = .ok ([], s)) (hb : s.banksWait e.g.core e.g.sub = false)
    (hr : s.lsRef e.w e.g.half1 ((e.sl.s (regNo w.f.srcA) + w.imm.signExtend 64).setWidth 32) 32 = some r)
    (ha : ((e.sl.s (regNo w.f.srcA) + w.imm.signExtend 64).setWidth 32 : W32).toNat % 32 = 0)
    (hu : enterLs e (access w.f .load (.fblock (regNo w.f.dst)) { size := 16, signed := false }
      (lsRange ((e.sl.s (regNo w.f.srcA) + w.imm.signExtend 64).setWidth 32) r [] 32) false) s = .ok ((), u)) :
    fblockLoad w e s = .ok ((), u) := by
  have halign : (((e.sl.s (regNo w.f.srcA) + w.imm.signExtend 64).setWidth 32 : W32).toNat % 32 != 0) = false := by
    rw [ha]
    rfl
  unfold fblockLoad
  dsimp only
  refine (exec_bind_ok (exec_get s)).trans ?_
  rw [h0, if_pos rfl]
  refine (exec_bind_ok hf).trans ((exec_bind_ok (holdIf_false .fence s)).trans ((exec_bind_ok (lsReady_ok hb)).trans ?_))
  rw [hr]
  dsimp only
  rw [halign]
  exact (exec_bind_ok (trapIf_false e _ _ _ s)).trans hu

/-- Where `FBSET` with an active lane leads. -/
theorem exec_fbset {w : WFrame} {e : Env} {s u : State} (h : WReady e (specFbset w) w true s) (hm : e.active w.f.guard ≠ 0)
    (hu : (if bit5 w.f then fblockLoad w e
      else do
        let mid ← srcS e w.f.srcB w.lit
        setFblock e w.f.dst (0#64 ++ srcSz e w.f.srcC ++ mid ++ e.sl.s (regNo w.f.srcA)) : Exec Unit) s = .ok ((), u)) :
    exec (.fbset w) s = .next (doneW e (e.active w.f.guard) 16 u) := by
  refine issueW_ok h.1 ((exec_bind_ok (beginW_ok h)).trans ?_)
  rw [if_neg hm]
  exact hu

/-- Settles O29: the image moves as one access, or the descriptor is written. -/
theorem imageMove : Obligations.ImageMove := by
  intro w s t e pl r mid m va image wide eight local64
  refine ⟨fun h hm => ⟨fun h5 hp hpo hroom => ?_, fun hl hroom => ?_⟩, fun h hm => ⟨fun h5 hp hroom => ?_, fun hl hroom => ?_⟩,
    fun h hm => ⟨fun h5 hmid => ?_, fun h5 h0 hp hpo hroom => ?_, fun h5 h0 hf hb hr ha hroom => ?_⟩,
    fun hm => ⟨fun h => onceW_idle h hm, fun h => onceW_idle h hm, fun h => ?_⟩⟩
  · obtain ⟨u, hu⟩ := enter_ok (x := access w.f .load (.geom (regNo w.f.dst)) eight (piecesAt va 64 pl []) false) hroom
    exact ⟨u, hu, onceW_ok h hm (moveImage_global h5 hp (fun _ => hpo) hu)⟩
  · obtain ⟨h5, hb, hr, ha⟩ := hl
    obtain ⟨u, hu⟩ := enter_ok (x := access w.f .load (.geom (regNo w.f.dst)) wide (lsRange (va.setWidth 32) r [] 64) false) hroom
    exact ⟨_, enterLs_ok hu, onceW_ok h hm (moveImage_local h5 hb hr ha (enterLs_ok hu))⟩
  · obtain ⟨u, hu⟩ := enter_ok (x := access w.f .store .none eight (piecesAt va 64 pl image) false) hroom
    exact ⟨u, hu, onceW_ok h hm (moveImage_global h5 hp (fun hacc => nomatch hacc) hu)⟩
  · obtain ⟨h5, hb, hr, ha⟩ := hl
    obtain ⟨u, hu⟩ := enter_ok (x := access w.f .store .none wide (lsRange (va.setWidth 32) r image 64) false) hroom
    exact ⟨_, enterLs_ok hu, onceW_ok h hm (moveImage_local h5 hb hr ha (enterLs_ok hu))⟩
  · refine exec_fbset h hm ?_
    rw [h5, if_neg Bool.false_ne_true, exec_bind_ok hmid, words_eq_ofNat]
    rfl
  · obtain ⟨u, hu⟩ := enter_ok (x := access w.f .load (.fblock (regNo w.f.dst)) eight (piecesAt va 32 pl []) false) hroom
    refine ⟨u, hu, exec_fbset h hm ?_⟩
    rw [if_pos h5]
    exact fblockLoad_global h0 hp hpo hu
  · obtain ⟨u, hu⟩ := enter_ok (x := access w.f .load (.fblock (regNo w.f.dst)) wide (lsRange (va.setWidth 32) r [] 32) false) hroom
    refine ⟨_, enterLs_ok hu, exec_fbset h hm ?_⟩
    rw [if_pos h5]
    exact fblockLoad_local h0 hf hb hr ha (enterLs_ok hu)
  · refine issueW_ok h.1 ((exec_bind_ok (beginW_ok h)).trans ?_)
    rw [if_pos hm]
    rfl

/-! ### Multiply instructions -/

theorem getLsbD_lowByte (i : Nat) : (0xFF : W32).getLsbD i = decide (i < 8) := Nat.testBit_two_pow_sub_one 8 i

/-- A byte of a mask is 0 when none of its bits is set. -/
theorem byte_eq_zero_iff (m : W32) (k : Nat) : (m >>> k) &&& 0xFF = 0 ↔ ∀ i < 8, m.getLsbD (k + i) = false := by
  constructor
  · intro h i hi
    have hbit := congrArg (fun x => x.getLsbD i) h
    rw [BitVec.getLsbD_and, BitVec.getLsbD_ushiftRight, getLsbD_lowByte, decide_eq_true hi, Bool.and_true] at hbit
    exact hbit.trans BitVec.getLsbD_zero
  · intro h
    refine BitVec.eq_of_getLsbD_eq fun i _ => ?_
    rw [BitVec.getLsbD_and, BitVec.getLsbD_ushiftRight, getLsbD_lowByte]
    by_cases hi : i < 8
    · rw [h i hi]
      exact BitVec.getLsbD_zero.symm
    · rw [decide_eq_false hi, Bool.and_false]
      exact BitVec.getLsbD_zero.symm

/-- The quarters with an active lane, by their lanes. -/
theorem quartersOf_eq (m : W32) : quartersOf m = (List.range 4).filter (fun q => (actives m).any (fun l => l / 8 == q)) := by
  refine List.filter_congr fun q hq => ?_
  have hq4 := List.mem_range.mp hq
  rw [Bool.eq_iff_iff, bne_iff_ne, ne_eq, byte_eq_zero_iff, List.any_eq_true]
  constructor
  · intro h
    obtain ⟨i, hnot⟩ := Classical.not_forall.mp h
    obtain ⟨hi, hbit⟩ := Classical.not_imp.mp hnot
    exact ⟨8 * q + i, mem_actives.mpr ⟨by omega, Bool.of_not_eq_false hbit⟩, by rw [beq_iff_eq]; omega⟩
  · rintro ⟨l, hl, hq'⟩ h
    obtain ⟨_, hbit⟩ := mem_actives.mp hl
    rw [beq_iff_eq] at hq'
    have h8 : 8 * q + l % 8 = l := by omega
    have hclear := h (l % 8) (Nat.mod_lt _ (by decide))
    rw [h8, hbit] at hclear
    cases hclear

theorem passRoom_ok {e : Env} {n : Nat} {s : State} (h : PassRoom e n s) : passRoom e n s = .ok ((), s) := by
  obtain ⟨h8, h63⟩ := h
  unfold passRoom
  rw [exec_bind_ok (exec_get s), exec_bind_ok (curSlice_ok e s), decide_eq_false (Nat.not_lt.mpr h8), decide_eq_false (Nat.not_lt.mpr h63)]
  rfl

/-- A multiply instruction that meets no condition passes its checks at decode. -/
theorem beginMul_ok {e : Env} {sp : WSpec} {w : WFrame} {sparse : Bool} {s : State} (h : WReady e sp w true s) (hl : MulLegal e w sparse) :
    beginMul e sp w sparse s = .ok ((), s) := by
  obtain ⟨hpair, hdesc⟩ := hl
  have hconds : ((e.descOf w.f.srcC).map (descConds e w sparse)).getD [] = [] := by
    cases hd : e.descOf w.f.srcC with
    | none => rfl
    | some d =>
      obtain ⟨hsat, hwide⟩ := hdesc d hd
      simp only [Option.map_some, Option.getD_some, descConds]
      have hints : (w.f.variant.getLsbD 2 && !([1, 2].contains (FBlock.of d).afmt && [1, 2].contains (FBlock.of d).bfmt)) = false := by
        cases hv : w.f.variant.getLsbD 2 with
        | false => rfl
        | true =>
          obtain ⟨ha, hb⟩ := hsat hv
          rw [List.contains_iff_mem.mpr ha, List.contains_iff_mem.mpr hb]
          rfl
      rw [hints]
      cases hw : (fblockReason d (if sparse then 2 else 1)).isNone && (FBlock.of d).afmt == 7 with
      | false => rfl
      | true =>
        rw [Bool.and_eq_true, Option.isNone_iff_eq_none, beq_iff_eq] at hw
        obtain ⟨heven, htiles⟩ := hwide hw.1 hw.2
        rw [heven, htiles]
        rfl
  unfold beginMul
  rw [hpair, exec_bind_ok (beginW_ok h), hconds]
  rfl

/-- A pass is always queued. -/
theorem addPass_ok (e : Env) (op : PassOp) (cycles : Nat) (tiles vregs : List Nat) (s : State) :
    ∃ u, addPass e op cycles tiles vregs s = .ok ((), u) := ⟨_, rfl⟩

theorem queuePasses_ok (e : Env) (w : WFrame) (x : MulIn) (kept : List (Nat × List (BitVec 2))) (l : List (W64 × List Nat)) (s : State) :
    ∃ u, queuePasses e w x kept l s = .ok ((), u) := by
  induction l generalizing s with
  | nil => exact ⟨s, rfl⟩
  | cons c l ih =>
    obtain ⟨u, hu⟩ := ih _
    exact ⟨u, hu⟩

/-- The sparse form waits for nothing. -/
theorem sparseStart_ok {α : Type} {e : Env} {w : WFrame} {x : MulIn} {kept : List (Nat × List (BitVec 2))} {s : State} {k : Exec α}
    (h : MulReady e w x kept s) :
    (if x.sparse then do
      let s ← get
      let open_ ← s.fencesTo e .matrix
      holdIf (!open_.isEmpty) .fence
      holdIf (s.placesBehind (x.metaWords s e w.imm)) .bankQueue
      k
    else k : Exec α) s = k s := by
  obtain ⟨_, _, _, hsparse, _⟩ := h
  cases hsp : x.sparse with
  | false => rfl
  | true =>
    rw [if_pos hsp] at hsparse
    obtain ⟨_, hf, hb⟩ := hsparse
    rw [if_pos rfl]
    refine (exec_bind_ok (exec_get s)).trans ((exec_bind_ok hf).trans ((exec_bind_ok (holdIf_false .fence s)).trans ?_))
    rw [hb]
    exact exec_bind_ok (holdIf_false .bankQueue s)

/-- A loop over a list and what each element gives. -/
theorem forM_zip_map {α β : Type} {f : α × β → Exec Unit} {g : List α → Exec Unit} {acc : α → β} (hnil : g [] = pure ())
    (hcons : ∀ c l, g (c :: l) = (do f (c, acc c); g l)) (l : List α) : (l.zip (l.map acc)).forM f = g l := by
  induction l with
  | nil => exact hnil.symm
  | cons c l ih =>
    rw [hcons, ← ih]
    rfl

/-- The rows of a class within the extent. -/
theorem liveRows_eq (x : MulIn) (n : Nat) (qs : List Nat) :
    (x.rows.filter (fun p => decide (p.2.toNat < n))).filter (fun p => qs.contains (p.1 / 8)) =
      x.rows.filter (fun p => decide (p.2.toNat < n) && qs.contains (p.1 / 8)) := by
  rw [List.filter_filter]
  exact List.filter_congr fun p _ => Bool.and_comm _ _

/-- With no condition met, a multiply instruction queues its passes. -/
theorem issueMul_ok {e : Env} {w : WFrame} {x : MulIn} {kept : List (Nat × List (BitVec 2))} {s u : State} (h : MulReady e w x kept s)
    (hr : PassRoom e x.classes.length s) (hu : queuePasses e w x kept x.classes s = .ok ((), u)) : issueMul w x e s = .ok ((), u) := by
  refine (sparseStart_ok h).trans ((exec_bind_ok (passRoom_ok hr)).trans ((exec_bind_ok (exec_get s)).trans ?_))
  obtain ⟨hdesc, hA, hB, hsparse, hstray, hchk⟩ := h
  have hmeta : (if x.sparse then x.sparseMeta s e (e.active w.f.guard) (geoOf e w.srcE) w.imm else ([], [], [])) = ([], [], kept) := by
    cases hsp : x.sparse with
    | false =>
      rw [if_neg (by simp [hsp])] at hsparse
      rw [hsparse]
      rfl
    | true =>
      rw [if_pos hsp] at hsparse
      exact hsparse.1
  have hnone : (x.classes.map (fun c => x.acceptB (geoOf e w.srcD) c.1 true)).filterMap (fun r => r.reason?) = [] := by
    rw [List.filterMap_map, List.filterMap_eq_nil_iff]
    exact hB
  have hall : (x.classes.map (fun c => x.acceptB (geoOf e w.srcD) c.1 true)).all (fun r => r.reason?.isNone) = true := by
    rw [List.all_map, List.all_eq_true]
    exact fun c hc => by simp [hB c hc]
  have hrows : (if w.f.variant.getLsbD 0 then chkCond x.rows (geoOf e w.srcE).rowCount else []) = [] := by
    refine ite_eq_right_iff.mpr fun hv => ?_
    have hbeyond : x.rows.filter (fun p => decide ((geoOf e w.srcE).rowCount ≤ p.2.toNat)) = [] :=
      List.filter_eq_nil_iff.mpr fun p hp => by simpa using hchk hv p hp
    unfold chkCond
    rw [hbeyond]
  have hfind : (lanesIn (e.active w.f.guard)).filterMap (fun l => ([] : List (Nat × W32)).find? (fun p => p.1 == l)) = [] := by simp
  have hgeo (code : BitVec 8) : Geom.ofReg (e.geomReg code) = geoOf e code := rfl
  simp only [hgeo]
  simp only [hdesc, Option.isNone_none, hA, hall, hnone, Bool.and_true, if_true, hstray, hmeta, hrows, List.append_nil, hfind]
  refine (exec_bind_ok (raiseLowest_nil e s)).trans (Eq.trans (congrFun (forM_zip_map ?_ ?_ x.classes) s) hu)
  · rfl
  · intro c l
    simp only [liveRows_eq]
    rfl

/-- Settles O30: the passes of the classes are queued one after the other. -/
theorem matrixIssue : Obligations.MatrixIssue := by
  intro w s s1 t e r0 hB kept m desc fmt row handle quarters x y
  refine ⟨fun sparse h hl => ?_, fun h hl => ⟨fun hm => ?_, fun hm hr0 hhB hready hroom => ?_⟩⟩
  · intro i
    have hbegin := beginMul_ok h hl
    refine ⟨fun hm => ?_, fun hm hready hroom => ?_⟩
    · have hrun : mulVec w sparse e s = .ok ((), s) := by
        unfold mulVec
        rw [exec_bind_ok hbegin]
        exact congrFun (if_pos hm) s
      cases sparse <;> exact issueW_ok h.1 hrun
    · obtain ⟨u, hu⟩ := queuePasses_ok e w (x sparse) kept (x sparse).classes s
      have hrun : mulVec w sparse e s = .ok ((), u) := by
        unfold mulVec
        rw [exec_bind_ok hbegin]
        refine (congrFun (if_neg hm) s).trans ?_
        rw [quartersOf_eq]
        exact issueMul_ok hready hroom hu
      refine ⟨u, hu, ?_⟩
      cases sparse <;> exact issueW_ok h.1 hrun
  · refine issueW_ok h.1 ((exec_bind_ok (beginMul_ok h hl)).trans ?_)
    rw [if_pos hm]
    rfl
  · obtain ⟨u, hu⟩ := queuePasses_ok e w y [] y.classes t
    refine ⟨u, hu, issueW_ok h.1 ((exec_bind_ok (beginMul_ok h hl)).trans ?_)⟩
    rw [if_neg hm]
    refine (exec_bind_ok hr0).trans ((exec_bind_ok hhB).trans ?_)
    rw [quartersOf_eq]
    exact issueMul_ok hready hroom hu

/-! ### Cells of accumulator tiles -/

theorem tile_ext {a b : Tile} (h : ∀ (i : Nat) (hi : i < 32) (j : Nat) (hj : j < 32), a[i][j] = b[i][j]) : a = b :=
  Vector.ext fun i hi => Vector.ext fun j hj => h i hi j hj

/-- A tile with the bits above 2^... of new cells where `change` gives one. -/
def tileWith (d : Nat) (change : Nat → Nat → Option Nat) (tile : Tile) : Tile :=
  tabulate 32 (fun i => tabulate 32 (fun j => match change i j with
    | some x => BitVec.ofNat 32 (x / d)
    | none => (tile[i])[j]))

theorem tileWith_getElem (d : Nat) (change : Nat → Nat → Option Nat) (tile : Tile) (i : Nat) (hi : i < 32) (j : Nat) (hj : j < 32) :
    (tileWith d change tile)[i][j] = ((change i j).map (fun x => BitVec.ofNat 32 (x / d))).getD tile[i][j] := by
  unfold tileWith
  rw [tabulate_getElem, tabulate_getElem]
  cases h : change i j <;> rfl

/-- What changing the cells of a tile, or of a pair, does to the tiles of a group. -/
def tilesWith (t : Nat) (wide : Bool) (change : Nat → Nat → Option Nat) (k : Nat) (tile : Tile) : Tile :=
  if k = t then tileWith 1 change tile else if wide = true ∧ k = t + 1 then tileWith (2 ^ 32) change tile else tile

theorem putCells_eq (t : Nat) (wide : Bool) (change : Nat → Nat → Option Nat) (g : Group) :
    putCells t wide change g = { g with acc := g.acc.mapIdx (tilesWith t wide change) } := by
  unfold putCells
  congr 2
  funext k tile
  unfold tilesWith
  by_cases hk : k = t
  · subst hk
    rw [if_pos (.inl rfl), if_pos rfl]
    refine tile_ext fun i hi j hj => ?_
    rw [tileWith_getElem, tabulate_getElem, tabulate_getElem]
    cases change i j <;> simp
  · rw [if_neg hk]
    by_cases hw : wide = true ∧ k = t + 1
    · rw [if_pos (.inr hw), if_pos hw]
      refine tile_ext fun i hi j hj => ?_
      rw [tileWith_getElem, tabulate_getElem, tabulate_getElem]
      cases change i j <;> simp [hk]
    · rw [if_neg (not_or.mpr ⟨hk, hw⟩), if_neg hw]

/-- A row put into a tile changes that tile alone. -/
theorem setTileRow_eq (g : Group) (t i : Nat) (row : Lanes) :
    g.setTileRow t i row = { g with acc := g.acc.mapIdx (fun k tile => if k = t then tile.setIfInBounds i row else tile) } := by
  unfold Group.setTileRow
  congr 1
  refine List.ext_getElem? fun k => ?_
  rw [List.getElem?_set, List.getElem?_mapIdx]
  by_cases hk : t = k
  · subst hk
    by_cases hlt : t < g.acc.length
    · simp [hlt]
    · simp [hlt]
  · have hk' : k ≠ t := Ne.symm hk
    simp [hk, hk']

theorem setRow_eq_tileWith (d i : Nat) (xs : List Nat) (tile : Tile) :
    tile.setIfInBounds i (tabulate 32 (fun j => BitVec.ofNat 32 (xs.getD j.val 0 / d))) =
      tileWith d (fun i' j => if i' = i then some (xs.getD j 0) else none) tile := by
  refine tile_ext fun i' hi j hj => ?_
  rw [tileWith_getElem, Vector.getElem_setIfInBounds]
  by_cases h : i = i'
  · subst h
    simp
  · have h' : i' ≠ i := Ne.symm h
    simp [h, h']

theorem setCells_eq_putCells (g : Group) (t : Nat) (wide : Bool) (i : Nat) (xs : List Nat) :
    g.setCells t wide i xs = putCells t wide (fun i' j => if i' = i then some (xs.getD j 0) else none) g := by
  rw [putCells_eq]
  cases wide with
  | false =>
    refine (setTileRow_eq g t i _).trans (congrArg (fun f => { g with acc := g.acc.mapIdx f }) (funext fun k => funext fun tile => ?_))
    show (if k = t then tile.setIfInBounds i (tabulate 32 (fun j => BitVec.ofNat 32 (xs.getD j.val 0 / 1))) else tile) = _
    rw [setRow_eq_tileWith]
    simp [tilesWith]
  | true =>
    have hrows : g.setCells t true i xs = (g.setTileRow t i (tabulate 32 (fun j => BitVec.ofNat 32 (xs.getD j.val 0 / 1)))).setTileRow
      (t + 1) i (tabulate 32 (fun j => BitVec.ofNat 32 (xs.getD j.val 0 / 2 ^ 32))) := rfl
    rw [hrows, setTileRow_eq, setTileRow_eq]
    simp only [List.mapIdx_mapIdx, setRow_eq_tileWith]
    refine congrArg (fun f => { g with acc := g.acc.mapIdx f }) (funext fun k => funext fun tile => ?_)
    simp only [Function.comp_apply, tilesWith]
    by_cases hk : k = t
    · simp [hk]
    · rw [if_neg hk, if_neg hk]
      simp

/-- Two changes, one after the other. -/
theorem putCells_putCells (t : Nat) (wide : Bool) (c d : Nat → Nat → Option Nat) (g : Group) :
    putCells t wide d (putCells t wide c g) = putCells t wide (fun i j => (d i j).or (c i j)) g := by
  have htile (n : Nat) (tile : Tile) : tileWith n d (tileWith n c tile) = tileWith n (fun i j => (d i j).or (c i j)) tile := by
    refine tile_ext fun i hi j hj => ?_
    rw [tileWith_getElem, tileWith_getElem, tileWith_getElem]
    cases d i j <;> rfl
  rw [putCells_eq, putCells_eq, putCells_eq]
  simp only [List.mapIdx_mapIdx]
  refine congrArg (fun f => { g with acc := g.acc.mapIdx f }) (funext fun k => funext fun tile => ?_)
  simp only [Function.comp_apply, tilesWith]
  by_cases hk : k = t
  · simp [hk, htile]
  · by_cases hw : wide = true ∧ k = t + 1
    · simp [hw, htile]
    · simp [hk, hw]

theorem putCells_none (t : Nat) (wide : Bool) (g : Group) : putCells t wide (fun _ _ => none) g = g := by
  have htile (n : Nat) (tile : Tile) : tileWith n (fun _ _ => none) tile = tile := by
    refine tile_ext fun i hi j hj => ?_
    rw [tileWith_getElem]
    rfl
  have hid : tilesWith t wide (fun _ _ => none) = fun _ tile => tile := by
    funext k tile
    simp only [tilesWith, htile, ite_self]
  rw [putCells_eq, hid, mapIdx_snd]

/-- Changes made row by row, each in its own row. -/
theorem foldl_putCells (t : Nat) (wide : Bool) (p : Nat → Prop) [DecidablePred p] (v : Nat → Nat) (rows : List Nat) (g : Group) :
    rows.foldl (fun g l => putCells t wide (fun i j => if i = l ∧ p j then some (v i) else none) g) g =
      putCells t wide (fun i j => if i ∈ rows ∧ p j then some (v i) else none) g := by
  induction rows generalizing g with
  | nil => simp [putCells_none]
  | cons l rows ih =>
    rw [List.foldl_cons, ih, putCells_putCells]
    refine congrArg (fun c => putCells t wide c g) (funext fun i => funext fun j => ?_)
    by_cases hp : p j
    · by_cases hi : i ∈ rows
      · simp [hp, hi]
      · by_cases hl : i = l
        · subst hl
          simp [hp, hi]
        · simp [hp, hi, hl]
    · simp [hp]

/-- The bits of a cell of a tile that is there. -/
theorem word_of_tile {g : Group} {t i j : Nat} {tile : Tile} (h : g.acc[t]? = some tile) (hi : i < 32) (hj : j < 32) :
    ((g.tileRow t i)[j]?).getD 0 = tile[i][j] := by
  unfold Group.tileRow
  rw [List.getD_eq_getElem?_getD, h, Option.getD_some, Vector.getElem?_eq_getElem hi, Option.getD_some, Vector.getElem?_eq_getElem hj,
    Option.getD_some]

theorem cell_low {g : Group} {t i j : Nat} {tile : Tile} (wide : Bool) (h : g.acc[t]? = some tile) (hi : i < 32) (hj : j < 32) :
    BitVec.ofNat 32 (g.cell t wide i j) = tile[i][j] := by
  have hlt := tile[i][j].isLt
  unfold Group.cell
  dsimp only
  rw [word_of_tile h hi hj]
  apply BitVec.eq_of_toNat_eq
  rw [BitVec.toNat_ofNat]
  split <;> omega

theorem cell_high {g : Group} {t i j : Nat} {tile : Tile} (h : g.acc[t + 1]? = some tile) (hi : i < 32) (hj : j < 32) :
    BitVec.ofNat 32 (g.cell t true i j / 2 ^ 32) = tile[i][j] := by
  have hlt := tile[i][j].isLt
  unfold Group.cell
  dsimp only
  rw [word_of_tile h hi hj, if_pos rfl]
  have hlow := (((g.tileRow t i)[j]?).getD 0).isLt
  apply BitVec.eq_of_toNat_eq
  rw [BitVec.toNat_ofNat]
  omega

/-- Writing a cell's own bits changes nothing. -/
theorem putCells_congr {t : Nat} {wide : Bool} {c d : Nat → Nat → Option Nat} {g : Group}
    (h : ∀ i < 32, ∀ j < 32, c i j = d i j ∨ (c i j = some (g.cell t wide i j) ∧ d i j = none)) :
    putCells t wide c g = putCells t wide d g := by
  rw [putCells_eq, putCells_eq]
  have htiles : g.acc.mapIdx (tilesWith t wide c) = g.acc.mapIdx (tilesWith t wide d) := by
    refine List.ext_getElem? fun k => ?_
    rw [List.getElem?_mapIdx, List.getElem?_mapIdx]
    cases hk : g.acc[k]? with
    | none => rfl
    | some tile =>
      rw [Option.map_some, Option.map_some]
      congr 1
      unfold tilesWith
      by_cases hkt : k = t
      · subst hkt
        rw [if_pos rfl, if_pos rfl]
        refine tile_ext fun i hi j hj => ?_
        rw [tileWith_getElem, tileWith_getElem]
        rcases h i hi j hj with h | ⟨hc, hd⟩
        · rw [h]
        · rw [hc, hd, Option.map_some, Option.getD_some, Nat.div_one]
          exact cell_low wide hk hi hj
      · rw [if_neg hkt, if_neg hkt]
        by_cases hw : wide = true ∧ k = t + 1
        · obtain ⟨rfl, rfl⟩ := hw
          rw [if_pos ⟨rfl, rfl⟩, if_pos ⟨rfl, rfl⟩]
          refine tile_ext fun i hi j hj => ?_
          rw [tileWith_getElem, tileWith_getElem]
          rcases h i hi j hj with h | ⟨hc, hd⟩
          · rw [h]
          · rw [hc, hd, Option.map_some, Option.getD_some]
            exact cell_high hk hi hj
        · rw [if_neg hw, if_neg hw]
  rw [htiles]

/-! ### Accumulator instructions -/

/-- A W frame of the X-slice with a pair of tiles that is allocated. -/
theorem beginTiles_ok {e : Env} {sp : WSpec} {w : WFrame} {code : BitVec 8} {wide : Bool} {s : State} (h : WReady e sp w true s)
    (hp : pairCond e code wide = []) : beginW e sp w true (pairCond e code wide) s = .ok ((), s) := by
  rw [hp]
  exact beginW_ok h

theorem tilesReady_ok {e : Env} {tiles : List Nat} {s : State} (h : TilesIdle e tiles s) : tilesReady e tiles s = .ok ((), s) := by
  have hnone : ((s.core e.g.core).sub e.g.sub).passes.any (fun p => p.grp == e.cur.grp && p.tiles.any tiles.contains) = false := by
    rw [List.any_eq_false]
    intro p hp
    rw [Bool.and_eq_true, List.any_eq_true]
    rintro ⟨hg, n, hn, hc⟩
    exact h p hp (beq_iff_eq.mp hg) n hn (List.contains_iff_mem.mp hc)
  unfold tilesReady
  rw [exec_bind_ok (exec_get s), hnone]
  exact holdIf_false .tileBusy s

/-- The rows of a mask are cleared one by one. -/
theorem foldl_clear (t : Nat) (wide : Bool) (m : W32) (g : Group) :
    (lanesIn m).foldl (fun g l => g.setCells t wide l []) g = putCells t wide (fun i _ => if m.getLsbD i then some 0 else none) g := by
  have hstep : (fun (g : Group) (l : Nat) => g.setCells t wide l []) =
      fun g l => putCells t wide (fun i _ => if i = l ∧ True then some 0 else none) g := by
    funext g l
    rw [setCells_eq_putCells]
    refine congrArg (fun c => putCells t wide c g) (funext fun i => funext fun _ => ?_)
    simp
  rw [hstep, foldl_putCells t wide (fun _ => True) (fun _ => 0)]
  refine putCells_congr fun i hi j _ => .inl ?_
  have hmem : i ∈ lanesIn m ↔ m.getLsbD i = true := mem_actives.trans (and_iff_right hi)
  simp [hmem]

/-- A column is written row by row, the other cells of each row as they stand. -/
theorem foldl_column (t : Nat) (wide : Bool) (m : W32) (v : Lanes64) {r : Nat} (hr : r < 32) (g : Group) :
    (lanesIn m).foldl (fun g l => g.setCells t wide l ((g.cells t wide l).set r (laneNat v l))) g =
      putCells t wide (fun i j => if m.getLsbD i ∧ j = r then some (laneNat v i) else none) g := by
  have hstep : (fun (g : Group) (l : Nat) => g.setCells t wide l ((g.cells t wide l).set r (laneNat v l))) =
      fun g l => putCells t wide (fun i j => if i = l ∧ j = r then some (laneNat v i) else none) g := by
    funext g l
    rw [setCells_eq_putCells]
    refine putCells_congr fun i _ j hj => ?_
    by_cases hi : i = l
    · subst hi
      by_cases hjr : j = r
      · subst hjr
        exact .inl (by simp [Group.cells, hr])
      · have hrj : r ≠ j := Ne.symm hjr
        refine .inr ⟨?_, by simp [hjr]⟩
        simp [Group.cells, hrj, hj]
    · exact .inl (by simp [hi])
  rw [hstep, foldl_putCells t wide (fun j => j = r) (laneNat v)]
  refine putCells_congr fun i hi j _ => .inl ?_
  have hmem : i ∈ lanesIn m ↔ m.getLsbD i = true := mem_actives.trans (and_iff_right hi)
  simp [hmem]

/-- A row is written in the lanes of a mask. -/
theorem setCells_row (t : Nat) (wide : Bool) (m : W32) (v : Lanes64) (r : Nat) (g : Group) :
    g.setCells t wide r ((List.range 32).map (fun l => if m.getLsbD l then laneNat v l else g.cell t wide r l)) =
      putCells t wide (fun i j => if i = r ∧ m.getLsbD j then some (laneNat v j) else none) g := by
  rw [setCells_eq_putCells]
  refine putCells_congr fun i _ j hj => ?_
  by_cases hi : i = r
  · subst hi
    have hget : ((List.range 32).map (fun l => if m.getLsbD l then laneNat v l else g.cell t wide i l)).getD j 0 =
        if m.getLsbD j then laneNat v j else g.cell t wide i j := by
      rw [List.getD_eq_getElem?_getD, List.getElem?_map, List.getElem?_range hj]
      rfl
    rw [if_pos rfl, hget]
    cases m.getLsbD j with
    | true => exact .inl (by simp)
    | false => exact .inr ⟨by simp, by simp⟩
  · exact .inl (by simp [hi])

theorem exec_aczero {w : WFrame} {s : State} {e : Env} (h : WReady e (specAczero w) w true s)
    (hp : pairCond e w.f.dst (cellTyOf w).wide = []) (hm : e.active w.f.guard ≠ 0)
    (hidle : TilesIdle e (tilesOf w.f.dst (cellTyOf w).wide) s) :
    exec (.aczero w) s = .next (doneW e (e.active w.f.guard) 16 (s.modGroup e.cur.grp (putCells (regNo w.f.dst) (cellTyOf w).wide
      (fun i _ => if (e.active w.f.guard).getLsbD i then some 0 else none)))) := by
  refine issueW_ok h.1 ((exec_bind_ok (beginTiles_ok h hp)).trans ?_)
  rw [if_neg hm, exec_bind_ok (tilesReady_ok hidle)]
  exact congrArg (fun f => Except.ok ((), s.modGroup e.cur.grp f)) (funext fun g => foldl_clear _ _ _ g)

theorem exec_acrd {w : WFrame} {s t u : State} {e : Env} {x : W64} (h : WReady e (specAcrd w) w true s)
    (hp : pairCond e w.f.srcA (cellTyOf w).wide = [])
    (hidle : e.active w.f.guard ≠ 0 → TilesIdle e (tilesOf w.f.srcA (cellTyOf w).wide) s) (hx : srcS e w.f.srcB w.lit s = .ok (x, t))
    (hu : dstV e (cellTyOf w).wide (e.active w.f.guard) w.f.dst (tabulate 32 (fun l =>
      BitVec.ofNat 64 (if w.f.variant.getLsbD 3 then e.g.cell (regNo w.f.srcA) (cellTyOf w).wide l.val (x.toNat % 32)
        else e.g.cell (regNo w.f.srcA) (cellTyOf w).wide (x.toNat % 32) l.val))) t = .ok ((), u)) :
    exec (.acrd w) s = .next (doneW e (e.active w.f.guard) 16 u) := by
  refine issueW_ok h.1 ((exec_bind_ok (beginTiles_ok h hp)).trans ((exec_when_ok (t := s) ?_).trans ((exec_bind_ok hx).trans hu)))
  exact ite_eq_right_iff.mpr fun hm => tilesReady_ok (hidle hm)

theorem exec_acwr {w : WFrame} {s s1 t : State} {e : Env} {v : Lanes64} {x : W64} (h : WReady e (specAcwr w) w true s)
    (hp : pairCond e w.f.dst (cellTyOf w).wide = [])
    (hidle : e.active w.f.guard ≠ 0 → TilesIdle e (tilesOf w.f.dst (cellTyOf w).wide) s)
    (hv : srcV e (cellTyOf w) w.f.srcA none s = .ok (v, s1)) (hx : srcS e w.f.srcB w.lit s1 = .ok (x, t)) :
    exec (.acwr w) s = .next (doneW e (e.active w.f.guard) 16 (t.modGroup e.cur.grp (putCells (regNo w.f.dst) (cellTyOf w).wide
      (fun i j => if w.f.variant.getLsbD 3 then
          (if (e.active w.f.guard).getLsbD i ∧ j = x.toNat % 32 then some (laneNat v i) else none)
        else if i = x.toNat % 32 ∧ (e.active w.f.guard).getLsbD j then some (laneNat v j) else none)))) := by
  refine issueW_ok h.1 ((exec_bind_ok (beginTiles_ok h hp)).trans ((exec_when_ok (t := s) ?_).trans
    ((exec_bind_ok hv).trans ((exec_bind_ok hx).trans ?_))))
  · exact ite_eq_right_iff.mpr fun hm => tilesReady_ok (hidle hm)
  · refine congrArg (fun f => Except.ok ((), t.modGroup e.cur.grp f)) (funext fun g => ?_)
    cases w.f.variant.getLsbD 3 with
    | true => exact foldl_column _ _ _ v (Nat.mod_lt _ (by decide)) g
    | false => exact setCells_row _ _ _ v _ g

/-- A further condition on a frame leaves its destination's position. -/
theorem also_dst_ok {sp : WSpec} {c : Bool} {code : BitVec 8} (h : (sp.also c).f.dst.ok code = true) : sp.f.dst.ok code = true := by
  cases c <;> exact h

/-- The largest magnitude of cells, in the cells' type. -/
def largest (ty : Ty) (cells : List Nat) : Nat :=
  match ty with
  | .fl t => if cells.any (fun c => (t.decode c).1.isNan) then t.nanCode else cells.foldl (fun a c => max a (c % 2 ^ (t.width - 1))) 0
  | _ => cells.foldl (fun a c => max a (BitVec.ofNat 32 c).toInt.natAbs) 0

theorem exec_acmax {w : WFrame} {s : State} {e : Env} (h : WReady e (specAcmax w) w true s)
    (hp : pairCond e w.f.srcB (cellTyOf w).wide = []) (hm : e.active w.f.guard ≠ 0)
    (hidle : TilesIdle e (tilesOf w.f.srcB (cellTyOf w).wide) s) :
    exec (.acmax w) s = .next (doneW e (e.active w.f.guard) 16 (onSlice e (fun sl => sl.setS (regNo w.f.dst) (BitVec.ofNat 64
      (largest (cellTyOf w) ((List.range 32).map (fun i => (List.range 32).map (e.g.cell (regNo w.f.srcB) (cellTyOf w).wide i))).flatten))) s)) := by
  have hint : (fun (a x : Nat) => max a (readInt true 32 x).natAbs) = fun a x => max a (BitVec.ofNat 32 x).toInt.natAbs := by
    funext a x
    rw [readInt_eq_num]
    rfl
  refine issueW_ok h.1 ((exec_bind_ok (beginTiles_ok h hp)).trans ?_)
  have hsreg : Pos.sreg.ok w.f.dst = true := also_dst_ok (dstW_ok h.2.1)
  rw [if_neg hm, exec_bind_ok (tilesReady_ok hidle), dstS_sreg hsreg, if_neg hm, hint]
  unfold largest
  cases cellTyOf w <;> rfl

theorem exec_acmove {w : WFrame} {s u : State} {e : Env} {load : Bool} (h : WReady e (specAcmove w) w true s)
    (hu : issueMove w load e s = .ok ((), u)) :
    exec (if load then .acld w else .acst w) s = .next (doneW e (e.active w.f.guard) 16 u) := by
  cases load <;> exact issueW_ok h.1 hu

/-- Settles O31: cells are cleared, read, written row by row or by column, and moved by the pass queue. -/
theorem accumulatorResult : Obligations.AccumulatorResult := by
  intro w s s1 t e v x m f wide put
  refine ⟨fun h hp => ⟨fun hm => ?_, fun hm hidle => exec_aczero h hp hm hidle⟩, fun h hp hidle hx hroom => ?_,
    fun h hp hidle hv hx => exec_acwr h hp hidle hv hx, fun h hp => ⟨fun hm => ?_, fun hm hidle => exec_acmax h hp hm hidle⟩,
    fun load h hp => ?_⟩
  · refine issueW_ok h.1 ((exec_bind_ok (beginTiles_ok h hp)).trans ?_)
    rw [if_pos hm]
    rfl
  · intro r cell
    obtain ⟨u, hu⟩ := dstV_ok (e := e) (m := m) (x := tabulate 32 (fun l => if f.variant.getLsbD 3 then cell l.val r else cell r l.val)) hroom
    refine ⟨u, hu, exec_acrd h hp hidle hx ?_⟩
    exact Eq.trans (congrArg (fun x => dstV e wide m f.dst x t) (congrArg (tabulate 32) (funext fun l => apply_ite (BitVec.ofNat 64) _ _ _))) hu
  · refine issueW_ok h.1 ((exec_bind_ok (beginTiles_ok h hp)).trans ?_)
    rw [if_pos hm]
    rfl
  · intro i reg g hd code regs op
    refine ⟨fun hm => ?_, fun hm hroom hreason hconds hbusy => ?_⟩
    · refine exec_acmove h ((exec_bind_ok (beginTiles_ok h hp)).trans ?_)
      rw [if_pos hm]
      rfl
    · refine ⟨_, rfl, exec_acmove h ((exec_bind_ok (beginTiles_ok h hp)).trans ?_)⟩
      rw [if_neg hm]
      refine (exec_bind_ok (passRoom_ok hroom)).trans ((exec_bind_ok (exec_get s)).trans ?_)
      dsimp only
      rw [hreason]
      dsimp only
      rw [hconds]
      refine (exec_bind_ok (raiseLowest_nil e s)).trans ?_
      have hfree : regs.any (fun n => s.busy e (.vreg false) (BitVec.ofNat 8 n)) = false :=
        List.any_eq_false.mpr fun n hn => by simp [hbusy n hn]
      exact (exec_bind_ok ((congrArg (fun b => holdIf b .scoreboard s) hfree).trans (holdIf_false .scoreboard s))).trans rfl

end Sys2Proof.Proofs
end

section
/-!
PROOFS. Engine commands, work and system instructions (spec 10_copy.md, 12_cluster.md, 13_die.md, 16_package_work.md, chapter 18, 21_fabric.md).
-/
namespace Sys2Proof.Proofs
open Sys2Proof.Machine Sys2Proof.Claims Sys2Proof.Laws

/-! ### What the commands of the engines have in common -/

theorem optionReady_ok {e : Env} {w : WFrame} {s : State} (h : OptionReady e w s) : optionReady e w s = .ok ((), s) := by
  unfold optionReady
  by_cases hboth : w.wflags.extractLsb' 0 2 = 3
  · rw [if_pos hboth]
    refine checkNamed_ok fun n hn => ?_
    rw [List.mem_singleton.mp hn]
    exact h hboth
  · rw [if_neg hboth]
    rfl

theorem engineRoom_ok {e : Env} {i : EngineId} {prio : Bool} {s : State} (h : QueueRoom e i prio s) : engineRoom e i prio s = .ok ((), s) := by
  obtain ⟨hq, hc⟩ := h
  unfold engineRoom
  rw [exec_bind_ok (exec_get s), decide_eq_false (Nat.not_le.mpr hq)]
  refine (exec_bind_ok (holdIf_false .engineFull s)).trans ((exec_bind_ok (curSlice_ok e s)).trans ?_)
  rw [decide_eq_false (Nat.not_le.mpr hc)]
  exact holdIf_false .counterFull s

/-- With nothing found the operands are settled. -/
theorem settleOperands_ok {e : Env} {r : Resolve} {cs : List Cond} {s : State} (h : Settled r) (hcs : cs = []) :
    settleOperands e r cs s = .ok ((), s) := by
  obtain ⟨hw, hc, hp⟩ := h
  unfold settleOperands
  rw [hw, hc, hp, hcs]
  rfl

theorem startOf_eq (e : Env) (w : WFrame) : (optionsOf e w).1 = startOf e w := rfl

theorem releaseOf_eq (e : Env) (w : WFrame) : (optionsOf e w).2 = (releaseOf e w).map (fun p => p.1) := by
  unfold optionsOf releaseOf
  cases w.wflags.getLsbD 1 <;> cases w.wflags.getLsbD 0 <;> rfl

theorem releaseOf_addr (e : Env) (w : WFrame) : (optionsOf e w).2.map (fun a => (a, w.imm)) = releaseOf e w := by
  unfold optionsOf releaseOf
  cases w.wflags.getLsbD 1 <;> cases w.wflags.getLsbD 0 <;> rfl

/-- The fence points of the slice towards an engine that are open. -/
def openFences (e : Env) (i : EngineId) (s : State) : List FencePoint :=
  ((s.slice? e.cur.grp e.cur.a).getD e.sl).fences.filter (fun f => f.later == enginePath i && s.pointOpen e.g.core e.g.sub f)

/-- The promise that a command takes. -/
def promiseOf (e : Env) (c : Command) (cost : Nat) (s : State) : W64 :=
  BitVec.ofNat 64 ((s.engine c.engine).startAfter c.prio (s.ptb (dieOf e.g.core)) c.startAt (openFences e c.engine s) + cost)

/-- A command as it enters its queue: numbered, with its promise and what it waits for. -/
def queuedAs (e : Env) (c : Command) (cost : Nat) (s : State) : Command :=
  { c with serial := s.nextId, seq := if c.prio then (s.engine c.engine).seqP else (s.engine c.engine).seqN,
           promise := promiseOf e c cost s, fences := openFences e c.engine s }

/-- Its number is taken, and its record written. -/
def numbered (e : Env) (c : Command) (cost : Nat) (s : State) : State :=
  State.traceCmdIf { s.modEngine c.engine (fun q => q.advanceSeq c.prio) with nextId := s.nextId + 1 } (queuedAs e c cost s) 0x01
    (promiseOf e c cost s).toNat

/-- It goes to the end of its queue, or is held with its stepped workgroup or its region's tasks. -/
def placed (e : Env) (c : Command) (cost : Nat) (s : State) : State :=
  let t := numbered e c cost s
  if e.w.stepping then { t with pkg := { t.pkg with heldCmds := t.pkg.heldCmds ++ [(CmdHold.step, queuedAs e c cost s)] } }
  else if s.regions.any (fun r => r.num == c.region && r.holdTasks) then
    State.traceCmd { t with pkg := { t.pkg with heldCmds := t.pkg.heldCmds ++ [(CmdHold.task, queuedAs e c cost s)] } }
      (queuedAs e c cost s) 0x12 0
  else t.modEngine c.engine (fun q => q.append (queuedAs e c cost s))

/-- Queuing a command never fails: room was checked before. -/
theorem submit_eq (e : Env) (c : Command) (cost : Nat) (s : State) :
    submit e c cost s = .ok ((), onSlice e (fun sl => { sl.arrive 12 (promiseOf e c cost s) with copies := sl.copies + 1 })
      (placed e c cost s)) := by
  have hf : s.fencesTo e (enginePath c.engine) s = .ok (openFences e c.engine s, s) := rfl
  unfold submit
  refine (exec_bind_ok (exec_get s)).trans ((exec_bind_ok hf).trans ((exec_bind_ok (exec_modify _ _)).trans
    ((exec_bind_ok (exec_modify _ _)).trans ?_)))
  unfold placed
  by_cases hstep : e.w.stepping = true
  · rw [if_pos hstep, if_pos hstep]
    rfl
  · rw [if_neg hstep, if_neg hstep]
    by_cases hheld : s.regions.any (fun r => r.num == c.region && r.holdTasks) = true
    · rw [if_pos hheld, if_pos hheld]
      rfl
    · rw [if_neg hheld, if_neg hheld]
      rfl

/-! ### The copy commands -/

/-- A copy command's instruction is its issue. -/
theorem exec_copy {i : Instr} {kind : CmdKind} {sp : WSpec} {w : WFrame} {s u : State} {e : Env} (hop : copyOp i = some (kind, sp, w))
    (he : s.env? = some e) (hu : issueCopy kind sp w e s = .ok ((), u)) : exec i s = .next (doneW e (e.active w.f.guard) 16 u) := by
  cases i <;> cases hop <;> exact issueW_ok he hu

theorem permuteCycles_bytes (c n : Nat) : permuteCycles c (8 * n) = (c * n + 1023) / 1024 := by
  unfold permuteCycles
  rw [Nat.mul_div_cancel_left n (by decide)]

theorem raiseAfterForm_nil (e : Env) (s : State) : raiseAfterForm e [] s = .ok ((), s) := rfl

/-- The engine that a copy command chooses. -/
theorem pickEngine_eq (s : State) (core sel : Nat) (prio : Bool) :
    pickEngine s core sel prio = .copy core (if sel = 1 then 0 else if sel = 2 then 1 else
      if (s.engine (.copy core 0)).tail prio ≤ (s.engine (.copy core 1)).tail prio then 0 else 1) := by
  unfold pickEngine
  dsimp only
  repeat' split
  all_goals rfl

/-- The command that a copy instruction queues. -/
def copyCommand (e : Env) (eng : EngineId) (w : WFrame) (x : CopyIn) (idx : List W32) (form : List Nat) (sh : Shape) (r : Resolve) : Command :=
  { blankCommand e eng x.kind (w.wflags.getLsbD 2) with
    dstG := e.geomReg w.f.srcA, srcG := e.geomReg w.f.srcC, dstH := x.dstH, srcH := x.srcH,
    rounding := w.f.variant.extractLsb' 0 2, sat := w.f.variant.getLsbD 2, idx := idx, form := form.map (BitVec.ofNat 64),
    option := srcSz e w.srcE, listN := idx.length, barrier := sOrNone e w.srcD, startAt := (optionsOf e w).1,
    release := (optionsOf e w).2.map (fun a => (a, w.imm)), sysScope := w.wflags.getLsbD 4, bytes := sh.bytes, xlat := r.xlat,
    result := (match x.kind with
      | .cpyg => indexResult x.src.rowCount idx
      | .cpys => indexResult x.dst.rowCount idx
      | _ => { ev := 0, cnt := 0, val := 0, out := 0 }) }

/-- The die cycles that it takes. -/
def copyCost (x : CopyIn) (sh : Shape) (rank : Nat) : Nat :=
  (latW rank).1 + permuteCycles (x.dst.acceptCopy x.dstH).cost (8 * sh.dstB) + permuteCycles (x.src.acceptCopy x.srcH).cost (8 * sh.srcB) +
    (max x.dst.byteSize x.src.byteSize + (latW rank).2 - 1) / (latW rank).2

/-- The rejections of a copy command's operands. -/
def copyRejects (w : WFrame) (x : CopyIn) : List Cond :=
  ((x.dst.acceptCopy x.dstH).reason?.map (copyReject w 0)).toList ++ ((x.src.acceptCopy x.srcH).reason?.map (copyReject w 1)).toList

/-- The shape of a copy command whose operands are accepted. -/
def copyShape (w : WFrame) (x : CopyIn) (idx : List W32) : Shape := if (copyRejects w x).isEmpty then x.shape idx else {}

/-- The conditions that a copy command meets. -/
def copyConds (e : Env) (w : WFrame) (x : CopyIn) (idx : List W32) (s : State) : List Cond :=
  copyRejects w x ++ (copyShape w x idx).conds ++ barrierConds s e (e.active w.f.guard) (sOrNone e w.srcD)

/-- The destination of a copy command, resolved. -/
def copyDst (e : Env) (w : WFrame) (x : CopyIn) (idx : List W32) (s : State) : Resolve :=
  s.resolveTile e (e.active w.f.guard) x.dst x.dstH .store (x.dstIx idx)

/-- The source of a copy command, resolved. -/
def copySrc (e : Env) (w : WFrame) (x : CopyIn) (idx : List W32) (s : State) : Resolve :=
  s.resolveTile e (e.active w.f.guard) x.src x.srcH .load (x.srcIx idx)

/-- All that a copy command resolves. -/
def copyOperands (e : Env) (w : WFrame) (x : CopyIn) (idx : List W32) (s : State) : Resolve :=
  ((copyDst e w x idx s).and (copySrc e w x idx s)).and (s.resolveRelease e (e.active w.f.guard) (optionsOf e w).2)

/-- What a copy command does once its operands are settled: it reads its form, raises what is left, and is queued. -/
def copyQueue (e : Env) (eng : EngineId) (w : WFrame) (x : CopyIn) (idx : List W32) (sh : Shape) (r : Resolve) (rank : Nat)
    (conds : List Cond) (s : State) : Exec Unit := do
  if x.kind.readsForm then do
    let open_ ← s.fencesTo e .copy
    holdIf (!open_.isEmpty || s.writtenAhead { blankCommand e eng x.kind (w.wflags.getLsbD 2) with
      srcG := e.geomReg w.f.srcC, srcH := x.srcH, xlat := r.xlat }) .fence
  let form ← formIssue e x
  raiseAfterForm e conds
  modify (fun s => s.dropStages e)
  submit e (copyCommand e eng w x idx form sh r) (copyCost x sh rank)

theorem copyQueue_ok {e : Env} {eng : EngineId} {w : WFrame} {x : CopyIn} {idx : List W32} {sh : Shape} {r : Resolve} {rank : Nat}
    {form : List Nat} {s t u : State}
    (hform : x.kind.readsForm = true → s.fencesTo e .copy s = .ok ([], s) ∧
      s.writtenAhead { blankCommand e eng x.kind (w.wflags.getLsbD 2) with
        srcG := e.geomReg w.f.srcC, srcH := x.srcH, xlat := r.xlat } = false)
    (hissue : formIssue e x s = .ok (form, t))
    (hu : submit e (copyCommand e eng w x idx form sh r) (copyCost x sh rank) (t.dropStages e) = .ok ((), u)) :
    copyQueue e eng w x idx sh r rank [] s s = .ok ((), u) := by
  have hrest : (do
      let form ← formIssue e x
      raiseAfterForm e []
      modify (fun s => s.dropStages e)
      submit e (copyCommand e eng w x idx form sh r) (copyCost x sh rank) : Exec Unit) s = .ok ((), u) :=
    (exec_bind_ok hissue).trans ((exec_bind_ok (raiseAfterForm_nil e t)).trans ((exec_bind_ok (exec_modify _ t)).trans hu))
  unfold copyQueue
  by_cases hread : x.kind.readsForm = true
  · obtain ⟨hf, hw⟩ := hform hread
    rw [if_pos hread]
    refine (exec_bind_ok hf).trans ?_
    rw [hw]
    exact (exec_bind_ok (holdIf_false .fence s)).trans hrest
  · rw [if_neg hread]
    exact hrest

/-- What a copy command does with an active lane and its index list read. -/
def copyActive (kind : CmdKind) (w : WFrame) (e : Env) (idx : List W32) : Exec Unit := do
  let s ← get
  let eng := pickEngine s e.g.core (w.wflags.extractLsb' 5 2).toNat (w.wflags.getLsbD 2)
  engineRoom e eng (w.wflags.getLsbD 2)
  settleOperands e (copyOperands e w (copyIn e kind w) idx s)
    ((copyConds e w (copyIn e kind w) idx s).filter (fun c => decide (c.cause < 0x24)))
  copyQueue e eng w (copyIn e kind w) idx (copyShape w (copyIn e kind w) idx) (copyOperands e w (copyIn e kind w) idx s)
    (max (copyDst e w (copyIn e kind w) idx s).rank (copySrc e w (copyIn e kind w) idx s).rank) (copyConds e w (copyIn e kind w) idx s) s

theorem issueCopy_eq (kind : CmdKind) (sp : WSpec) (w : WFrame) (e : Env) : issueCopy kind sp w e = (do
    beginW e sp w
    optionReady e w
    let idx ← indexList e kind w
    if e.active w.f.guard = 0 then pure () else copyActive kind w e idx) := by
  unfold issueCopy copyActive copyQueue
  rfl

/-- A copy command that nothing refuses or holds is queued. -/
theorem copyActive_ok {kind : CmdKind} {w : WFrame} {e : Env} {idx : List W32} {eng : EngineId} {form : List Nat} {s t u : State}
    (heng : pickEngine s e.g.core (w.wflags.extractLsb' 5 2).toNat (w.wflags.getLsbD 2) = eng)
    (hroom : QueueRoom e eng (w.wflags.getLsbD 2) s) (hrej : copyRejects w (copyIn e kind w) = [])
    (hsh : ((copyIn e kind w).shape idx).conds = []) (hr : Settled (copyOperands e w (copyIn e kind w) idx s))
    (hbar : barrierConds s e (e.active w.f.guard) (sOrNone e w.srcD) = [])
    (hform : kind.readsForm = true → s.fencesTo e .copy s = .ok ([], s) ∧
      s.writtenAhead { blankCommand e eng kind (w.wflags.getLsbD 2) with
        srcG := e.geomReg w.f.srcC, srcH := (copyIn e kind w).srcH, xlat := (copyOperands e w (copyIn e kind w) idx s).xlat } = false)
    (hissue : formIssue e (copyIn e kind w) s = .ok (form, t))
    (hu : submit e (copyCommand e eng w (copyIn e kind w) idx form ((copyIn e kind w).shape idx) (copyOperands e w (copyIn e kind w) idx s))
      (copyCost (copyIn e kind w) ((copyIn e kind w).shape idx)
        (max (copyDst e w (copyIn e kind w) idx s).rank (copySrc e w (copyIn e kind w) idx s).rank)) (t.dropStages e) = .ok ((), u)) :
    copyActive kind w e idx s = .ok ((), u) := by
  have hshape : copyShape w (copyIn e kind w) idx = (copyIn e kind w).shape idx := by
    unfold copyShape
    rw [hrej]
    rfl
  have hconds : copyConds e w (copyIn e kind w) idx s = [] := by
    unfold copyConds
    rw [hshape, hrej, hsh, hbar]
    rfl
  unfold copyActive
  refine (exec_bind_ok (exec_get s)).trans ?_
  rw [heng, hconds, hshape]
  exact (exec_bind_ok (engineRoom_ok hroom)).trans ((exec_bind_ok (settleOperands_ok hr rfl)).trans (copyQueue_ok hform hissue hu))

/-- Settles O32: the command is settled, reads its form, and is queued. -/
theorem copyIssue : Obligations.CopyIssue := by
  intro i kind sp w s s1 t e idx form hop h hopt hidx m prio tail sel eng x sh rd rs r ad as_ rank cost c
  have hstart (u : State) (hu : (if e.active w.f.guard = 0 then pure () else copyActive kind w e idx : Exec Unit) s1 = .ok ((), u)) :
      exec i s = .next (doneW e m 16 u) := by
    refine exec_copy hop h.1 ?_
    rw [issueCopy_eq]
    exact (exec_bind_ok (beginW_ok h)).trans ((exec_bind_ok (optionReady_ok hopt)).trans ((exec_bind_ok hidx).trans hu))
  refine ⟨fun hm => hstart s1 (congrFun (if_pos hm) s1), fun hm hroom had has hsh hr hbar hform hissue => ?_⟩
  have hrejects : copyRejects w x = [] := by
    unfold copyRejects
    rw [had, has]
    rfl
  have hoperands : copyOperands e w x idx s1 = r := by
    unfold copyOperands
    rw [releaseOf_eq]
    rfl
  have hcommand : c = copyCommand e eng w x idx form sh r := by
    unfold copyCommand
    rw [releaseOf_addr]
    rfl
  have hcost : cost = copyCost x sh (max (copyDst e w x idx s1).rank (copySrc e w x idx s1).rank) := by
    unfold copyCost
    rw [permuteCycles_bytes, permuteCycles_bytes]
    rfl
  have hsubmit := submit_eq e c cost (t.dropStages e)
  refine ⟨_, hsubmit, hstart _ ((congrFun (if_neg hm) s1).trans ?_)⟩
  refine copyActive_ok (pickEngine_eq s1 e.g.core sel prio) hroom hrejects hsh (hoperands ▸ hr) hbar (hoperands ▸ hform) hissue ?_
  rw [hoperands]
  exact (congr (congrArg (fun c k => submit e c k (t.dropStages e)) hcommand) hcost).symm.trans hsubmit

/-! ### Page selection and the fabric commands -/

/-- An operand at a multiple of n is aligned. -/
theorem misaligned_nil {m : W32} {a : W64} {n : Nat} (h : a.toNat % n = 0) : misaligned m a n = [] := if_pos h

theorem toNat_setWidth_64 (a : W32) : (a.setWidth 64).toNat = a.toNat := by
  rw [BitVec.toNat_setWidth_of_le (by decide)]

theorem windowConds_if {s : State} {peers : List (BitVec 12)} {l : List (W64 × Nat)} (b : Bool) (h : windowConds s peers l = []) :
    windowConds s peers (if b then l else []) = [] := by
  cases b
  · rfl
  · exact h

/-- A page selection on a G-cluster passes the checks at decode. -/
theorem beginW_cluster {e : Env} {sp : WSpec} {w : WFrame} {s : State} (h : WReady e sp w false s) (hg : onGCluster e.g.core = true) :
    beginW e sp w false (if onGCluster e.g.core then [] else [{ cause := 0x04 }]) s = .ok ((), s) := by
  rw [if_pos hg]
  exact beginW_ok h

/-- A peer list behind which no request stands is read. -/
theorem peersReady_ok {e : Env} {x : W64} {s : State} (h : ListReady e x s) : peersReady e x s = .ok ((), s) := by
  unfold peersReady
  refine (exec_bind_ok (exec_get s)).trans ?_
  have hn : bitsAt x.toNat 32 7 = x.toNat / 2 ^ 32 % 2 ^ 7 := rfl
  rw [hn]
  cases hl : s.lsRef e.w e.g.half1 (x.setWidth 32) (4 * (x.toNat / 2 ^ 32 % 2 ^ 7)) with
  | none => rfl
  | some r =>
    dsimp only
    rw [h r hl]
    exact holdIf_false .bankQueue s

/-- The conditions of a page selection's parameters. -/
theorem pselConds_nil {e : Env} {s : State} {m out q : W32} {tab k np : W64} {bar : Option W64} (hk : 0 < k.toNat)
    (hk' : k.toNat ≤ 1024) (hnp : 0 < np.toNat) (hnp' : np.toNat ≤ 65536) (hout : out.toNat % 8 = 0) (hq : q.toNat % 16 = 0)
    (htab : tab.toNat % 256 = 0) (hbar : barrierConds s e m bar = []) (hr : rangeConds s e m out (8 * k.toNat) = [])
    (hr' : rangeConds s e m q 256 = []) :
    lsOperands (rangeConds s e m out (8 * k.toNat) ++ rangeConds s e m q 256)
        (misaligned m (out.setWidth 64) 8 ++ misaligned m (q.setWidth 64) 16) ++ misaligned m tab 256 ++ barrierConds s e m bar ++
        (if decide (k.toNat = 0) || decide (1024 < k.toNat) || decide (np.toNat = 0) || decide (65536 < np.toNat) then
          [{ cause := 0x3A, aux0 := k, aux1 := np }] else []) = [] := by
  rw [hr, hr', hbar, misaligned_nil htab, misaligned_nil ((toNat_setWidth_64 out).symm ▸ hout),
    misaligned_nil ((toNat_setWidth_64 q).symm ▸ hq)]
  have hbad : (decide (k.toNat = 0) || decide (1024 < k.toNat) || decide (np.toNat = 0) || decide (65536 < np.toNat)) = false := by
    simp; omega
  rw [hbad]
  rfl

/-- The conditions of the shape of a `CPYR`. -/
def cpyrShape (e : Env) (w : WFrame) : List Cond :=
  let dst := geoOf e w.f.srcA
  let src := geoOf e w.f.srcC
  let ad := dst.acceptCopy (e.sl.s (regNo w.f.dst))
  let as_ := src.acceptCopy (srcSz e w.f.srcB)
  let rejects := (if ad.reason?.isNone && dst.space != 0 then [copyReject w 0 2] else []) ++
    (ad.reason?.map (copyReject w 0)).toList ++ (as_.reason?.map (copyReject w 1)).toList
  rejects ++ (if !rejects.isEmpty then [] else if dst.size ≠ src.size then [copyReject w 1 9]
    else if !convOk dst.fmt src.fmt then [copyReject w 1 7] else [])

theorem cpyrShape_nil {e : Env} {w : WFrame}
    (had : ((geoOf e w.f.srcA).acceptCopy (e.sl.s (regNo w.f.dst))).reason? = none)
    (has : ((geoOf e w.f.srcC).acceptCopy (srcSz e w.f.srcB)).reason? = none) (hsp : (geoOf e w.f.srcA).space = 0)
    (hsz : (geoOf e w.f.srcA).size = (geoOf e w.f.srcC).size)
    (hconv : convOk (geoOf e w.f.srcA).fmt (geoOf e w.f.srcC).fmt = true) : cpyrShape e w = [] := by
  unfold cpyrShape
  simp [had, has, hsp, hsz, hconv]

theorem releaseOf_pairs (e : Env) (w : WFrame) :
    ((releaseOf e w).map (fun p => p.1)).map (fun a => (a, w.imm)) = releaseOf e w := by
  rw [← releaseOf_eq]
  exact releaseOf_addr e w

/-- What a fabric command takes from its options. -/
theorem fabIn_eq (e : Env) (w : WFrame) (each : Bool) : fabIn e w each =
    { prio := w.wflags.getLsbD 2, startAt := startOf e w, rel := (releaseOf e w).map (fun p => p.1), bar := barrierOf e w.srcD,
      each := each } := by
  rw [← releaseOf_eq, ← startOf_eq]
  rfl

/-- Settles O33: with nothing met at issue, the command is submitted. -/
theorem fabricIssue : Obligations.FabricIssue := by
  intro w s s1 t e len id m prio out q np k tab pages list n x dst src dstH srcH
  refine ⟨fun h hg => ?_, fun h hopt => ?_, fun h hopt => ?_, fun h hopt => ?_⟩
  · intro eng
    refine ⟨fun hm => ?_, fun hm hroom hk hk' hnp hnp' hout hq htab hbar hr hr' hset => ⟨_, submit_eq _ _ _ _, ?_⟩⟩
    · refine issueW_ok h.1 ((exec_bind_ok (beginW_cluster h hg)).trans ?_)
      exact congrFun (if_pos hm) s
    · refine issueW_ok h.1 ((exec_bind_ok (beginW_cluster h hg)).trans ((congrFun (if_neg hm) s).trans ?_))
      refine (exec_bind_ok (engineRoom_ok hroom)).trans ((exec_bind_ok (exec_get s)).trans ?_)
      exact (exec_bind_ok (settleOperands_ok hset (pselConds_nil hk hk' hnp hnp' hout hq htab hbar hr hr'))).trans
        (submit_eq _ _ _ _)
  · intro ix r
    refine ⟨fun hm => ?_, fun hm hroom hlist had has hsp hsz hconv hpeers hwin hbar hset => ⟨_, submit_eq _ _ _ _, ?_⟩⟩
    · refine issueW_ok h.1 ((exec_bind_ok (beginW_ok h)).trans ((exec_bind_ok (optionReady_ok hopt)).trans ?_))
      exact congrFun (if_pos hm) s
    · refine issueW_ok h.1 ((exec_bind_ok (beginW_ok h)).trans ((exec_bind_ok (optionReady_ok hopt)).trans
        ((congrFun (if_neg hm) s).trans ?_)))
      refine (exec_bind_ok (engineRoom_ok hroom)).trans ((exec_bind_ok (peersReady_ok hlist)).trans ((exec_bind_ok (exec_get s)).trans ?_))
      have hconds : cpyrShape e w ++ list.1 ++ windowConds s list.2 (if dst.reaches dstH then ix else []) ++ barrierConds s e m x.bar = [] := by
        rw [cpyrShape_nil had has hsp hsz hconv, hpeers, windowConds_if _ hwin, hbar]
        rfl
      rw [fabIn_eq]
      refine (exec_bind_ok (settleOperands_ok hset hconds)).trans ?_
      rw [show x.rel.map (fun a => (a, w.imm)) = releaseOf e w from releaseOf_pairs e w]
      exact submit_eq _ _ _ _
  · intro r
    refine ⟨fun hm => ?_, fun hm hroom hlist hlen hpos hmax hr hwin hpeers hbar hset => ⟨_, submit_eq _ _ _ _, ?_⟩⟩
    · refine issueW_ok h.1 ((exec_bind_ok (beginW_ok h)).trans ((exec_bind_ok (optionReady_ok hopt)).trans ?_))
      exact congrFun (if_pos hm) s
    · refine issueW_ok h.1 ((exec_bind_ok (beginW_ok h)).trans ((exec_bind_ok (optionReady_ok hopt)).trans
        ((congrFun (if_neg hm) s).trans ?_)))
      refine (exec_bind_ok (engineRoom_ok hroom)).trans ((exec_bind_ok (peersReady_ok hlist)).trans ((exec_bind_ok (exec_get s)).trans ?_))
      refine (exec_bind_ok hlen).trans ?_
      rw [fabIn_eq]
      have hconds : (if decide (0 < len.toNat) && decide (len.toNat ≤ 65536) then
          rangeConds s e m q len.toNat ++ windowConds s list.2 [(dstH, len.toNat)] else [fabReject]) ++ list.1 ++
          barrierConds s e m x.bar = [] := by
        rw [decide_eq_true hpos, decide_eq_true hmax, hr, hwin, hpeers, hbar]
        rfl
      refine (exec_bind_ok (settleOperands_ok hset hconds)).trans ?_
      rw [show x.rel.map (fun a => (a, w.imm)) = releaseOf e w from releaseOf_pairs e w]
      exact submit_eq _ _ _ _
  · intro op from_ r
    refine ⟨fun hm => ?_, fun hm hroom hlen hid => ?_⟩
    · refine issueW_ok h.1 ((exec_bind_ok (beginW_ok h)).trans ((exec_bind_ok (optionReady_ok hopt)).trans ?_))
      exact congrFun (if_pos hm) s
    · intro bytes entry gives no hpos hmax hr hr' hid' hknown hbar hset
      refine ⟨_, submit_eq _ _ _ _, ?_⟩
      refine issueW_ok h.1 ((exec_bind_ok (beginW_ok h)).trans ((exec_bind_ok (optionReady_ok hopt)).trans
        ((congrFun (if_neg hm) s).trans ?_)))
      refine (exec_bind_ok (engineRoom_ok hroom)).trans ((exec_bind_ok (exec_get s)).trans ?_)
      refine (exec_bind_ok hlen).trans ((exec_bind_ok hid).trans ?_)
      have hconds : (if len.toNat = 0 ∨ 65536 < bytes then [fabReject]
          else rangeConds s e m out bytes ++ (if gives then rangeConds s e m from_ bytes else [])) ++
          (if decide (id.toNat < 1024) && bitAt entry 0 then [] else [{ cause := 0x13, aux0 := BitVec.ofNat 64 id.toNat, aux1 := 0xFFF }]) ++
          barrierConds s e m x.bar = [] := by
        have hentry : bitAt entry 0 = true := by
          unfold bitAt
          simpa using hknown
        have hgives : (if gives then rangeConds s e m from_ bytes else []) = [] := by
          by_cases hg : gives = true
          · rw [if_pos hg, hr' hg]
          · exact if_neg hg
        rw [if_neg (by omega), hr, hgives, decide_eq_true hid', hentry, hbar]
        rfl
      have hrel : (fabIn e w false).release s e m [] = r := by
        rw [fabIn_eq]; rfl
      refine (exec_bind_ok (settleOperands_ok (hrel ▸ hset) hconds)).trans ((exec_bind_ok (exec_modify _ _)).trans ?_)
      rw [hrel]
      rw [fabIn_eq]
      rw [show ((releaseOf e w).map (fun p => p.1)).map (fun a => (a, w.imm)) = releaseOf e w from releaseOf_pairs e w]
      exact submit_eq _ _ _ _

/-! ### Creating work -/

theorem readSeen_of_reads {e : Env} {va : W64} {n : Nat} {m : W32} {s t : State} {bs : List Byte} (h : Reads e va n m s bs t) :
    readSeen e va n .dev m true false s = .ok (bs, t) := by
  obtain ⟨u, hu, rfl⟩ := h
  exact readSeen_ok hu

/-- An aligned descriptor is read. -/
theorem readDesc_ok {e : Env} {code : W64} {m : W32} {s t : State} {bs : List Byte} (ha : code.toNat % 128 = 0)
    (h : Reads e code 128 m s bs t) : readDesc e code m s = .ok (some (BitVec.ofNat 1024 (ofBytes bs)), t) := by
  unfold readDesc
  rw [if_neg (Classical.not_not.mpr ha)]
  exact exec_bind_ok (readSeen_of_reads h)

/-- A spawn of a valid descriptor with legal join addresses passes. -/
theorem spawnCheck_ok {e : Env} {code : W64} {d : BitVec 1024} {nBad : Bool} {joins : List W64} {s : State}
    (hd : itemDescOk d = true) (hn : nBad = false) (hj : ∀ a ∈ joins, joinOk a = true) :
    spawnCheck e code (some d) nBad joins s = .ok ((), s) := by
  have hfind : joins.find? (fun a => !joinOk a) = none := List.find?_eq_none.mpr fun a ha => by simp [hj a ha]
  unfold spawnCheck
  simp only [hd, hn, hfind]
  rfl

theorem dropStages_ok (e : Env) (s : State) : (modify (fun s => s.dropStages e) : Exec Unit) s = .ok ((), s.dropStages e) := rfl

theorem modSl_countStore (e : Env) (s : State) :
    modSl e (fun sl => { sl with stores := sl.stores + 1 }) s = .ok ((), countStore e s) := rfl

/-- A place from which a join record is decremented answers. -/
theorem hostReady_ok {va : W64} {p : Place} {s : State} (h : ∀ x, p = .host x → s.portUp x = true) : hostReady va p s = .ok ((), s) := by
  unfold hostReady
  cases p with
  | host x =>
    dsimp only
    rw [h x rfl]
    rfl
  | _ => rfl

/-- The place of a join record, unless it lies with a peer. -/
def joinPlace (stop : Exec Place) : Place → Exec Place
  | .fabric _ _ => stop
  | p => pure p

theorem joinPlace_ok {p : Place} {stop : Exec Place} (h : ∀ q off, p ≠ .fabric q off) (s : State) :
    joinPlace stop p s = .ok (p, s) := by
  cases p with
  | fabric q off => exact absurd rfl (h q off)
  | _ => rfl

/-- Settles O34: the checks pass one after another, and the work starts or is held. -/
theorem workCreation : Obligations.WorkCreation := by
  intro w f s s0 s1 s2 e n p pl bs m code frame join cl stores rec_
  refine ⟨fun h => ⟨fun hm => ?_, fun hm hn hal hread hdesc hmax hjoin hrel => ⟨fun h0 => ?_, fun h0 hfull hst => ?_⟩⟩, fun h => ?_, fun h hn => ?_, fun h => ?_⟩
  · refine issueW_ok h.1 ((exec_bind_ok (beginW_ok h)).trans ?_)
    exact congrFun (if_pos hm) s
  · refine issueW_ok h.1 ((exec_bind_ok (beginW_ok h)).trans ((congrFun (if_neg hm) s).trans ?_))
    refine (exec_bind_ok hn).trans ((exec_bind_ok (readDesc_ok hal hread)).trans ?_)
    refine (exec_bind_ok (spawnCheck_ok hdesc (decide_eq_false (Nat.not_lt.mpr hmax)) (by simpa using hjoin))).trans ?_
    refine (exec_bind_ok (releaseReady_ok hrel)).trans ((exec_bind_ok (exec_get s1)).trans ?_)
    rw [if_neg (by simp [h0])]
    exact dropStages_ok e s1
  · intro recs
    refine issueW_ok h.1 ((exec_bind_ok (beginW_ok h)).trans ((congrFun (if_neg hm) s).trans ?_))
    refine (exec_bind_ok hn).trans ((exec_bind_ok (readDesc_ok hal hread)).trans ?_)
    refine (exec_bind_ok (spawnCheck_ok hdesc (decide_eq_false (Nat.not_lt.mpr hmax)) (by simpa using hjoin))).trans ?_
    refine (exec_bind_ok (releaseReady_ok hrel)).trans ((exec_bind_ok (exec_get s1)).trans ?_)
    have hn0 : n.toNat ≠ 0 := fun hz => h0 (BitVec.eq_of_toNat_eq hz)
    rw [if_pos hn0, hfull]
    refine (exec_bind_ok (holdIf_false .itemQueueFull s1)).trans ((exec_bind_ok (counterRoom_ok (k := .store) hst)).trans ?_)
    refine (exec_bind_ok (exec_modify _ s1)).trans ((exec_bind_ok (modSl_countStore e _)).trans ?_)
    exact dropStages_ok e _
  · intro at_
    refine ⟨fun hm => ?_, fun hm hn hal hread hdesc hjoin hat hpl => ?_⟩
    · refine issueW_ok h.1 ((exec_bind_ok (beginW_ok h)).trans ?_)
      exact congrFun (if_pos hm) s
    · intro count cont record accs hfull hroom
      obtain ⟨u, hu⟩ := enter_ok (x := ⟨.store, .none, { size := 8, signed := false }, accs, .dev, 0, false, none⟩) hroom
      refine ⟨u, hu, ?_⟩
      refine issueW_ok h.1 ((exec_bind_ok (beginW_ok h)).trans ((congrFun (if_neg hm) s).trans ?_))
      refine (exec_bind_ok hn).trans ((exec_bind_ok (readDesc_ok hal hread)).trans ?_)
      rw [if_pos hat]
      refine (exec_bind_ok (placesOf_pieces hpl)).trans ?_
      refine (exec_bind_ok (spawnCheck_ok hdesc rfl (by simp; exact ⟨hjoin, hat⟩))).trans ((exec_bind_ok (exec_get s1)).trans ?_)
      have hnot : (count == 0 && s1.itemsFull cl) = false := by
        by_cases hc : count = 0
        · rw [hfull hc, Bool.and_false]
        · rw [beq_false_of_ne hc, Bool.false_and]
      rw [show ((n.toNat % 2 ^ 32 == 0) && s1.itemsFull (clusterOf e.g.core)) = false from hnot]
      refine (exec_bind_ok (holdIf_false .itemQueueFull s1)).trans ((exec_bind_ok (dropStages_ok e s1)).trans ?_)
      rw [List.map_map]
      refine (exec_bind_ok hu).trans ?_
      by_cases hc : count = 0
      · rw [if_pos hc, if_pos hc]
        rfl
      · rw [if_neg hc, if_neg hc]
        rfl
  · intro m a va
    refine ⟨fun hidle => issueF_ok h.1 ((exec_bind_ok (begin_ok h)).trans ((exec_bind_ok hn).trans ?_)),
      fun hm hrel ha hx hal hpo hfab hport hstep => ?_⟩
    · by_cases hm : m = 0
      · exact congrFun (if_pos hm) s0
      · obtain ⟨hrel, ha⟩ := hidle.resolve_left hm
        refine (congrFun (if_neg hm) s0).trans ((exec_bind_ok (releaseReady_ok hrel)).trans ?_)
        exact congrFun (if_pos ha) s0
    · refine issueF_ok h.1 ((exec_bind_ok (begin_ok h)).trans ((exec_bind_ok hn).trans ((congrFun (if_neg hm) s0).trans ?_)))
      refine (exec_bind_ok (releaseReady_ok hrel)).trans ((congrFun (if_neg ha) s0).trans ?_)
      refine (exec_bind_ok (placesOf_once hx hal)).trans ((exec_bind_ok (noPoison_ok (by simpa using fun y hy => hpo y hy))).trans ?_)
      refine (exec_bind_ok (joinPlace_ok (stop := raise e 0x11 va (m.setWidth 64)) hfab s0)).trans ?_
      refine (exec_bind_ok (hostReady_ok hport)).trans ((exec_bind_ok (exec_get s0)).trans ?_)
      rw [hstep]
      rfl
  · intro target
    refine ⟨fun hm => ?_, fun hm ht hchain hal hpl hrel hst hread happ => ?_⟩
    · refine issueW_ok h.1 ((exec_bind_ok (beginW_ok h)).trans ?_)
      exact congrFun (if_pos hm) s
    · refine issueW_ok h.1 ((exec_bind_ok (beginW_ok h)).trans ((congrFun (if_neg hm) s).trans ?_))
      refine (exec_bind_ok (exec_get s)).trans ?_
      have hbad : misaligned m code 128 ++ (if decide (target < 2 ^ 16) && (s.chain s.climb target).contains e.w.region then []
          else [{ cause := 0x42, aux0 := BitVec.ofNat 64 target, aux1 := 4 }] : List Cond) = [] := by
        rw [misaligned_nil hal, decide_eq_true ht, hchain]
        rfl
      rw [if_pos hal]
      refine (exec_bind_ok (placesOf_pieces hpl)).trans ?_
      refine (exec_bind_ok ((congrArg (fun l => raiseLowest e l s) hbad).trans (raiseLowest_nil e s))).trans ?_
      refine (exec_bind_ok (releaseReady_ok hrel)).trans ((exec_bind_ok (counterRoom_ok (k := .store) hst)).trans ?_)
      refine (exec_bind_ok (readSeen_of_reads hread)).trans ((exec_bind_ok (exec_get s1)).trans ?_)
      rw [happ]
      dsimp only
      by_cases hstep : e.w.stepping = true
      · rw [if_pos hstep, if_pos hstep]
        rfl
      · rw [if_neg hstep, if_neg hstep]
        rfl

/-! ### System instructions -/

/-- A value read from the state after the checks is written to a scalar destination. -/
theorem readWritten_ok {e : Env} {f : FFrame} {m : W32} {s : State} {v : State → W64} (hroom : Room e f.dst 1 s) :
    ∃ u, dstS e m f.dst (v s) s = .ok ((), u) ∧
      (do let s ← get; dstS e m f.dst (v s); pure 0 : Exec Events) s = .ok (0, u) := by
  obtain ⟨u, hu⟩ := dstS_ok (m := m) (x := v s) hroom
  exact ⟨u, hu, (exec_bind_ok (exec_get s)).trans (exec_bind_ok hu)⟩

/-- No store of the slice is outstanding. -/
theorem noStores {e : Env} {s : State} (h : ∀ p ∈ mine e s, p.kind.writes = false) :
    (s.core e.g.core).pend.any (fun p => p.grp == e.cur.grp && p.a == e.cur.a && p.kind.writes) = false := by
  rw [List.any_eq_false]
  intro p hp
  by_cases hmine : (p.grp == e.cur.grp && p.a == e.cur.a) = true
  · rw [hmine, h p (List.mem_filter.mpr ⟨hp, hmine⟩)]
    simp
  · simp [Bool.not_eq_true _ ▸ hmine]

theorem begin_allowed {e : Env} {sp : FSpec} {f : FFrame} {lit : Option W32} {conds : List Cond} {s : State} (h : FReady e sp f lit s)
    (hc : conds = []) : begin_ e sp f lit conds s = .ok ((), s) := by
  rw [hc]
  exact begin_ok h

/-- Handler mode may write every register, user mode those that are not the handler's. -/
theorem handlerOnly_nil {n : Nat} {hmode : Bool} (h : n ∈ sysHandler → hmode = true) :
    (if sysHandler.contains n && !hmode then [{ cause := 0x05 }] else [] : List Cond) = [] := by
  refine if_neg fun hc => ?_
  obtain ⟨hn, hu⟩ := Bool.and_eq_true_iff.mp hc
  rw [h (List.contains_iff_mem.mp hn)] at hu
  exact absurd hu (by decide)

/-- What a `TLBI` does with an active lane. -/
def tlbiActive (e : Env) (f : FFrame) : Exec Events := do
  let s ← get
  match e.sl.tlbi with
  | some w => do
    holdIf (w.slot1 != e.cur.slot1 || s.tlbiOpen w) .tlbi
    modSl e (fun sl => { sl with tlbi := none })
    pure 0
  | none => do
    holdIf ((s.core e.g.core).pend.any (fun p => p.grp == e.cur.grp && p.a == e.cur.a && p.kind.writes)) .tlbi
    let op := tlbiOp e f
    let ds := if f.variant.getLsbD 2 then [dieOf e.g.core] else List.range 8
    let w : TlbiWait := { slot1 := e.cur.slot1, pend := (ds.map (s.tlbiPend op)).flatten, cmds := (ds.map (s.tlbiCmds op)).flatten }
    let s1 := ds.foldl (fun s d => s.tlbiDie op d) s
    if s1.tlbiOpen w then
      holdKeep .tlbi (s1.modSlice e.cur.grp e.cur.a (fun sl => { sl with tlbi := some w }))
    else do
      set s1
      pure 0

/-- Settles O35: the operand is read and the result written. -/
theorem systemResult : Obligations.SystemResult := by
  intro f s s1 t e a b m written
  refine ⟨fun h => ⟨fun hv hroom => ?_, fun hv hb hroom => ?_⟩, fun h hroom => ?_, fun h => ?_, fun h hroom => ?_,
    fun h hpriv hb => ?_, fun h hh => ?_, fun h ha hb => ?_, fun h hb => ?_, fun h hb hroom => ?_⟩
  · obtain ⟨u, hu, hrun⟩ := readWritten_ok (m := m) (v := fun s => BitVec.ofNat 64 (s.ptb (dieOf e.g.core))) hroom
    refine ⟨u, hu, issueF_ok h.1 ((exec_bind_ok (begin_ok h)).trans ?_)⟩
    rw [hv, if_neg Bool.false_ne_true]
    exact (exec_bind_ok (exec_pure 0 s)).trans hrun
  · obtain ⟨u, hu, hrun⟩ := readWritten_ok (m := m) (v := fun t => BitVec.ofNat 64 (deadline (t.ptb (dieOf e.g.core)) b.toNat)) hroom
    refine ⟨u, hu, issueF_ok h.1 ((exec_bind_ok (begin_ok h)).trans ?_)⟩
    rw [hv, if_pos rfl]
    exact (exec_bind_ok hb).trans hrun
  · obtain ⟨u, hu, hrun⟩ := readWritten_ok (m := m) (v := fun s => s.energyValue e.w f.variant.toNat) hroom
    exact ⟨u, hu, issueF_ok h.1 ((exec_bind_ok (begin_ok h)).trans hrun)⟩
  · refine issueF_ok h.1 ((exec_bind_ok (begin_ok h)).trans ?_)
    by_cases hm : m = 0
    · refine (congrFun (if_pos hm) s).trans ?_
      cases e.w.launch with
      | none => rfl
      | some l => exact (congrArg (fun t => Except.ok ((0 : Events), t)) (if_pos hm)).symm
    · refine (congrFun (if_neg hm) s).trans ?_
      cases e.w.launch with
      | none => rfl
      | some l => exact (congrArg (fun t => Except.ok ((0 : Events), t)) (if_neg hm)).symm
  · obtain ⟨u, hu, hrun⟩ := readWritten_ok (m := m) (v := fun s => BitVec.ofNat 64 (s.sysRead e f.srcC.toNat)) hroom
    exact ⟨u, hu, issueF_ok h.1 ((exec_bind_ok (begin_ok h)).trans hrun)⟩
  · refine issueF_ok h.1 ((exec_bind_ok (begin_allowed h (handlerOnly_nil hpriv))).trans ((exec_bind_ok hb).trans ?_))
    by_cases hm : m = 0
    · rw [if_pos hm, if_pos hm]
      rfl
    · rw [if_neg hm, if_neg hm]
      by_cases hn : f.srcC = 0x22
      · have hnat : f.srcC.toNat = 0x22 := congrArg BitVec.toNat hn
        rw [if_pos hn, if_pos hnat]
        rfl
      · have hnat : f.srcC.toNat ≠ 0x22 := fun hc => hn (BitVec.eq_of_toNat_eq hc)
        rw [if_neg hn, if_neg hnat]
        rfl
  · intro op dies gone
    have hstart (u : State) (hm : m ≠ 0) (hu : tlbiActive e f s = .ok (0, u)) : exec (.tlbi f) s = .next (done e m 8 0 u) :=
      issueF_ok h.1 ((exec_bind_ok (begin_allowed h (if_pos hh))).trans ((congrFun (if_neg hm) s).trans hu))
    refine ⟨fun hm => issueF_ok h.1 ((exec_bind_ok (begin_allowed h (if_pos hh))).trans (congrFun (if_pos hm) s)),
      fun hm hnone hst hopen => hstart _ hm ?_, fun w hm hsome hslot hopen => hstart _ hm ?_⟩
    · unfold tlbiActive
      refine (exec_bind_ok (exec_get s)).trans ?_
      rw [hnone]
      dsimp only
      rw [noStores hst]
      refine (exec_bind_ok (holdIf_false .tlbi s)).trans ?_
      exact congrFun (if_neg (Bool.eq_false_iff.mp hopen)) s
    · unfold tlbiActive
      refine (exec_bind_ok (exec_get s)).trans ?_
      rw [hsome]
      dsimp only
      rw [hslot, hopen, bne_self_eq_false]
      exact exec_bind_ok (holdIf_false .tlbi s)
  · refine issueF_ok h.1 ((exec_bind_ok (begin_ok h)).trans ((exec_bind_ok (sources_ok ha hb (exec_pure () t))).trans ?_))
    by_cases hm : m = 0
    · rw [if_pos hm]
      exact congrFun (if_pos hm) t
    · rw [if_neg hm]
      exact congrFun (if_neg hm) t
  · intro t1
    refine issueF_ok h.1 ((exec_bind_ok (begin_ok h)).trans ((exec_bind_ok hb).trans ?_))
    by_cases hm : m = 0
    · rw [if_pos hm, if_pos hm]
      rfl
    · rw [if_neg hm, if_neg hm]
      have hbit : (b.setWidth 32).getLsbD 31 = b.getLsbD 31 := by simp
      refine (exec_bind_ok (show modSl e (fun sl => { sl with corr := b.setWidth 32 }) t = .ok ((), t1) from rfl)).trans ?_
      rw [hbit]
      by_cases hc : (e.sl.corr.getLsbD 31 || b.getLsbD 31) = true
      · rw [if_pos hc, if_pos hc]
        rfl
      · rw [if_neg hc, if_neg hc]
        rfl
  · obtain ⟨u, hu, hrun⟩ := readWritten_ok (m := m) (v := fun t => BitVec.ofNat 64 ((t.core e.g.core).perf b)) hroom
    exact ⟨u, hu, issueF_ok h.1 ((exec_bind_ok (begin_ok h)).trans ((exec_bind_ok hb).trans hrun))⟩

end Sys2Proof.Proofs
end

section
/-!
PROOFS. Events of waiting slices, of a core and its die, of memory, of the engines, and of the cluster and the distributor (spec 06_core.md, 07_core_memory.md, 10_copy.md, 12_cluster.md, 13_die.md, 16_package_work.md, 21_fabric.md).
-/
namespace Sys2Proof.Proofs
open Sys2Proof.Machine Sys2Proof.Claims Sys2Proof.Laws

/-! ### Slices whose instant or phase has come -/

/-- The slice of `bwaitPromWake` as it wakes. -/
theorem modSleeper_prom {s : State} {grp : Nat} {a one : Bool} {f : Slice → Slice} {sl : Slice} {w : BWaitRec}
    (hs : s.slice? grp a = some sl) (hp : sl.promSlot = some (one, w)) :
    s.modSleeper grp a f = (s.modSlice grp a f).setProm w.obj ((s.modSlice grp a f).promOn w.obj) := by
  unfold State.modSleeper
  rw [hs, Option.bind_some, hp]

/-- The core of a resident workgroup's object. -/
theorem objCore_eq {s : State} {n : Nat} {wg : Wg} (half1 : Bool) (h : s.wg? n = some wg) : s.objCore n half1 = wg.coreOf half1 := by
  unfold State.objCore
  rw [h]
  rfl

/-- A watched word is asked for at its peer, or its object is tested. -/
theorem watchedWord_read (s : State) (w : Watch) (n : Nat) :
    (match w.place with
      | .fabric _ _ => Host.Outcome.next (s.askWatch { w with next := n, event := false })
      | _ => .next (s.objModify (.ls w.wg w.half1 w.off) (fun x => x)) : Host.Outcome State Fault Refusal) =
    .next (match w.place with
      | .fabric p off => s.sendReq p { src := s.fabric.dev, op := .read, seq := 0, off := BitVec.ofNat 43 off, len := 8, aop := 0,
                                       ty := 0, cas := false, cmp := 0, bytes := (List.range 8).map (fun i => (off + i, 0)) }
          (.watch w.wg w.half1 w.off)
      | _ => s.objModify (.ls w.wg w.half1 w.off) (fun x => x)) := by
  obtain ⟨wg, half1, off, va, place, next, event⟩ := w
  cases place <;> rfl

/-- Settles O37: each event's guard holds, so its one change is made. -/
theorem wakeEvents : Obligations.WakeEvents := by
  intro grp a one s g sl ⟨hg, hs⟩ ptb
  refine ⟨fun d hd hle => ?_, fun t ht hprom hruns hle => ?_, fun w hw hruns hasleep hphase => ?_, fun w t hprom ht hruns hle => ?_,
    fun i w wg hi hwg => ?_, fun i m hi hfirst => ?_⟩
  · show execYieldWindowEnd grp a s = _
    unfold execYieldWindowEnd
    rw [hg, hs]
    dsimp only
    rw [hd]
    exact if_pos hle
  · show execSleepWake grp a s = _
    unfold execSleepWake
    rw [hg, hs]
    dsimp only
    rw [ht, hprom, hruns]
    exact if_neg (by simpa using hle)
  · show execBwaitComplete grp a one s = _
    unfold execBwaitComplete
    rw [hg, hs]
    dsimp only
    rw [hw]
    dsimp only
    rw [hruns, hasleep]
    exact if_pos (by simpa using hphase)
  · intro s0 s1 counted
    have hwake : execBwaitPromWake grp a s =
        if s1.phaseOf w.obj != w.bit then .next (s1.endWait g a one w)
        else match { s1 with cur := some { grp := grp, a := a, slot1 := one } }.env? with
          | none => .next s1
          | some e =>
            if s.rcbOwned 6 e.w.region 93 1 = 1 then
              .next (((s1.modSlice grp a (fun sl => { (sl.setWait one none) with heldPop := some (.bwaitProm, t) })).takeTrap e
                { cause := 0x38, aux0 := t, aux1 := BitVec.ofNat 64 ptb, epc := e.path.pc, fpc := none }))
            else .next ((s1.missPromise e t).modSlice grp a (fun sl => sl.setWait one (some { w with asleep := false, missed := true }))) := by
      unfold execBwaitPromWake
      rw [hg, hs]
      dsimp only
      rw [hprom, ht]
      dsimp only
      rw [modSleeper_prom hs hprom, hruns]
      exact if_neg (by simpa using hle)
    refine ⟨fun hphase => ?_, fun e hphase he => ?_⟩
    · refine hwake.trans (if_pos (by simpa using hphase))
    · refine hwake.trans ((if_neg (by simpa using hphase)).trans ?_)
      rw [he]
      dsimp only
      by_cases hown : s.rcbOwned 6 e.w.region 93 1 = 1
      · rw [if_pos hown, if_pos hown]
      · rw [if_neg hown, if_neg hown]
        rfl
  · intro core s1
    show execWatchRead i s = _
    unfold execWatchRead
    have hfind : s.watches[i]?.filter (fun w => (s.wg? w.wg).isSome) = some w := by
      rw [hi, Option.filter_some, hwg]
      rfl
    rw [hfind]
    dsimp only
    rw [objCore_eq w.half1 hwg]
    exact watchedWord_read s1 w _
  · intro o x s1
    show execPairMessageArrive i s = _
    unfold execPairMessageArrive
    rw [hi]
    have hnone : (s.pairMsgs.take i).any (fun n => n.wg == m.wg && n.half1 == m.half1 && n.off == m.off) = false := by
      rw [List.any_eq_false]
      intro n hn
      simpa [and_assoc] using hfirst n hn
    dsimp only
    rw [hnone, if_neg Bool.false_ne_true]
    by_cases hpair : bitsAt x 61 3 = 5 ∧ bitAt x 58 = true
    · rw [if_pos hpair]
      exact if_neg (not_or.mpr ⟨Classical.not_not.mpr hpair.1, by rw [hpair.2]; decide⟩)
    · rw [if_neg hpair]
      exact if_pos ((Decidable.not_and_iff_not_or_not.mp hpair).imp id (fun h => by rw [Bool.eq_false_iff.mpr h]; rfl))

/-! ### What a core and its die do by themselves -/

/-- Two states have the same groups and the same halts on their way. -/
def SameSlices (s t : State) : Prop := t.groups = s.groups ∧ t.halts = s.halts

theorem sameSlices_refl (s : State) : SameSlices s s := ⟨rfl, rfl⟩

theorem sameSlices_trans {s t u : State} (h : SameSlices s t) (h' : SameSlices t u) : SameSlices s u :=
  ⟨h'.1.trans h.1, h'.2.trans h.2⟩

theorem sameSlices_poke (s : State) (a n v : Nat) : SameSlices s (s.poke a n v) := by
  unfold State.poke
  cases s.canonPa a <;> exact ⟨rfl, rfl⟩

theorem sameSlices_lsWrite (s : State) (wg : Nat) (half1 : Bool) (off : Nat) (bs : List Byte) :
    SameSlices s (s.lsWrite wg half1 off bs) := by
  unfold State.lsWrite State.imageLsWrite
  split
  · exact ⟨rfl, rfl⟩
  · split
    · exact foldl_keeps (SameSlices s) _ (fun t x h => sameSlices_trans h (sameSlices_poke t _ _ _)) _ _ (sameSlices_refl s)
    · exact sameSlices_refl s

theorem sameSlices_setProm (s : State) (o : ObjRef) (b : Bool) : SameSlices s (s.setProm o b) := by
  unfold State.setProm State.objWrite
  cases o with
  | ls w h off => exact sameSlices_lsWrite _ _ _ _ _
  | mem pa =>
    unfold SameSlices State.homeWrite State.coherence
    simp

/-- Changing sleepers changes the slices that a test selects, and no halt. -/
theorem modSleepers_slices (s : State) (sel : Group → Bool) (f : Slice → Slice) :
    SameSlices { s with groups := s.groups.map (fun g => if sel g then { g with x := f g.x, a := g.a.map f } else g) } (s.modSleepers sel f) := by
  unfold State.modSleepers
  exact foldl_keeps (SameSlices _) _ (fun t x h => sameSlices_trans h (sameSlices_setProm t _ _)) _ _ (sameSlices_refl _)

/-- Settles O38: each event's guard holds, so its one change is made; waking sleepers changes no other slice. -/
theorem coreCycleEvents : Obligations.CoreCycleEvents := by
  intro core sub s now unit
  refine ⟨fun h w hmem hcore hsub hdue hw => ?_, fun hissued => ⟨fun g a sl j one hfind hbin => ?_, fun hnone => ?_⟩, fun hmod hat hcore => ?_,
    fun hmod hat hdecay => ?_, fun p l hrun hwait hopen => ?_, fun p due g w s2 ev hrun hdue hbehind hg hw hpass => ?_, fun die => ?_⟩
  · have hdue' : h.due ≤ (s.die (dieOf core)).dcyc := hdue
    have hsome : ∃ h', s.halts.find? (fun x => x.wg == h.wg && x.core == core && x.sub == sub && decide (x.due ≤ (s.die (dieOf core)).dcyc)) =
        some h' := by
      refine Option.isSome_iff_exists.mp (List.find?_isSome.mpr ⟨h, hmem, ?_⟩)
      simpa [hcore, hsub] using hdue'
    obtain ⟨h', hh'⟩ := hsome
    have hsame := modSleepers_slices { s with halts := s.halts.erase h' } (fun g => g.wg == h.wg && g.core == core && g.sub == sub)
      (fun sl => sl.haltAt w.stop.isSome w.atOnce)
    have hrun : execHaltArrival h.wg core sub s = .next ({ s with halts := s.halts.erase h' }.modSleepers
        (fun g => g.wg == h.wg && g.core == core && g.sub == sub) (fun sl => sl.haltAt w.stop.isSome w.atOnce)) := by
      unfold execHaltArrival
      rw [hh', hw]
    refine ⟨_, hrun, ?_, ?_⟩
    · have hmem' := List.mem_of_find?_eq_some hh'
      have hlen : (s.halts.erase h').length + 1 = s.halts.length := by
        rw [List.length_erase_of_mem hmem']
        exact Nat.sub_add_cancel (List.length_pos_of_mem hmem')
      exact (congrArg (fun l => l.length + 1) hsame.2).trans hlen
    · refine hsame.1.trans (List.map_congr_left fun g _ => ?_)
      by_cases hsel : g.wg = h.wg ∧ g.core = core ∧ g.sub = sub
      · rw [if_pos hsel, if_pos (by simpa [and_assoc] using hsel)]
      · rw [if_neg hsel, if_neg (by simpa [and_assoc] using hsel)]
  · show execIdleCycle core sub s = _
    unfold execIdleCycle
    rw [hissued, if_neg Bool.false_ne_true, hfind]
    dsimp only
    rw [hbin]
  · show execIdleCycle core sub s = _
    have hnot : (s.slicesOn core sub).find? (fun x => x.2.2.going) = none :=
      List.find?_eq_none.mpr fun x hx => by simp [hnone x hx]
    unfold execIdleCycle
    rw [hissued, if_neg Bool.false_ne_true, hnot]
  · refine ⟨_, if_neg (not_or.mpr ⟨Classical.not_not.mpr hmod, hat⟩), ?_, fun i => ?_⟩
    · rw [State.core_modCore_same _ _ _ hcore]
      rfl
    · rw [State.core_modCore_same _ _ _ hcore]
      simp
  · exact if_neg (not_or.mpr ⟨Classical.not_not.mpr hmod, not_or.mpr ⟨hat, fun hc => hc.2 (hdecay hc.1)⟩⟩)
  · show execMatrixPassStart core sub s = _
    unfold execMatrixPassStart
    dsimp only
    rw [hrun, hwait]
    dsimp only
    exact if_neg (by simpa using hopen)
  · show execMatrixPassComplete core sub s = _
    unfold execMatrixPassComplete
    have hdue' : ¬(s.die (dieOf core)).dcyc < due := Nat.not_lt.mpr hdue
    rw [hrun]
    dsimp only
    rw [hbehind, if_neg (by simpa using hdue'), hg]
    dsimp only
    rw [hw]
    dsimp only
    rw [hpass]
  · intro d recent hpres hfence hstr hlen
    show execDroopStretch die s = _
    unfold execDroopStretch
    dsimp only
    rw [show (s.die die).present = true from hpres, show (s.die die).fenced = false from hfence, show (s.die die).stretch = false from hstr]
    exact if_neg (by simpa using hlen)

/-! ### The memory side of accesses -/

theorem pendKind_eq {s : State} {core id : Nat} {p : Pending} (h : pendAt s core id = some p) : s.pendKind core id = some p.kind := by
  unfold State.pendKind
  rw [show (s.core core).pend.find? (fun p => p.id == id) = some p from h]
  rfl

/-- An access that memory may serve is served. -/
theorem respond_eq_served {s : State} {core id : Nat} {p : Pending} (h : pendAt s core id = some p) (hid : p.id = id)
    (hs : Servable s core p) : s.respond core id = served s core p := by
  obtain ⟨href, hpoison, hport⟩ := hs
  unfold State.respond served
  rw [show (s.core core).pend.find? (fun p => p.id == id) = some p from h]
  dsimp only
  rw [href, if_neg (by decide), hpoison, hport, ite_self]
  dsimp only
  rw [hid]
  cases s.readyAt core p <;> rfl

/-- An access that meets a poisoned line stops its workgroup. -/
theorem respond_eq_poisonStop {s : State} {core id : Nat} {p : Pending} {a : LaneAcc} (h : pendAt s core id = some p)
    (href : p.refused = none) (hready : s.readyAt core p ≠ []) (hpoison : s.poisonedAcc p = some a) :
    s.respond core id = s.poisonStop core p a.va := by
  unfold State.respond
  rw [show (s.core core).pend.find? (fun p => p.id == id) = some p from h]
  dsimp only
  rw [href, if_neg (by decide), if_neg (by simpa using hready), hpoison]

/-- Settles O39: the access is found, and what its kind names is done. -/
theorem memoryEvents : Obligations.MemoryEvents := by
  intro core id s p
  refine ⟨fun bank r hserved hhead hready hpend => ?_, fun l hfirst hid => ?_,
    fun hpend hid hserv => ⟨fun hkind => ?_, fun hkind => ?_, fun op ty cas ret hkind => ⟨fun hret => ?_, fun hret => ?_⟩⟩,
    fun a hpend hid href hready hpoison hkind => ?_, fun die => rfl, fun va who reason g w hfind href howner hreason => ?_⟩
  · intro s1
    show execBankServe core bank s = _
    unfold execBankServe
    dsimp only
    rw [if_neg (by simpa using hserved), show (s.core core).bankHead bank = some r from hhead]
    dsimp only
    rw [hready, hpend]
    rfl
  · show execBuddyRequestArrive core id s = _
    unfold execBuddyRequestArrive
    dsimp only
    rw [hfirst]
    exact if_neg (Classical.not_not.mpr hid)
  · show execLoadResponse core id s = _
    unfold execLoadResponse
    rw [pendKind_eq hpend, respond_eq_served hpend hid hserv]
    rcases hkind with hk | hk | hk | hk <;> rw [hk]
  · show execStorePerformed core id s = _
    unfold execStorePerformed
    rw [pendKind_eq hpend, respond_eq_served hpend hid hserv, hkind]
  · show execStorePerformed core id s = _
    unfold execStorePerformed
    rw [pendKind_eq hpend, respond_eq_served hpend hid hserv, hkind, hret]
  · show execAtomicResponse core id s = _
    unfold execAtomicResponse
    rw [pendKind_eq hpend, respond_eq_served hpend hid hserv, hkind, hret]
  · show execLoadResponse core id s = _
    unfold execLoadResponse
    rw [pendKind_eq hpend, respond_eq_poisonStop hpend href hready hpoison, hkind]
  · intro sl i s1
    have hs1 : (if w.phase == .running || w.unreported then (s.modSleeper g.id p.a (fun sl => sl.haltAt true true)).stopSlice w g p.a i
        else s) = s1 := ite_congr (by simp) (fun _ => rfl) (fun _ => rfl)
    show execFabricRefusal core id s = _
    unfold execFabricRefusal
    rw [hfind]
    dsimp only
    rw [href, howner]
    dsimp only
    rw [if_neg hreason, show _ = s1 from hs1]
    cases hkind : p.kind <;> rfl

/-! ### What the part writes for itself -/

/-- The second state differs from the first in memory, in the regions and in the host ports alone. -/
def Noted (s t : State) : Prop :=
  ∃ mem poison restored regions port0 port1,
    t = { s with mem := mem, poison := poison, restored := restored, regions := regions,
                 pkg := { s.pkg with port0 := port0, port1 := port1 } }

theorem noted_refl (s : State) : Noted s s := ⟨_, _, _, _, _, _, rfl⟩

theorem noted_trans {s t u : State} (h : Noted s t) (h' : Noted t u) : Noted s u := by
  obtain ⟨_, _, _, _, _, _, rfl⟩ := h
  obtain ⟨_, _, _, _, _, _, rfl⟩ := h'
  exact ⟨_, _, _, _, _, _, rfl⟩

theorem noted_clearPoison (s : State) (lines : List Nat) : Noted s (s.clearPoison lines) := by
  unfold State.clearPoison
  split
  · exact noted_refl s
  · exact ⟨_, _, _, _, _, _, rfl⟩

theorem noted_pokeBytes (s : State) (pa : Nat) (bs : List Byte) : Noted s (s.pokeBytes pa bs) := by
  unfold State.pokeBytes
  split
  · exact noted_trans (t := { s with mem := _ }) ⟨_, _, _, _, _, _, rfl⟩ (noted_clearPoison _ _)
  · exact noted_refl s

theorem noted_setRcb (s : State) (r lo w v : Nat) : Noted s (s.setRcb r lo w v) := by
  unfold State.setRcb State.pokeBits
  split
  · exact ⟨_, _, _, _, _, _, rfl⟩
  · exact noted_refl s

theorem noted_regions (s : State) (l : List Region) : Noted s { s with regions := l } := ⟨_, _, _, _, _, _, rfl⟩

theorem noted_modPort (s : State) (port1 : Bool) (f : Port → Port) : Noted s (s.modPort port1 f) := by
  unfold State.modPort
  split <;> exact ⟨_, _, _, _, _, _, rfl⟩

theorem noted_trace (s : State) (r : Nat) (x : TraceRec) : Noted s (s.trace r x) := by
  unfold State.trace
  dsimp only
  split
  · exact noted_refl s
  · exact noted_trans (noted_setRcb s _ _ _ _) (noted_trans (noted_regions _ _) (noted_pokeBytes _ _ _))

theorem noted_traceCmdIf (s : State) (c : Command) (type payload : Nat) : Noted s (s.traceCmdIf c type payload) := by
  unfold State.traceCmdIf
  split
  · exact noted_trace _ _ _
  · exact noted_refl s

/-- A fault record is written to memory, noted with its region, and announced at a port. -/
theorem noted_putFault (s : State) (x : FaultRec) : Noted s (s.putFault x) := by
  unfold State.putFault State.appendFault State.raiseRegion State.modRegion
  dsimp only
  exact noted_trans (noted_regions s _) (noted_trans (noted_pokeBytes _ _ _) (noted_trans (noted_setRcb _ _ _ _ _)
    (noted_trans (noted_modPort _ _ _) (noted_trace _ _ _))))

theorem noted_engine {s t : State} (h : Noted s t) (i : EngineId) : t.engine i = s.engine i := by
  obtain ⟨_, _, _, _, _, _, rfl⟩ := h
  rfl

theorem noted_heldCmds {s t : State} (h : Noted s t) : t.pkg.heldCmds = s.pkg.heldCmds := by
  obtain ⟨_, _, _, _, _, _, rfl⟩ := h
  rfl

/-! ### The engines -/

/-- An engine that is changed takes its new value, where there is such an engine. -/
theorem engine_modEngine (s : State) (i : EngineId) (f : Engine → Engine) :
    (s.modEngine i f).engine i = f (s.engine i) ∨ (s.modEngine i f).engine i = Engine.reset := by
  cases i with
  | copy c u =>
    unfold State.modEngine State.engine
    dsimp only
    by_cases hc : c < 512
    · rw [State.core_modCore_same _ _ _ hc]
      dsimp only
      by_cases hu : u < 2
      · left
        simp [hu]
      · right
        simp [hu]
    · right
      have hcore : (s.modCore c (fun k => { k with eng := k.eng.setIfInBounds u (f ((k.eng[u]?).getD Engine.reset)) })).core c = Core.reset := by
        unfold State.core State.modCore
        simp [hc]
      rw [hcore]
      unfold Core.reset
      by_cases hu : u < 2 <;> simp [hu]
  | psel c =>
    unfold State.modEngine State.engine State.modCluster State.cluster
    by_cases hc : c < 64
    · left
      simp [hc]
    · right
      simp [hc, Cluster.reset]
  | egress d =>
    unfold State.modEngine State.engine State.modDie State.die
    by_cases hd : d < 8
    · left
      simp [hd]
    · right
      simp [hd, Die.reset]

theorem modEngine_congr {s : State} {i : EngineId} {f g : Engine → Engine} (h : f (s.engine i) = g (s.engine i)) :
    s.modEngine i f = s.modEngine i g := by
  cases i with
  | copy c u =>
    unfold State.modEngine State.modCore
    exact congrArg (fun x => { s with cores := s.cores.setIfInBounds c { s.core c with eng := (s.core c).eng.setIfInBounds u x } }) h
  | psel c =>
    unfold State.modEngine State.modCluster
    exact congrArg (fun x => { s with clusters := s.clusters.setIfInBounds c { s.cluster c with psel := x } }) h
  | egress d =>
    unfold State.modEngine State.modDie
    exact congrArg (fun x => { s with dies := s.dies.setIfInBounds d { s.die d with egress := x } }) h

/-- What changes the running command alike changes the engine alike. -/
theorem modRunning_congr {s : State} {i : EngineId} {f g : Command → Command} (h : ∀ c, (s.engine i).running = some c → f c = g c) :
    s.modRunning i f = s.modRunning i g := by
  refine modEngine_congr ?_
  cases hr : (s.engine i).running with
  | none => rfl
  | some c => exact congrArg (fun x => { s.engine i with running := some x }) (h c hr)

theorem mem_unitsOf {f : Nat → List Place} {lo hi j : Nat} {p : Place} (hj : lo ≤ j) (hj' : j < hi) (hp : p ∈ f j) :
    p.unit ∈ unitsOf f lo hi := by
  unfold unitsOf
  refine List.mem_eraseDups.mpr (List.mem_flatten.mpr ⟨(f j).map Place.unit, List.mem_map.mpr ⟨j - lo, ?_, ?_⟩, List.mem_map_of_mem hp⟩)
  · exact List.mem_range.mpr (by omega)
  · rw [Nat.add_sub_cancel' hj]

/-- Units on both sides of a clean cut lie in other atomic units. -/
theorem units_apart {f : Nat → List Place} {lo hi top j k : Nat}
    (h : (unitsOf f lo hi).all (fun p => !(unitsOf f hi top).contains p) = true) (hj : lo ≤ j) (hj' : j < hi) (hk : hi ≤ k) (hk' : k < top) :
    ∀ p ∈ f j, ∀ q ∈ f k, p.unit ≠ q.unit := by
  intro p hp q hq heq
  have hnot := List.all_eq_true.mp h _ (mem_unitsOf hj hj' hp)
  rw [heq, Bool.not_eq_true', ← Bool.not_eq_true, List.contains_iff_mem] at hnot
  exact hnot (mem_unitsOf hk hk' hq)

/-- What a command moves before a clean cut shares no atomic unit with what it moves after. -/
theorem cleanCut_apart {s : State} {c : Command} {hi j k : Nat} (h : s.cleanCut c hi = true) (hj : c.moved ≤ j) (hj' : j < hi)
    (hk : hi ≤ k) (hk' : k < c.units) :
    (∀ p ∈ s.unitReads c j, ∀ q ∈ s.unitReads c k, p.unit ≠ q.unit) ∧
    (∀ p ∈ s.unitWrites c j, ∀ q ∈ s.unitWrites c k, p.unit ≠ q.unit) := by
  obtain ⟨hreads, hwrites⟩ := Bool.and_eq_true_iff.mp h
  exact ⟨units_apart hreads hj hj' hk hk', units_apart hwrites hj hj' hk hk'⟩

theorem cleanCut_end (s : State) (c : Command) : s.cleanCut c c.units = true := by
  unfold State.cleanCut unitsOf
  simp

/-- Where the peers' windows do not bound it, a portion ends at a clean cut. -/
theorem portionEnd_clean {s : State} {c : Command} {n : Nat} (hl : s.unitLimit c = c.units) (hn : c.moved + n ≤ c.units) :
    s.cleanCut c (s.portionEnd c n) = true ∧ c.moved + n ≤ s.portionEnd c n := by
  have hend : c.units ∈ (List.range (min c.units (c.moved + s.unitLimit c) + 1 - (c.moved + n))).map (fun k => c.moved + n + k) :=
    List.mem_map.mpr ⟨c.units - (c.moved + n), List.mem_range.mpr (by omega), by omega⟩
  obtain ⟨h, hfind⟩ := Option.isSome_iff_exists.mp (List.find?_isSome.mpr ⟨_, hend, cleanCut_end s c⟩)
  have heq : s.portionEnd c n = h := by
    unfold State.portionEnd
    dsimp only
    rw [hfind]
  obtain ⟨k, _, hk⟩ := List.mem_map.mp (List.mem_of_find?_eq_some hfind)
  rw [heq]
  exact ⟨List.find?_some hfind, by omega⟩

theorem mem_portion {s : State} {c : Command} {n j : Nat} (hl : s.unitLimit c = c.units) (hj : j ∈ portion s c n) :
    c.moved ≤ j ∧ j < c.moved + (portion s c n).length ∧ s.cleanCut c (c.moved + (portion s c n).length) = true := by
  unfold portion at hj ⊢
  dsimp only at hj ⊢
  by_cases hw : min (min n (s.unitLimit c)) (c.units - c.moved) = 0
  · rw [if_pos hw] at hj
    exact absurd hj (by simp)
  · rw [if_neg hw] at hj ⊢
    obtain ⟨k, hk, rfl⟩ := List.mem_map.mp hj
    have hk := List.mem_range.mp hk
    obtain ⟨hclean, hle⟩ := portionEnd_clean (n := min (min n (s.unitLimit c)) (c.units - c.moved)) hl (by omega)
    rw [List.length_map, List.length_range, Nat.add_sub_cancel' (by omega)]
    exact ⟨by omega, by omega, hclean⟩

theorem cmdAdvance_ready {s : State} {i : EngineId} {c : Command} (n : Nat) (hr : (s.engine i).running = some c) (hready : c.ready = true) :
    s.cmdAdvance i n = s.moveUnits i c n := by
  unfold State.cmdAdvance
  rw [hr]
  dsimp only
  rw [hready, if_pos rfl, hr]
  dsimp only
  rw [if_pos hready]

/-- With every unit moved, a run of a command does nothing. -/
theorem moveUnits_done {s : State} {i : EngineId} {c : Command} (n : Nat) (h : c.units ≤ c.moved) : s.moveUnits i c n = s := by
  unfold State.moveUnits
  dsimp only
  have hz : min (min n (s.unitLimit c)) (c.units - c.moved) = 0 := by omega
  rw [hz, if_pos rfl]
  rfl

theorem closeCmd_done {s : State} {i : EngineId} {c c1 : Command} {extra : Command → Option W64} (hr : (s.engine i).running = some c)
    (hall : c.allMoved = true) (hr1 : (((s.makeReleases i c).landSome i).engine i).running = some c1) (hw : c1.waiting = 0)
    (hrel : c1.released = true) : s.closeCmd i extra = ((s.makeReleases i c).landSome i).finishCmd c1 (extra c1) := by
  unfold State.closeCmd
  rw [hr]
  dsimp only
  rw [hall, if_neg (by decide), hr1]
  dsimp only
  rw [if_pos (by rw [hw, hrel]; rfl)]

/-- A data command that is ready has moved everything with its last unit. -/
theorem allMoved_data {c : Command} (hpsel : c.kind ≠ .psel) (hcoll : ∀ op ty, c.kind ≠ .fcoll op ty) (hready : c.ready = true)
    (h : c.units ≤ c.moved) : c.allMoved = true := by
  have hdata : (c.ready && decide (c.units ≤ c.moved)) = true := by rw [hready, decide_eq_true h]; rfl
  unfold Command.allMoved
  cases hk : c.kind with
  | psel => exact absurd hk hpsel
  | fcoll op ty => exact absurd hk (hcoll op ty)
  | _ => exact hdata

theorem makeReleases_none {s : State} {i : EngineId} {c : Command} (h : c.release = none) : s.makeReleases i c = s := by
  unfold State.makeReleases
  rw [h]

theorem released_none {c : Command} (h : c.release = none) : c.released = true := by
  unfold Command.released
  rw [h]

/-- What a command does as it starts, by its kind. -/
theorem started_eq (s s1 : State) (i : EngineId) (c : Command) (hrun : ∀ c', (s1.engine i).running = some c' → c' = c) :
    (match c.kind with
      | .psel => Host.Outcome.next (s1.modRunning i (fun c => { c with query := (s.startReads c).map (s.cmdByte c) }))
      | .fcoll _ _ => .next (s1.startColl i c)
      | _ => .next (s1.sendCorr c) : Host.Outcome State Fault Refusal) =
    .next (match c.kind with
      | .psel => s1.modRunning i (fun c => { c with query := (s.cmdLs c (c.option.setWidth 32) 256).map (s.cmdByte c) })
      | .fcoll _ _ => s1.startColl i c
      | _ => s1.sendCorr c) := by
  cases hk : c.kind with
  | psel =>
    refine congrArg Host.Outcome.next (modRunning_congr fun c' hc' => ?_)
    have hreads : s.startReads c' = s.cmdLs c' (c'.option.setWidth 32) 256 := by
      unfold State.startReads
      rw [hrun c' hc', hk]
    rw [hreads]
  | _ => rfl

/-- A portion that nothing holds back is moved. -/
theorem moveUnits_portion {s : State} {i : EngineId} {c : Command} {n : Nat} (hne : portion s c n ≠ [])
    (hpoison : s.poisonAmong (((portion s c n).map (s.unitReads c)).flatten) = none)
    (hport : s.portWait (((portion s c n).map (s.unitReads c)).flatten ++ ((portion s c n).map (s.unitWrites c)).flatten) = false)
    (hbehind : s.placesBehind (((portion s c n).map (s.unitReads c)).flatten ++ ((portion s c n).map (s.unitWrites c)).flatten) = false)
    (hwin : s.windowFull (movedBy s c (portion s c n)).out = false) :
    s.moveUnits i c n = ((((running i (movedBy s c (portion s c n)).c (movedBy s c (portion s c n)).s).clearPoison
      (homeLines (movedBy s c (portion s c n)).home)).cmdSend i false (movedBy s c (portion s c n)).out).landSome i) := by
  have hwant : min (min n (s.unitLimit c)) (c.units - c.moved) ≠ 0 := fun hz => hne (if_pos hz)
  have hportion : portion s c n = (List.range (s.portionEnd c (min (min n (s.unitLimit c)) (c.units - c.moved)) - c.moved)).map
      (fun k => c.moved + k) := if_neg hwant
  have hlen : s.portionEnd c (min (min n (s.unitLimit c)) (c.units - c.moved)) - c.moved = (portion s c n).length := by
    rw [hportion, List.length_map, List.length_range]
  have hpos : (portion s c n).length ≠ 0 := fun hz => hne (List.length_eq_zero_iff.mp hz)
  unfold State.moveUnits
  dsimp only
  rw [if_neg hwant, ← hportion, hlen, hpoison, hport, hbehind]
  rw [if_neg (by simpa using hpos)]
  exact if_neg (Bool.eq_false_iff.mp hwin)

/-- A command that met a poisoned line: stopped, with its record written. -/
def poisonStopped (s : State) (i : EngineId) (c : Command) (va : Nat) : State :=
  let r : FaultRec :=
    { kind := 4, region := c.region, corr := c.corr, wg := ((s.anyWg? c.wg).map (fun w => w.index.toNat)).getD 0,
      grp := c.grpNum, slice := c.a, aux0 := BitVec.ofNat 64 va,
      aux1 := BitVec.ofNat 64 (c.queueCode + engineIdent c.engine * 4 + c.seq.toNat * 2 ^ 32), die := dieOf c.core,
      clus := clusterOf c.core % 8, core := c.core % 8 }
  let t := (s.modEngine i (fun q => { q with running := none })).putFault r
  { t with pkg := { t.pkg with heldCmds := t.pkg.heldCmds ++ [(.poison (s.faultSlot c.region).1, c.atBoundary)] } }

theorem engine_pkg (s : State) (p : Package) (i : EngineId) : ({ s with pkg := p } : State).engine i = s.engine i := rfl

theorem modEngine_pkg (s : State) (i : EngineId) (f : Engine → Engine) : (s.modEngine i f).pkg = s.pkg := by
  cases i <;> rfl

theorem poisonStopped_running (s : State) (i : EngineId) (c : Command) (va : Nat) : ((poisonStopped s i c va).engine i).running = none := by
  unfold poisonStopped
  dsimp only
  rw [engine_pkg, noted_engine (noted_putFault _ _)]
  rcases engine_modEngine s i (fun q => { q with running := none }) with h | h <;> rw [h]
  rfl

theorem poisonStopped_heldCmds (s : State) (i : EngineId) (c : Command) (va : Nat) :
    (poisonStopped s i c va).pkg.heldCmds = s.pkg.heldCmds ++ [(.poison (s.faultSlot c.region).1, c.atBoundary)] := by
  unfold poisonStopped
  dsimp only
  rw [noted_heldCmds (noted_putFault _ _), modEngine_pkg]

/-- Settles O40: the running command is found, and the branch that its kind and its guards select is the one stated. -/
theorem engineEvents : Obligations.EngineEvents := by
  intro i s c q
  refine ⟨fun hpick => ?_, fun hruns hready n => ?_, fun n hl j hj k hk hk' => ?_, fun hruns hpsel hcoll hready hmoved c1 => ?_,
    fun hr hcoll => ?_, fun va hr hva hfull => ?_, fun n c0 c1 xs ev hi hruns hready hbehind hscores => ?_,
    fun die op ty line leaves hi hr hkind => ?_, fun die op ty plane p up hi hr hkind hp hup hat hnext => ?_⟩
  · intro c1 s1
    show execCommandStart i s = _
    unfold execCommandStart
    rw [hpick]
    dsimp only
    refine started_eq s s1 i c1 fun c' hc' => ?_
    rw [noted_engine (noted_traceCmdIf _ _ _ _)] at hc'
    rcases engine_modEngine s i (fun _ => { q with running := some c1 }) with h | h <;> rw [h] at hc'
    · exact (Option.some.inj hc').symm
    · exact absurd hc' (by simp [Engine.reset])
  · intro is_ r hne hpoison hport hbehind hwin
    obtain ⟨hr, hok⟩ := hruns
    show execEngineByteSubtract i n s = _
    unfold execEngineByteSubtract
    rw [if_pos hok, cmdAdvance_ready n hr hready]
    have hmoved : s.moveUnits i c n =
        ((((running i r.c r.s).clearPoison (homeLines r.home)).cmdSend i false r.out).landSome i) :=
      moveUnits_portion hne hpoison hport hbehind hwin
    rw [hmoved]
  · obtain ⟨hlo, hhi, hclean⟩ := mem_portion hl hj
    exact cleanCut_apart hclean hlo hhi hk hk'
  · intro s1 hr1 hw hrel
    obtain ⟨hr, hok⟩ := hruns
    have hrun : execCommandComplete i s = .next ((s.cmdAdvance i c.units).closeCmd i (fun _ => none)) := by
      unfold execCommandComplete
      rw [hr]
      dsimp only
      rw [hok, if_neg (by decide)]
      cases hk : c.kind with
      | psel => exact absurd hk hpsel
      | fcoll op ty => exact absurd hk (hcoll op ty)
      | _ => rfl
    refine hrun.trans ?_
    rw [cmdAdvance_ready c.units hr hready, moveUnits_done c.units hmoved,
      closeCmd_done hr (allMoved_data hpsel hcoll hready hmoved) hr1 hw hrel]
  · show execTileTaskReplay i s = _
    unfold execTileTaskReplay
    rw [hr]
    dsimp only
    cases hk : c.kind with
    | fcoll op ty => exact absurd hk (hcoll op ty)
    | _ => rfl
  · have hrun : execPoisonRead i s = .next (poisonStopped s i c va) := by
      unfold execPoisonRead
      rw [hr]
      dsimp only
      rw [hva]
      dsimp only
      rw [hfull, if_neg (by decide)]
      rfl
    exact ⟨_, hrun, poisonStopped_running s i c va, poisonStopped_heldCmds s i c va⟩
  · intro s2 s3 s4 hr0 hkind0 hready0 hrel0 hr1 hw1 hrel1
    subst hi
    obtain ⟨hr, hok⟩ := hruns
    have hall : c0.allMoved = true := by
      unfold Command.allMoved
      rw [hkind0, hready0]
    have hsame := makeReleases_none (s := s3) (i := .psel n) hrel0
    have hclose := closeCmd_done (s := s3) (extra := fun c => some c.selection) hr0 hall (hsame.symm ▸ hr1) hw1 (released_none hrel1)
    rw [hsame] at hclose
    show execPselComplete n s = _
    unfold execPselComplete
    dsimp only
    rw [hr]
    dsimp only
    rw [hok, if_neg (by decide), if_pos hready, hr]
    dsimp only
    rw [hready, hbehind, if_neg (by decide), hscores]
    exact congrArg Host.Outcome.next hclose
  · intro r
    subst hi
    refine ⟨?_, fun hline hnot hlen hleaves => ?_⟩
    · show execCollResultArrive die line leaves true s = _
      unfold execCollResultArrive
      dsimp only
      rw [hr]
      dsimp only
      rw [hkind]
      rfl
    · show execCollResultArrive die line leaves false s = _
      unfold execCollResultArrive
      dsimp only
      rw [hr]
      dsimp only
      rw [hkind]
      have hlines : c.lines.contains line = false := by simpa using hnot
      have hlens : leaves.any (fun l => l.any (fun b => b.length != c.lineLen line)) = false := by simpa using hleaves
      dsimp only
      rw [if_neg Bool.false_ne_true]
      refine if_neg ?_
      rw [hlines, hlens, decide_eq_false (Nat.not_le.mpr hline), hlen, bne_self_eq_false]
      decide
  · intro left form hleft
    subst hi
    show execCollLineResend die plane s = _
    unfold execCollLineResend
    dsimp only
    rw [hr, hp]
    dsimp only
    rw [hkind, hnext]
    dsimp only
    have hopen : left.isEmpty = false := by simpa using hleft
    rw [hup, decide_eq_false (Nat.not_lt.mpr hat), show ((List.range c.collLines).filter (fun j => !c.lines.contains j &&
      c.planeOf j == plane)).isEmpty = false from hopen]
    rfl

/-! ### The cluster and the distributor -/

/-- The trace bit of a launch record is bit 31 of its correlation number. -/
theorem corr_untraced {l : Launch} (h : l.field 255 1 = 0) : (BitVec.ofNat 32 (l.field 224 32)).getLsbD 31 = false := by
  unfold Launch.field at h ⊢
  have hbit : l.record.getLsbD 255 = false := by
    have hzero : l.record.extractLsb' 255 1 = 0#1 := BitVec.eq_of_toNat_eq h
    have hget := congrArg (fun x => x.getLsbD 0) hzero
    rwa [BitVec.getLsbD_extractLsb', BitVec.getLsbD_zero] at hget
  rw [BitVec.ofNat_toNat, BitVec.setWidth_eq, BitVec.getLsbD_extractLsb', hbit]
  rfl

/-- The head of a launch queue is past: the next one stands there, and held launches of the region go. -/
def headPast (n : Nat) (s : State) : State :=
  ((s.setRcb n 784 16 ((s.rcb n 784 16 + 1) % s.rcb n 768 16)).modRegion n (fun x => { x with headSince := none })).releaseWork
    (fun h => (match h.launch with | some (r, _) => r == n | none => false) && s.wgs.any (fun w => w.id == h.wg && !w.stepping))

/-- What is done with the head of a launch queue whose start has come. -/
def launchHead (n : Nat) (s : State) (x : Region) (addr : Nat) (img : BitVec 1024) :
    Option (BitVec 1024) × Option W64 → Host.Outcome State Fault Refusal
  | (some d, _) =>
    let l := s.newLaunch n addr img d
    match (descReason d).or (if descField d 16 4 = 1 then some 2 else s.launchReason l) with
    | some r => .next ((headPast n s).finishLaunch l (if r < 16 then 1 else 2) r)
    | none =>
      if 4 ≤ x.launches.length then .next s
      else
        let s1 := { headPast n s with launches := s.launches ++ [l], nextId := s.nextId + 1 }.modRegion n
          (fun x => { x with launches := x.launches ++ [l.id] })
        let corr := BitVec.ofNat 32 (l.field 224 32)
        let r : TraceRec := { type := 0x0A, corr := corr, ptb := s.ptb0, payload := addr, engine := 5 * 2 ^ 12 }
        .next (if corr.getLsbD 31 then s1.trace n r else s1)
  | (none, some page) =>
    if x.headSince = some (s.rcb n 784 16) || s.faultFull n then .next s
    else
      let r : FaultRec := { kind := 2, cause := 0x10, region := n, corr := img.extractLsb' 224 32, pages := [page] }
      .next ((s.putFault r).modRegion n (fun x => { x with headSince := some (s.rcb n 784 16) }))
  | (none, none) =>
    let l := s.newLaunch n addr img 0
    let bits : BitVec 1024 := BitVec.ofNat 1024 ((img.extractLsb' 201 2).toNat * 2 ^ 25)
    .next ((headPast n s).finishLaunch l (if (s.launchReason { l with desc := bits }).getD 24 < 16 then 1 else 2)
      ((s.launchReason { l with desc := bits }).getD 24))

/-- A launch whose descriptor is read and that fails a check completes at once. -/
theorem launchHead_rejected {n addr r : Nat} {s : State} {x : Region} {img d : BitVec 1024} {page : Option W64}
    (hr : (descReason d).or (if descField d 16 4 = 1 then some 2 else s.launchReason (s.newLaunch n addr img d)) = some r) :
    launchHead n s x addr img (some d, page) =
      .next ((headPast n s).finishLaunch (s.newLaunch n addr img d) (if r < 16 then 1 else 2) r) := by
  unfold launchHead
  dsimp only
  rw [hr]

/-- A launch that passes every check joins its region's. -/
theorem launchHead_accepted {n addr : Nat} {s : State} {x : Region} {img d : BitVec 1024} {page : Option W64}
    (hr : (descReason d).or (if descField d 16 4 = 1 then some 2 else s.launchReason (s.newLaunch n addr img d)) = none)
    (hlen : ¬4 ≤ x.launches.length) (htrace : (s.newLaunch n addr img d).field 255 1 = 0) :
    launchHead n s x addr img (some d, page) =
      .next ({ headPast n s with launches := s.launches ++ [s.newLaunch n addr img d], nextId := s.nextId + 1 }.modRegion n
        (fun x => { x with launches := x.launches ++ [(s.newLaunch n addr img d).id] })) := by
  unfold launchHead
  dsimp only
  rw [hr]
  dsimp only
  rw [if_neg hlen, corr_untraced htrace, if_neg Bool.false_ne_true]

/-- Settles O41: each event's guard holds, so its one change is made; a launch record takes the branch of its descriptor. -/
theorem workEvents : Obligations.WorkEvents := by
  intro n s t c now go
  refine ⟨fun hgo hat hpack => ?_, fun hat hsome hidle => ?_, rfl, fun hok => ⟨fun htry => ?_, fun htry => ?_, fun htry => ?_⟩,
    fun g w hg hw hdone => ?_, fun hpower hsoon => ?_, fun l hl htotal hwgs hctxs hcmds => ?_, fun x d hx hstop => ?_⟩
  · have hguard : (go.isEmpty || c.enterAt == now || !(c.packAt == now || (c.itemq.isEmpty && c.opened.isEmpty))) = false := by
      rw [List.isEmpty_eq_false_iff.mpr hgo, beq_false_of_ne hat]
      simpa [Decidable.or_iff_not_imp_left] using hpack
    exact if_neg (Bool.eq_false_iff.mp hguard)
  · intro c1 c2
    have hguard : (c.packAt == now || (c.itemq.isEmpty && c.opened.isEmpty) || c.opened.any (fun g => decide (256 ≤ g.idle))) = false := by
      have hidle' : c.opened.any (fun g => decide (256 ≤ g.idle)) = false := by simpa using hidle
      rw [hidle', beq_false_of_ne hat]
      simpa using hsome
    have hclose : (if c2.itemq.isEmpty && c2.entering.isEmpty then c2.opened.foldl (fun c g => c.makeReady now g) c2 else c2) =
        if c2.itemq = [] ∧ c2.entering = [] then c2.opened.foldl (fun c g => c.makeReady now g) c2 else c2 :=
      ite_congr (by simp) (fun _ => rfl) (fun _ => rfl)
    refine (if_neg (Bool.eq_false_iff.mp hguard)).trans ?_
    exact congrArg (fun c3 => Host.Outcome.next ((s.modCluster n (fun _ => c3)).refillItems n 4)) hclose
  · show execClusterAdmit n s = _
    unfold execClusterAdmit
    rw [hok, if_neg (by decide), htry]
  · show execClusterAdmit n s = _
    unfold execClusterAdmit
    rw [hok, if_neg (by decide), htry]
  · show execRestore n s = _
    unfold execRestore
    rw [hok, if_neg (by decide), htry]
  · intro s1
    show execGroupRetire n s = _
    unfold execGroupRetire
    rw [hg]
    dsimp only
    rw [hw]
    dsimp only
    rw [hdone, if_neg (by decide)]
  · intro tops s1
    have hover : s.overPower = false := decide_eq_false (Nat.not_lt.mpr hpower)
    have hlast : (match s.pkg.lastSet with | some t => decide (s.ptb0 < t + 2) | none => false) = false := by
      cases hl : s.pkg.lastSet with
      | none => rfl
      | some t => exact decide_eq_false (Nat.not_lt.mpr (hsoon t hl))
    have hguard : (s.overPower || (match s.pkg.lastSet with | some t => decide (s.ptb0 < t + 2) | none => false)) = false := by
      rw [hover]
      exact hlast
    exact if_neg (Bool.eq_false_iff.mp hguard)
  · show execLaunchComplete n s = _
    unfold execLaunchComplete
    rw [hl]
    dsimp only
    have hguard : (decide (l.retired < l.total) || s.wgs.any (fun w => w.launch == some n) || s.ctxs.any (fun c => c.launch == some n) ||
        s.allCommands.any (fun c => c.launch == some n)) = false := by
      simp only [Bool.or_eq_false_iff, decide_eq_false_iff_not, List.any_eq_false, beq_iff_eq]
      exact ⟨⟨⟨Nat.not_lt.mpr htotal, hwgs⟩, hctxs⟩, hcmds⟩
    exact if_neg (Bool.eq_false_iff.mp hguard)
  · intro head addr img l past hhead hsize hstart
    have hguard : (x.stopped || head == s.rcb n 800 16 || s.rcb n 768 16 == 0) = false := by
      rw [hstop, beq_false_of_ne hhead, beq_false_of_ne hsize]
      rfl
    have hread : execLaunchRead n s = launchHead n s x addr img (s.readDescAt n (img.extractLsb' 0 56).toNat) := by
      unfold execLaunchRead
      rw [hx]
      refine (if_neg (Bool.eq_false_iff.mp hguard)).trans ((if_neg (Nat.not_lt.mpr hstart)).trans ?_)
      rfl
    refine ⟨fun hdesc => ?_, fun hdesc => ?_⟩
    · intro reason
      refine ⟨fun r hr => hread.trans ?_, fun hr hlen htrace => hread.trans ?_⟩
      · rw [hdesc, launchHead_rejected hr]
        rfl
      · rw [hdesc, launchHead_accepted hr (by omega) htrace]
        rfl
    · intro l0 bits r
      refine hread.trans ?_
      rw [hdesc]
      rfl

end Sys2Proof.Proofs
end

section
/-!
PROOFS. The events of energy and regions, of stops and saves, of errors, debuggers and hosts, of the boot, and of the fabric.
-/
namespace Sys2Proof.Proofs
open Sys2Proof.Machine Sys2Proof.Claims Sys2Proof.Laws

/-! ### Regions and energy -/

/-- What a window start does, where the values in the block may be taken (`ok`) and where not. -/
theorem energyWindow_eq {r : Nat} {s : State} {x : Region} (ok : Bool) (hx : s.region? r = some x) (howns : s.owns 5 r = true)
    (hstart : s.rcb r 384 64 + x.win ≤ s.ptb0)
    (hok : ((s.rcb r 192 48 == x.ebud && s.rcb r 256 48 == x.win) ||
      (decide (1000 ≤ s.rcb r 256 48) && (s.rcb r 32 32 != 0 || s.powerOk r (s.rcb r 192 48) (s.rcb r 256 48)))) = ok) :
    execEnergyWindowStart r s = .next (((if ok then s.modRegion r (fun x => { x with ebud := s.rcb r 192 48, win := s.rcb r 256 48 })
      else ((s.setRcb r 192 48 x.ebud).setRcb r 256 48 x.win).trace r { type := 0x0D, ptb := s.ptb0, payload := s.rcb r 192 48 }).setRcb
        r 384 64 (s.rcb r 384 64 + x.win)).setErem r (if ok then s.rcb r 192 48 else x.ebud)) := by
  unfold execEnergyWindowStart
  rw [hx]
  dsimp only
  rw [howns, if_neg (by simpa using hstart), hok]

/-- Settles O42: each event's guards select the branch stated. -/
theorem energyEvents : Obligations.EnergyEvents := by
  intro r n m s x add
  refine ⟨fun w hw => ?_, fun h0 hmax => ?_, fun hmax => if_pos hmax, fun hend => ?_, fun hx howns => ?_, ?_, ?_, fun y l hx hdef hfull => ?_,
    fun c hx hdef hc hfull => ?_⟩
  · show execEnergyCharge n 0 m s = _
    unfold execEnergyCharge
    rw [hw]
    rfl
  · exact (if_neg (Nat.not_lt.mpr hmax)).trans (if_neg h0)
  · show execPowerMeasure (s.pkg.powerAt + 1000000) s = _
    unfold execPowerMeasure
    rw [if_neg (by simpa using hend)]
    rfl
  · intro start ebud win hstart
    refine ⟨fun hok => ?_, fun hchanged hbad => ?_⟩
    · have hb : ((s.rcb r 192 48 == x.ebud && s.rcb r 256 48 == x.win) ||
          (decide (1000 ≤ s.rcb r 256 48) && (s.rcb r 32 32 != 0 || s.powerOk r (s.rcb r 192 48) (s.rcb r 256 48)))) = true := by
        simpa using hok
      refine (energyWindow_eq true hx howns hstart hb).trans ?_
      rw [if_pos rfl, if_pos rfl]
    · have hb : ((s.rcb r 192 48 == x.ebud && s.rcb r 256 48 == x.win) ||
          (decide (1000 ≤ s.rcb r 256 48) && (s.rcb r 32 32 != 0 || s.powerOk r (s.rcb r 192 48) (s.rcb r 256 48)))) = false := by
        refine Bool.eq_false_iff.mpr fun hc => ?_
        rcases (by simpa using hc : _ ∨ _) with h | h
        · exact hchanged h
        · exact hbad h
      refine (energyWindow_eq false hx howns hstart hb).trans ?_
      rw [if_neg Bool.false_ne_true, if_neg Bool.false_ne_true]
  · show execRegionActivate r s = _
    unfold execRegionActivate
    by_cases hnum : s.regionNumber r = false
    · rw [if_pos hnum, if_pos (by rw [hnum]; rfl)]
    rw [if_neg hnum, if_neg (by simpa using hnum)]
    by_cases hact : (s.region? r).isSome = true
    · rw [if_pos hact, if_pos hact]
    rw [if_neg hact, if_neg hact]
    by_cases hblock : s.blockOk r = false
    · rw [if_pos hblock, if_pos (by rw [hblock]; rfl)]
    rw [if_neg hblock, if_neg (by simpa using hblock)]
    by_cases hpower : s.rcb r 32 32 = 0 ∧ s.powerOk r (s.rcb r 192 48) (s.rcb r 256 48) = false ∧ s.rcb r 192 48 ≠ 2 ^ 48 - 1
    · rw [if_pos hpower]
      exact if_pos (by simpa [and_assoc] using hpower)
    · rw [if_neg hpower]
      exact if_neg (by simpa [and_assoc] using hpower)
  · show execRegionDeactivate r s = _
    unfold execRegionDeactivate
    by_cases hnum : s.regionNumber r = false
    · rw [if_pos hnum, if_pos (by rw [hnum]; rfl)]
    rw [if_neg hnum, if_neg (by simpa using hnum)]
    by_cases hact : (s.region? r).isNone = true
    · rw [if_pos hact, if_pos hact]
    rw [if_neg hact, if_neg hact]
    by_cases hbusy : s.regionBusy r = true
    · rw [if_pos hbusy, if_pos hbusy]
    · rw [if_neg hbusy, if_neg hbusy]
  · show execFaultRecordDeferred r s = _
    unfold execFaultRecordDeferred
    rw [hx]
    dsimp only
    rw [hfull, hdef]
    rfl
  · show execFaultRecordDeferred r s = _
    unfold execFaultRecordDeferred
    rw [hx]
    dsimp only
    rw [hfull, hdef, hc]
    rfl

/-! ### Stops, saves and their resolution -/

theorem recordAt_of_mem {s : State} {r n : Nat} {x : Region} (hx : s.region? r = some x) (hn : n ∈ x.recs) : s.recordAt r n = true := by
  unfold State.recordAt
  rw [hx]
  exact List.contains_iff_mem.mpr hn

/-- A record that is none changes nothing. -/
theorem execFaultResume_unknown {s : State} {r n : Nat} (h : s.recordAt r n = false) : execFaultResume r n s = .next (s.fdstWrite r 1) := by
  unfold execFaultResume
  rw [h]
  rfl

/-- A saved context goes back with its set, all of whose images pass their checks. -/
theorem sendBack_ok {s : State} {c : Ctx} {step : Bool} (h : ∀ x ∈ s.ctxs, x.setId = c.setId → s.imageOk x = true) :
    s.sendBack c step = s.resumeCtx c step := by
  unfold State.sendBack
  refine if_pos (List.all_eq_true.mpr fun x hx => ?_)
  obtain ⟨hmem, hset⟩ := List.mem_filter.mp hx
  exact h x hmem (by simpa using hset)

/-- A set with an image that fails its checks resets its launch. -/
theorem sendBack_bad {s : State} {c : Ctx} {step : Bool} {l : Nat} (h : ∃ x ∈ s.ctxs, x.setId = c.setId ∧ s.imageOk x = false)
    (hl : c.launch = some l) : s.sendBack c step = (s.wipeLaunch l true).deferFault { kind := 6, region := c.region } := by
  obtain ⟨x, hmem, hset, hbad⟩ := h
  have hall : (s.ctxs.filter (fun x => x.setId == c.setId)).all s.imageOk = false :=
    List.all_eq_false.mpr ⟨x, List.mem_filter.mpr ⟨hmem, by simpa using hset⟩, by rw [hbad]; decide⟩
  unfold State.sendBack
  rw [hall, if_neg Bool.false_ne_true, hl]

/-- A context whose pages are present is due. -/
theorem pagesDue_ok {s : State} {c : Ctx} (hp : c.phase = .waitingPages) (h : ∀ a ∈ c.needed, s.rangePresent c.shell.root a = true) :
    s.pagesDue c = true := by
  unfold State.pagesDue
  rw [hp, List.all_eq_true.mpr h]
  rfl

/-- Settles O43: what the event names is found, its guard holds, and the branch stated is taken. -/
theorem stopEvents : Obligations.StopEvents := by
  intro r n s w
  refine ⟨fun hw => ?_, fun i hw hi hreason => ?_, fun c hc hp hpages => ⟨fun hok => ?_, fun l hbad hl => ?_⟩,
    fun i hctx hw hp hi hreason hpages => ?_, ⟨fun hrec => ⟨?_, ?_⟩, fun x hx hn => ⟨fun hnone => ?_, fun t ht => ?_, ?_⟩⟩,
    fun hr => ⟨if_pos hr, if_pos hr⟩, fun hr => ?_, fun hw => ?_⟩
  · show execContextSave n s = _
    unfold execContextSave
    rw [hw]
  · show execSwapOut n s = _
    unfold execSwapOut
    rw [hw]
    dsimp only
    rw [hi]
    exact if_neg hreason
  · show execPagePresentResume n s = _
    unfold execPagePresentResume
    rw [hc]
    dsimp only
    rw [pagesDue_ok hp hpages, if_pos rfl, sendBack_ok hok]
  · show execPagePresentResume n s = _
    unfold execPagePresentResume
    rw [hc]
    dsimp only
    rw [pagesDue_ok hp hpages, if_pos rfl, sendBack_bad hbad hl]
  · have hnone : s.ctxs.find? (fun c => c.id == n) = none := List.find?_eq_none.mpr fun c hc => by simpa using hctx c hc
    have hdue : s.pagesDueHere w = true := by
      unfold State.pagesDueHere
      rw [hp, hi]
      dsimp only
      rw [hreason, List.all_eq_true.mpr hpages]
      rfl
    show execPagePresentResume n s = _
    unfold execPagePresentResume
    rw [hnone, hw]
    dsimp only
    rw [hdue, if_pos rfl]
  · exact execFaultResume_unknown hrec
  · show execFaultDomainReset r n s = _
    unfold execFaultDomainReset
    rw [hrec]
    rfl
  · show execFaultResume r n s = _
    unfold execFaultResume
    rw [recordAt_of_mem hx hn, hnone]
    rfl
  · show execFaultResume r n s = _
    unfold execFaultResume
    rw [recordAt_of_mem hx hn, ht]
    rfl
  · show execFaultDomainReset r n s = _
    unfold execFaultDomainReset
    rw [recordAt_of_mem hx hn]
    rfl
  · intro under mark
    have hactive : ¬(s.region? r).isNone = true := by
      rw [Option.isNone_iff_eq_none]
      exact Option.isSome_iff_ne_none.mp hr
    exact ⟨if_neg hactive, if_neg hactive⟩
  · intro period now
    refine ⟨fun g a sl hlow hperiod hphase hover => ?_, fun i hi hphase hopen hover => ?_⟩
    · intro st pc epc t at_
      show execWatchdogExpiry n s = _
      unfold execWatchdogExpiry
      rw [hw]
      dsimp only
      rw [hlow]
      exact if_neg (not_or.mpr ⟨hperiod, not_or.mpr ⟨Classical.not_not.mpr hphase, Nat.not_lt.mpr hover⟩⟩)
    · have hguard : ¬(w.phase ≠ .draining ∨ now < i.since + (if period = 0 then 100000 else period) ∨ (s.unitOf w).all s.drained = true) := by
        refine not_or.mpr ⟨Classical.not_not.mpr hphase, not_or.mpr ⟨Nat.not_lt.mpr hover, ?_⟩⟩
        obtain ⟨v, hv, hdrain⟩ := hopen
        exact fun hall => Bool.false_ne_true (hdrain.symm.trans (List.all_eq_true.mp hall v hv))
      refine ⟨fun hpath => ?_, fun hpath => ?_⟩
      · show execSaveBudgetExpiry n s = _
        unfold execSaveBudgetExpiry
        rw [hw]
        dsimp only
        rw [hi]
        refine (if_neg hguard).trans (if_pos ?_)
        rw [hpath]
        rfl
      · show execSaveBudgetExpiry n s = _
        unfold execSaveBudgetExpiry
        rw [hw]
        dsimp only
        rw [hi]
        refine (if_neg hguard).trans (if_neg ?_)
        rw [hpath]
        decide

/-! ### Hardware errors and the connection table -/

/-- A line that lies outside the guard is poisoned, and memory keeps its bytes. -/
theorem poisonLine_spec {s : State} {pa a : Nat} (hpa : s.canonPa pa = some a) (hlow : a < 2 ^ 51) (hguard : s.inGuard a = false) :
    (s.poisonLine pa).poisoned a = true ∧ (s.poisonLine pa).mem = s.mem := by
  have hif : ¬(2 ^ 51 ≤ a ∨ ((homeDie a).isSome ∧ s.inGuard a)) := by
    rw [hguard]
    rintro (h | ⟨-, h⟩)
    · exact absurd h (Nat.not_le.mpr hlow)
    · exact Bool.false_ne_true h
  unfold State.poisonLine
  rw [hpa]
  dsimp only
  rw [if_neg hif]
  refine ⟨?_, rfl⟩
  unfold State.poisoned
  refine Bool.or_eq_true_iff.mpr (Or.inl ?_)
  dsimp only
  split
  · assumption
  · simp

/-- A die that fails stands as fenced in `pkg.dies`. -/
theorem execDieFail_dies {s : State} {n : Nat} (hpresent : (s.die n).present = true) (hopen : (s.die n).fenced = false) (hn : n < 8) :
    ∃ t, execDieFail n s = .next t ∧ t.pkg.dies.getLsbD (16 + n) = true := by
  have hguard : ¬(!(s.die n).present || (s.die n).fenced) = true := by
    rw [hpresent, hopen]
    decide
  have hbit : (BitVec.ofNat 24 (2 ^ (16 + n))).getLsbD (16 + n) = true := by
    rw [BitVec.getLsbD_ofNat, Nat.testBit_two_pow_self]
    simp only [Bool.and_true, decide_eq_true_eq]
    omega
  refine ⟨_, if_neg hguard, ?_⟩
  exact (BitVec.getLsbD_or).trans (Bool.or_eq_true_iff.mpr (Or.inr hbit))

/-- The three checks of a connection-table write, in their order. -/
theorem execCtabWrite_found {s : State} {n : Nat} {x old : BitVec 64} (hold : s.pkg.ctab[n]? = some old) :
    execCtabWrite n x s =
      (let v := x &&& 0x77FFF
       let t := (s.pkg.ctab.setIfInBounds n v).toList
       let moved := v != old && (ctabValid v || ctabValid old)
       if !s.ctabEnds v then .next (s.cstatWrite n 3)
       else if (List.range 8).any (fun d => decide (60 < dieWl t d)) then .next (s.cstatWrite n 1)
       else if [0, 2, 4, 6].any (fun d => s.inService d && s.inService (d + 1) && decide (buddyWl t d < 16)) then .next (s.cstatWrite n 2)
       else .next ((pkgSet (fun g => { g with
          ctab := g.ctab.setIfInBounds n v,
          circuits := if moved && !g.circuits.contains n then g.circuits ++ [n] else g.circuits,
          lostWl := if moved then g.lostWl.filter (fun e => e != n) else g.lostWl }) s).cstatWrite n 0)) := by
  unfold execCtabWrite
  rw [hold]
  rfl

/-- Settles O44: each kind of error has its own branch; of the two that change more than one table, the poisoned line and
the failed die, only what the clause names is followed. -/
theorem errorEvents : Obligations.ErrorEvents := by
  unfold Obligations.ErrorEvents
  intro n a s x
  refine ⟨fun _ => rfl, fun w hw => ?_, rfl, fun hn => if_pos hn, ?_, rfl, rfl, rfl, fun p hp hlow _ hguard site hsite => ?_, rfl,
    fun hx hvalid hlost => ?_, execDieFail_dies, fun old hold => ?_, fun c l hc => ?_⟩
  · show execEccError .coreState n a false s = _
    unfold execEccError
    dsimp only
    rw [hw]
    rfl
  · show execEccError .tlbEntry (512 + n) a false s = _
    unfold execEccError
    dsimp only
    rw [if_neg Bool.false_ne_true, if_neg (by omega), Nat.add_sub_cancel_left]
  · obtain ⟨hpoison, hmem⟩ := poisonLine_spec hp hlow hguard
    rcases hsite with rfl | rfl
    · exact ⟨s.poisonLine a, rfl, hpoison, hmem⟩
    · exact ⟨s.poisonLine a, rfl, hpoison, hmem⟩
  · show execWavelengthFail n s = _
    unfold execWavelengthFail
    rw [hx]
    dsimp only
    refine if_neg (not_or.mpr ⟨?_, Nat.not_le.mpr hlost⟩)
    rw [hvalid]
    decide
  · intro v t
    refine ⟨fun hends => ?_, fun hends hwide => ?_, fun hends hfits hbuddy => ?_⟩
    · refine (execCtabWrite_found hold).trans (if_pos ?_)
      rw [hends]
      rfl
    · obtain ⟨d, hd, hd60⟩ := hwide
      refine (execCtabWrite_found hold).trans ((if_neg ?_).trans (if_pos ?_))
      · rw [hends]
        decide
      · exact List.any_eq_true.mpr ⟨d, List.mem_range.mpr hd, decide_eq_true hd60⟩
    · refine (execCtabWrite_found hold).trans ((if_neg ?_).trans ((if_neg ?_).trans (if_neg ?_)))
      · rw [hends]
        decide
      · rw [List.any_eq_true]
        rintro ⟨d, hd, hd60⟩
        exact absurd (of_decide_eq_true hd60) (Nat.not_lt.mpr (hfits d (List.mem_range.mp hd)))
      · rw [List.any_eq_true]
        rintro ⟨d, hd, hd16⟩
        rw [Bool.and_eq_true, Bool.and_eq_true] at hd16
        obtain ⟨⟨h1, h2⟩, h3⟩ := hd16
        exact absurd (of_decide_eq_true h3) (Nat.not_lt.mpr (hbuddy d hd h1 h2))
  · show execCircuitReady s = _
    unfold execCircuitReady
    rw [hc]
    rfl

/-! ### The debugger's commands -/

theorem whenAttached_unknown {s : State} {r : Nat} {f : State → State} (h : (s.region? r).isNone = true) :
    s.whenAttached r f = s.dstatWrite r 1 := if_pos h

theorem whenAttached_detached {s : State} {r : Nat} {f : State → State} (hr : (s.region? r).isSome = true) (h : s.attached r = false) :
    s.whenAttached r f = s.dstatWrite r 2 := by
  unfold State.whenAttached
  rw [Option.isNone_eq_false_iff.mpr hr, h]
  rfl

theorem whenAttached_ok {s : State} {r : Nat} {f : State → State} (hr : (s.region? r).isSome = true) (h : s.attached r = true) :
    s.whenAttached r f = (f s).dstatWrite r 0 := by
  unfold State.whenAttached
  rw [Option.isNone_eq_false_iff.mpr hr, h]
  rfl

/-- A region that is not there has no records. -/
theorem recordAt_unknown {s : State} {r n : Nat} (h : (s.region? r).isNone = true) : s.recordAt r n = false := by
  unfold State.recordAt
  rw [Option.isNone_iff_eq_none.mp h]

/-- A region that is not there has no debugger. -/
theorem attached_unknown {s : State} {r : Nat} (h : (s.region? r).isNone = true) : s.attached r = false := by
  have hother : ∀ x ∈ s.regions, ¬(x.num == r) = true := List.find?_eq_none.mp (Option.isNone_iff_eq_none.mp h)
  refine List.any_eq_false.mpr fun x hx hmatch => ?_
  exact hother x hx (Bool.and_eq_true_iff.mp hmatch).1

theorem dstatWrite_dstatWrite (s : State) (r a b : Nat) (x y : Bool) : (s.dstatWrite r a x).dstatWrite r b y = s.dstatWrite r b y := rfl

/-- Settles O45: a command on a region that is not there, or not attached, only answers; the others run their operation. -/
theorem debugEvents : Obligations.DebugEvents := by
  unfold Obligations.DebugEvents
  intro r n s
  refine ⟨fun hnone i hi => ?_, fun hr => ⟨?_, fun hdet i hi => ?_, fun hatt => ⟨?_, ?_, ?_, ?_, fun hrec hkind t ht => ?_⟩⟩,
    fun w hw hover => ?_⟩
  · simp only [List.mem_cons, List.not_mem_nil, or_false] at hi
    rcases hi with rfl | rfl | rfl | rfl | rfl | rfl
    · exact if_pos hnone
    · exact congrArg _ (whenAttached_unknown hnone)
    · refine congrArg _ ((if_neg ?_).trans (whenAttached_unknown hnone))
      rw [attached_unknown hnone]
      decide
    · exact congrArg _ (whenAttached_unknown hnone)
    · exact congrArg _ (whenAttached_unknown hnone)
    · show execDebugStep r n s = _
      unfold execDebugStep
      rw [recordAt_unknown hnone]
      rfl
  · refine if_neg ?_
    rw [Option.isNone_eq_false_iff.mpr hr]
    decide
  · simp only [List.mem_cons, List.not_mem_nil, or_false] at hi
    rcases hi with rfl | rfl | rfl | rfl
    · exact congrArg _ (whenAttached_detached hr hdet)
    · refine congrArg _ ((if_neg ?_).trans (whenAttached_detached hr hdet))
      rw [hdet]
      decide
    · exact congrArg _ (whenAttached_detached hr hdet)
    · exact congrArg _ (whenAttached_detached hr hdet)
  · exact congrArg _ (whenAttached_ok hr hatt)
  · intro s1 turned saved
    refine congrArg _ ((if_pos hatt).trans ?_)
    rw [whenAttached_ok hr hatt]
    exact congrArg State.settleDstat (dstatWrite_dstatWrite _ r _ _ _ _)
  · show execDebugHold r s = _
    unfold execDebugHold
    rw [whenAttached_ok hr hatt]
  · exact congrArg _ (whenAttached_ok hr hatt)
  · show execDebugStep r n s = _
    unfold execDebugStep
    rw [hrec, hatt, hkind, ht]
    rfl
  · intro stop s2 g a sl hslice at_
    show execStepEnd n s = _
    unfold execStepEnd
    rw [hw]
    dsimp only
    rw [hover]
    refine (if_neg Bool.false_ne_true).trans ?_
    have hstep : ((s.modSleepers (fun g => g.wg == n) Slice.stepStop).modWg n (fun w => { w with stepping := false })).stepSlice w
        = some (g, a, sl) := hslice
    rw [hstep]
    rfl

/-! ### What hosts do -/

theorem length_toBytes (n v : Nat) : (toBytes n v).length = n := by
  induction n generalizing v with
  | zero => rfl
  | succ n ih => exact congrArg Nat.succ (ih (v / 256))

/-- Four ranges of BAR 0 take writes. -/
theorem execRegisterWrite_ok {s : State} {p1 : Bool} {off : Nat} (hok : s.bar0Ok p1 = true) (hoff : off % 8 = 0) (v : BitVec 64) :
    execRegisterWrite p1 off v s = .next (
      if 0x400000 ≤ off ∧ off < 0x408000 then s.modPort p1 (fun p => p.msixWrite off v)
      else if off < 0x2000 then s.pkgWrite p1 off v
      else if 0x100000 ≤ off ∧ off < 0x300000 then s.debugWrite ((off - 0x100000) / 0x1000) (off % 0x1000) v
      else if 0x600000 ≤ off ∧ off < 0x704000 then s.fabWrite (off - 0x600000) v
      else s) := by
  unfold execRegisterWrite
  rw [hok]
  refine (if_neg (by decide)).trans ?_
  by_cases hmsix : 0x400000 ≤ off ∧ off < 0x408000
  · rw [if_pos ⟨hmsix.1, hmsix.2, by omega⟩, if_pos hmsix]
  rw [if_neg (fun h => hmsix ⟨h.1, h.2.1⟩), if_neg hmsix, if_neg (Classical.not_not.mpr hoff)]
  by_cases hpkg : off < 0x2000
  · rw [if_pos hpkg, if_pos hpkg]
  rw [if_neg hpkg, if_neg hpkg]
  by_cases hdebug : 0x100000 ≤ off ∧ off < 0x300000
  · rw [if_pos hdebug, if_pos hdebug]
  rw [if_neg hdebug, if_neg hdebug]
  by_cases hfab : 0x600000 ≤ off ∧ off < 0x704000
  · rw [if_pos hfab, if_pos hfab]
  · rw [if_neg hfab, if_neg hfab]

theorem execRegisterWrite_msix {s : State} {p1 : Bool} {off : Nat} (hok : s.bar0Ok p1 = true) (hlo : 0x400000 ≤ off)
    (hhi : off < 0x408000) (hoff : off % 4 = 0) (v : BitVec 64) :
    execRegisterWrite p1 off v s = .next (s.modPort p1 (fun p => p.msixWrite off v)) := by
  unfold execRegisterWrite
  rw [hok]
  exact (if_neg (by decide)).trans (if_pos ⟨hlo, hhi, hoff⟩)

theorem execHostRead_bar0 {s : State} {p1 : Bool} {off : Nat} (hok : s.bar0Ok p1 = true) (hoff : off % 8 = 0) :
    execHostRead p1 true off 8 s = .next (s.complete p1 (toBytes 8 (s.bar0Read p1 off).toNat)) := by
  unfold execHostRead
  rw [if_pos rfl, hok]
  exact (if_neg (by decide)).trans (if_pos ⟨rfl, hoff⟩)

theorem execHostRead_msix {s : State} {p1 : Bool} {off : Nat} {bs : List Byte} (hok : s.bar0Ok p1 = true)
    (h : (s.port p1).msixRead off 4 = some bs) : execHostRead p1 true off 4 s = .next (s.complete p1 bs) := by
  unfold execHostRead
  rw [if_pos rfl, hok, h]
  exact (if_neg (by decide)).trans ((if_neg (by omega)).trans (if_pos rfl))

/-! BAR 2 -/

theorem hostGet_mem {s : State} {at_ n pa : Nat} (hplace : s.hostPlace at_ n = .mem pa) (hclean : s.poisoned pa = false) :
    s.hostGet at_ n = (s, s.mem.readBytes pa n) := by
  unfold State.hostGet
  rw [hplace]
  dsimp only
  rw [hclean]
  rfl

theorem hostGet_none {s : State} {at_ n : Nat} (hplace : s.hostPlace at_ n = .none) : s.hostGet at_ n = (s, List.replicate n 0xFF) := by
  unfold State.hostGet
  rw [hplace]

theorem hostPut_mem {s : State} {at_ pa : Nat} {bs : List Byte} (hplace : s.hostPlace at_ bs.length = .mem pa) :
    s.hostPut at_ bs = s.homeWrite pa bs := by
  unfold State.hostPut
  rw [hplace]

theorem execHostRead_bar2 {s t : State} {p1 : Bool} {off n : Nat} {bs : List Byte} (hok : s.bar2Ok p1 = true)
    (hget : s.hostGet (s.bar2 p1 off) n = (t, bs)) : execHostRead p1 false off n s = .next (t.complete p1 bs) := by
  unfold execHostRead
  rw [if_neg Bool.false_ne_true, hok, hget]
  exact if_neg (by decide)

theorem execHostWrite_mem {s : State} {p1 : Bool} {off pa : Nat} {data : List Byte} (hok : s.bar2Ok p1 = true)
    (hplace : s.hostPlace (s.bar2 p1 off) data.length = .mem pa) :
    execHostWrite p1 off data s = .next ((s.homeWrite pa data).fillCode pa data) := by
  unfold execHostWrite
  rw [hok]
  refine (if_neg (by decide)).trans ?_
  dsimp only
  rw [hplace, hostPut_mem hplace]

theorem execHostWrite_none {s : State} {p1 : Bool} {off : Nat} {data : List Byte} (hok : s.bar2Ok p1 = true)
    (hplace : s.hostPlace (s.bar2 p1 off) data.length = .none) : execHostWrite p1 off data s = .next s := by
  unfold execHostWrite State.hostPut
  rw [hok]
  refine (if_neg (by decide)).trans ?_
  dsimp only
  rw [hplace]

/-- The value that a host's atomic leaves. -/
def hostResult (op : HostAtomicOp) (old n v cmp : Nat) : Nat :=
  match op with
  | .fetchAdd => (old + v) % 2 ^ (8 * n)
  | .swap => v % 2 ^ (8 * n)
  | .cas => if old = cmp % 2 ^ (8 * n) then v % 2 ^ (8 * n) else old

theorem execHostAtomic_mem {s : State} {p1 : Bool} {off n pa : Nat} (hok : s.bar2Ok p1 = true)
    (hplace : s.hostPlace (s.bar2 p1 off) n = .mem pa) (hclean : s.poisoned pa = false) (hn : n = 4 ∨ n = 8) (op : HostAtomicOp)
    (v cmp : BitVec 64) :
    execHostAtomic p1 op off n v cmp s =
      .next ((s.homeWrite pa (toBytes n (hostResult op (ofBytes (s.mem.readBytes pa n)) n v.toNat cmp.toNat))).complete p1
        (s.mem.readBytes pa n)) := by
  have hput (x : Nat) : s.hostPut (s.bar2 p1 off) (toBytes n x) = s.homeWrite pa (toBytes n x) :=
    hostPut_mem (by rw [length_toBytes]; exact hplace)
  have hsize : (n == 4 || n == 8) = true := by
    rcases hn with rfl | rfl
    · rfl
    · rfl
  unfold execHostAtomic
  rw [hok]
  refine (if_neg (by decide)).trans ?_
  rw [hostGet_mem hplace hclean, hplace, hsize]
  refine (if_neg Bool.false_ne_true).trans ?_
  dsimp only
  rw [hput]
  cases op with
  | fetchAdd => rfl
  | swap => rfl
  | cas => rfl

/-! Push windows -/

/-- A push that its port may take, region by region. -/
theorem execPushWindowWrite_ok {s : State} {p1 : Bool} {n : Nat} {image : BitVec 1024} (hok : s.bar2Ok p1 = true) (h0 : 0 < n)
    (hn : n ≤ 65535) :
    execPushWindowWrite p1 n image s =
      (if (s.region? n).isNone then .next (s.modPort p1 (fun p => p.drop n 1))
       else if (s.port p1).adoptedFrom || ((s.port p1).adopting && (s.rcb n 92 1 == 1) != p1) then .next (s.modPort p1 (fun p => p.drop n 3))
       else if (s.rcb n 92 1 == 1) != p1 then .next (s.modPort p1 (fun p => p.drop n 2))
       else .next (match s.appendLaunch n (toBytes 128 image.toNat) with
         | some t => t
         | none => s.modPort p1 (fun p => p.drop n 4))) := by
  have hguard : ¬(!s.bar2Ok p1 || decide (n = 0) || decide (65535 < n)) = true := by
    rw [hok, decide_eq_false (Nat.ne_of_gt h0), decide_eq_false (Nat.not_lt.mpr hn)]
    decide
  unfold execPushWindowWrite
  refine (if_neg (by simpa using hguard)).trans ?_
  dsimp only
  cases s.appendLaunch n (toBytes 128 image.toNat) with
  | none => rfl
  | some t => rfl

/-! Links and ports -/

theorem execHostLinkUp_down {s : State} {p1 : Bool} (h : (s.port p1).up = false) :
    execHostLinkUp p1 s = .next ((pkgSet (fun g => { g with heldHost := g.heldHost.filter (fun h => !(bitAt h.1 50 == p1)) })
        { s with mem := if s.hostRefused (if p1 then 2 ^ 51 + 2 ^ 50 else 2 ^ 51) then s.mem
                   else (s.pkg.heldHost.filter (fun h => bitAt h.1 50 == p1)).foldl (fun m h => m.writeBytes h.1 h.2) s.mem }).modPort p1
          (fun p => if s.beatLate p then { p with up := true } else ({ p with up := true } : Port).recover)) := by
  unfold execHostLinkUp
  rw [h]
  refine (if_neg Bool.false_ne_true).trans ?_
  cases s.hostRefused (if p1 then 2 ^ 51 + 2 ^ 50 else 2 ^ 51) with
  | false => rfl
  | true => rfl

/-- The mark that `HOST_REQUEST_TIMEOUT` leaves on an access that waits for a port. -/
def refusedBy (p1 : Bool) (q : Pending) : Pending :=
  match q.waitsFor p1 with
  | some a => { q with refused := some (a.va, BitVec.ofNat 12 p1.toNat, 3) }
  | none => q

theorem waitsFor_refusedBy (p1 : Bool) (q : Pending) : (refusedBy p1 q).waitsFor p1 = none := by
  unfold refusedBy
  split
  · exact if_pos rfl
  · assumption

/-- One core's accesses that wait for a port are marked. -/
def refuseCore (p1 : Bool) (s : State) (i : Nat) : State :=
  if (s.core i).waitsFor p1 then s.modCore i (fun k => { k with pend := k.pend.map (refusedBy p1) }) else s

/-- Marking one core's accesses leaves none of them waiting, and lets no other core wait anew. -/
theorem waitsFor_refuseCore {p1 : Bool} {s : State} {i c : Nat} (hi : i < 512) (h : c = i ∨ (s.core c).waitsFor p1 = false) :
    ((refuseCore p1 s i).core c).waitsFor p1 = false := by
  unfold refuseCore
  split
  · rw [State.core_modCore s i c _ hi]
    split
    · refine List.any_eq_false.mpr fun q hq => ?_
      obtain ⟨q0, -, rfl⟩ := List.mem_map.mp hq
      rw [waitsFor_refusedBy]
      exact Bool.false_ne_true
    · next hne => exact h.resolve_left hne
  · next hidle =>
    rcases h with rfl | h
    · exact Bool.eq_false_iff.mpr hidle
    · exact h

theorem waitsFor_refuseCores {p1 : Bool} (l : List Nat) (hl : ∀ i ∈ l, i < 512) (s : State) (c : Nat)
    (h : c ∈ l ∨ (s.core c).waitsFor p1 = false) : ((l.foldl (refuseCore p1) s).core c).waitsFor p1 = false := by
  induction l generalizing s with
  | nil => exact h.resolve_left List.not_mem_nil
  | cons i l ih =>
    refine ih (fun j hj => hl j (List.mem_cons_of_mem i hj)) _ ?_
    have hi := hl i List.mem_cons_self
    rcases h with h | h
    · rcases List.mem_cons.mp h with h | h
      · exact Or.inr (waitsFor_refuseCore hi (Or.inl h))
      · exact Or.inl h
    · exact Or.inr (waitsFor_refuseCore hi (Or.inr h))

theorem refuseCores_pkg (p1 : Bool) (s : State) (l : List Nat) : (l.foldl (refuseCore p1) s).pkg = s.pkg := by
  refine foldl_keeps (fun t => t.pkg = s.pkg) (refuseCore p1) (fun t i ht => ?_) l s rfl
  unfold refuseCore
  split
  · exact ht
  · exact ht

/-- Once a port has been down for 10 ms nothing waits for it. -/
theorem execHostRequestTimeout_late {s : State} {p1 : Bool} (hdown : (s.port p1).up = false)
    (hlate : (s.port p1).downSince + 100000000 ≤ s.time) :
    ∃ t, execHostRequestTimeout p1 s = .next t ∧ (∀ h ∈ t.pkg.heldHost, bitAt h.1 50 ≠ p1) ∧
      ∀ core p, core < 512 → p ∈ (t.core core).pend → p.waitsFor p1 = none := by
  have hguard : ¬((s.port p1).up || decide (s.time < (s.port p1).downSince + 100000000)) = true := by
    rw [hdown, decide_eq_false (Nat.not_lt.mpr hlate)]
    decide
  have hrun : execHostRequestTimeout p1 s = .next ((List.range 512).foldl (refuseCore p1)
      (pkgSet (fun g => { g with heldHost := g.heldHost.filter (fun h => !heldBehind p1 h) }) s)) :=
    if_neg hguard
  refine ⟨_, hrun, fun h hh => ?_, fun core p hcore hp => ?_⟩
  · rw [refuseCores_pkg] at hh
    have hkept := (List.mem_filter.mp hh).2
    simpa [heldBehind] using hkept
  · have hnone := waitsFor_refuseCores (p1 := p1) (List.range 512) (fun i hi => List.mem_range.mp hi)
      (pkgSet (fun g => { g with heldHost := g.heldHost.filter (fun h => !heldBehind p1 h) }) s) core (Or.inl (List.mem_range.mpr hcore))
    exact Option.not_isSome_iff_eq_none.mp (List.any_eq_false.mp hnone p hp)

/-- The failure of a port that calls for a step. -/
theorem execPortFailure_due {s : State} {p1 : Bool} (h : s.failureDue p1 = true) :
    execPortFailure p1 s =
      (if !(s.port p1).adopting then
        .next (s.modPort p1 (fun p => { p with failed := true, adopting := s.alivePort (s.port (!p1)),
                                               adoptedFrom := p.adoptedFrom && !s.alivePort (s.port (!p1)) }))
       else match s.ownedBy p1 with
         | some r => .next (s.adoptRegion p1 r)
         | none => .next ((s.modPort p1 (fun p => { p with adopting := false, adoptedFrom := true })).modPort (!p1) (fun p =>
            ({ p with adopted := true } : Port).raiseVector 0))) := by
  unfold execPortFailure
  rw [h]
  rfl

/-- Settles O46: each access by the place it leads to, a push by the four reasons to drop it, a failed port by what is left to adopt. -/
theorem hostEvents : Obligations.HostEvents := by
  unfold Obligations.HostEvents
  intro p1 off n s at_
  refine ⟨fun hok hoff => ⟨execHostRead_bar0 hok hoff, execRegisterWrite_ok hok hoff⟩,
    fun hok hlo hhi hoff => ⟨execRegisterWrite_msix hok hlo hhi hoff, fun bs hbs => execHostRead_msix hok hbs⟩,
    fun hok => ⟨fun pa hplace hclean => ⟨execHostRead_bar2 hok (hostGet_mem hplace hclean), fun data hlen => ?_, fun hn op v cmp => ?_⟩,
      fun hplace => ⟨execHostRead_bar2 hok (hostGet_none hplace), fun data hlen => ?_⟩, fun image h0 hn => ?_⟩,
    fun hok => ?_, rfl, execHostLinkUp_down, ⟨fun hfail hrest hdue => ?_, fun hadopt => ?_⟩, execHostRequestTimeout_late⟩
  · exact execHostWrite_mem hok (by rw [hlen]; exact hplace)
  · exact execHostAtomic_mem hok hplace hclean hn op v cmp
  · exact execHostWrite_none hok (by rw [hlen]; exact hplace)
  · intro drop
    have hrun := execPushWindowWrite_ok (image := image) hok h0 hn
    refine ⟨fun hnone => hrun.trans (if_pos hnone), fun hsome hadopt => ?_, fun hsome hfrom howner => ?_⟩
    · refine hrun.trans ((if_neg ?_).trans (if_pos ?_))
      · rw [Option.isNone_eq_false_iff.mpr hsome]
        exact Bool.false_ne_true
      · simpa using hadopt
    · have hthere : ¬(s.region? n).isNone = true := by
        rw [Option.isNone_eq_false_iff.mpr hsome]
        exact Bool.false_ne_true
      have hstay : ¬((s.port p1).adoptedFrom || ((s.port p1).adopting && (s.rcb n 92 1 == 1) != p1)) = true := by
        simpa [hfrom] using howner
      refine ⟨fun hother => ?_, fun hown => ?_⟩
      · exact hrun.trans ((if_neg hthere).trans ((if_neg hstay).trans (if_pos (bne_iff_ne.mpr hother))))
      · exact hrun.trans ((if_neg hthere).trans ((if_neg hstay).trans (if_neg (fun h => bne_iff_ne.mp h hown))))
  · show execHeartbeatWrite p1 s = _
    unfold execHeartbeatWrite
    rw [hok]
    rfl
  · have hfailure : s.failureDue p1 = true := by
      unfold State.failureDue
      simpa [hfail, hrest] using hdue
    refine (execPortFailure_due hfailure).trans (if_pos ?_)
    rw [hrest]
    rfl
  · have hfailure : s.failureDue p1 = true := by
      unfold State.failureDue
      dsimp only
      rw [hadopt]
      rfl
    have hgoing : ¬(!(s.port p1).adopting) = true := by
      rw [hadopt]
      decide
    refine ⟨fun x hx => ?_, fun hnone => ?_⟩
    · have howned : s.ownedBy p1 = some x.num := congrArg (Option.map Region.num) hx
      refine (execPortFailure_due hfailure).trans ((if_neg hgoing).trans ?_)
      rw [howned]
    · have howned : s.ownedBy p1 = none :=
        Option.map_eq_none_iff.mpr (List.find?_eq_none.mpr fun x hx h => hnone x hx (beq_iff_eq.mp h))
      refine (execPortFailure_due hfailure).trans ((if_neg hgoing).trans ?_)
      rw [howned]

/-! ### Attestation, images and the boot -/

/-- A table without an entry that names a die. -/
def Unnamed (d : Nat) (s : State) : Prop := ∀ (n : Nat) x, s.pkg.ctab[n]? = some x → ctabNames x d = false

/-- Dropping a die's circuits leaves no entry that names it, and makes none that names another. -/
theorem unnamed_dropCircuits {d e : Nat} {s : State} (h : d = e ∨ Unnamed d s) : Unnamed d (s.dropCircuits e) := by
  intro n x hx
  have hmap : (s.pkg.ctab[n]?).map (fun x => if ctabNames x e then 0 else x) = some x := by
    rw [← hx]
    exact Vector.getElem?_map.symm
  obtain ⟨y, hy, rfl⟩ := Option.map_eq_some_iff.mp hmap
  split
  · rfl
  · next hkept =>
    rcases h with rfl | h
    · exact Bool.eq_false_iff.mpr hkept
    · exact h n y hy

theorem unnamed_dropDies {d : Nat} (l : List Nat) (s : State) (h : d ∈ l ∨ Unnamed d s) :
    Unnamed d (l.foldl (fun s e => s.dropCircuits e) s) := by
  induction l generalizing s with
  | nil => exact h.resolve_left List.not_mem_nil
  | cons e l ih =>
    refine ih _ ?_
    rcases h with h | h
    · rcases List.mem_cons.mp h with h | h
      · exact Or.inr (unnamed_dropCircuits (Or.inl h))
      · exact Or.inl h
    · exact Or.inr (unnamed_dropCircuits (Or.inr h))

/-- Dropping circuits changes the table alone. -/
theorem dropDies_keeps (l : List Nat) (s : State) :
    (l.foldl (fun s e => s.dropCircuits e) s).pkg.stage = s.pkg.stage ∧ (l.foldl (fun s e => s.dropCircuits e) s).mem = s.mem :=
  foldl_keeps (fun t => t.pkg.stage = s.pkg.stage ∧ t.mem = s.mem) (fun s e => s.dropCircuits e) (fun _ _ h => h) l s ⟨rfl, rfl⟩

theorem bootDies_untrained {s : State} (h : s.pkg.images.trained = false) : s.bootDies = pkgSet (fun g => { g with stage := 15 }) s := by
  refine if_pos ?_
  rw [h]
  rfl

theorem bootDies_trained {s : State} (h : s.pkg.images.trained = true) :
    s.bootDies = (darkDies s.pkg.images.diesAuth).foldl (fun s d => s.dropCircuits d)
      (pkgSet (fun g => { g with stage := 2, ctab := Package.reset.ctab }) s) := by
  refine if_neg ?_
  rw [h]
  exact Bool.false_ne_true

theorem pkgSet_mem (f : Package → Package) (s : State) : (pkgSet f s).mem = s.mem := rfl

/-- Steps 2 and 3: without training the boot fails; with it no die that is dark keeps an entry. -/
theorem bootDies_spec (s : State) :
    s.bootDies.pkg.stage = (if s.pkg.images.trained then 2 else 15) ∧ s.bootDies.mem = s.mem ∧
      (s.pkg.images.trained = true → ∀ d, d < 8 → s.pkg.images.diesAuth.getLsbD d = false → Unnamed d s.bootDies) := by
  cases htrained : s.pkg.images.trained with
  | false =>
    rw [bootDies_untrained htrained]
    exact ⟨rfl, rfl, fun h => nomatch h⟩
  | true =>
    rw [bootDies_trained htrained]
    obtain ⟨hstage, hmem⟩ := dropDies_keeps (darkDies s.pkg.images.diesAuth)
      (pkgSet (fun g => { g with stage := 2, ctab := Package.reset.ctab }) s)
    rw [hstage, hmem]
    refine ⟨rfl, pkgSet_mem _ s, fun _ d hd hdark => unnamed_dropDies _ _ (Or.inl ?_)⟩
    refine List.mem_filter.mpr ⟨List.mem_range.mpr hd, ?_⟩
    rw [hdark]
    rfl

/-- Steps 4 and 5: a die is present as its bit of the mask says. -/
theorem bootReady_die (s : State) {d : Nat} (hd : d < 8) :
    s.bootReady.die d = { Die.reset with present := s.pkg.images.diesAuth.getLsbD d, nextEdge := 8 } := by
  unfold State.bootReady State.die
  rw [tabulate_getElem?, dif_pos hd]
  rfl

theorem bootReady_dies (s : State) {d : Nat} (hd : d < 8) : s.bootReady.pkg.dies.getLsbD d = s.pkg.images.diesAuth.getLsbD d := by
  refine (BitVec.getLsbD_append ..).trans ?_
  exact if_pos hd

/-- What a write of the attestation register gives. -/
theorem execAttestGo_ok {s : State} {p1 : Bool} (hok : s.bar0Ok p1 = true) (hidle : s.pkg.attBusy = false) :
    execAttestGo p1 s = .next (pkgSet (fun g =>
      if 2 ^ 20 ≤ g.leaf then { g with attResult := 2 }
      else if s.hostWritable s.pkg.attAddr.toNat reportLen = false then { g with attResult := 3 }
      else { g with attBusy := true, attPort1 := p1, attResult := 1, leaf := g.leaf + 1 }) s) := by
  have hstart : ¬(!s.bar0Ok p1 || s.pkg.attBusy) = true := by
    rw [hok, hidle]
    decide
  refine (if_neg hstart).trans ?_
  unfold pkgSet
  by_cases hleaf : 2 ^ 20 ≤ s.pkg.leaf
  · exact (if_pos hleaf).trans (congrArg (fun g => Host.Outcome.next { s with pkg := g }) (if_pos hleaf).symm)
  refine (if_neg hleaf).trans (Eq.trans ?_ (congrArg (fun g => Host.Outcome.next { s with pkg := g }) (if_neg hleaf).symm))
  cases s.hostWritable s.pkg.attAddr.toNat reportLen with
  | false => exact if_pos rfl
  | true => exact if_neg Bool.false_ne_true

theorem execPackageReset_unbooted {s : State} (h : s.pkg.stage = 0) :
    execPackageReset s = .next { s with pkg := s.pkg.bootFirmware } := by
  unfold execPackageReset
  rw [h]
  rfl

theorem execPackageReset_booted {s : State} (h : s.pkg.stage = 1) : execPackageReset s = .next s.bootDies := by
  unfold execPackageReset
  rw [h]
  rfl

theorem execPackageReset_trained {s : State} (h : s.pkg.stage = 2) : execPackageReset s = .next s.bootReady := by
  unfold execPackageReset
  rw [h]
  rfl

theorem execPackageReset_again {s : State} (h : 3 ≤ s.pkg.stage.toNat) : execPackageReset s = .next s.again := by
  unfold execPackageReset
  split
  · omega
  · omega
  · omega
  · rfl

theorem execAttestComplete_ok {s : State} (hbusy : s.pkg.attBusy = true)
    (hwrite : s.hostWritable s.pkg.attAddr.toNat reportLen = true) (hup : (s.port (bitAt s.pkg.attAddr.toNat 50)).up = true) :
    execAttestComplete s = .next ((pkgSet (fun g => { g with attBusy := false, attResult := 0 })
      { s with mem := s.mem.writeBytes s.pkg.attAddr.toNat (s.report (s.pkg.leaf - 1)) }).modPort s.pkg.attPort1
        (fun p => p.raiseVector 1)) := by
  unfold execAttestComplete pkgSet
  simp only [hbusy, hwrite, hup, Bool.not_true, Bool.false_eq_true, if_false]

/-- Settles O47: attestation by its guards, the boot by the stage. -/
theorem packageEvents : Obligations.PackageEvents := by
  unfold Obligations.PackageEvents
  intro p1 b s a
  refine ⟨execAttestGo_ok, ?_, ?_, ?_, ?_, ?_, ?_, ?_⟩
  · exact execAttestComplete_ok
  · intro hbusy hwrite
    refine (if_neg ?_).trans (if_pos ?_)
    · rw [hbusy]
      exact Bool.false_ne_true
    · rw [hwrite]
      rfl
  · rfl
  · exact execPackageReset_unbooted
  · intro h1
    exact ⟨s.bootDies, execPackageReset_booted h1, bootDies_spec s⟩
  · intro h2
    refine ⟨s.bootReady, execPackageReset_trained h2, rfl, rfl, rfl, fun d hd => ?_⟩
    rw [bootReady_die s hd, bootReady_dies s hd]
    exact ⟨rfl, rfl, rfl, rfl⟩
  · exact execPackageReset_again

/-! ### The fabric -/

theorem modEngine_fabric (s : State) (i : EngineId) (f : Engine → Engine) : (s.modEngine i f).fabric = s.fabric := by
  cases i with
  | copy => rfl
  | psel => rfl
  | egress => rfl

theorem modEngine_time (s : State) (i : EngineId) (f : Engine → Engine) : (s.modEngine i f).time = s.time := by
  cases i with
  | copy => rfl
  | psel => rfl
  | egress => rfl

theorem noted_corrRecord (s : State) (c : Command) (type payload : Nat) : Noted s (s.corrRecord c type payload) := by
  unfold State.corrRecord
  split
  · exact noted_trace s _ _
  · exact noted_refl s

/-- The arrival of a command's first data is noted in its engine and in a trace alone. -/
theorem corrArrive_keeps (s : State) (r : FabReq) : (s.corrArrive r).fabric = s.fabric ∧ (s.corrArrive r).time = s.time := by
  unfold State.corrArrive
  split
  · exact ⟨rfl, rfl⟩
  split
  · exact ⟨rfl, rfl⟩
  split
  · split
    · exact ⟨rfl, rfl⟩
    · split
      · unfold State.modRunning
        obtain ⟨_, _, _, _, _, _, h⟩ := noted_corrRecord s ‹_› 0x02 ‹Command›.bytes
        rw [modEngine_fabric, modEngine_time, h]
        exact ⟨rfl, rfl⟩
      · exact ⟨rfl, rfl⟩
  · exact ⟨rfl, rfl⟩

theorem execFabricRequestArrive_again {s : State} {r : FabReq} {x : FabAnswer} (hstage : s.pkg.stage = 3)
    (hold : s.fabric.answerTo r.src r.seq = some x) (hpeer : r.src ≠ s.fabric.dev) :
    execFabricRequestArrive r s = .next (fabricSet (fun f => { f with sent := f.sent ++ [.answer r.src r.seq x] }) s) := by
  unfold execFabricRequestArrive fabricSet
  dsimp only
  rw [if_neg (Classical.not_not.mpr hstage), hold]
  dsimp only
  rw [if_neg hpeer]

/-- A new request waits behind one of its source and line, or else is served. -/
theorem execFabricRequestArrive_new {s : State} {r : FabReq} (hstage : s.pkg.stage = 3) (hnew : s.fabric.answerTo r.src r.seq = none)
    (hseq : ∀ h ∈ s.fabric.held, ¬(h.1.src = r.src ∧ h.1.seq = r.seq)) :
    execFabricRequestArrive r s =
      (if s.fabric.held.any (fun h => h.1.src == r.src && reqLine h.1 == reqLine r) then
        .next (fabricSet (fun f => { f with held := f.held ++ [(r, s.time, true)] }) (s.corrArrive r))
       else .next ((s.corrArrive r).exportServe r)) := by
  have hopen : ¬s.fabric.held.any (fun h => h.1.src == r.src && h.1.seq == r.seq) = true := by
    rw [List.any_eq_true]
    rintro ⟨h, hh, heq⟩
    exact hseq h hh (by simpa using heq)
  unfold execFabricRequestArrive fabricSet
  dsimp only
  rw [if_neg (Classical.not_not.mpr hstage), hnew]
  dsimp only
  rw [if_neg hopen, (corrArrive_keeps s r).1]

/-- A request is performed, refused or held, as its place in the exported window says. -/
theorem exportServe_place {s : State} {r : FabReq} {pa : Nat} (h : s.exportPlace r.off.toNat (reqWrites r) = .place pa) :
    s.exportServe r = (s.exportDo r pa).1.sendAnswer r (s.exportDo r pa).2 := by
  unfold State.exportServe
  rw [h]

theorem exportServe_refuse {s : State} {r : FabReq} (h : s.exportPlace r.off.toNat (reqWrites r) = .refuse) :
    s.exportServe r = s.sendAnswer r .refused := by
  unfold State.exportServe
  rw [h]

theorem exportServe_wait {s : State} {r : FabReq} {e : W64} (h : s.exportPlace r.off.toNat (reqWrites r) = .wait e) :
    s.exportServe r = fabricSet (fun f => { f with held := f.held ++ [(r, s.time, (s.exportRecord e).2)] }) (s.exportRecord e).1 := by
  unfold State.exportServe fabricSet
  rw [h]

theorem execExportWait_ready {s : State} {n t0 pa : Nat} {r : FabReq} {ok : Bool} (hheld : s.fabric.held[n]? = some (r, t0, ok))
    (hfirst : ∀ h ∈ s.fabric.held.take n, ¬(h.1.src = r.src ∧ reqLine h.1 = reqLine r))
    (hplace : s.exportPlace r.off.toNat (reqWrites r) = .place pa) :
    execExportWait n s = .next ((fabricSet (fun f => { f with held := f.held.eraseIdx n }) s).exportServe r) := by
  have hall : (s.fabric.held.take n).all (fun h => !(h.1.src == r.src && reqLine h.1 == reqLine r)) = true :=
    List.all_eq_true.mpr fun h hh => by simpa [Decidable.imp_iff_not_or] using hfirst h hh
  unfold execExportWait fabricSet
  dsimp only
  rw [hheld]
  dsimp only
  rw [hall, hplace]
  rfl

theorem execExportWait_late {s : State} {n t0 : Nat} {r : FabReq} {e : W64} (hheld : s.fabric.held[n]? = some (r, t0, true))
    (hplace : s.exportPlace r.off.toNat (reqWrites r) = .wait e) (hlate : t0 + 100000 ≤ s.time) :
    execExportWait n s = .next (((fabricSet (fun f => { f with held := f.held.set n (r, s.time, true) }) s).sendAnswer r .wait).waited r) := by
  unfold execExportWait fabricSet
  dsimp only
  rw [hheld]
  dsimp only
  rw [hplace]
  dsimp only
  rw [Bool.or_true, if_pos rfl, if_neg (Nat.not_lt.mpr hlate)]
  rfl

theorem execFabricResponse_found {s : State} {n : Nat} {o : FabOut} (ho : s.fabric.outs.find? (fun o => o.id == n) = some o)
    (answer : FabAnswer) :
    execFabricResponse n answer s = (match answer with
      | .wait => .next (fabricSet (fun f => { f with outs := f.outs.map (fun x =>
          if x.id = n then { x with sent := s.time, tries := 0 } else x) }) s)
      | .refused => .next (s.requestBad o false)
      | .data bs => .next (match o.owner with
          | .access core pend lanes => (s.dropOut n).accessAnswer core pend lanes bs
          | .command e _ _ => (s.dropOut n).commandAnswer e o.peer o.req bs
          | .releaseOf e => (s.dropOut n).answered e (fun c => c)
          | .watch wg half1 off => (s.dropOut n).watchAnswer wg half1 off (ofBytes bs)
          | .part => s.dropOut n)) := by
  unfold execFabricResponse
  rw [ho]
  cases answer with
  | wait => rfl
  | refused => rfl
  | data bs =>
    dsimp only
    cases o.owner with
    | access => rfl
    | command => rfl
    | releaseOf => rfl
    | watch => rfl
    | part => rfl

theorem execFabricRetransmit_due {s : State} {n : Nat} {o : FabOut} (ho : s.fabric.outs.find? (fun o => o.id == n) = some o)
    (hpeer : o.peer ≠ s.fabric.dev) (hdue : o.sent + 200000 ≤ s.time) :
    execFabricRetransmit n s =
      (if 3 ≤ o.tries then .next (s.requestBad o true)
       else .next (fabricSet (fun f => { f with
          outs := f.outs.map (fun x =>
            if x.id = n then { x with sent := s.time, tries := x.tries + 1, plane := f.otherPlane o.plane } else x),
          sent := f.sent ++ [.request o.req o.peer (f.otherPlane o.plane)] }) s)) := by
  unfold execFabricRetransmit
  dsimp only
  rw [ho]
  dsimp only
  rw [if_neg (not_or.mpr ⟨hpeer, Nat.not_lt.mpr hdue⟩)]
  rfl

/-- The port of a number is replaced. -/
def setFabPort (n : Nat) (q : FabPort) (s : State) : State :=
  fabricSet (fun f => { f with ports := f.ports.setIfInBounds n q }) s

theorem execLinkRetrain_up {s : State} {n m lanes : Nat} {p : FabPort} {agreed : Bool} (hp : s.fabric.ports[n]? = some p)
    (hup : p.up = true) (h1 : 1 ≤ m) (h3 : m ≤ 3) (hlanes : lanes ≤ 4) (hagreed : agreed = true ∨ m = 3) :
    execLinkRetrain n m lanes agreed s = .next (setFabPort n
      (if agreed then { p with retrains := p.retrains + 1, rounds := BitVec.ofNat 2 m, lanes := BitVec.ofNat 3 lanes }
       else { p with retrains := p.retrains + 1, rounds := BitVec.ofNat 2 m, up := false, dis := true, lanes := 0, downAt := s.time })
      s) := by
  have hguard : ¬(!p.up || decide (m = 0) || decide (3 < m) || (!agreed && m != 3) || decide (4 < lanes)) = true := by
    rw [hup, decide_eq_false (Nat.ne_of_gt h1), decide_eq_false (Nat.not_lt.mpr h3), decide_eq_false (Nat.not_lt.mpr hlanes)]
    rcases hagreed with rfl | rfl
    · exact Bool.false_ne_true
    · cases agreed with
      | false => decide
      | true => decide
  unfold execLinkRetrain
  rw [hp]
  exact if_neg hguard

/-- Settles O48: each event finds its request, port or place and takes the branch that the hypotheses choose. -/
theorem fabricEvents : Obligations.FabricEvents := by
  unfold Obligations.FabricEvents
  intro n m s r o p f
  refine ⟨fun hstage => ⟨fun x => execFabricRequestArrive_again hstage, fun hnew hseq => ?_⟩, fun t0 ok hheld hfirst => ⟨?_, ?_⟩,
    fun x first corr engine queue seq kind payload hx => ?_, fun ho => ⟨?_, ?_, fun bs => ?_, fun hpeer hdue => ⟨?_, ?_⟩⟩, rfl,
    fun hp => ⟨fun vc c k count hc hk => ?_, fun hup h1 h3 lanes hlanes => ⟨?_, ?_⟩, fun hstage hen hdis hup lport off => ?_⟩,
    fun _ => rfl⟩
  · intro s1
    have hrun := execFabricRequestArrive_new hstage hnew hseq
    refine ⟨fun hbehind => hrun.trans (if_pos ?_), fun hfree => ?_⟩
    · obtain ⟨h, hh, hsrc, hline⟩ := hbehind
      exact List.any_eq_true.mpr ⟨h, hh, by simp [hsrc, hline]⟩
    · have hserve : execFabricRequestArrive r s = .next (s1.exportServe r) := by
        refine hrun.trans (if_neg ?_)
        rw [List.any_eq_true]
        rintro ⟨h, hh, heq⟩
        exact hfree h hh (by simpa using heq)
      refine ⟨fun pa hplace => ?_, fun hrefuse => ?_, fun e hwait => ?_⟩
      · exact hserve.trans (congrArg _ (exportServe_place hplace))
      · exact hserve.trans (congrArg _ (exportServe_refuse hrefuse))
      · refine hserve.trans (congrArg _ ((exportServe_wait hwait).trans ?_))
        rw [show s1.time = s.time from (corrArrive_keeps s r).2]
  · exact fun pa hplace => execExportWait_ready hheld hfirst hplace
  · rintro e hwait hlate rfl
    exact execExportWait_late hheld hwait hlate
  · show execCorrelationPacket first corr engine queue seq kind payload s = _
    unfold execCorrelationPacket
    rw [hx]
  · exact execFabricResponse_found ho .wait
  · exact execFabricResponse_found ho .refused
  · exact execFabricResponse_found ho (.data bs)
  · exact fun htries => (execFabricRetransmit_due ho hpeer hdue).trans (if_pos htries)
  · exact fun htries => (execFabricRetransmit_due ho hpeer hdue).trans (if_neg (Nat.not_le.mpr htries))
  · show execCensusFlit n vc count s = _
    unfold execCensusFlit
    rw [hp]
    dsimp only
    rw [hc, hk]
    rfl
  · exact execLinkRetrain_up hp hup h1 h3 hlanes (Or.inl rfl)
  · exact fun hm => execLinkRetrain_up hp hup h1 h3 hlanes (Or.inr hm)
  · show execPortEnable n lport off s = _
    unfold execPortEnable
    rw [hp]
    dsimp only
    rw [hen, hdis, hup]
    exact if_neg (by simp [hstage])

end Sys2Proof.Proofs
end

section
/-!
PROOFS. Entering work, an access that is performed, operand codes, and traps (spec 01_group.md, 02_encoding.md, 05_group_float_lanes.md, 06_core.md, 09_matrix.md, 10_copy.md).
-/
namespace Sys2Proof.Proofs
open Sys2Proof.Machine Sys2Proof.Claims Sys2Proof.Laws

/-! ### Entering an access -/

/-- What obtaining entries of the transaction table leaves alone. -/
def SameTable (s t : State) : Prop :=
  t.mem = s.mem ∧ t.fabric = s.fabric ∧ t.groups = s.groups ∧
  ∀ i, (t.core i).pend = (s.core i).pend ∧ (t.core i).nextPend = (s.core i).nextPend

/-- With room in the table its entries are obtained, and at most the core's list of waiters is shorter. -/
theorem tableRoom_same {e : Env} {n : Nat} {s : State} (h : TableRoom e n s) :
    ∃ t, tableRoom e (min 32 n) s = .ok ((), t) ∧ SameTable s t := by
  have hself : SameTable s s := ⟨rfl, rfl, rfl, fun _ => ⟨rfl, rfl⟩⟩
  unfold tableRoom
  dsimp only
  by_cases hn : min 32 n = 0
  · exact ⟨s, if_pos hn, hself⟩
  rcases h with rfl | h
  · exact absurd rfl hn
  · rw [if_neg hn, foldl_waits_eq_sum, Nat.zero_add, if_pos h]
    refine ⟨_, rfl, rfl, rfl, rfl, fun i => ?_⟩
    by_cases hi : i = e.g.core
    · subst hi
      by_cases hsize : e.g.core < s.cores.size
      · rw [State.core_modCore_same _ _ _ hsize]
        exact ⟨rfl, rfl⟩
      · have hnone (u : State) : u.core e.g.core = Core.reset := by
          unfold State.core
          rw [Vector.getElem?_eq_none (Nat.not_lt.mp hsize)]
          rfl
        rw [hnone, hnone]
        exact ⟨rfl, rfl⟩
    · rw [State.core_modCore_other _ _ _ _ hi]
      exact ⟨rfl, rfl⟩

/-- An access waits for accesses of its core alone. -/
theorem depsFor_pend (e : Env) (write : Bool) (order : Nat) (s : State) :
    ∃ l, depsFor e write order s = .ok (l, s) ∧ ∀ i ∈ l, ∃ q ∈ (s.core e.g.core).pend, q.id = i := by
  have hany {i : Nat} (h : (s.core e.g.core).pend.any (fun p => p.id == i) = true) : ∃ q ∈ (s.core e.g.core).pend, q.id = i := by
    obtain ⟨q, hq, hid⟩ := List.any_eq_true.mp h
    exact ⟨q, hq, beq_iff_eq.mp hid⟩
  unfold depsFor
  rw [exec_bind_ok (exec_get s), exec_bind_ok (curSlice_ok e s)]
  dsimp only
  by_cases h : 2 ≤ order
  · rw [if_pos h]
    refine ⟨_, rfl, fun i hi => ?_⟩
    rcases List.mem_append.mp hi with hi | hi
    · obtain ⟨q, hq, rfl⟩ := List.mem_map.mp hi
      exact ⟨q, (List.mem_filter.mp hq).1, rfl⟩
    · exact hany (Bool.and_eq_true_iff.mp (List.mem_filter.mp hi).2).2
  · rw [if_neg h]
    exact ⟨_, rfl, fun i hi => hany (List.mem_filter.mp hi).2⟩

/-- The entry that an access makes. -/
def entered (e : Env) (x : NewPend) (id : Nat) (deps : List Nat) : Pending :=
  { id := id, grp := e.cur.grp, a := e.cur.a, pc := e.path.pc, kind := x.kind, dst := x.dst, ext := x.ext, accs := x.accs,
    scope := x.scope, acquire := x.order % 2 == 1, sync := x.order != 0, nc := x.nc, deps := deps, token := x.token,
    corr := e.sl.corr, refused := none }

/-- What entering an access does to its slice: a wait counter rises, and an acquire is noted. -/
def counting (x : NewPend) (id : Nat) (sl : Slice) : Slice :=
  let sl1 := if !x.kind.counted then sl
             else if x.kind.isLoad then { sl with loads := sl.loads + 1 } else { sl with stores := sl.stores + 1 }
  if x.order % 2 == 1 then { sl1 with acqIds := sl1.acqIds ++ [id] } else sl1

theorem enter_eq {e : Env} {x : NewPend} {s : State} (h : EnterRoom e x.kind x.accs s) :
    ∃ t deps, SameTable s t ∧ (∀ i ∈ deps, ∃ q ∈ (s.core e.g.core).pend, q.id = i) ∧
      enter e x s = .ok ((), onSlice e (counting x (s.core e.g.core).nextPend)
        (t.addPend e.g.core (entered e x (s.core e.g.core).nextPend deps))) := by
  obtain ⟨hcount, htable, hwindow⟩ := h
  obtain ⟨t, ht, hsame⟩ := tableRoom_same htable
  have ⟨_, hfabric, _, hcores⟩ := hsame
  obtain ⟨hpend, hnext⟩ := hcores e.g.core
  obtain ⟨deps, hdeps, hmem⟩ := depsFor_pend e x.kind.writes x.order t
  refine ⟨t, deps, hsame, ?_, ?_⟩
  · rwa [hpend] at hmem
  · unfold enter
    rw [exec_bind_ok (counterRoom_ok hcount), exec_bind_ok (show tableRoom e (tableNeed x.accs) s = _ from ht),
      exec_bind_ok (windowRoom_ok (by rw [hfabric]; exact hwindow)), exec_bind_ok hdeps, ← hnext]
    rfl

/-- A kind that a wait counter counts raises the one of its direction. -/
theorem counting_counters {x : NewPend} (id : Nat) (sl : Slice) (hstage : x.kind ≠ .stage) (hreload : x.kind ≠ .reload) :
    (counting x id sl).loads = (if x.kind.isLoad then sl.loads + 1 else sl.loads) ∧
      (counting x id sl).stores = (if x.kind.isLoad then sl.stores else sl.stores + 1) := by
  have hcounted : x.kind.counted = true := by
    unfold PendKind.counted
    split
    · contradiction
    · contradiction
    · rfl
  unfold counting
  rw [hcounted]
  cases x.kind.isLoad <;> cases x.order % 2 == 1 <;> exact ⟨rfl, rfl⟩

theorem addPend_pend (t : State) (core : Nat) (p : Pending) (h : core < t.cores.size) :
    ((t.addPend core p).core core).pend = (t.core core).pend ++ [{ p with id := (t.core core).nextPend }] := by
  unfold State.addPend
  rw [State.core_modCore_same _ _ _ h]

/-! ### Queuing a pass -/

theorem sub_modSub_same (k : Core) (i : Nat) (f : Subcore → Subcore) (h : i < k.subs.size) : (k.modSub i f).sub i = f (k.sub i) := by
  unfold Core.modSub Core.sub
  simp [h]

/-- A pass as it is queued. -/
def newPass (e : Env) (op : PassOp) (cycles : Nat) (tiles vregs : List Nat) (s : State) : Pass :=
  { serial := s.nextId, grp := e.cur.grp, pc := e.path.pc, op := op, cycles := cycles,
    fences := (((s.slice? e.cur.grp e.cur.a).getD e.sl).fences.filter
      (fun f => f.later == .matrix && s.pointOpen e.g.core e.g.sub f)),
    tiles := tiles, vregs := vregs }

/-- The state in which a pass stands behind the subcore's others. -/
def withPass (e : Env) (p : Pass) (s : State) : State :=
  { s.modCore e.g.core (fun k => k.modSub e.g.sub (fun b => { b with waiting := b.waiting ++ [p] })) with nextId := s.nextId + 1 }

theorem addPass_eq (e : Env) (op : PassOp) (cycles : Nat) (tiles vregs : List Nat) (s : State) :
    addPass e op cycles tiles vregs s =
      .ok ((), onSlice e (fun sl => { sl with passes := sl.passes + 1 }) (withPass e (newPass e op cycles tiles vregs s) s)) := rfl

theorem withPass_passes {e : Env} {s : State} (p : Pass) (hcore : e.g.core < s.cores.size)
    (hsub : e.g.sub < (s.core e.g.core).subs.size) :
    (((withPass e p s).core e.g.core).sub e.g.sub).passes = ((s.core e.g.core).sub e.g.sub).passes ++ [p] := by
  have hk : (withPass e p s).core e.g.core =
      (s.core e.g.core).modSub e.g.sub (fun b => { b with waiting := b.waiting ++ [p] }) :=
    State.core_modCore_same s _ (fun k => k.modSub e.g.sub (fun b => { b with waiting := b.waiting ++ [p] })) hcore
  rw [hk, sub_modSub_same _ _ _ hsub]
  unfold Subcore.passes
  exact (List.append_assoc ..).symm

/-- Changing a slice changes no accumulator. -/
theorem acc_modSlice {s : State} {n : Nat} {g : Group} (a : Bool) (f : Slice → Slice) (h : s.group? n = some g) :
    ∃ g', (s.modSlice n a f).group? n = some g' ∧ g'.acc = g.acc := by
  refine ⟨g.modSlice a f, ?_, ?_⟩
  · rw [State.group?_modSlice, h, Option.map_some, if_pos rfl]
  · exact Group.modSlice_acc g a f

/-! ### Queuing a command -/

theorem queued_engine {s : State} {i : EngineId} {core unit : Nat} (f g : Engine → Engine) (n : Nat) (hi : i = .copy core unit)
    (hcore : core < s.cores.size) (hunit : unit < 2) :
    (State.modEngine { s.modEngine i f with nextId := n } i g).engine i = g (f (s.engine i)) := by
  subst hi
  have hmod (t : State) (f : Engine → Engine) (ht : core < t.cores.size) :
      (t.modEngine (.copy core unit) f).engine (.copy core unit) = f (t.engine (.copy core unit)) := by
    unfold State.modEngine State.engine
    dsimp only
    rw [State.core_modCore_same _ _ _ ht]
    simp [hunit]
  exact (hmod { s.modEngine (.copy core unit) f with nextId := n } g hcore).trans (congrArg g (hmod s f hcore))

/-- A numbered command at the end of its queue. -/
theorem append_advanceSeq (q : Engine) (c : Command) :
    (q.advanceSeq c.prio).append c = if c.prio then { q with prio := q.prio ++ [c], seqP := q.seqP + 1 }
      else { q with normal := q.normal ++ [c], seqN := q.seqN + 1 } := by
  unfold Engine.append Engine.advanceSeq
  cases c.prio with
  | true => rfl
  | false => rfl

/-- A command that nothing holds back goes to its queue, and no record is written. -/
theorem placed_free {e : Env} {c : Command} {cost : Nat} {s : State} (hstep : e.w.stepping = false) (htrace : c.corr.getLsbD 31 = false)
    (hheld : ∀ r ∈ s.regions, r.num = c.region → r.holdTasks = false) :
    placed e c cost s = State.modEngine { s.modEngine c.engine (fun q => q.advanceSeq c.prio) with nextId := s.nextId + 1 } c.engine
      (fun q => q.append (queuedAs e c cost s)) := by
  have hfree : ¬s.regions.any (fun r => r.num == c.region && r.holdTasks) = true := by
    rw [List.any_eq_true]
    rintro ⟨r, hr, hboth⟩
    obtain ⟨hnum, hholds⟩ := Bool.and_eq_true_iff.mp hboth
    exact Bool.false_ne_true ((hheld r hr (beq_iff_eq.mp hnum)).symm.trans hholds)
  have hquiet : numbered e c cost s = { s.modEngine c.engine (fun q => q.advanceSeq c.prio) with nextId := s.nextId + 1 } := by
    refine if_neg ?_
    rw [show (queuedAs e c cost s).corr = c.corr from rfl, htrace]
    exact Bool.false_ne_true
  unfold placed
  rw [hstep, if_neg Bool.false_ne_true, if_neg hfree, hquiet]

theorem modEngine_mem (s : State) (i : EngineId) (f : Engine → Engine) : (s.modEngine i f).mem = s.mem := by
  cases i with
  | copy => rfl
  | psel => rfl
  | egress => rfl

theorem slice?_modEngine (s : State) (i : EngineId) (f : Engine → Engine) (n : Nat) (a : Bool) :
    (s.modEngine i f).slice? n a = s.slice? n a := by
  cases i with
  | copy => rfl
  | psel => rfl
  | egress => rfl

theorem engine_modSlice (s : State) (n : Nat) (a : Bool) (f : Slice → Slice) (i : EngineId) : (s.modSlice n a f).engine i = s.engine i := by
  cases i with
  | copy => rfl
  | psel => rfl
  | egress => rfl

/-- Settles O49: with room each operation runs to its end (`enter_eq`, `addPass_eq`, `submit_eq`), and the state it leaves is read off. -/
theorem workEntered : Obligations.WorkEntered := by
  unfold Obligations.WorkEntered
  refine ⟨fun e x s k hk hstage hreload hroom => ?_, fun e op cycles tiles vregs s hcore hsub => ?_,
    fun e c cost s unit hengine hunit hcore _ hstep htrace hheld fs hfs => ?_⟩
  · subst hk
    obtain ⟨t, deps, ⟨hmem, hfabric, hgroups, hcores⟩, hdeps, hrun⟩ := enter_eq hroom
    obtain ⟨hpend, hnext⟩ := hcores e.g.core
    have hslice : t.slice? e.cur.grp e.cur.a = s.slice? e.cur.grp e.cur.a := by
      unfold State.slice? State.group?
      rw [hgroups]
    refine ⟨_, deps, entered e x (s.core e.g.core).nextPend deps, hrun, fun hcore => ?_, rfl, rfl, rfl, rfl, rfl, rfl, rfl, rfl, rfl,
      rfl, hmem, hdeps, fun sl hsl => ?_⟩
    · refine (addPend_pend t e.g.core _ hcore).trans ?_
      rw [hpend, hnext]
      rfl
    · obtain ⟨hloads, hstores⟩ := counting_counters (s.core e.g.core).nextPend sl hstage hreload
      refine ⟨_, ?_, hloads, hstores⟩
      refine (State.slice?_modSlice_same _ _ _ _).trans ?_
      rw [show (t.addPend e.g.core _).slice? e.cur.grp e.cur.a = some sl from hslice.trans hsl]
      rfl
  · refine ⟨_, newPass e op cycles tiles vregs s, addPass_eq e op cycles tiles vregs s, ?_, rfl, rfl, rfl, rfl, rfl, rfl,
      fun sl hsl => ⟨_, ?_, rfl⟩, fun g hg => ?_, rfl⟩
    · exact withPass_passes _ hcore hsub
    · exact (State.slice?_modSlice_same ..).trans (congrArg (Option.map _) hsl)
    · exact acc_modSlice _ _ (s := withPass e _ s) hg
  · intro q p c1
    have hopen : openFences e c.engine s = fs := by
      have hret : s.fencesTo e .copy s = .ok (openFences e c.engine s, s) := by
        unfold openFences
        rw [hengine]
        rfl
      rw [hret] at hfs
      exact congrArg Prod.fst (Except.ok.inj hfs)
    have hpromise : promiseOf e c cost s = p := by
      unfold promiseOf
      rw [hopen]
    have hcmd : queuedAs e c cost s = c1 := by
      unfold queuedAs
      rw [hpromise, hopen]
    have hplaced := placed_free (cost := cost) hstep htrace hheld
    rw [hcmd] at hplaced
    refine ⟨_, submit_eq e c cost s, ?_, fun sl hsl => ?_, ?_⟩
    · rw [hplaced]
      exact (engine_modSlice ..).trans ((queued_engine _ _ _ hengine hcore hunit).trans (append_advanceSeq q c1))
    · rw [hplaced, hpromise]
      refine (State.slice?_modSlice_same ..).trans ?_
      rw [slice?_modEngine]
      refine congrArg (Option.map _) ((slice?_modEngine s _ _ _ _).trans hsl)
    · rw [hplaced]
      exact (modEngine_mem ..).trans (modEngine_mem ..)

/-! ### An outstanding load that carries numeric events -/

/-- A load of one scalar whose entry holds a numeric event, as only an atomic's does. -/
def eventfulLoad : Pending :=
  { id := 0, grp := 1, a := false, pc := 0, kind := .load, dst := .scalar 0, ext := ⟨4, false⟩,
    accs := [⟨32, 0, .mem 0x1000, 4, [], [], 0, true, false⟩], scope := .sys, acquire := false, sync := false, nc := false, deps := [],
    token := none, corr := 0, refused := none, ev := 1 }

/-- Its group, whose X-slice takes a host interrupt for the event. -/
def interruptedGroup : Group :=
  { fetchGroup 1 0 with x := { (fetchGroup 1 0).x with evctl := 0x41 } }

/-- Die 0 is in service, and the region's trace buffer has one record. -/
def eventfulState : State :=
  { State.reset with
    mem := [(80, 1)], groups := [interruptedGroup], pkg := { State.reset.pkg with dies := 1 },
    cores := State.reset.cores.setIfInBounds 0 { Core.reset with pend := [eventfulLoad] } }

/-- Its trace record is written: memory does not stay as it was. -/
theorem eventfulLoad_traces :
    (match exec (.loadResponse 0 0) eventfulState with | .next t => t.mem.read 0 | _ => 0) = 9 := by decide +kernel

theorem eventfulLoad_servable : pendAt eventfulState 0 0 = some eventfulLoad ∧ Servable eventfulState 0 eventfulLoad := by
  unfold Servable
  decide +kernel

/-- Refutes O54: an outstanding load may carry numeric events, and when it completes, they are recorded with it; where the slice
takes a host interrupt for the event, the trace record of that interrupt changes memory, which the statement says stays as it was. -/
theorem not_accessPerformed : ¬ Obligations.AccessPerformed := by
  unfold Obligations.AccessPerformed
  intro h
  obtain ⟨hpend, hserv⟩ := eventfulLoad_servable
  obtain ⟨-, hscalar, -⟩ := h 0 0 eventfulState eventfulLoad (by decide) hpend rfl hserv
  obtain ⟨t, _, hrun, -, hmem, -⟩ := hscalar _ 0x1000 0 interruptedGroup.x rfl rfl rfl rfl rfl (by decide +kernel) rfl (by decide)
    (by decide +kernel)
  have hread := eventfulLoad_traces
  rw [hrun] at hread
  dsimp only at hread
  rw [hmem] at hread
  exact absurd hread (by decide +kernel)

/-! ### What register codes name (Table 2.7) -/

theorem code_toNat {c : Nat} (h : c < 256) : (BitVec.ofNat 8 c).toNat = c := by
  rw [BitVec.toNat_ofNat]
  exact Nat.mod_eq_of_lt h

theorem code_v {n : Nat} (h : n < 128) : RC.of (BitVec.ofNat 8 n) = .v ∧ regNo (BitVec.ofNat 8 n) = n := by
  unfold RC.of regNo
  rw [code_toNat (by omega)]
  exact ⟨if_pos h, if_pos h⟩

theorem code_s {n : Nat} (h : n < 32) : RC.of (BitVec.ofNat 8 (0x80 + n)) = .s ∧ regNo (BitVec.ofNat 8 (0x80 + n)) = n := by
  unfold RC.of regNo
  rw [code_toNat (by omega)]
  dsimp only
  rw [if_neg (by omega), if_pos (by omega), if_neg (by omega), if_pos (by omega)]
  exact ⟨rfl, by omega⟩

theorem code_q {n : Nat} (h : n < 12) : RC.of (BitVec.ofNat 8 (0xA0 + n)) = .q ∧ regNo (BitVec.ofNat 8 (0xA0 + n)) = n := by
  unfold RC.of regNo
  rw [code_toNat (by omega)]
  dsimp only
  rw [if_neg (by omega), if_neg (by omega), if_pos (by omega), if_neg (by omega), if_neg (by omega), if_pos (by omega)]
  exact ⟨rfl, by omega⟩

theorem code_p {n : Nat} (h : n < 16) : RC.of (BitVec.ofNat 8 (0xB0 + n)) = .p ∧ regNo (BitVec.ofNat 8 (0xB0 + n)) = n := by
  unfold RC.of regNo
  rw [code_toNat (by omega)]
  dsimp only
  rw [if_neg (by omega), if_neg (by omega), if_neg (by omega), if_pos (by omega), if_neg (by omega), if_neg (by omega),
    if_neg (by omega), if_pos (by omega)]
  exact ⟨rfl, by omega⟩

/-! ### Sources -/

theorem lane_tabulate {f : Fin 32 → W64} {l : Nat} (h : l < 32) : lane (tabulate 32 f) l = f ⟨l, h⟩ := by
  unfold lane
  rw [tabulate_getElem?, dif_pos h]
  rfl

theorem lane_splat (x : W64) {l : Nat} (h : l < 32) : lane (splat x) l = x := by
  unfold lane splat
  rw [Vector.getElem?_replicate, if_pos h]
  rfl

/-- A lane of a vector register. -/
theorem getD_lane (v : Lanes) {l : Nat} (h : l < 32) : (v[l]?).getD 0 = v[l] := by
  rw [Vector.getElem?_eq_getElem h]
  rfl

theorem srcV_v {e : Env} {t : Ty} {code : BitVec 8} (h : RC.of code = .v) (s : State) :
    srcV e t code none s =
      .ok (if t.wide then joinLanes (e.sl.v (regNo code)) (e.sl.v (regNo code + 1)) else widen (e.sl.v (regNo code)), s) := by
  unfold srcV
  rw [h]
  rfl

theorem srcV_s {e : Env} {t : Ty} {code : BitVec 8} (h : RC.of code = .s) (s : State) :
    srcV e t code none s =
      .ok (splat (if t.wide then e.sl.s (regNo code) else ((e.sl.s (regNo code)).setWidth 32).setWidth 64), s) := by
  unfold srcV
  rw [h]
  rfl

theorem srcS_s {e : Env} {code : BitVec 8} (h : RC.of code = .s) (s : State) : srcS e code none s = .ok (e.sl.s (regNo code), s) := by
  unfold srcS
  rw [h]
  rfl

/-- The lanes of a vector register as a source. -/
theorem lane_srcV_v (sl : Slice) (t : Ty) (n : Nat) {l : Nat} (h : l < 32) :
    lane (if t.wide then joinLanes (sl.v n) (sl.v (n + 1)) else widen (sl.v n)) l =
      if t.wide then ((sl.v (n + 1))[l]?).getD 0 ++ ((sl.v n)[l]?).getD 0 else (((sl.v n)[l]?).getD 0).setWidth 64 := by
  rw [getD_lane _ h, getD_lane _ h]
  cases t.wide with
  | true => exact lane_tabulate h
  | false => exact lane_tabulate h

/-! ### A pop -/

theorem queue_setQueue_same {g : Group} {n : Nat} (q : Queue) (h : n < g.queues.size) : (g.setQueue n q).queue n = q := by
  unfold Group.setQueue Group.queue
  simp [h]

theorem queue_setQueue_other {g : Group} {n k : Nat} (q : Queue) (h : k ≠ n) : (g.setQueue n q).queue k = g.queue k := by
  unfold Group.setQueue Group.queue
  rw [Vector.getElem?_setIfInBounds_ne (fun e => h e.symm)]

theorem queue_modSlice (g : Group) (a : Bool) (f : Slice → Slice) (k : Nat) : (g.modSlice a f).queue k = g.queue k := by
  unfold Group.queue
  rw [Group.modSlice_queues]

theorem entries_pop {q : Queue} {x : QEntry} {r : List QEntry} (h : q.entries = x :: r) : q.pop.entries = r := by
  unfold Queue.pop
  rw [h]
  rfl

/-- A pop of a filled entry without a token takes it off the queue. -/
theorem popEntry_ok {e : Env} {s : State} {g : Group} {n : Nat} {x : QEntry} {r : List QEntry} (hg : s.group? e.cur.grp = some g)
    (hq : (g.queue n).entries = x :: r) (hfill : x.fill = none) (htoken : x.token = none) (hidle : SyncIdle e s) :
    popEntry e n s = .ok (x, onSlice e (fun sl => { sl with acqIds := addIds sl.acqIds x.after })
      (s.modGroup e.cur.grp (fun g' => g'.setQueue n (g.queue n).pop))) := by
  have hcur : curGroup e s = .ok (g, s) := by
    unfold curGroup
    rw [exec_bind_ok (exec_get s), hg]
    rfl
  unfold popEntry
  rw [exec_bind_ok hcur]
  rw [hq]
  dsimp only
  rw [hfill, htoken]
  refine (exec_bind_ok (syncReady_ok hidle)).trans ?_
  rfl

/-- The groups that a pop leaves. -/
theorem popped_group {e : Env} {s : State} {g : Group} (n : Nat) (q : Queue) (f : Slice → Slice) (hg : s.group? e.cur.grp = some g) :
    (onSlice e f (s.modGroup e.cur.grp (fun g' => g'.setQueue n q))).group? e.cur.grp =
      some ((g.setQueue n q).modSlice e.cur.a f) := by
  refine (State.group?_modSlice ..).trans ?_
  rw [State.group?_modGroup _ _ _ (fun g' => g'.setQueue n q) (fun _ h => h), hg, Option.map_some, Option.map_some, if_pos rfl, if_pos rfl]

theorem srcS_q {e : Env} {s u : State} {code : BitVec 8} {n : Nat} {x : QEntry} (h : RC.of code = .q) (hno : regNo code = n)
    (hn : n < 12) (hpop : popEntry e n s = .ok (x, u)) : srcS e code none s = .ok (x.scalar, u) := by
  unfold srcS
  rw [h, hno]
  refine (congrFun (if_neg (Nat.not_le.mpr hn)) s).trans ?_
  exact (exec_bind_ok hpop).trans rfl

/-! ### Destinations -/

theorem v_setV_same {sl : Slice} {n : Nat} (m : W32) (x : Lanes) (h : n < sl.vreg.length) : (sl.setV n m x).v n = merge m x (sl.v n) := by
  unfold Slice.setV Slice.v
  simp [h]

theorem v_setV_other {sl : Slice} {n k : Nat} (m : W32) (x : Lanes) (h : k ≠ n) : (sl.setV n m x).v k = sl.v k := by
  unfold Slice.setV Slice.v
  simp [List.getElem?_set_ne (fun e => h e.symm)]

theorem s_setS_same (sl : Slice) {n : Nat} (x : W64) (h : n < 32) : (sl.setS n x).s n = x := by
  unfold Slice.setS Slice.s
  simp [h]

theorem s_setS_other (sl : Slice) {n k : Nat} (x : W64) (h : k ≠ n) : (sl.setS n x).s k = sl.s k := by
  unfold Slice.setS Slice.s
  rw [Vector.getElem?_setIfInBounds_ne (fun e => h e.symm)]

theorem p_setP_same (sl : Slice) {n : Nat} (m x : W32) (h : n < 16) : (sl.setP n m x).p n = (x &&& m) ||| (sl.p n &&& ~~~m) := by
  unfold Slice.setP Slice.p
  simp [h]

theorem p_setP_other (sl : Slice) {n k : Nat} (m x : W32) (h : k ≠ n) : (sl.setP n m x).p k = sl.p k := by
  unfold Slice.setP Slice.p
  rw [Vector.getElem?_setIfInBounds_ne (fun e => h e.symm)]

/-- A lane of a write under a mask. -/
theorem lane_merge (m : W32) (x : Lanes64) (old : Lanes) {l : Nat} (h : l < 32) :
    ((merge m (lowHalf x) old)[l]?).getD 0 = if m.getLsbD l then (lane x l).setWidth 32 else (old[l]?).getD 0 := by
  unfold merge lowHalf
  rw [tabulate_getElem?, dif_pos h, getD_lane _ h]
  simp only [Fin.getElem_fin, tabulate_getElem]
  unfold lane
  rw [Vector.getElem?_eq_getElem h]
  rfl

/-- The slice that a change of the issuing slice leaves. -/
theorem slice?_onSlice {e : Env} {s : State} {sl : Slice} (f : Slice → Slice) (h : s.slice? e.cur.grp e.cur.a = some sl) :
    (onSlice e f s).slice? e.cur.grp e.cur.a = some (f sl) :=
  (State.slice?_modSlice_same ..).trans (congrArg (Option.map f) h)

theorem dstV_v {e : Env} {code : BitVec 8} (h : RC.of code = .v) (m : W32) (x : Lanes64) (s : State) :
    dstV e false m code x s = .ok ((), onSlice e (fun sl => sl.setV (regNo code) m (lowHalf x)) s) := by
  unfold dstV
  rw [h]
  rfl

theorem dstS_s {e : Env} {code : BitVec 8} (h : RC.of code = .s) (m : W32) (x : W64) (s : State) :
    dstS e m code x s = .ok ((), if m = 0 then s else onSlice e (fun sl => sl.setS (regNo code) x) s) := by
  unfold dstS
  rw [h]
  dsimp only
  by_cases hm : m = 0
  · rw [if_pos hm]
    rw [if_pos hm]
    rfl
  · rw [if_neg hm]
    rw [if_neg hm]
    rfl

/-- Settles O52: each code's class and number (`code_v` to `code_p`) say which branch of a source or a destination it takes. -/
theorem operandForms : Obligations.OperandForms := by
  unfold Obligations.OperandForms
  intro e s t n code
  refine ⟨fun hn => ?_, fun hn => ⟨?_, ?_⟩, ⟨rfl, rfl, rfl⟩, ⟨_, _, _, _, rfl, rfl, rfl, rfl, fun l hl => ?_⟩, fun x c => ⟨rfl, _, rfl, ?_⟩,
    fun g x r hn hg hq hfill htoken hidle hsize => ?_, fun sl m x hsl hn hlen => ?_, fun sl m x hsl hn => ?_, fun sl m x hsl hn => ?_⟩
  · obtain ⟨hrc, hno⟩ := code_v hn
    refine ⟨_, srcV_v hrc s, fun l hl => ?_⟩
    rw [hno]
    exact lane_srcV_v e.sl t n hl
  · obtain ⟨hrc, hno⟩ := code_s hn
    rw [srcS_s hrc, hno]
  · obtain ⟨hrc, hno⟩ := code_s hn
    refine ⟨_, srcV_s hrc s, fun l hl => ?_⟩
    rw [hno]
    exact lane_splat _ hl
  · exact ⟨lane_splat _ hl, lane_splat _ hl, lane_tabulate hl, lane_splat _ hl⟩
  · exact fun l hl => lane_splat _ hl
  · obtain ⟨hrc, hno⟩ := code_q hn
    have hpop := popEntry_ok hg hq hfill htoken hidle
    refine ⟨_, _, srcS_q hrc hno hn hpop, popped_group n _ _ hg, ?_, rfl, fun k hk => ?_⟩
    · rw [queue_modSlice, queue_setQueue_same _ hsize]
      exact entries_pop hq
    · rw [queue_modSlice]
      exact queue_setQueue_other _ hk
  · obtain ⟨hrc, hno⟩ := code_v hn
    refine ⟨_, _, dstV_v hrc m x s, slice?_onSlice _ hsl, rfl, rfl, rfl, fun k hk => ?_, fun l hl => ?_⟩
    · rw [hno]
      exact v_setV_other _ _ hk
    · rw [hno, v_setV_same _ _ hlen]
      exact lane_merge m x _ hl
  · obtain ⟨hrc, hno⟩ := code_s hn
    by_cases hm : m = 0
    · refine ⟨_, sl, dstS_s hrc m x s, ?_⟩
      rw [if_pos hm, if_pos hm]
      exact ⟨hsl, rfl, rfl, rfl, fun _ _ => rfl, rfl⟩
    · refine ⟨_, sl.setS n x, dstS_s hrc m x s, ?_⟩
      rw [if_neg hm, if_neg hm, hno]
      exact ⟨slice?_onSlice _ hsl, rfl, rfl, rfl, fun k hk => s_setS_other sl x hk, s_setS_same sl x hn⟩
  · obtain ⟨hrc, hno⟩ := code_p hn
    refine ⟨_, sl.setP n m x, dstP_ok e m _ x s, ?_⟩
    rw [hno]
    exact ⟨slice?_onSlice _ hsl, rfl, rfl, rfl, fun k hk => p_setP_other sl m x hk, p_setP_same sl m x hn⟩

/-! ### Taking a trap -/

/-- The slice with its cause registers written, its path at the PC of the cause. -/
def caused (e : Env) (t : TrapInfo) (sl : Slice) : Slice :=
  (sl.writeCause t).setSlot e.cur.slot1 ((sl.slot e.cur.slot1).map (fun p => { p with pc := t.epc }))

/-- Why a trap that no handler takes stops the workgroup. -/
def stopReason (s : State) (e : Env) (t : TrapInfo) : OutReason :=
  if e.sl.hmode then .cause1 t.cause e.sl.cause
  else if resolutionD t.cause && s.attached e.w.region then .debug t.cause else .cause1 t.cause 0

theorem takeTrap_muted {s : State} {e : Env} {t : TrapInfo} (h : muted e = true) : s.takeTrap e t = s.stopBefore e := if_pos h

/-- A trap in handler mode, one that the debugger takes, and one without a handler stop the workgroup. -/
theorem takeTrap_stop {s : State} {e : Env} {t : TrapInfo} (h : muted e = false)
    (hstop : e.sl.hmode = true ∨ (resolutionD t.cause && s.attached e.w.region) = true ∨ s.hpc e.w.region = 0) :
    s.takeTrap e t = (onSlice e (caused e t) s).stopWg e (stopInfo s e (stopReason s e t) t.epc t.aux0 t.aux1 []) := by
  have hopen : ¬e.muted = true := Bool.eq_false_iff.mp h
  unfold State.takeTrap stopReason
  rw [if_neg hopen]
  dsimp only
  by_cases hmode : e.sl.hmode = true
  · rw [if_pos hmode, if_pos hmode]
    rfl
  rw [if_neg hmode, if_neg hmode]
  by_cases hdebug : (resolutionD t.cause && s.attached e.w.region) = true
  · rw [if_pos hdebug, if_pos hdebug]
    rfl
  rw [if_neg hdebug, if_neg hdebug, if_pos ((hstop.resolve_left hmode).resolve_left hdebug)]
  rfl

/-- The rest goes to the region's handler. -/
theorem takeTrap_handler {s : State} {e : Env} {t : TrapInfo} (h : muted e = false) (hmode : e.sl.hmode = false)
    (hdebug : (resolutionD t.cause && s.attached e.w.region) = false) (hpc : s.hpc e.w.region ≠ 0) :
    s.takeTrap e t =
      (if e.sl.corr.getLsbD 31 then
        ((onSlice e (caused e t) s).enterHandler e (s.hpc e.w.region)).trace e.w.region
          { type := 0x08, detail := t.cause.toNat, engine := sliceIdent e.g.core, origin := e.g.origin e.cur.a, corr := e.sl.corr,
            ptb := s.ptb (dieOf e.g.core), payload := t.epc.toNat }
       else (onSlice e (caused e t) s).enterHandler e (s.hpc e.w.region)) := by
  have hopen : ¬e.muted = true := Bool.eq_false_iff.mp h
  unfold State.takeTrap
  rw [if_neg hopen]
  dsimp only
  rw [if_neg (Bool.eq_false_iff.mp hmode), if_neg (Bool.eq_false_iff.mp hdebug), if_neg hpc]
  rfl

/-- The slice as the handler finds it. -/
def inHandler (e : Env) (hpc : Nat) (sl : Slice) : Slice :=
  { (sl.setSlot e.cur.slot1 ((sl.slot e.cur.slot1).map (fun p => { p with pc := BitVec.ofNat 56 hpc }))) with
    emask := (BitVec.ofBool e.cur.slot1) ++ e.path.mask, hmode := true, frozen := some { slot1 := e.cur.slot1, mask := e.path.mask } }

theorem enterHandler_slice?_same {s : State} {e : Env} {sl : Slice} (hpc : Nat) (h : s.slice? e.cur.grp e.cur.a = some sl) :
    (s.enterHandler e hpc).slice? e.cur.grp e.cur.a = some (inHandler e hpc sl) := by
  have hgroups : (s.enterHandler e hpc).groups = (onSlice e (inHandler e hpc) s).groups := rfl
  rw [State.slice?_congr hgroups]
  exact slice?_onSlice _ h

/-- A slice after a trap: the cause registers are written, and no other register is. -/
def CauseWritten (one : Bool) (t : TrapInfo) (sl sl' : Slice) : Prop :=
  sl'.cause = t.cause ∧ sl'.aux0 = t.aux0 ∧ sl'.aux1 = t.aux1 ∧ sl'.epc = t.epc ∧ sl'.fpc = t.fpc.getD sl.fpc ∧
  sl'.sreg = sl.sreg ∧ sl'.vreg = sl.vreg ∧ sl'.pred = sl.pred ∧ sl'.slot (!one) = sl.slot (!one) ∧
  sl'.dstackN = sl.dstackN ∧ sl'.cstackN = sl.cstackN ∧ sl'.hscr0 = sl.hscr0 ∧ sl'.hscr1 = sl.hscr1

theorem causeWritten_caused (e : Env) (t : TrapInfo) (sl : Slice) : CauseWritten e.cur.slot1 t sl (caused e t sl) := by
  unfold CauseWritten caused
  cases e.cur.slot1 with
  | true => exact ⟨rfl, rfl, rfl, rfl, rfl, rfl, rfl, rfl, rfl, rfl, rfl, rfl, rfl⟩
  | false => exact ⟨rfl, rfl, rfl, rfl, rfl, rfl, rfl, rfl, rfl, rfl, rfl, rfl, rfl⟩

/-- Entering the handler writes none of these registers. -/
theorem causeWritten_inHandler {e : Env} {t : TrapInfo} {sl sl' : Slice} (hpc : Nat) (h : CauseWritten e.cur.slot1 t sl sl') :
    CauseWritten e.cur.slot1 t sl (inHandler e hpc sl') := by
  unfold CauseWritten inHandler at *
  cases hone : e.cur.slot1 with
  | true =>
    rw [hone] at h
    exact h
  | false =>
    rw [hone] at h
    exact h

theorem mode_caused (e : Env) (t : TrapInfo) (sl : Slice) :
    (caused e t sl).hmode = sl.hmode ∧ (caused e t sl).emask = sl.emask := by
  unfold caused
  cases e.cur.slot1 with
  | true => exact ⟨rfl, rfl⟩
  | false => exact ⟨rfl, rfl⟩

theorem slot_caused {e : Env} {t : TrapInfo} {sl : Slice} {p : Path} (h : sl.slot e.cur.slot1 = some p) :
    (caused e t sl).slot e.cur.slot1 = some { p with pc := t.epc } := by
  unfold caused
  rw [h]
  cases e.cur.slot1 with
  | true => rfl
  | false => rfl

theorem slot_inHandler {e : Env} {hpc : Nat} {sl : Slice} {p : Path} (h : sl.slot e.cur.slot1 = some p) :
    (inHandler e hpc sl).slot e.cur.slot1 = some { p with pc := BitVec.ofNat 56 hpc } := by
  unfold inHandler
  rw [h]
  cases e.cur.slot1 with
  | true => rfl
  | false => rfl

/-- The stop of a trap that no handler takes. -/
theorem stopWg_slice? {s : State} {e : Env} {sl : Slice} (i : StopInfo) (hid : e.g.id = e.cur.grp)
    (h : s.slice? e.cur.grp e.cur.a = some sl) :
    (s.stopWg e i).slice? e.cur.grp e.cur.a = some { sl with halt := .stopped } := by
  unfold State.stopWg
  rw [State.stopSlice_slice?, if_pos ⟨hid.symm, rfl⟩, h]
  rfl

/-- Settles O50: a muted slice stops, an unmuted one has its cause written; then a handler is entered (`takeTrap_handler`), or the
workgroup stops (`takeTrap_stop`). -/
theorem trapTaken : Obligations.TrapTaken := by
  unfold Obligations.TrapTaken
  intro s e t sl p hsl hslot hid u one
  refine ⟨fun hmuted => ?_, fun hmuted => ?_⟩
  · show (s.takeTrap e t).slice? e.cur.grp e.cur.a = _
    rw [takeTrap_muted hmuted]
    exact slice?_onSlice _ hsl
  have hcaused : (onSlice e (caused e t) s).slice? e.cur.grp e.cur.a = some (caused e t sl) := slice?_onSlice _ hsl
  by_cases hstop : e.sl.hmode = true ∨ (resolutionD t.cause && s.attached e.w.region) = true ∨ s.hpc e.w.region = 0
  · have hu : u = (onSlice e (caused e t) s).stopWg e (stopInfo s e (stopReason s e t) t.epc t.aux0 t.aux1 []) :=
      takeTrap_stop hmuted hstop
    obtain ⟨hcause, haux0, haux1, hepc, hfpc, hsreg, hvreg, hpred, hother, hdstack, hcstack, hscr0, hscr1⟩ := causeWritten_caused e t sl
    refine ⟨{ caused e t sl with halt := .stopped }, ?_, hcause, haux0, haux1, hepc, hfpc, hsreg, hvreg, hpred, hother, hdstack, hcstack,
      hscr0, hscr1, fun hmode hdebug hpc => ?_, fun _ => ⟨rfl, (mode_caused e t sl).1, (mode_caused e t sl).2, ?_, fun w hw hrunning => ?_⟩⟩
    · rw [hu]
      exact stopWg_slice? _ hid hcaused
    · exact absurd hstop (by simp [hmode, hdebug, hpc])
    · rw [hu]
      exact State.stopSlice_mem ..
    · have hstopped := State.stopSlice_wg? (onSlice e (caused e t) s) e.w e.g e.cur.a
        (stopInfo s e (stopReason s e t) t.epc t.aux0 t.aux1 []) hw hrunning
      exact ⟨_, _, (congrArg (fun v => v.wg? e.w.id) hu).trans hstopped, rfl, rfl, rfl, rfl, rfl, rfl, rfl⟩
  · obtain ⟨hmode, hrest⟩ := not_or.mp hstop
    obtain ⟨hdebug, hpc⟩ := not_or.mp hrest
    have hu := takeTrap_handler hmuted (Bool.eq_false_iff.mpr hmode) (Bool.eq_false_iff.mpr hdebug) hpc
    obtain ⟨hcause, haux0, haux1, hepc, hfpc, hsreg, hvreg, hpred, hother, hdstack, hcstack, hscr0, hscr1⟩ :=
      causeWritten_inHandler (s.hpc e.w.region) (causeWritten_caused e t sl)
    have hgroups : u.groups = ((onSlice e (caused e t) s).enterHandler e (s.hpc e.w.region)).groups := by
      show (s.takeTrap e t).groups = _
      rw [hu]
      split
      · exact State.trace_groups ..
      · rfl
    refine ⟨inHandler e (s.hpc e.w.region) (caused e t sl), ?_, hcause, haux0, haux1, hepc, hfpc, hsreg, hvreg, hpred, hother, hdstack,
      hcstack, hscr0, hscr1, fun _ _ _ => ⟨rfl, rfl, (slot_inHandler (slot_caused hslot)).trans rfl, fun hcorr => ?_⟩, fun h => absurd h hstop⟩
    · rw [State.slice?_congr hgroups]
      exact enterHandler_slice?_same _ hcaused
    · show (s.takeTrap e t).mem = _
      rw [hu, if_neg (Bool.eq_false_iff.mp hcorr)]
      rfl

/-! ### Where instructions trap -/

/-- The lanes of a frame with one guard. -/
theorem foldl_active_one (e : Env) (g : BitVec 6) : [g].foldl (fun m g => m ||| e.active g) 0 = e.active g := BitVec.zero_or

theorem foldl_active_two (e : Env) (g h : BitVec 6) : [g, h].foldl (fun m g => m ||| e.active g) 0 = e.active g ||| e.active h :=
  congrArg (fun m => m ||| e.active h) (foldl_active_one e g)

/-- A meaning that traps with nothing kept leaves the state of a trap. -/
theorem issue_trap {gs : List (BitVec 6)} {body : Env → Exec Unit} {s : State} {e : Env} {t : TrapInfo} (h : Traps e s)
    (hb : body e s = .error (.trap t none)) :
    issue gs body s = .next (trapped e (gs.foldl (fun m g => m ||| e.active g) 0) t s) := by
  obtain ⟨he, hm⟩ := h
  have hopen : ¬e.muted = true := Bool.eq_false_iff.mp hm
  unfold issue
  rw [he]
  dsimp only
  rw [hb]
  exact if_neg hopen

theorem issueF_trap {g : BitVec 6} {body : Body} {s : State} {e : Env} {t : TrapInfo} (h : Traps e s)
    (hb : body e s = .error (.trap t none)) : issueF g body s = .next (trapped e (e.active g) t s) := by
  refine (issue_trap h (exec_bind_error hb)).trans ?_
  rw [foldl_active_one]

/-- A control frame with illegal fields, and one that traps in its body. -/
theorem issueC_illegal {c : CFrame} {form : CForm} {g : Bool} {body : Env → Exec Unit} {s : State} {e : Env} (h : Traps e s)
    (hc : c.ok form g = false) : issueC c form g body s = .next (trapped e (e.active c.guard) (plain e 0x02) s) := by
  refine (issue_trap (t := plain e 0x02) h (exec_bind_error ?_)).trans ?_
  · rw [hc]
    rfl
  · rw [foldl_active_one]

theorem begin_illegal {sp : FSpec} {f : FFrame} {lit : Option W32} (e : Env) (extra : List Cond) (s : State)
    (h : f.ok sp lit.isSome = false) : begin_ e sp f lit extra s = .error (.trap (plain e 0x02) none) := by
  unfold begin_
  rw [h]
  rfl

theorem raiseLowest_some {e : Env} {cs : List Cond} {c : Cond} (h : lowest cs = some c) (s : State) :
    raiseLowest e cs s = .error (.trap ⟨c.cause, c.aux0, c.aux1, e.path.pc, none⟩ none) := by
  unfold raiseLowest
  rw [h]
  rfl

/-- Of the conditions that a legal frame meets the lowest is raised. -/
theorem begin_conds {sp : FSpec} {f : FFrame} {lit : Option W32} {e : Env} {extra : List Cond} {c : Cond}
    (h : f.ok sp lit.isSome = true) (hc : lowest (extra ++ namedConds e (operandsOf sp f lit)) = some c) (s : State) :
    begin_ e sp f lit extra s = .error (.trap ⟨c.cause, c.aux0, c.aux1, e.path.pc, none⟩ none) := by
  unfold begin_
  rw [h]
  exact (exec_bind_ok (trapIf_false e _ _ _ s)).trans (exec_bind_error (raiseLowest_some hc s))

/-- A register instruction traps as its checks at decode do. -/
theorem scalarOp_trap {i : Instr} {f : FFrame} {sp : FSpec} {op : IntOp} {s : State} {e : Env} {t : TrapInfo} (h : Traps e s)
    (hop : scalarOp false i = some (f, sp, op)) (hb : begin_ e sp f none [] s = .error (.trap t none)) :
    exec i s = .next (trapped e (e.active f.guard) t s) := by
  obtain ⟨body, hform, hbody⟩ := formOf_of_scalarOp (lit := none) hop
  rw [exec_of_formOf hform, hbody]
  exact issueF_trap h (exec_bind_error hb)

theorem vectorOp_trap {i : Instr} {f : FFrame} {sp : FSpec} {op : IntOp} {s : State} {e : Env} {t : TrapInfo} (h : Traps e s)
    (hop : vectorOp i = some (f, sp, op)) (hb : begin_ e sp f none [] s = .error (.trap t none)) :
    exec i s = .next (trapped e (e.active f.guard) t s) := by
  obtain ⟨body, hform, ⟨rfl, rfl, -⟩ | hbody⟩ := formOf_of_vectorOp hop
  · rw [exec_of_formOf hform]
    exact issueF_trap h (exec_bind_error hb)
  · rw [exec_of_formOf hform, hbody]
    exact issueF_trap h (exec_bind_error hb)

theorem notInHandler_trap {e : Env} (h : e.sl.hmode = true) (s : State) :
    notInHandler e s = .error (.trap (plain e 0x04) none) := by
  unfold notInHandler
  rw [h]
  rfl

/-- A misaligned target. -/
theorem checkTarget_trap {e : Env} {x : W64} (h : x.toNat % 8 ≠ 0) (s : State) :
    checkTarget e x s = .error (.trap ⟨0x07, x, 0, e.path.pc, none⟩ none) := by
  unfold checkTarget
  rw [bne_iff_ne.mpr h]
  rfl

/-- An s register meets no condition. -/
theorem regConds_s {e : Env} {pos : Pos} {push : Bool} {code : BitVec 8} (h : RC.of code = .s) : regConds e pos push code = [] := by
  unfold regConds
  rw [h]
  exact ite_self []

/-- A privileged instruction whose registers meet no condition. -/
theorem begin_privileged {sp : FSpec} {f : FFrame} {e : Env} (h : f.ok sp false = true) (hregs : namedConds e (operandsOf sp f none) = [])
    (s : State) : begin_ e sp f none [{ cause := 0x05 }] s = .error (.trap (plain e 0x05) none) :=
  begin_conds (c := { cause := 0x05 }) h (by rw [hregs]; rfl) s

/-- Operands that are unused or name s registers meet no condition. -/
theorem namedConds_nil {e : Env} {l : List Named} (h : ∀ n ∈ l, n.pos.accepts = [] ∨ RC.of n.code = .s) : namedConds e l = [] := by
  unfold namedConds
  refine List.flatten_eq_nil_iff.mpr fun cs hcs => ?_
  obtain ⟨n, hn, rfl⟩ := List.mem_map.mp hcs
  obtain ⟨hmem, hused⟩ := List.mem_filter.mp hn
  rcases h n hmem with hnone | hreg
  · rw [hnone] at hused
    cases hused
  · exact regConds_s hreg

theorem operandsOf_also (sp : FSpec) (ok : Bool) (f : FFrame) (lit : Option W32) :
    operandsOf (sp.also ok) f lit = operandsOf sp f lit := by
  cases ok with
  | true => rfl
  | false => rfl

/-- `SWR` names an s register alone. -/
theorem namedConds_swr {e : Env} {f : FFrame} (h : RC.of f.srcB = .s) : namedConds e (operandsOf (specSwr f) f none) = [] := by
  refine namedConds_nil fun n hn => ?_
  unfold specSwr at hn
  rw [operandsOf_also] at hn
  simp only [operandsOf, List.mem_cons, List.not_mem_nil, or_false] at hn
  rcases hn with rfl | rfl | rfl | rfl
  · exact .inl rfl
  · exact .inl rfl
  · exact .inr h
  · exact .inl rfl

/-- A position that takes an s register or nothing. -/
theorem sreg_or_unused {c : Prop} [Decidable c] {code : BitVec 8} (h : (if c then Pos.sreg else Pos.unused).ok code = true) :
    (if c then Pos.sreg else Pos.unused).accepts = [] ∨ RC.of code = .s := by
  by_cases hc : c
  · rw [if_pos hc] at h
    right
    unfold Pos.ok Pos.sreg at h
    simpa using h
  · rw [if_neg hc]
    exact .inl rfl

/-- `TLBI` names at most two s registers. -/
theorem namedConds_tlbi {e : Env} {f : FFrame} (h : f.ok (specTlbi f) false = true) :
    namedConds e (operandsOf (specTlbi f) f none) = [] := by
  obtain ⟨ha, hb⟩ : (specTlbi f).a.ok f.srcA = true ∧ (specTlbi f).b.ok f.srcB = true := by
    simp only [FFrame.ok, Bool.false_or, Bool.and_eq_true] at h
    obtain ⟨⟨⟨⟨⟨⟨_, ha⟩, hb⟩, _⟩, _⟩, _⟩, _⟩ := h
    exact ⟨ha, hb⟩
  have hpos : (specTlbi f).a = (if f.variant.toNat % 4 = 0 then .sreg else .unused) ∧
      (specTlbi f).b = (if f.variant.toNat % 4 ≤ 1 then .sreg else .unused) ∧ (specTlbi f).dst = .unused ∧ (specTlbi f).c = .unused := by
    unfold specTlbi FSpec.also
    dsimp only
    split
    · exact ⟨rfl, rfl, rfl, rfl⟩
    · exact ⟨rfl, rfl, rfl, rfl⟩
  obtain ⟨hposA, hposB, hposD, hposC⟩ := hpos
  refine namedConds_nil fun n hn => ?_
  simp only [operandsOf, List.mem_cons, List.not_mem_nil, or_false] at hn
  rcases hn with rfl | rfl | rfl | rfl
  · exact .inl (congrArg Pos.accepts hposD)
  · rw [hposA] at ha ⊢
    exact sreg_or_unused ha
  · rw [hposB] at hb
    show (specTlbi f).b.accepts = [] ∨ _
    rw [hposB]
    exact sreg_or_unused hb
  · exact .inl (congrArg Pos.accepts hposC)

/-- Settles O51: each meaning checks its form, its fields and its registers first (`begin_illegal`, `begin_conds`), and whatever traps leaves
the state of `issue_trap`. -/
theorem trapCauses : Obligations.TrapCauses := by
  unfold Obligations.TrapCauses
  intro s e htraps
  refine ⟨fun w => ?_, fun l hl => ?_, fun h0 h1 hform => ?_, fun h0 h1 hform hcause => ?_,
    fun i f sp op hop => ⟨fun hbad => ?_, fun c hok hc => ?_⟩, fun i f sp op hop => ⟨fun hbad => ?_, fun c hok hc => ?_⟩,
    fun c => ?_, fun f hmode => ⟨fun hok hmem hrc => ?_, fun hok => ?_⟩⟩
  · refine (issue_trap (body := fun e => raise e 0x01) (t := plain e 0x01) htraps rfl).trans ?_
    rw [foldl_active_one]
  · refine issueF_trap htraps (exec_bind_error ?_)
    rw [hl]
    rfl
  · refine (issue_trap (t := plain e 0x01) htraps (exec_bind_error ?_)).trans ?_
    · rw [hform]
      rfl
    · rw [foldl_active_two]
  · refine (issue_trap (t := plain e 0x02) htraps ?_).trans ?_
    · rw [hform, hcause]
      rfl
    · rw [foldl_active_two]
  · exact scalarOp_trap htraps hop (begin_illegal e [] s hbad)
  · exact scalarOp_trap htraps hop (begin_conds hok hc s)
  · exact vectorOp_trap htraps hop (begin_illegal e [] s hbad)
  · exact vectorOp_trap htraps hop (begin_conds hok hc s)
  · intro m
    refine ⟨fun hbad i hi => ?_, fun hmode => ⟨fun hok => ?_, fun hok => ?_, fun hok => ?_, fun hok => ?_, fun hok => ?_⟩,
      fun hmode hok => ?_, fun x hready hreg hm hrc hx hodd => ?_⟩
    · simp only [List.mem_cons, List.not_mem_nil, or_false] at hi
      rcases hi with rfl | rfl | rfl | rfl | rfl | rfl
      all_goals exact issueC_illegal htraps hbad
    · exact issueC_trap ⟨htraps.1, hok⟩ htraps.2 (exec_bind_error (notInHandler_trap hmode s))
    · exact issueC_trap ⟨htraps.1, hok⟩ htraps.2 (exec_bind_error (notInHandler_trap hmode s))
    · exact issueC_trap ⟨htraps.1, hok⟩ htraps.2 (exec_bind_error (notInHandler_trap hmode s))
    · exact issueC_trap ⟨htraps.1, hok⟩ htraps.2 (exec_bind_error (notInHandler_trap hmode s))
    · exact issueC_trap ⟨htraps.1, hok⟩ htraps.2 (exec_bind_error (notInHandler_trap hmode s))
    · refine issueC_trap (x := plain e 0x05) ⟨htraps.1, hok⟩ htraps.2 (exec_bind_error ?_)
      rw [hmode]
      rfl
    · refine issueC_trap hready htraps.2 ((exec_bind_ok (controlScalar_ok hrc hreg)).trans ?_)
      rw [anyActive_of_ne hm, hx]
      exact exec_bind_error (checkTarget_trap hodd s)
  · refine issueF_trap htraps (exec_bind_error ?_)
    rw [List.contains_iff_mem.mpr hmem, hmode]
    exact begin_privileged hok (namedConds_swr hrc) s
  · refine issueF_trap htraps (exec_bind_error ?_)
    rw [hmode]
    exact begin_privileged hok (namedConds_tlbi hok) s

end Sys2Proof.Proofs
end

section
/-!
PROOFS. The register instructions and what a fault token's replay changes (O53).
-/
namespace Sys2Proof.Proofs
open Sys2Proof.Machine Sys2Proof.Claims Sys2Proof.Laws

/-! ### A fault token that the X-slice replays -/

/-- The token that an `LDQ` with an acquire left for a page that was not present. -/
def acquireToken : Token :=
  { base := 0x100, lanes := 1, cause := 0x10, pc := 0x40, ty := 0, variant := 8, raised := false }

/-- A group whose A-slice has pushed it into a scalar queue. -/
def tokenGroup (g : Group) : Group :=
  { g with a := some Slice.reset,
           queues := g.queues.setIfInBounds 0 { depth := 4, x2a := false, scalar := true, phases := 0, head := 0, entries :=
             [{ lanes := Lanes.zero, scalar := 0, token := some acquireToken, fill := none, after := [] }] } }

/-- The page is present now, and the X-slice is about to pop the queue. -/
def tokenState : State :=
  let s := State.reset.withFetchWord 64 0x02
  { s with groups := s.groups.map tokenGroup, cur := s.groups.head?.map (fun g => { grp := g.id, a := false, slot1 := false }) }

/-- `smov s4, q0`. -/
def popMove : FFrame := { guard := 0, dst := 0x84, srcA := 0, srcB := 0xA0, srcC := 0, ty := 0, variant := 0, flags := 0 }

/-- The A-slice's accesses that its acquires have put before what follows them. -/
def acquiresA (o : Host.Outcome State Fault Refusal) : Option (List Nat) :=
  match o with
  | .next t => (t.slice? 1 true).map Slice.acqIds
  | _ => none

/-- The replay is an acquire, as the `LDQ` was, and the A-slice notes it although the X-slice pops. -/
theorem popMove_acquires : acquiresA (exec (.smov popMove) tokenState) = some [0] := by decide +kernel

theorem tokenState_issuer : tokenState.env?.map (fun e => (e.cur.grp, e.cur.a)) = some (1, false) := by decide +kernel

/-- Refutes O53: where the X-slice pops an entry whose `LDQ` was an acquire and has to be replayed, the A-slice's list of acquires
grows, so another slice than the issuing one changes. -/
theorem not_registerFrame : ¬ Obligations.RegisterFrame := by
  intro h
  obtain ⟨e, he, hcur⟩ := Option.map_eq_some_iff.mp tokenState_issuer
  have ha : e.cur.a = false := congrArg Prod.snd hcur
  have hacq := popMove_acquires
  cases hrun : exec (.smov popMove) tokenState with
  | next t =>
    obtain ⟨hother, -⟩ := h (.smov popMove) popMove false tokenState t e rfl he hrun
    rw [hrun] at hacq
    have hsame : t.slice? 1 true = tokenState.slice? 1 true := hother 1 true (by rw [ha]; simp)
    have hbefore : (tokenState.slice? 1 true).map Slice.acqIds = some [] := by decide +kernel
    unfold acquiresA at hacq
    dsimp only at hacq
    rw [hsame, hbefore] at hacq
    exact absurd hacq (by decide)
  | fault f =>
    rw [hrun] at hacq
    cases hacq
  | refused r =>
    rw [hrun] at hacq
    cases hacq

end Sys2Proof.Proofs
end

section
/-!
PROOFS. Every operation of the state and every event keeps memory in its canonical form (O57).
-/
namespace Sys2Proof.Proofs
open Sys2Proof.Machine Sys2Proof.Claims Sys2Proof.Laws

/-! ### The canonical form of memory through folds and outcomes -/

/-- An outcome that goes on goes on in a state whose memory is in its canonical form. -/
def NextWf (o : Host.Outcome State Fault Refusal) : Prop := ∀ t, o = .next t → t.mem.wf = true

@[simp] theorem nextWf_next {t : State} : NextWf (.next t) ↔ t.mem.wf = true := by simp [NextWf]
@[simp] theorem nextWf_fault {f : Fault} : NextWf (.fault f) := by simp [NextWf]

/-- A fold of steps that each keep the canonical form keeps it. -/
theorem wf_foldl {α : Type} {f : State → α → State} (hf : ∀ s a, s.mem.wf = true → (f s a).mem.wf = true) {s : State}
    (hm : s.mem.wf = true) (l : List α) : (l.foldl f s).mem.wf = true :=
  foldl_keeps (fun s => s.mem.wf = true) f hf l s hm

@[simp] theorem wf_after {s : State} (hm : s.mem.wf = true) {o : Host.Outcome State Fault Refusal} (ho : NextWf o) :
    (after s o).mem.wf = true := by
  cases o with
  | next t => exact nextWf_next.mp ho
  | fault f => exact hm
  | refused r => exact hm

/-! ### Reaching the parts of the state, traps and halts -/

@[simp] theorem wf_clearPoison {s : State} (hm : s.mem.wf = true) (lines : List Nat) : (s.clearPoison lines).mem.wf = true := by
  unfold State.clearPoison
  split <;> simp [hm]

@[simp] theorem wf_setRcb {s : State} (hm : s.mem.wf = true) (r lo w v : Nat) : (s.setRcb r lo w v).mem.wf = true := by
  simp [State.setRcb, hm, State.wf_pokeBits]

@[simp] theorem wf_modCore {s : State} (hm : s.mem.wf = true) (i : Nat) (f : Core → Core) : (s.modCore i f).mem.wf = true := by
  simp [State.modCore, hm]

@[simp] theorem wf_modCluster {s : State} (hm : s.mem.wf = true) (i : Nat) (f : Cluster → Cluster) :
    (s.modCluster i f).mem.wf = true := by
  simp [State.modCluster, hm]

@[simp] theorem wf_modDie {s : State} (hm : s.mem.wf = true) (i : Nat) (f : Die → Die) : (s.modDie i f).mem.wf = true := by
  simp [State.modDie, hm]

@[simp] theorem wf_modGroup {s : State} (hm : s.mem.wf = true) (id : Nat) (f : Group → Group) :
    (s.modGroup id f).mem.wf = true := by
  simp [State.modGroup, hm]

@[simp] theorem wf_modWg {s : State} (hm : s.mem.wf = true) (id : Nat) (f : Wg → Wg) : (s.modWg id f).mem.wf = true := by
  simp [State.modWg, hm]

@[simp] theorem wf_modSlice {s : State} (hm : s.mem.wf = true) (grp : Nat) (a : Bool) (f : Slice → Slice) :
    (s.modSlice grp a f).mem.wf = true := by
  simp [State.modSlice, hm]

@[simp] theorem wf_trace {s : State} (hm : s.mem.wf = true) (region : Nat) (r : TraceRec) : (s.trace region r).mem.wf = true := by
  grind [State.trace, State.wf_pokeBytes, wf_setRcb]

@[simp] theorem wf_countIssue {s : State} (hm : s.mem.wf = true) (e : Env) (act : W32) : (s.countIssue e act).mem.wf = true := by
  simp [State.countIssue, hm]

@[simp] theorem wf_broadcastHalt {s : State} (hm : s.mem.wf = true) (wg core sub : Nat) :
    (s.broadcastHalt wg core sub).mem.wf = true := by
  simp [State.broadcastHalt, hm]

@[simp] theorem wf_liftHalt {s : State} (hm : s.mem.wf = true) (wg : Nat) : (s.liftHalt wg).mem.wf = true := by
  simp [State.liftHalt, hm]

@[simp] theorem wf_beginStop {s : State} (hm : s.mem.wf = true) (wg core sub : Nat) (info : StopInfo) :
    (s.beginStop wg core sub info).mem.wf = true := by
  grind [State.beginStop, wf_modWg, wf_broadcastHalt]

@[simp] theorem wf_stopMembers {s : State} (hm : s.mem.wf = true) (w : Wg) (info : StopInfo) :
    (s.stopMembers w info).mem.wf = true := by
  grind [State.stopMembers, wf_foldl, wf_beginStop]

@[simp] theorem wf_stopSlice {s : State} (hm : s.mem.wf = true) (w : Wg) (g : Group) (a : Bool) (info : StopInfo) :
    (s.stopSlice w g a info).mem.wf = true := by
  simp [State.stopSlice, hm]

@[simp] theorem wf_stopWg {s : State} (hm : s.mem.wf = true) (e : Env) (info : StopInfo) : (s.stopWg e info).mem.wf = true := by
  simp [State.stopWg, hm]

@[simp] theorem wf_enterHandler {s : State} (hm : s.mem.wf = true) (e : Env) (hpc : Nat) :
    (s.enterHandler e hpc).mem.wf = true := by
  simp [State.enterHandler, hm]

@[simp] theorem wf_stopBefore {s : State} (hm : s.mem.wf = true) (e : Env) : (s.stopBefore e).mem.wf = true := by
  simp [State.stopBefore, hm]

@[simp] theorem wf_takeTrap {s : State} (hm : s.mem.wf = true) (e : Env) (t : TrapInfo) : (s.takeTrap e t).mem.wf = true := by
  grind [State.takeTrap, wf_modSlice, wf_trace, wf_stopWg, wf_enterHandler, wf_stopBefore]

@[simp] theorem wf_leaveHandler {s : State} (hm : s.mem.wf = true) (e : Env) : (s.leaveHandler e).mem.wf = true := by
  simp [State.leaveHandler, hm]

@[simp] theorem wf_afterIssue {s : State} (hm : s.mem.wf = true) (e : Env) (act : W32) : (s.afterIssue e act).mem.wf = true := by
  simp [State.afterIssue, hm]

@[simp] theorem wf_holdSlot {s : State} (hm : s.mem.wf = true) (e : Env) (h : Hold) (walks : List WalkReq) :
    (s.holdSlot e h walks).mem.wf = true := by
  simp [State.holdSlot, hm]

@[simp] theorem wf_takeDue {s : State} (hm : s.mem.wf = true) (e : Env) : (s.takeDue e).mem.wf = true := by
  grind [State.takeDue, wf_modSlice, wf_takeTrap]

@[simp] theorem wf_dropFaults {s : State} (hm : s.mem.wf = true) (core : Nat) (asn : BitVec 16) :
    (s.dropFaults core asn).mem.wf = true := by
  simp [State.dropFaults, hm]

@[simp] theorem wf_addPend {s : State} (hm : s.mem.wf = true) (core : Nat) (p : Pending) : (s.addPend core p).mem.wf = true := by
  simp [State.addPend, hm]

@[simp] theorem wf_standAt {s : State} (hm : s.mem.wf = true) (e : Env) : (s.standAt e).mem.wf = true := by
  simp [State.standAt, hm]

@[simp] theorem wf_pageWalk {s : State} (hm : s.mem.wf = true) (die : Nat) : (s.pageWalk die).mem.wf = true := by
  grind [State.pageWalk, wf_foldl, wf_modCore, wf_modDie]

/-! ### Events of numbers -/

@[simp] theorem wf_modPort {s : State} (hm : s.mem.wf = true) (port1 : Bool) (f : Port → Port) :
    (s.modPort port1 f).mem.wf = true := by
  unfold State.modPort
  split <;> simp [hm]

@[simp] theorem wf_raiseRegion {s : State} (hm : s.mem.wf = true) (region lo : Nat) :
    (s.raiseRegion region lo).mem.wf = true := by
  simp [State.raiseRegion, hm]

@[simp] theorem wf_numericInterrupt {s : State} (hm : s.mem.wf = true) (g : Group) (a : Bool) (region : Nat) (corr : W32)
    (pc : Va) (c : Nat) : (s.numericInterrupt g a region corr pc c).mem.wf = true := by
  simp [State.numericInterrupt, hm]

@[simp] theorem wf_record {s : State} (hm : s.mem.wf = true) (g : Group) (a : Bool) (region : Nat) (ev : Events) (pc : Va) :
    (s.record g a region ev pc).mem.wf = true := by
  grind [State.record, wf_foldl, wf_modSlice, wf_numericInterrupt]

/-! ### Images and places -/

@[simp] theorem wf_imageLsWrite {s : State} (hm : s.mem.wf = true) (wg : Nat) (half1 : Bool) (off : Nat) (bs : List Byte) :
    (s.imageLsWrite wg half1 off bs).mem.wf = true := by
  grind [State.imageLsWrite, wf_foldl, State.wf_poke]

@[simp] theorem wf_imageArrive {s : State} (hm : s.mem.wf = true) (at_ n : Nat) (x : W64) :
    (s.imageArrive at_ n x).mem.wf = true := by
  grind [State.imageArrive, wf_foldl, State.wf_poke, State.wf_pokeBits]

@[simp] theorem wf_imageFinish {s : State} (hm : s.mem.wf = true) (grp : Nat) (a : Bool) (status : W64) (extra : Option W64) :
    (s.imageFinish grp a status extra).mem.wf = true := by
  grind [State.imageFinish, State.wf_pokeBits, wf_imageArrive]

@[simp] theorem wf_coherence {s : State} (hm : s.mem.wf = true) (pa n : Nat) : (s.coherence pa n).mem.wf = true := by
  simp [State.coherence, hm]

@[simp] theorem wf_l1Read {s : State} (hm : s.mem.wf = true) (core slot : Nat) (nc : Bool) (pa n : Nat) :
    (s.l1Read core slot nc pa n).1.mem.wf = true := by
  grind [State.l1Read, wf_modCore]

@[simp] theorem wf_readPlace {s : State} (hm : s.mem.wf = true) (core slot : Nat) (sc : Scope) (nc : Bool) (p : Place) (n : Nat) :
    (s.readPlace core slot sc nc p n).1.mem.wf = true := by
  cases p <;> grind [State.readPlace, wf_l1Read]

@[simp] theorem wf_l1Drop {s : State} (hm : s.mem.wf = true) (core : Nat) : (s.l1Drop core).mem.wf = true := by
  simp [State.l1Drop, hm]

@[simp] theorem wf_acquireL1 {s : State} (hm : s.mem.wf = true) (core : Nat) (sc : Scope) :
    (s.acquireL1 core sc).mem.wf = true := by
  unfold State.acquireL1
  split <;> simp [hm]

/-! ### Accesses -/

@[simp] theorem wf_deliver {s : State} (hm : s.mem.wf = true) (p : Pending) : (s.deliver p).mem.wf = true := by
  grind [State.deliver, wf_modSlice, wf_modGroup]

@[simp] theorem wf_watchHit {s : State} (hm : s.mem.wf = true) (grp : Nat) (a : Bool) (ranges : List (W64 × Nat)) (rd wr : Bool) :
    (s.watchHit grp a ranges rd wr).mem.wf = true := by
  grind [State.watchHit, wf_modSlice]

@[simp] theorem wf_recordAtomic {s : State} (hm : s.mem.wf = true) (p : Pending) : (s.recordAtomic p).mem.wf = true := by
  unfold State.recordAtomic
  split <;> simp [hm]

@[simp] theorem wf_completeIf {s : State} (hm : s.mem.wf = true) (core id : Nat) : (s.completeIf core id).mem.wf = true := by
  grind [State.completeIf, wf_modCore, wf_modSlice, wf_acquireL1, wf_deliver, wf_watchHit, wf_recordAtomic]

@[simp] theorem wf_setAccs {s : State} (hm : s.mem.wf = true) (core id : Nat) (f : LaneAcc → LaneAcc) :
    (s.setAccs core id f).mem.wf = true := by
  simp [State.setAccs, hm]

@[simp] theorem wf_markDone {s : State} (hm : s.mem.wf = true) (core id : Nat) (got : List (Nat × List Byte)) :
    (s.markDone core id got).mem.wf = true := by
  simp [State.markDone, hm]

@[simp] theorem wf_doLoads {s : State} (hm : s.mem.wf = true) (core : Nat) (p : Pending) (todo : List LaneAcc) :
    (s.doLoads core p todo).1.mem.wf = true := by
  induction todo generalizing s <;> grind [State.doLoads, wf_readPlace]

@[simp] theorem wf_doStores {s : State} (hm : s.mem.wf = true) (core : Nat) (l : List LaneAcc) :
    (s.doStores core l).mem.wf = true := by
  grind [State.doStores, wf_foldl, State.wf_writePlace]

@[simp] theorem wf_doAtomic {s : State} (hm : s.mem.wf = true) (core : Nat) (p : Pending) (aop ty : BitVec 4) (cas : Bool)
    (ls : List LaneAcc) : (s.doAtomic core p aop ty cas ls).1.mem.wf = true := by
  unfold State.doAtomic
  split <;> simp [hm, State.wf_writePlace]

@[simp] theorem wf_doAtomics {s : State} (hm : s.mem.wf = true) (core : Nat) (p : Pending) (aop ty : BitVec 4) (cas : Bool)
    (ls : List LaneAcc) (todo : List Place) : (s.doAtomics core p aop ty cas ls todo).1.mem.wf = true := by
  induction todo generalizing s <;> grind [State.doAtomics, wf_doAtomic]

@[simp] theorem wf_addEvents {s : State} (hm : s.mem.wf = true) (core id : Nat) (ev : Events) :
    (s.addEvents core id ev).mem.wf = true := by
  unfold State.addEvents
  split <;> simp [hm]

@[simp] theorem wf_perform {s : State} (hm : s.mem.wf = true) (core : Nat) (p : Pending) (ls : List LaneAcc) :
    (s.perform core p ls).mem.wf = true := by
  grind [State.perform, wf_clearPoison, wf_completeIf, wf_markDone, wf_doLoads, wf_doStores, wf_doAtomics, wf_addEvents]

@[simp] theorem wf_sendReq {s : State} (hm : s.mem.wf = true) (peer : BitVec 12) (r : FabReq) (o : FabOwner) :
    (s.sendReq peer r o).mem.wf = true := by
  simp [State.sendReq, hm]

@[simp] theorem wf_sendPend {s : State} (hm : s.mem.wf = true) (core : Nat) (p : Pending) :
    (s.sendPend core p).mem.wf = true := by
  grind [State.sendPend, wf_foldl, wf_setAccs, wf_sendReq]

@[simp] theorem wf_enqueueBanks {s : State} (hm : s.mem.wf = true) (core pend : Nat) (l : List LaneAcc) :
    (s.enqueueBanks core pend l).mem.wf = true := by
  grind [State.enqueueBanks, wf_foldl, wf_modCore]

@[simp] theorem wf_dropStages {s : State} (hm : s.mem.wf = true) (e : Env) : (s.dropStages e).mem.wf = true := by
  simp [State.dropStages, hm]

/-! ### Synchronization -/

@[simp] theorem wf_modEngine {s : State} (hm : s.mem.wf = true) (i : EngineId) (f : Engine → Engine) :
    (s.modEngine i f).mem.wf = true := by
  unfold State.modEngine
  split <;> simp [hm]

@[simp] theorem wf_objWrite {s : State} (hm : s.mem.wf = true) (o : ObjRef) (x : Nat) : (s.objWrite o x).mem.wf = true := by
  unfold State.objWrite
  split <;> simp [hm, State.wf_lsWrite, State.wf_homeWrite]

@[simp] theorem wf_watchAcquire {s : State} (hm : s.mem.wf = true) (o : ObjRef) : (s.watchAcquire o).mem.wf = true := by
  unfold State.watchAcquire
  split <;> simp [hm]

@[simp] theorem wf_testPlain {s : State} (hm : s.mem.wf = true) (o : ObjRef) (x : Nat) : (s.testPlain o x).1.mem.wf = true := by
  grind [State.testPlain, wf_watchAcquire]

@[simp] theorem wf_testPair {s : State} (hm : s.mem.wf = true) (wg : Nat) (half1 : Bool) (off x : Nat) :
    (s.testPair wg half1 off x).1.mem.wf = true := by
  grind [State.testPair]

@[simp] theorem wf_objUpdate {s : State} (hm : s.mem.wf = true) (o : ObjRef) (x : Nat) : (s.objUpdate o x).mem.wf = true := by
  unfold State.objUpdate
  dsimp only
  repeat' split
  all_goals simp [hm]

@[simp] theorem wf_objModify {s : State} (hm : s.mem.wf = true) (o : ObjRef) (f : Nat → Nat) :
    (s.objModify o f).mem.wf = true := by
  simp [State.objModify, hm]

@[simp] theorem wf_objSubtract {s : State} (hm : s.mem.wf = true) (o : ObjRef) (n : Nat) : (s.objSubtract o n).mem.wf = true := by
  grind [State.objSubtract, wf_objWrite, wf_objUpdate]

@[simp] theorem wf_barAcquire {s : State} (hm : s.mem.wf = true) (core : Nat) (wide : Bool) :
    (s.barAcquire core wide).mem.wf = true := by
  unfold State.barAcquire
  split <;> simp [hm]

@[simp] theorem wf_setProm {s : State} (hm : s.mem.wf = true) (o : ObjRef) (b : Bool) : (s.setProm o b).mem.wf = true := by
  simp [State.setProm, hm]

@[simp] theorem wf_modSleeper {s : State} (hm : s.mem.wf = true) (grp : Nat) (a : Bool) (f : Slice → Slice) :
    (s.modSleeper grp a f).mem.wf = true := by
  unfold State.modSleeper
  split <;> simp [hm]

@[simp] theorem wf_modSleepers {s : State} (hm : s.mem.wf = true) (sel : Group → Bool) (f : Slice → Slice) :
    (s.modSleepers sel f).mem.wf = true := by
  grind [State.modSleepers, wf_foldl, wf_setProm]

@[simp] theorem wf_missPromise {s : State} (hm : s.mem.wf = true) (e : Env) (t : W64) : (s.missPromise e t).mem.wf = true := by
  unfold State.missPromise
  split <;> simp [hm]

@[simp] theorem wf_askWatch {s : State} (hm : s.mem.wf = true) (w : Watch) : (s.askWatch w).mem.wf = true := by
  unfold State.askWatch
  split <;> simp [hm]

@[simp] theorem wf_execWatchRead {s : State} (hm : s.mem.wf = true) (index : Nat) : NextWf (execWatchRead index s) := by
  grind [execWatchRead, NextWf, wf_objModify, wf_askWatch]

@[simp] theorem wf_execPairMessageArrive {s : State} (hm : s.mem.wf = true) (index : Nat) :
    NextWf (execPairMessageArrive index s) := by
  grind [execPairMessageArrive, NextWf, wf_objWrite, wf_objUpdate]

@[simp] theorem wf_endWait {s : State} (hm : s.mem.wf = true) (g : Group) (a one : Bool) (w : BWaitRec) :
    (s.endWait g a one w).mem.wf = true := by
  simp [State.endWait, hm]

@[simp] theorem wf_execBwaitComplete {s : State} (hm : s.mem.wf = true) (grp : Nat) (a one : Bool) :
    NextWf (execBwaitComplete grp a one s) := by
  grind [execBwaitComplete, NextWf, wf_endWait]

@[simp] theorem wf_execBwaitPromWake {s : State} (hm : s.mem.wf = true) (grp : Nat) (a : Bool) :
    NextWf (execBwaitPromWake grp a s) := by
  grind [execBwaitPromWake, NextWf, wf_modSlice, wf_takeTrap, wf_modSleeper, wf_missPromise, wf_endWait]

@[simp] theorem wf_execSleepWake {s : State} (hm : s.mem.wf = true) (grp : Nat) (a : Bool) : NextWf (execSleepWake grp a s) := by
  grind [execSleepWake, NextWf, wf_modSlice]

@[simp] theorem wf_execYieldWindowEnd {s : State} (hm : s.mem.wf = true) (grp : Nat) (a : Bool) :
    NextWf (execYieldWindowEnd grp a s) := by
  grind [execYieldWindowEnd, NextWf, wf_modSlice]

/-! ### Matrix moves and passes -/

@[simp] theorem wf_moveWrite {s : State} (hm : s.mem.wf = true) (w : Wg) (grp : Nat) (geo : Geom) (h : W64) (i x : Nat) :
    (s.moveWrite w grp geo h i x).mem.wf = true := by
  grind [State.moveWrite, wf_modGroup, wf_modSlice, State.wf_lsWrite]

@[simp] theorem wf_runAcld {s : State} (hm : s.mem.wf = true) (w : Wg) (g : Group) (tile : Nat) (mask : W32) (reg : BitVec 512)
    (h : W64) (cell : BitVec 4) (n : Int) (mode : Mode) (sat : Bool) :
    (s.runAcld w g tile mask reg h cell n mode sat).1.mem.wf = true := by
  simp [State.runAcld, hm]

@[simp] theorem wf_runAcst {s : State} (hm : s.mem.wf = true) (w : Wg) (g : Group) (tile : Nat) (mask : W32) (reg : BitVec 512)
    (h : W64) (cell : BitVec 4) (n : Int) (mode : Mode) (sat : Bool) :
    (s.runAcst w g tile mask reg h cell n mode sat).1.mem.wf = true := by
  unfold State.runAcst
  exact List.foldlRecOn (motive := fun x : State × Events => x.1.mem.wf = true) _ _ hm (fun _ hx _ _ => wf_moveWrite hx ..)

@[simp] theorem wf_execMatrixPassStart {s : State} (hm : s.mem.wf = true) (core sub : Nat) :
    NextWf (execMatrixPassStart core sub s) := by
  grind [execMatrixPassStart, NextWf, wf_modCore]

@[simp] theorem wf_runPass {s : State} (hm : s.mem.wf = true) (w : Wg) (g : Group) (op : PassOp) :
    (s.runPass w g op).1.mem.wf = true := by
  unfold State.runPass
  split <;> simp [hm]

@[simp] theorem wf_execMatrixPassComplete {s : State} (hm : s.mem.wf = true) (core sub : Nat) :
    NextWf (execMatrixPassComplete core sub s) := by
  grind [execMatrixPassComplete, NextWf, wf_modCore, wf_modSlice, wf_record, wf_runPass]

/-! ### Commands of the engines -/

@[simp] theorem wf_traceCmd {s : State} (hm : s.mem.wf = true) (c : Command) (type payload : Nat) :
    (s.traceCmd c type payload).mem.wf = true := by
  simp [State.traceCmd, hm]

@[simp] theorem wf_traceCmdIf {s : State} (hm : s.mem.wf = true) (c : Command) (type payload : Nat) :
    (s.traceCmdIf c type payload).mem.wf = true := by
  unfold State.traceCmdIf
  split <;> simp [hm]

@[simp] theorem wf_cmdPut {s : State} (hm : s.mem.wf = true) (c : Command) (p : Place) (b : Byte) :
    (s.cmdPut c p b).mem.wf = true := by
  cases p <;> grind [State.cmdPut, State.wf_writePlace]

@[simp] theorem wf_cmdStore {s : State} (hm : s.mem.wf = true) (c : Command) (g : Geom) (h : W64) (peer : Option (BitVec 12))
    (i x : Nat) : (s.cmdStore c g h peer i x).1.mem.wf = true := by
  grind [State.cmdStore, wf_foldl, wf_cmdPut]

@[simp] theorem wf_modRunning {s : State} (hm : s.mem.wf = true) (i : EngineId) (f : Command → Command) :
    (s.modRunning i f).mem.wf = true := by
  simp [State.modRunning, hm]

@[simp] theorem wf_cmdSend {s : State} (hm : s.mem.wf = true) (i : EngineId) (read : Bool) (l : List (BitVec 12 × Nat × Byte)) :
    (s.cmdSend i read l).mem.wf = true := by
  grind [State.cmdSend, wf_foldl, wf_sendReq, wf_modRunning]

@[simp] theorem wf_cmdLand {s : State} (hm : s.mem.wf = true) (c : Command) (n : Nat) : (s.cmdLand c n).mem.wf = true := by
  grind [State.cmdLand, wf_objSubtract, wf_modRunning]

@[simp] theorem wf_corrRecord {s : State} (hm : s.mem.wf = true) (c : Command) (type payload : Nat) :
    (s.corrRecord c type payload).mem.wf = true := by
  unfold State.corrRecord
  split <;> simp [hm]

@[simp] theorem wf_finishCmd {s : State} (hm : s.mem.wf = true) (c : Command) (extra : Option W64) :
    (s.finishCmd c extra).mem.wf = true := by
  grind [State.finishCmd, wf_modWg, wf_modSlice, wf_imageFinish, wf_modEngine, wf_traceCmdIf, wf_corrRecord]

/-! ### The engines at work -/

@[simp] theorem wf_landSome {s : State} (hm : s.mem.wf = true) (i : EngineId) : (s.landSome i).mem.wf = true := by
  unfold State.landSome
  split <;> simp [hm]

@[simp] theorem wf_askLines {s : State} (hm : s.mem.wf = true) (i : EngineId)
    (todo : List (BitVec 12 × Nat × List (Nat × Byte))) : (s.askLines i todo).mem.wf = true := by
  induction todo generalizing s <;> grind [State.askLines, wf_sendReq, wf_modRunning]

@[simp] theorem wf_makeReady {s : State} (hm : s.mem.wf = true) (i : EngineId) (c : Command) :
    (s.makeReady i c).mem.wf = true := by
  grind [State.makeReady, wf_modRunning, wf_askLines]

theorem wf_runStore {r : Run} (hm : r.s.mem.wf = true) (peer : Option (BitVec 12)) (k x : Nat) :
    (r.store peer k x).s.mem.wf = true :=
  wf_cmdStore hm ..

theorem wf_runMove {r : Run} (hm : r.s.mem.wf = true) (i : Nat) : (r.move i).s.mem.wf = true := by
  unfold Run.move
  split
  · exact hm
  · split
    · exact hm
    · dsimp only
      split
      · exact List.foldlRecOn (motive := fun r : Run => r.s.mem.wf = true) _ _ hm (fun _ hr _ _ => wf_runStore hr ..)
      · exact wf_runStore (by exact hm) ..

@[simp] theorem wf_moveUnits {s : State} (hm : s.mem.wf = true) (i : EngineId) (c : Command) (limit : Nat) :
    (s.moveUnits i c limit).mem.wf = true := by
  unfold State.moveUnits
  extract_lets want n is_ reads writes c1 r s1
  have hr : r.s.mem.wf = true :=
    List.foldlRecOn (motive := fun r : Run => r.s.mem.wf = true) _ _ hm (fun _ hr _ _ => wf_runMove hr _)
  split
  · exact hm
  · split
    · exact hm
    · exact wf_landSome (wf_cmdSend (wf_clearPoison (wf_modRunning hr ..) _) ..) _

@[simp] theorem wf_cmdAdvance {s : State} (hm : s.mem.wf = true) (i : EngineId) (limit : Nat) :
    (s.cmdAdvance i limit).mem.wf = true := by
  grind [State.cmdAdvance, wf_makeReady, wf_moveUnits]

@[simp] theorem wf_sendRelease {s : State} (hm : s.mem.wf = true) (i : EngineId) (p : BitVec 12) (off : Nat) (v : W32) :
    (s.sendRelease i p off v).mem.wf = true := by
  simp [State.sendRelease, hm]

@[simp] theorem wf_makeReleases {s : State} (hm : s.mem.wf = true) (i : EngineId) (c : Command) :
    (s.makeReleases i c).mem.wf = true := by
  grind [State.makeReleases, wf_foldl, State.wf_writePlace, wf_modRunning, wf_sendRelease]

@[simp] theorem wf_closeCmd {s : State} (hm : s.mem.wf = true) (i : EngineId) (extra : Command → Option W64) :
    (s.closeCmd i extra).mem.wf = true := by
  grind [State.closeCmd, wf_finishCmd, wf_landSome, wf_makeReleases]

@[simp] theorem wf_writeColl {s : State} (hm : s.mem.wf = true) (i : EngineId) (c : Command) :
    (s.writeColl i c).mem.wf = true := by
  grind [State.writeColl, State.wf_lsWrite, wf_modRunning]

@[simp] theorem wf_sendCorr {s : State} (hm : s.mem.wf = true) (c : Command) : (s.sendCorr c).mem.wf = true := by
  unfold State.sendCorr
  split <;> simp [hm]

@[simp] theorem wf_startColl {s : State} (hm : s.mem.wf = true) (i : EngineId) (c : Command) :
    (s.startColl i c).mem.wf = true := by
  simp [State.startColl, hm]

@[simp] theorem wf_execCommandStart {s : State} (hm : s.mem.wf = true) (i : EngineId) : NextWf (execCommandStart i s) := by
  grind [execCommandStart, NextWf, wf_modEngine, wf_traceCmdIf, wf_modRunning, wf_sendCorr, wf_startColl]

@[simp] theorem wf_execEngineByteSubtract {s : State} (hm : s.mem.wf = true) (i : EngineId) (elems : Nat) :
    NextWf (execEngineByteSubtract i elems s) := by
  unfold execEngineByteSubtract
  split <;> simp [hm]

@[simp] theorem wf_execCommandComplete {s : State} (hm : s.mem.wf = true) (i : EngineId) : NextWf (execCommandComplete i s) := by
  grind [execCommandComplete, NextWf, wf_cmdAdvance, wf_closeCmd, wf_writeColl]

@[simp] theorem wf_execTileTaskReplay {s : State} (hm : s.mem.wf = true) (i : EngineId) : NextWf (execTileTaskReplay i s) := by
  grind [execTileTaskReplay, NextWf, wf_modRunning]

@[simp] theorem wf_execPselComplete {s : State} (hm : s.mem.wf = true) (cluster : Nat) : NextWf (execPselComplete cluster s) := by
  grind [execPselComplete, NextWf, State.wf_lsWrite, wf_modRunning, wf_makeReady, wf_closeCmd]

@[simp] theorem wf_execCollResultArrive {s : State} (hm : s.mem.wf = true) (die line : Nat) (leaves : List (List (List Byte)))
    (mismatch : Bool) : NextWf (execCollResultArrive die line leaves mismatch s) := by
  grind [execCollResultArrive, NextWf, wf_modRunning]

@[simp] theorem wf_execCollLineResend {s : State} (hm : s.mem.wf = true) (die plane : Nat) :
    NextWf (execCollLineResend die plane s) := by
  grind [execCollLineResend, NextWf, wf_modRunning]

/-! ### System and work -/

@[simp] theorem wf_tlbiDie {s : State} (hm : s.mem.wf = true) (op : TlbiOp) (d : Nat) : (s.tlbiDie op d).mem.wf = true := by
  grind [State.tlbiDie, wf_foldl, wf_modCore, wf_modDie]

@[simp] theorem wf_traceSlice {s : State} (hm : s.mem.wf = true) (e : Env) (type detail : Nat) (corr : W32) (payload : W64) :
    (s.traceSlice e type detail corr payload).mem.wf = true := by
  simp [State.traceSlice, hm]

@[simp] theorem wf_modLaunch {s : State} (hm : s.mem.wf = true) (id : Nat) (f : Launch → Launch) :
    (s.modLaunch id f).mem.wf = true := by
  simp [State.modLaunch, hm]

@[simp] theorem wf_modRegion {s : State} (hm : s.mem.wf = true) (n : Nat) (f : Region → Region) :
    (s.modRegion n f).mem.wf = true := by
  simp [State.modRegion, hm]

@[simp] theorem wf_queueItem {s : State} (hm : s.mem.wf = true) (cluster : Nat) (r : BitVec 256) :
    (s.queueItem cluster r).mem.wf = true := by
  grind [State.queueItem, State.wf_poke, wf_modCluster]

@[simp] theorem wf_refillItems {s : State} (hm : s.mem.wf = true) (cluster : Nat) (todo : Nat) :
    (s.refillItems cluster todo).mem.wf = true := by
  induction todo generalizing s <;> grind [State.refillItems, wf_modCluster]

@[simp] theorem wf_setItems {s : State} (hm : s.mem.wf = true) (cluster : Nat) (l : List (BitVec 256)) :
    (s.setItems cluster l).mem.wf = true := by
  grind [State.setItems, wf_foldl, wf_modCluster, wf_queueItem]

@[simp] theorem wf_spawnInto {s : State} (hm : s.mem.wf = true) (cluster : Nat) (owner : Option (Nat × Bool))
    (l : List (BitVec 256)) : (s.spawnInto cluster owner l).mem.wf = true := by
  simp [State.spawnInto, hm]

theorem wf_startWork {s : State} (hm : s.mem.wf = true) (e : Env) (h : HeldWork) {start : State → State}
    (hs : (start s).mem.wf = true) : (s.startWork e h start).mem.wf = true := by
  unfold State.startWork
  split
  · exact hm
  · exact hs

theorem wf_joinStep {s : State} (hm : s.mem.wf = true) (core : Nat) (p : Place) (a : Nat) {t : State}
    (ht : s.joinStep core p a = some t) : t.mem.wf = true := by
  unfold State.joinStep at ht
  extract_lets pa x c done y z s1 at ht
  have hs1 : s1.mem.wf = true := State.wf_writePlace hm ..
  clear_value s1
  split at ht
  · cases ht
  · split at ht
    · obtain rfl := Option.some.inj ht; exact hm
    · obtain rfl := Option.some.inj ht
      split
      · exact wf_spawnInto hs1 ..
      · exact hs1

theorem wf_appendLaunch {s : State} (hm : s.mem.wf = true) (region : Nat) (bs : List Byte) {t : State}
    (ht : s.appendLaunch region bs = some t) : t.mem.wf = true := by
  grind [State.appendLaunch, State.wf_pokeBytes, wf_setRcb]

/-! ### Events of a core -/

@[simp] theorem wf_execHaltArrival {s : State} (hm : s.mem.wf = true) (wg core sub : Nat) :
    NextWf (execHaltArrival wg core sub s) := by
  unfold execHaltArrival
  split <;> simp [hm]

@[simp] theorem wf_execIdleCycle {s : State} (hm : s.mem.wf = true) (core sub : Nat) : NextWf (execIdleCycle core sub s) := by
  unfold execIdleCycle
  split <;> simp [hm]

@[simp] theorem wf_followCandidates {s : State} (hm : s.mem.wf = true) (core : Nat) :
    (s.followCandidates core).mem.wf = true := by
  simp [State.followCandidates, hm]

@[simp] theorem wf_execThrottleDecay {s : State} (hm : s.mem.wf = true) (core : Nat) : NextWf (execThrottleDecay core s) := by
  grind [execThrottleDecay, NextWf, wf_modCore]

@[simp] theorem wf_execThrottleWindow {s : State} (hm : s.mem.wf = true) (core : Nat) : NextWf (execThrottleWindow core s) := by
  grind [execThrottleWindow, NextWf, wf_modCore]

@[simp] theorem wf_acceptBank {s : State} (hm : s.mem.wf = true) (core bank source : Nat) :
    (s.acceptBank core bank source).mem.wf = true := by
  grind [State.acceptBank, wf_modCore]

@[simp] theorem wf_acceptBanks {s : State} (hm : s.mem.wf = true) (core : Nat) : (s.acceptBanks core).mem.wf = true := by
  grind [State.acceptBanks, wf_foldl, wf_acceptBank]

@[simp] theorem wf_execBankServe {s : State} (hm : s.mem.wf = true) (core bank : Nat) : NextWf (execBankServe core bank s) := by
  grind [execBankServe, NextWf, wf_modCore, wf_perform]

@[simp] theorem wf_execBuddyRequestArrive {s : State} (hm : s.mem.wf = true) (core id : Nat) :
    NextWf (execBuddyRequestArrive core id s) := by
  grind [execBuddyRequestArrive, NextWf, wf_setAccs, wf_enqueueBanks]

@[simp] theorem wf_markRefused {s : State} (hm : s.mem.wf = true) (core id : Nat) (va : W64) (who : BitVec 12)
    (reason : BitVec 4) : (s.markRefused core id va who reason).mem.wf = true := by
  simp [State.markRefused, hm]

@[simp] theorem wf_unread {s : State} (hm : s.mem.wf = true) (core id : Nat) : (s.unread core id).mem.wf = true := by
  simp [State.unread, hm]

@[simp] theorem wf_poisonStop {s : State} (hm : s.mem.wf = true) (core : Nat) (p : Pending) (va : W64) :
    (s.poisonStop core p va).mem.wf = true := by
  grind [State.poisonStop, wf_stopSlice, wf_modSleeper, wf_markRefused, wf_unread]

@[simp] theorem wf_sendReady {s : State} (hm : s.mem.wf = true) (core : Nat) (p : Pending) :
    (s.sendReady core p).mem.wf = true := by
  grind [State.sendReady, wf_sendPend]

@[simp] theorem wf_respond {s : State} (hm : s.mem.wf = true) (core id : Nat) : (s.respond core id).mem.wf = true := by
  grind [State.respond, wf_completeIf, wf_perform, wf_markRefused, wf_poisonStop, wf_sendReady]

@[simp] theorem wf_execLoadResponse {s : State} (hm : s.mem.wf = true) (core id : Nat) : NextWf (execLoadResponse core id s) := by
  unfold execLoadResponse
  split <;> simp [hm]

@[simp] theorem wf_execStorePerformed {s : State} (hm : s.mem.wf = true) (core id : Nat) :
    NextWf (execStorePerformed core id s) := by
  unfold execStorePerformed
  split <;> simp [hm]

@[simp] theorem wf_execAtomicResponse {s : State} (hm : s.mem.wf = true) (core id : Nat) :
    NextWf (execAtomicResponse core id s) := by
  unfold execAtomicResponse
  split <;> simp [hm]

@[simp] theorem wf_execPageWalk {s : State} (hm : s.mem.wf = true) (die : Nat) : NextWf (execPageWalk die s) := by
  simp [execPageWalk, hm]

@[simp] theorem wf_execDroopStretch {s : State} (hm : s.mem.wf = true) (die : Nat) : NextWf (execDroopStretch die s) := by
  grind [execDroopStretch, NextWf, wf_modDie]

/-! ### Energy and regions -/

@[simp] theorem wf_setErem {s : State} (hm : s.mem.wf = true) (r : Nat) (x : Int) : (s.setErem r x).mem.wf = true := by
  simp [State.setErem, hm]

@[simp] theorem wf_takeErem {s : State} (hm : s.mem.wf = true) (l : List Nat) (q : Int) : (s.takeErem l q).mem.wf = true := by
  grind [State.takeErem, wf_foldl, wf_setErem]

@[simp] theorem wf_chargeEntry {s : State} (hm : s.mem.wf = true) (w : Wg) (q : Nat) : (s.chargeEntry w q).mem.wf = true := by
  grind [State.chargeEntry, wf_foldl, wf_modWg, wf_setErem]

@[simp] theorem wf_settle {s : State} (hm : s.mem.wf = true) (w : Wg) : (s.settle w).mem.wf = true := by
  grind [State.settle, wf_foldl, wf_setErem]

@[simp] theorem wf_launchEnergy {s : State} (hm : s.mem.wf = true) (l : Option Nat) (q : Nat) :
    (s.launchEnergy l q).mem.wf = true := by
  unfold State.launchEnergy
  split <;> simp [hm]

@[simp] theorem wf_execEnergyCharge {s : State} (hm : s.mem.wf = true) (wg region quanta : Nat) :
    NextWf (execEnergyCharge wg region quanta s) := by
  grind [execEnergyCharge, NextWf, wf_takeErem, wf_chargeEntry, wf_launchEnergy]

@[simp] theorem wf_execPowerMeasure {s : State} (hm : s.mem.wf = true) (ends : Nat) : NextWf (execPowerMeasure ends s) := by
  unfold execPowerMeasure
  split <;> simp [hm]

@[simp] theorem wf_execEnergyWindowStart {s : State} (hm : s.mem.wf = true) (region : Nat) :
    NextWf (execEnergyWindowStart region s) := by
  grind [execEnergyWindowStart, NextWf, wf_setRcb, wf_trace, wf_modRegion, wf_setErem]

@[simp] theorem wf_rstatWrite {s : State} (hm : s.mem.wf = true) (region result : Nat) :
    (s.rstatWrite region result).mem.wf = true := by
  simp [State.rstatWrite, hm]

@[simp] theorem wf_execRegionActivate {s : State} (hm : s.mem.wf = true) (region : Nat) :
    NextWf (execRegionActivate region s) := by
  grind [execRegionActivate, NextWf, wf_setRcb, wf_setErem, wf_rstatWrite]

@[simp] theorem wf_execRegionDeactivate {s : State} (hm : s.mem.wf = true) (region : Nat) :
    NextWf (execRegionDeactivate region s) := by
  grind [execRegionDeactivate, NextWf, wf_setRcb, wf_rstatWrite]

@[simp] theorem wf_appendFault {s : State} (hm : s.mem.wf = true) (r word : Nat) : (s.appendFault r word).mem.wf = true := by
  grind [State.appendFault, State.wf_pokeBytes, wf_setRcb, wf_trace, wf_raiseRegion, wf_modRegion]

@[simp] theorem wf_putFault {s : State} (hm : s.mem.wf = true) (x : FaultRec) : (s.putFault x).mem.wf = true := by
  simp [State.putFault, hm]

@[simp] theorem wf_deferFault {s : State} (hm : s.mem.wf = true) (x : FaultRec) : (s.deferFault x).mem.wf = true := by
  unfold State.deferFault
  split <;> simp [hm]

/-! ### The cluster -/

@[simp] theorem wf_setUnit {s : State} (hm : s.mem.wf = true) (root base : Nat) (b : Bool) (j : Nat) :
    (s.setUnit root base b j).mem.wf = true := by
  unfold State.setUnit
  split
  · exact Memory.wf_writeNat hm ..
  · exact hm

@[simp] theorem wf_takeUnits {s : State} (hm : s.mem.wf = true) (root base total u n : Nat) :
    (s.takeUnits root base total u n).mem.wf = true := by
  grind [State.takeUnits, wf_foldl, wf_setUnit]

theorem wf_allocFrames {s : State} (hm : s.mem.wf = true) (root base total n todo : Nat) {t : State × List (Nat × Nat)}
    (ht : s.allocFrames root base total n todo = some t) : t.1.mem.wf = true := by
  induction todo generalizing s t with
  | zero => cases ht; exact hm
  | succ k ih =>
    unfold State.allocFrames at ht
    split at ht
    · cases ht
    · obtain ⟨r, hr, rfl⟩ := Option.map_eq_some_iff.mp ht
      exact ih (t := r) (wf_takeUnits hm ..) hr

@[simp] theorem wf_freeFrames {s : State} (hm : s.mem.wf = true) (w : Wg) : (s.freeFrames w).mem.wf = true := by
  grind [State.freeFrames, wf_foldl, wf_setUnit]

@[simp] theorem wf_seat {s : State} (hm : s.mem.wf = true) (g : Group) : (s.seat g).mem.wf = true := by
  simp [State.seat, hm]

@[simp] theorem wf_enterWg {s : State} (hm : s.mem.wf = true) (x : Entry) (setId : Nat) (p : MemberPlace)
    (frames : List (Nat × Nat)) : (s.enterWg x setId p frames).mem.wf = true := by
  grind [State.enterWg, wf_foldl, wf_l1Drop, wf_seat]

theorem wf_enterAll {s : State} (hm : s.mem.wf = true) (setId : Nat) (l : List (Entry × MemberPlace)) {t : State}
    (ht : s.enterAll setId l = some t) : t.mem.wf = true := by
  induction l generalizing s with
  | nil => cases ht; exact hm
  | cons x l ih =>
    simp only [State.enterAll] at ht
    split at ht
    · cases ht
    · next hf => exact ih (wf_enterWg (wf_allocFrames hm _ _ _ _ _ hf) ..) ht

@[simp] theorem wf_reserveEnergy {s : State} (hm : s.mem.wf = true) (r e n : Nat) : (s.reserveEnergy r e n).mem.wf = true := by
  simp [State.reserveEnergy, hm]

theorem wf_admitEntries {s : State} (hm : s.mem.wf = true) (cluster : Nat) (l : List Entry) {t : State}
    (ht : s.admitEntries cluster l = some t) : t.mem.wf = true := by
  unfold State.admitEntries at ht
  split at ht
  · cases ht
  · split at ht
    · cases ht
    · split at ht
      · cases ht
      · obtain ⟨u, hu, rfl⟩ := Option.map_eq_some_iff.mp ht
        exact wf_reserveEnergy (wf_enterAll (s := { s with nextId := s.nextId + 1 }) hm _ _ hu) ..

@[simp] theorem wf_execItemQueueEnter {s : State} (hm : s.mem.wf = true) (cluster : Nat) :
    NextWf (execItemQueueEnter cluster s) := by
  grind [execItemQueueEnter, NextWf, wf_foldl, wf_modCluster, wf_modSlice, wf_queueItem]

@[simp] theorem wf_execCouplerCycle {s : State} (hm : s.mem.wf = true) (cluster : Nat) : NextWf (execCouplerCycle cluster s) := by
  grind [execCouplerCycle, NextWf, wf_foldl, wf_modCluster, wf_makeReady, wf_refillItems]

@[simp] theorem wf_execCouplerIdleTimeout {s : State} (hm : s.mem.wf = true) (cluster : Nat) :
    NextWf (execCouplerIdleTimeout cluster s) := by
  simp [execCouplerIdleTimeout, hm]

@[simp] theorem wf_itemJoin {s : State} (hm : s.mem.wf = true) (w : Wg) (corr : W32) (a : W64) (n : Nat) :
    (s.itemJoin w corr a n).mem.wf = true := by
  grind [State.itemJoin, wf_joinStep, wf_deferFault]

@[simp] theorem wf_itemJoins {s : State} (hm : s.mem.wf = true) (w : Wg) (corr : W32) : (s.itemJoins w corr).mem.wf = true := by
  grind [State.itemJoins, wf_foldl, wf_itemJoin]

@[simp] theorem wf_freed {s : State} (hm : s.mem.wf = true) (w : Wg) : (s.freed w).mem.wf = true := by
  unfold State.freed
  split <;> simp [hm]

@[simp] theorem wf_removeWg {s : State} (hm : s.mem.wf = true) (w : Wg) : (s.removeWg w).mem.wf = true := by
  simp [State.removeWg, hm]

@[simp] theorem wf_retireWg {s : State} (hm : s.mem.wf = true) (w : Wg) : (s.retireWg w).mem.wf = true := by
  grind [State.retireWg, wf_modLaunch, wf_settle, wf_freeFrames, wf_removeWg]

@[simp] theorem wf_sweepWgs {s : State} (hm : s.mem.wf = true) : (s.sweepWgs).mem.wf = true := by
  grind [State.sweepWgs, wf_foldl, wf_retireWg]

@[simp] theorem wf_execGroupRetire {s : State} (hm : s.mem.wf = true) (grp : Nat) : NextWf (execGroupRetire grp s) := by
  grind [execGroupRetire, NextWf, wf_itemJoins, wf_freed, wf_sweepWgs]

/-! ### Images, saves and admission -/

@[simp] theorem wf_pokePages {s : State} (hm : s.mem.wf = true) (at_ : Nat) (bs : List Byte) (todo : Nat) :
    (s.pokePages at_ bs todo).mem.wf = true := by
  induction todo generalizing s at_ bs with
  | zero => exact hm
  | succ n ih => exact ih (State.wf_pokeBytes hm ..) ..

@[simp] theorem wf_setPages {s : State} (hm : s.mem.wf = true) (base : Nat) (b : Bool) (j n : Nat) :
    (s.setPages base b j n).mem.wf = true := by
  grind [State.setPages, wf_foldl, State.wf_pokeBits]

@[simp] theorem wf_freeCtx {s : State} (hm : s.mem.wf = true) (c : Ctx) : (s.freeCtx c).mem.wf = true := by
  simp [State.freeCtx, hm]

@[simp] theorem wf_saveAt {s : State} (hm : s.mem.wf = true) (w : Wg) (i : StopInfo) (owner at_ : Nat) :
    (s.saveAt w i owner at_).mem.wf = true := by
  grind [State.saveAt, wf_foldl, wf_modCore, wf_removeWg, wf_pokePages]

@[simp] theorem wf_traceSave {s : State} (hm : s.mem.wf = true) (w : Wg) (i : StopInfo) (at_ recAddr : Nat) :
    (s.traceSave w i at_ recAddr).mem.wf = true := by
  unfold State.traceSave
  extract_lets r
  clear_value r
  generalize i.reason = q
  cases q <;> exact wf_trace hm ..

@[simp] theorem wf_reportStop {s : State} (hm : s.mem.wf = true) (w : Wg) (i : StopInfo) (ctx cpages state : Nat) :
    (s.reportStop w i ctx cpages state).1.mem.wf = true := by
  unfold State.reportStop
  split <;> simp [hm]

theorem wf_saveAll {s : State} (hm : s.mem.wf = true) (todo : List Wg) {t : State} (ht : s.saveAll todo = some t) :
    t.mem.wf = true := by
  induction todo generalizing s <;> grind [State.saveAll, wf_setPages, wf_saveAt]

@[simp] theorem wf_reportAll {s : State} (hm : s.mem.wf = true) (l : List Wg) : (s.reportAll l).mem.wf = true := by
  grind [State.reportAll, wf_foldl, wf_traceSave, wf_reportStop]

@[simp] theorem wf_holdUnit {s : State} (hm : s.mem.wf = true) (l : List Wg) : (s.holdUnit l).mem.wf = true := by
  grind [State.holdUnit, wf_foldl, wf_modWg, wf_traceSave, wf_reportStop]

@[simp] theorem wf_settleDstat {s : State} (hm : s.mem.wf = true) : (s.settleDstat).mem.wf = true := by
  grind [State.settleDstat]

@[simp] theorem wf_settlePstat {s : State} (hm : s.mem.wf = true) : (s.settlePstat).mem.wf = true := by
  grind [State.settlePstat]

@[simp] theorem wf_saveUnit {s : State} (hm : s.mem.wf = true) (w : Wg) : (s.saveUnit w).mem.wf = true := by
  grind [State.saveUnit, wf_saveAll, wf_reportAll, wf_holdUnit, wf_settleDstat, wf_settlePstat]

@[simp] theorem wf_execSwapOut {s : State} (hm : s.mem.wf = true) (wg : Nat) : NextWf (execSwapOut wg s) := by
  grind [execSwapOut, NextWf, wf_saveUnit]

@[simp] theorem wf_execContextSave {s : State} (hm : s.mem.wf = true) (wg : Nat) : NextWf (execContextSave wg s) := by
  unfold execContextSave
  split <;> simp [hm]

@[simp] theorem wf_resendAll {s : State} (hm : s.mem.wf = true) (c : Ctx) : (s.resendAll c).mem.wf = true := by
  grind [State.resendAll, wf_foldl, wf_addPend]

@[simp] theorem wf_requeueHeld {s : State} (hm : s.mem.wf = true) (wg : Nat) : (s.requeueHeld wg).mem.wf = true := by
  grind [State.requeueHeld, wf_foldl, wf_modEngine, wf_traceCmd]

@[simp] theorem wf_releaseWork {s : State} (hm : s.mem.wf = true) (sel : HeldWork → Bool) : (s.releaseWork sel).mem.wf = true := by
  unfold State.releaseWork
  dsimp only
  refine wf_foldl (fun s h hs => ?_) (by exact hm) _
  split
  · exact wf_spawnInto hs ..
  · split
    · next ht => exact wf_modSlice (wf_appendLaunch hs _ _ ht) ..
    · exact hs

@[simp] theorem wf_restoreWg {s : State} (hm : s.mem.wf = true) (c : Ctx) (p : MemberPlace) :
    (s.restoreWg c p).mem.wf = true := by
  grind [State.restoreWg, wf_foldl, wf_trace, wf_l1Drop, wf_seat, wf_freeCtx, wf_resendAll, wf_requeueHeld, wf_releaseWork]

theorem wf_restoreUnit {s : State} (hm : s.mem.wf = true) (cluster : Nat) (l : List Ctx) {t : State}
    (ht : s.restoreUnit cluster l = some t) : t.mem.wf = true := by
  unfold State.restoreUnit at ht
  split at ht
  · cases ht
  · dsimp only at ht
    split at ht
    · cases ht
    · obtain ⟨ps, -, rfl⟩ := Option.map_eq_some_iff.mp ht
      exact wf_settlePstat (wf_reserveEnergy (wf_foldl (fun _ _ hs => wf_restoreWg hs ..) hm _) ..)

theorem wf_admitHead {s : State} (hm : s.mem.wf = true) (cluster : Nat) {t : Bool × State}
    (ht : s.admitHead cluster = some t) : t.2.mem.wf = true := by
  unfold State.admitHead at ht
  split at ht
  · cases ht
  · dsimp only at ht
    split at ht
    · split at ht
      · obtain ⟨u, hu, rfl⟩ := Option.map_eq_some_iff.mp ht
        exact wf_modCluster (wf_admitEntries hm _ _ hu) ..
      · cases ht
    · obtain ⟨u, hu, rfl⟩ := Option.map_eq_some_iff.mp ht
      exact wf_modCluster (wf_restoreUnit hm _ _ hu) ..

theorem wf_admitItem {s : State} (hm : s.mem.wf = true) (cluster : Nat) {t : Bool × State}
    (ht : s.admitItem cluster = some t) : t.2.mem.wf = true := by
  unfold State.admitItem at ht
  dsimp only at ht
  split at ht
  · cases ht
  · split at ht
    · obtain ⟨u, hu, rfl⟩ := Option.map_eq_some_iff.mp ht
      exact wf_modCluster (wf_restoreUnit hm _ _ hu) ..
    · split at ht
      · cases ht
      · obtain ⟨u, hu, rfl⟩ := Option.map_eq_some_iff.mp ht
        exact wf_modCluster (wf_modCluster (wf_admitEntries hm _ _ hu) ..) ..

theorem wf_tryAdmit {s : State} (hm : s.mem.wf = true) (cluster : Nat) {t : Bool × State}
    (ht : s.tryAdmit cluster = some t) : t.2.mem.wf = true := by
  unfold State.tryAdmit at ht
  dsimp only at ht
  split at ht
  · split at ht
    · next hr => obtain rfl := Option.some.inj ht; exact wf_modCluster (wf_admitItem hm _ hr) ..
    · split at ht
      · cases ht
      · exact wf_admitHead hm _ ht
  · split at ht
    · next hr => obtain rfl := Option.some.inj ht; exact wf_modCluster (wf_admitHead hm _ hr) ..
    · split at ht
      · cases ht
      · exact wf_admitItem hm _ ht

@[simp] theorem wf_execClusterAdmit {s : State} (hm : s.mem.wf = true) (cluster : Nat) : NextWf (execClusterAdmit cluster s) := by
  unfold execClusterAdmit
  split
  · exact nextWf_next.mpr hm
  · split
    · next ht => exact nextWf_next.mpr (wf_tryAdmit hm _ ht)
    · exact nextWf_next.mpr hm
    · exact nextWf_next.mpr (wf_modCluster hm ..)

@[simp] theorem wf_execRestore {s : State} (hm : s.mem.wf = true) (cluster : Nat) : NextWf (execRestore cluster s) := by
  unfold execRestore
  split
  · exact nextWf_next.mpr hm
  · split
    · next ht => exact nextWf_next.mpr (wf_tryAdmit hm _ ht)
    · exact nextWf_next.mpr hm

@[simp] theorem wf_partWrite {s : State} (hm : s.mem.wf = true) (root va : Nat) (bs : List Byte) :
    (s.partWrite root va bs).mem.wf = true := by
  grind [State.partWrite, State.wf_writePlace, wf_sendReq]

@[simp] theorem wf_finishLaunch {s : State} (hm : s.mem.wf = true) (l : Launch) (outcome reason : Nat) :
    (s.finishLaunch l outcome reason).mem.wf = true := by
  grind [State.finishLaunch, wf_trace, wf_raiseRegion, wf_modRegion, wf_partWrite]

@[simp] theorem wf_execLaunchComplete {s : State} (hm : s.mem.wf = true) (launch : Nat) :
    NextWf (execLaunchComplete launch s) := by
  grind [execLaunchComplete, NextWf, wf_finishLaunch]

@[simp] theorem wf_execLaunchRead {s : State} (hm : s.mem.wf = true) (region : Nat) : NextWf (execLaunchRead region s) := by
  unfold execLaunchRead
  split
  · exact nextWf_next.mpr hm
  · extract_lets head addr img next reject
    have hnext : (next s).mem.wf = true := wf_releaseWork (wf_modRegion (wf_setRcb hm ..) ..) _
    have hreject (l : Launch) (n : Nat) : (reject l n).mem.wf = true := wf_finishLaunch hnext ..
    clear_value next reject
    split
    · exact nextWf_next.mpr hm
    · split
      · exact nextWf_next.mpr hm
      · split
        · dsimp only
          split
          · exact nextWf_next.mpr (hreject ..)
          · split
            · exact nextWf_next.mpr hm
            · refine nextWf_next.mpr ?_
              split
              · exact wf_trace (wf_modRegion (by exact hnext) ..) ..
              · exact wf_modRegion (by exact hnext) ..
        · split
          · exact nextWf_next.mpr hm
          · exact nextWf_next.mpr (wf_modRegion (wf_putFault hm ..) ..)
        · exact nextWf_next.mpr (hreject ..)

theorem wf_placeWhole {s : State} (hm : s.mem.wf = true) (l : Launch) (clusters : List Nat) (n first : Nat) {t : State}
    (ht : s.placeWhole l clusters n first = some t) : t.mem.wf = true := by
  induction n generalizing s first with
  | zero => cases ht; exact hm
  | succ n ih =>
    simp only [State.placeWhole] at ht
    split at ht
    · next hu =>
      obtain ⟨c, -, hc⟩ := List.exists_of_findSome?_eq_some hu
      exact ih (wf_admitEntries hm _ _ hc) _ ht
    · cases ht

theorem wf_handWhole {s : State} (hm : s.mem.wf = true) (l : Launch) (clusters : List Nat) {t : State}
    (ht : s.handWhole l clusters = some t) : t.mem.wf = true := by
  unfold State.handWhole at ht
  dsimp only at ht
  split at ht
  · cases ht
  · obtain ⟨u, hu, rfl⟩ := Option.map_eq_some_iff.mp ht
    exact wf_modLaunch (wf_placeWhole hm _ _ _ _ hu) ..

theorem wf_restoreWhole {s : State} (hm : s.mem.wf = true) (clusters : List Nat) (l : List (List Ctx)) {t : State}
    (ht : s.restoreWhole clusters l = some t) : t.mem.wf = true := by
  induction l generalizing s with
  | nil => cases ht; exact hm
  | cons u rest ih =>
    simp only [State.restoreWhole] at ht
    split at ht
    · next hu =>
      obtain ⟨c, -, hc⟩ := List.exists_of_findSome?_eq_some hu
      exact ih (wf_restoreUnit hm _ _ hc) ht
    · cases ht

@[simp] theorem wf_enqueueSet {s : State} (hm : s.mem.wf = true) (cluster : Nat) (h : WaitSet) :
    (s.enqueueSet cluster h).mem.wf = true := by
  simp [State.enqueueSet, hm]

@[simp] theorem wf_handSet {s : State} (hm : s.mem.wf = true) (l : Launch) (n : NextSet) (cluster : Nat) :
    (s.handSet l n cluster).mem.wf = true := by
  unfold State.handSet
  split <;> simp [hm]

theorem wf_tryHand {s : State} (hm : s.mem.wf = true) (l : Launch) (n : NextSet) (kept : List Nat) {t : State}
    (ht : s.tryHand l n kept = some t) : t.mem.wf = true := by
  have hset {o : Option Nat} (h : o.map (s.handSet l n) = some t) : t.mem.wf = true := by
    obtain ⟨c, -, rfl⟩ := Option.map_eq_some_iff.mp h
    exact wf_handSet hm ..
  unfold State.tryHand at ht
  dsimp only at ht
  split at ht
  · exact wf_handWhole hm _ _ ht
  · split at ht
    · exact wf_restoreWhole hm _ _ ht
    · cases ht
  · split at ht
    · cases ht
    · exact hset ht
  · split at ht
    · cases ht
    · exact hset ht

@[simp] theorem wf_markTops {s : State} (hm : s.mem.wf = true) (ids : List Nat) : (s.markTops ids).mem.wf = true := by
  simp [State.markTops, hm]

@[simp] theorem wf_serve {s : State} (hm : s.mem.wf = true) (kept : Option (Nat × Nat × List Nat))
    (l : List (Nat × Nat × Launch × NextSet)) : (s.serve kept l).mem.wf = true := by
  induction l with
  | nil => exact hm
  | cons x rest ih =>
    simp only [State.serve]
    split
    · next ht =>
      have h := wf_tryHand hm _ _ _ ht
      exact h
    · exact ih

@[simp] theorem wf_execDistributorStep {s : State} (hm : s.mem.wf = true) : NextWf (execDistributorStep s) := by
  grind [execDistributorStep, NextWf, wf_markTops, wf_serve]

/-! ### Faults -/

@[simp] theorem wf_unhold {s : State} (hm : s.mem.wf = true) (w : Wg) (step : Bool) : (s.unhold w step).mem.wf = true := by
  grind [State.unhold, wf_foldl, wf_modCore, wf_requeueHeld, wf_releaseWork]

@[simp] theorem wf_resumeCtx {s : State} (hm : s.mem.wf = true) (c : Ctx) (step : Bool) : (s.resumeCtx c step).mem.wf = true := by
  unfold State.resumeCtx
  split <;> simp [hm]

@[simp] theorem wf_discardWg {s : State} (hm : s.mem.wf = true) (w : Wg) : (s.discardWg w).mem.wf = true := by
  grind [State.discardWg, wf_foldl, wf_modCore, wf_freeFrames, wf_removeWg]

@[simp] theorem wf_discardCtx {s : State} (hm : s.mem.wf = true) (c : Ctx) : (s.discardCtx c).mem.wf = true := by
  simp [State.discardCtx, hm]

@[simp] theorem wf_dropCommands {s : State} (hm : s.mem.wf = true) (sel : Command → Bool) :
    (s.dropCommands sel).mem.wf = true := by
  grind [State.dropCommands, wf_foldl, wf_modEngine]

@[simp] theorem wf_dropStreams {s : State} (hm : s.mem.wf = true) (set : WaitSet → Bool) (item : ReadyItem → Bool) :
    (s.dropStreams set item).mem.wf = true := by
  grind [State.dropStreams, wf_foldl, wf_modCluster]

@[simp] theorem wf_dropItems {s : State} (hm : s.mem.wf = true) (sel : Nat → Bool) : (s.dropItems sel).mem.wf = true := by
  grind [State.dropItems, wf_foldl, wf_modCluster, wf_setItems]

@[simp] theorem wf_resetLaunch {s : State} (hm : s.mem.wf = true) (l : Launch) (replay : Bool) :
    (s.resetLaunch l replay).mem.wf = true := by
  unfold State.resetLaunch
  split <;> simp [hm]

@[simp] theorem wf_wipeLaunch {s : State} (hm : s.mem.wf = true) (id : Nat) (replay : Bool) :
    (s.wipeLaunch id replay).mem.wf = true := by
  grind [State.wipeLaunch, wf_foldl, wf_discardWg, wf_discardCtx, wf_dropCommands, wf_dropStreams, wf_resetLaunch]

@[simp] theorem wf_resetDomain {s : State} (hm : s.mem.wf = true) (fdom : Nat) (replay : Bool) :
    (s.resetDomain fdom replay).mem.wf = true := by
  grind [State.resetDomain, wf_foldl, wf_deferFault, wf_discardWg, wf_discardCtx, wf_dropCommands, wf_dropStreams, wf_dropItems,
    wf_resetLaunch]

@[simp] theorem wf_fdstWrite {s : State} (hm : s.mem.wf = true) (region result : Nat) :
    (s.fdstWrite region result).mem.wf = true := by
  simp [State.fdstWrite, hm]

@[simp] theorem wf_requeueFirst {s : State} (hm : s.mem.wf = true) (c : Command) : (s.requeueFirst c).mem.wf = true := by
  simp [State.requeueFirst, hm]

@[simp] theorem wf_sendBack {s : State} (hm : s.mem.wf = true) (c : Ctx) (step : Bool) : (s.sendBack c step).mem.wf = true := by
  grind [State.sendBack, wf_deferFault, wf_resumeCtx, wf_discardCtx, wf_wipeLaunch]

@[simp] theorem wf_sendAllBack {s : State} (hm : s.mem.wf = true) (l : List Ctx) : (s.sendAllBack l).mem.wf = true := by
  grind [State.sendAllBack, wf_foldl, wf_sendBack]

theorem wf_resumeRecord {s : State} (hm : s.mem.wf = true) (region index : Nat) (step : Bool) {t : State}
    (ht : s.resumeRecord region index step = some t) : t.mem.wf = true := by
  grind [State.resumeRecord, wf_foldl, wf_record, wf_unhold, wf_requeueFirst, wf_sendBack]

@[simp] theorem wf_execFaultResume {s : State} (hm : s.mem.wf = true) (region index : Nat) :
    NextWf (execFaultResume region index s) := by
  grind [execFaultResume, NextWf, wf_fdstWrite, wf_resumeRecord]

@[simp] theorem wf_execFaultDomainReset {s : State} (hm : s.mem.wf = true) (region index : Nat) :
    NextWf (execFaultDomainReset region index s) := by
  unfold execFaultDomainReset
  split <;> simp [hm]

@[simp] theorem wf_execPagePresentResume {s : State} (hm : s.mem.wf = true) (id : Nat) : NextWf (execPagePresentResume id s) := by
  grind [execPagePresentResume, NextWf, wf_foldl, wf_unhold, wf_sendBack]

@[simp] theorem wf_pstatWrite {s : State} (hm : s.mem.wf = true) (region result : Nat) (busy : Bool) :
    (s.pstatWrite region result busy).mem.wf = true := by
  simp [State.pstatWrite, hm]

@[simp] theorem wf_stopAllOf {s : State} (hm : s.mem.wf = true) (regs : List Nat) (reason : OutReason) :
    (s.stopAllOf regs reason).mem.wf = true := by
  grind [State.stopAllOf, wf_foldl, wf_beginStop]

@[simp] theorem wf_recallSets {s : State} (hm : s.mem.wf = true) (sel : WaitSet → Bool) : (s.recallSets sel).mem.wf = true := by
  grind [State.recallSets, wf_foldl, wf_modLaunch, wf_dropStreams]

@[simp] theorem wf_execPreemptStop {s : State} (hm : s.mem.wf = true) (region : Nat) : NextWf (execPreemptStop region s) := by
  grind [execPreemptStop, NextWf, wf_settlePstat, wf_pstatWrite, wf_stopAllOf, wf_recallSets]

@[simp] theorem wf_execPreemptResume {s : State} (hm : s.mem.wf = true) (region : Nat) : NextWf (execPreemptResume region s) := by
  grind [execPreemptResume, NextWf, wf_foldl, wf_settlePstat, wf_unhold, wf_sendAllBack, wf_pstatWrite]

@[simp] theorem wf_execFabricRefusal {s : State} (hm : s.mem.wf = true) (core id : Nat) :
    NextWf (execFabricRefusal core id s) := by
  grind [execFabricRefusal, NextWf, wf_stopSlice, wf_completeIf, wf_setAccs, wf_modSleeper]

@[simp] theorem wf_execWatchdogExpiry {s : State} (hm : s.mem.wf = true) (wg : Nat) : NextWf (execWatchdogExpiry wg s) := by
  grind [execWatchdogExpiry, NextWf, wf_stopSlice, wf_modSleeper]

@[simp] theorem wf_tornImage {s : State} (hm : s.mem.wf = true) (w : Wg) : (s.tornImage w).2.mem.wf = true := by
  grind [State.tornImage, State.wf_pokeBytes]

@[simp] theorem wf_execSaveBudgetExpiry {s : State} (hm : s.mem.wf = true) (wg : Nat) : NextWf (execSaveBudgetExpiry wg s) := by
  grind [execSaveBudgetExpiry, NextWf, wf_modWg, wf_deferFault, wf_resetDomain, wf_tornImage]

@[simp] theorem wf_poisonLine {s : State} (hm : s.mem.wf = true) (pa : Nat) : (s.poisonLine pa).mem.wf = true := by
  grind [State.poisonLine]

@[simp] theorem wf_execEccError {s : State} (hm : s.mem.wf = true) (site : EccSite) (index addr : Nat) (correctable : Bool) :
    NextWf (execEccError site index addr correctable s) := by
  unfold execEccError
  dsimp only
  repeat' split
  all_goals simp [hm]

@[simp] theorem wf_execPoisonRead {s : State} (hm : s.mem.wf = true) (e : EngineId) : NextWf (execPoisonRead e s) := by
  grind [execPoisonRead, NextWf, wf_modEngine, wf_putFault]

@[simp] theorem wf_dropCircuits {s : State} (hm : s.mem.wf = true) (die : Nat) : (s.dropCircuits die).mem.wf = true := by
  simp [State.dropCircuits, hm]

@[simp] theorem wf_execDieFail {s : State} (hm : s.mem.wf = true) (die : Nat) : NextWf (execDieFail die s) := by
  grind [execDieFail, NextWf, wf_foldl, wf_modCluster, wf_modDie, wf_deferFault, wf_discardWg, wf_discardCtx, wf_dropCommands,
    wf_wipeLaunch, wf_recallSets, wf_dropCircuits]

@[simp] theorem wf_execWavelengthFail {s : State} (hm : s.mem.wf = true) (entry : Nat) : NextWf (execWavelengthFail entry s) := by
  grind [execWavelengthFail, NextWf]

/-! ### Debugging -/

@[simp] theorem wf_dstatWrite {s : State} (hm : s.mem.wf = true) (region result : Nat) (busy : Bool) :
    (s.dstatWrite region result busy).mem.wf = true := by
  simp [State.dstatWrite, hm]

theorem wf_whenAttached {s : State} (hm : s.mem.wf = true) (region : Nat) {f : State → State} (hf : (f s).mem.wf = true) :
    (s.whenAttached region f).mem.wf = true := by
  grind [State.whenAttached, wf_dstatWrite]

@[simp] theorem wf_execDebugAttach {s : State} (hm : s.mem.wf = true) (region : Nat) : NextWf (execDebugAttach region s) := by
  unfold execDebugAttach
  split <;> simp [hm]

@[simp] theorem wf_execDebugDetach {s : State} (hm : s.mem.wf = true) (region : Nat) : NextWf (execDebugDetach region s) := by
  grind [execDebugDetach, NextWf, wf_foldl, wf_record, wf_modRegion, wf_unhold, wf_sendAllBack, wf_whenAttached]

@[simp] theorem wf_debugRecord {s : State} (hm : s.mem.wf = true) (c : Ctx) : (s.debugRecord c).mem.wf = true := by
  grind [State.debugRecord, wf_traceSave, wf_reportStop]

@[simp] theorem wf_execFaultRecordDeferred {s : State} (hm : s.mem.wf = true) (region : Nat) :
    NextWf (execFaultRecordDeferred region s) := by
  grind [execFaultRecordDeferred, NextWf, wf_modRegion, wf_appendFault, wf_debugRecord]

@[simp] theorem wf_execDebugStop {s : State} (hm : s.mem.wf = true) (region : Nat) : NextWf (execDebugStop region s) := by
  grind [execDebugStop, NextWf, wf_foldl, wf_settleDstat, wf_stopAllOf, wf_dstatWrite, wf_whenAttached, wf_debugRecord]

@[simp] theorem wf_holdTasksOf {s : State} (hm : s.mem.wf = true) (region : Nat) (i : EngineId) :
    (s.holdTasksOf region i).mem.wf = true := by
  grind [State.holdTasksOf, wf_foldl, wf_modEngine, wf_traceCmd]

theorem wf_holdAllTasks {s : State} (hm : s.mem.wf = true) (region : Nat) (f : Region → Region) :
    (allEngines.foldl (fun s i => s.holdTasksOf region i) (s.modRegion region f)).mem.wf = true :=
  wf_foldl (fun _ i hs => wf_holdTasksOf hs region i) (wf_modRegion hm ..) _

@[simp] theorem wf_execDebugHold {s : State} (hm : s.mem.wf = true) (region : Nat) : NextWf (execDebugHold region s) := by
  unfold execDebugHold State.whenAttached
  rw [nextWf_next]
  split
  · exact wf_dstatWrite hm ..
  · split
    · exact wf_dstatWrite hm ..
    · exact wf_dstatWrite (wf_holdAllTasks hm ..) ..

@[simp] theorem wf_returnTask {s : State} (hm : s.mem.wf = true) (c : Command) : (s.returnTask c).mem.wf = true := by
  simp [State.returnTask, hm]

@[simp] theorem wf_execDebugRelease {s : State} (hm : s.mem.wf = true) (region : Nat) : NextWf (execDebugRelease region s) := by
  grind [execDebugRelease, NextWf, wf_foldl, wf_traceCmd, wf_modRegion, wf_requeueHeld, wf_releaseWork, wf_whenAttached,
    wf_returnTask]

@[simp] theorem wf_execDebugStep {s : State} (hm : s.mem.wf = true) (region index : Nat) :
    NextWf (execDebugStep region index s) := by
  grind [execDebugStep, NextWf, wf_settleDstat, wf_resumeRecord, wf_dstatWrite]

@[simp] theorem wf_execStepEnd {s : State} (hm : s.mem.wf = true) (wg : Nat) : NextWf (execStepEnd wg s) := by
  grind [execStepEnd, NextWf, wf_modWg, wf_stopSlice, wf_modSleepers]

/-! ### Hosts -/

@[simp] theorem wf_cstatWrite {s : State} (hm : s.mem.wf = true) (entry result : Nat) :
    (s.cstatWrite entry result).mem.wf = true := by
  simp [State.cstatWrite, hm]

@[simp] theorem wf_execCtabWrite {s : State} (hm : s.mem.wf = true) (entry : Nat) (value : BitVec 64) :
    NextWf (execCtabWrite entry value s) := by
  grind [execCtabWrite, NextWf, wf_cstatWrite]

@[simp] theorem wf_execCircuitReady {s : State} (hm : s.mem.wf = true) : NextWf (execCircuitReady s) := by
  unfold execCircuitReady
  split <;> simp [hm]

@[simp] theorem wf_debugWrite {s : State} (hm : s.mem.wf = true) (core off : Nat) (v : W64) :
    (s.debugWrite core off v).mem.wf = true := by
  grind [State.debugWrite, wf_modCore]

@[simp] theorem wf_execHeartbeatWrite {s : State} (hm : s.mem.wf = true) (port1 : Bool) :
    NextWf (execHeartbeatWrite port1 s) := by
  unfold execHeartbeatWrite
  split <;> simp [hm]

@[simp] theorem wf_execHostLinkDown {s : State} (hm : s.mem.wf = true) (port1 : Bool) : NextWf (execHostLinkDown port1 s) := by
  simp [execHostLinkDown, hm]

theorem wf_foldl_writeBytes {m : Memory} (hm : m.wf = true) (l : List (Nat × List Byte)) :
    (l.foldl (fun m x => m.writeBytes x.1 x.2) m).wf = true :=
  List.foldlRecOn (motive := fun m : Memory => m.wf = true) _ _ hm (fun _ hs _ _ => Memory.wf_writeBytes hs ..)

@[simp] theorem wf_execHostLinkUp {s : State} (hm : s.mem.wf = true) (port1 : Bool) : NextWf (execHostLinkUp port1 s) := by
  unfold execHostLinkUp
  split
  · exact nextWf_next.mpr hm
  · refine nextWf_next.mpr (wf_modPort ?_ ..)
    exact wf_foldl_writeBytes hm _

@[simp] theorem wf_adoptRegion {s : State} (hm : s.mem.wf = true) (from1 : Bool) (r : Nat) :
    (s.adoptRegion from1 r).mem.wf = true := by
  unfold State.adoptRegion
  split <;> simp [hm]

@[simp] theorem wf_execPortFailure {s : State} (hm : s.mem.wf = true) (port1 : Bool) : NextWf (execPortFailure port1 s) := by
  grind [execPortFailure, NextWf, wf_modPort, wf_adoptRegion]

@[simp] theorem wf_execHostRequestTimeout {s : State} (hm : s.mem.wf = true) (port1 : Bool) :
    NextWf (execHostRequestTimeout port1 s) := by
  grind [execHostRequestTimeout, NextWf, wf_foldl, wf_modCore]

@[simp] theorem wf_execAttestGo {s : State} (hm : s.mem.wf = true) (port1 : Bool) : NextWf (execAttestGo port1 s) := by
  grind [execAttestGo, NextWf]

@[simp] theorem wf_execAttestComplete {s : State} (hm : s.mem.wf = true) : NextWf (execAttestComplete s) := by
  grind [execAttestComplete, nextWf_next, wf_modPort, Memory.wf_writeBytes]

@[simp] theorem wf_execFirmwareImageUpload {s : State} (hm : s.mem.wf = true) (verifies : Bool) :
    NextWf (execFirmwareImageUpload verifies s) := by
  simp [execFirmwareImageUpload, hm]

@[simp] theorem wf_fabWrite {s : State} (hm : s.mem.wf = true) (off : Nat) (v : W64) : (s.fabWrite off v).mem.wf = true := by
  grind [State.fabWrite]

@[simp] theorem wf_gresWrite {s : State} (hm : s.mem.wf = true) (v : W64) : (s.gresWrite v).mem.wf = true := by
  simp [State.gresWrite, hm]

@[simp] theorem wf_dctlWrite {s : State} (hm : s.mem.wf = true) (v : W64) : (s.dctlWrite v).mem.wf = true := by
  unfold State.dctlWrite
  split <;> simp [hm]

@[simp] theorem wf_fresWrite {s : State} (hm : s.mem.wf = true) (v : W64) : (s.fresWrite v).mem.wf = true := by
  unfold State.fresWrite
  split <;> simp [hm]

@[simp] theorem wf_preWrite {s : State} (hm : s.mem.wf = true) (v : W64) : (s.preWrite v).mem.wf = true := by
  unfold State.preWrite
  split <;> simp [hm]

@[simp] theorem wf_clearAdopted {s : State} (hm : s.mem.wf = true) (port1 : Bool) : (s.clearAdopted port1).mem.wf = true := by
  simp [State.clearAdopted, hm]

@[simp] theorem wf_pkgWrite {s : State} (hm : s.mem.wf = true) (port1 : Bool) (off : Nat) (v : W64) :
    (s.pkgWrite port1 off v).mem.wf = true := by
  unfold State.pkgWrite
  dsimp only
  repeat' split
  all_goals simp [hm]

@[simp] theorem wf_execRegisterWrite {s : State} (hm : s.mem.wf = true) (port1 : Bool) (off : Nat) (v : BitVec 64) :
    NextWf (execRegisterWrite port1 off v s) := by
  grind [execRegisterWrite, NextWf, wf_modPort, wf_debugWrite, wf_fabWrite, wf_pkgWrite]

@[simp] theorem wf_execPushWindowWrite {s : State} (hm : s.mem.wf = true) (port1 : Bool) (region : Nat) (image : BitVec 1024) :
    NextWf (execPushWindowWrite port1 region image s) := by
  grind [execPushWindowWrite, NextWf, wf_modPort, wf_appendLaunch]

@[simp] theorem wf_hostGet {s : State} (hm : s.mem.wf = true) (pa n : Nat) : (s.hostGet pa n).1.mem.wf = true := by
  grind [State.hostGet]

@[simp] theorem wf_hostPut {s : State} (hm : s.mem.wf = true) (pa : Nat) (bs : List Byte) : (s.hostPut pa bs).mem.wf = true := by
  grind [State.hostPut, wf_foldl, State.wf_lsWrite, State.wf_homeWrite, wf_debugWrite]

@[simp] theorem wf_complete {s : State} (hm : s.mem.wf = true) (port1 : Bool) (bs : List Byte) :
    (s.complete port1 bs).mem.wf = true := by
  simp [State.complete, hm]

@[simp] theorem wf_execHostRead {s : State} (hm : s.mem.wf = true) (port1 bar0 : Bool) (offset size : Nat) :
    NextWf (execHostRead port1 bar0 offset size s) := by
  grind [execHostRead, NextWf, wf_hostGet, wf_complete]

@[simp] theorem wf_fillCode {s : State} (hm : s.mem.wf = true) (pa : Nat) (bs : List Byte) :
    (s.fillCode pa bs).mem.wf = true := by
  simp [State.fillCode, hm]

@[simp] theorem wf_execHostWrite {s : State} (hm : s.mem.wf = true) (port1 : Bool) (offset : Nat) (data : List Byte) :
    NextWf (execHostWrite port1 offset data s) := by
  grind [execHostWrite, NextWf, wf_hostPut, wf_fillCode]

@[simp] theorem wf_execHostAtomic {s : State} (hm : s.mem.wf = true) (port1 : Bool) (op : HostAtomicOp) (offset size : Nat)
    (value cmp : BitVec 64) : NextWf (execHostAtomic port1 op offset size value cmp s) := by
  grind [execHostAtomic, NextWf, wf_hostGet, wf_hostPut, wf_complete]

/-! ### The fabric -/

@[simp] theorem wf_exportAtomics {s : State} (hm : s.mem.wf = true) (r : FabReq) (pa : Nat) (ls : List (Nat × Nat × Nat))
    (todo : List Nat) : (s.exportAtomics r pa ls todo).1.mem.wf = true := by
  induction todo generalizing s <;> grind [State.exportAtomics, State.wf_homeWrite]

@[simp] theorem wf_exportDo {s : State} (hm : s.mem.wf = true) (r : FabReq) (pa : Nat) : (s.exportDo r pa).1.mem.wf = true := by
  grind [State.exportDo, wf_foldl, wf_clearPoison, State.wf_homeWrite, wf_exportAtomics]

@[simp] theorem wf_sendAnswer {s : State} (hm : s.mem.wf = true) (r : FabReq) (a : FabAnswer) :
    (s.sendAnswer r a).mem.wf = true := by
  simp [State.sendAnswer, hm]

@[simp] theorem wf_exportRecord {s : State} (hm : s.mem.wf = true) (entry : W64) : (s.exportRecord entry).1.mem.wf = true := by
  grind [State.exportRecord, wf_putFault]

@[simp] theorem wf_exportServe {s : State} (hm : s.mem.wf = true) (r : FabReq) : (s.exportServe r).mem.wf = true := by
  unfold State.exportServe
  split <;> simp [hm]

@[simp] theorem wf_corrArrive {s : State} (hm : s.mem.wf = true) (r : FabReq) : (s.corrArrive r).mem.wf = true := by
  grind [State.corrArrive, wf_modRunning, wf_corrRecord]

@[simp] theorem wf_execFabricRequestArrive {s : State} (hm : s.mem.wf = true) (req : FabReq) :
    NextWf (execFabricRequestArrive req s) := by
  grind [execFabricRequestArrive, NextWf, wf_exportServe, wf_corrArrive]

@[simp] theorem wf_waited {s : State} (hm : s.mem.wf = true) (r : FabReq) : (s.waited r).mem.wf = true := by
  unfold State.waited
  split <;> simp [hm]

@[simp] theorem wf_execExportWait {s : State} (hm : s.mem.wf = true) (index : Nat) : NextWf (execExportWait index s) := by
  grind [execExportWait, NextWf, wf_sendAnswer, wf_exportRecord, wf_exportServe, wf_waited]

@[simp] theorem wf_execCorrelationPacket {s : State} (hm : s.mem.wf = true) (first : Bool) (corr : BitVec 32)
    (engine : BitVec 16) (queue : BitVec 2) (seq : BitVec 32) (kind : BitVec 8) (payload : BitVec 64) :
    NextWf (execCorrelationPacket first corr engine queue seq kind payload s) := by
  unfold execCorrelationPacket
  split <;> simp [hm]

@[simp] theorem wf_refuseLanes {s : State} (hm : s.mem.wf = true) (core pend : Nat) (lanes : List Nat) (peer : BitVec 12)
    (reason : BitVec 4) : (s.refuseLanes core pend lanes peer reason).mem.wf = true := by
  simp [State.refuseLanes, hm]

@[simp] theorem wf_accessAnswer {s : State} (hm : s.mem.wf = true) (core pend : Nat) (lanes : List Nat) (bs : List Byte) :
    (s.accessAnswer core pend lanes bs).mem.wf = true := by
  unfold State.accessAnswer
  split <;> simp [hm]

@[simp] theorem wf_answered {s : State} (hm : s.mem.wf = true) (e : EngineId) (f : Command → Command) :
    (s.answered e f).mem.wf = true := by
  simp [State.answered, hm]

@[simp] theorem wf_commandAnswer {s : State} (hm : s.mem.wf = true) (e : EngineId) (peer : BitVec 12) (r : FabReq)
    (bs : List Byte) : (s.commandAnswer e peer r bs).mem.wf = true := by
  unfold State.commandAnswer
  split <;> simp [hm]

@[simp] theorem wf_commandRefused {s : State} (hm : s.mem.wf = true) (e : EngineId) (peer : BitVec 12) (failed : Bool) :
    (s.commandRefused e peer failed).mem.wf = true := by
  simp [State.commandRefused, hm]

@[simp] theorem wf_watchAnswer {s : State} (hm : s.mem.wf = true) (wg : Nat) (half1 : Bool) (off v : Nat) :
    (s.watchAnswer wg half1 off v).mem.wf = true := by
  grind [State.watchAnswer, wf_objWrite, wf_watchAcquire]

@[simp] theorem wf_dropOut {s : State} (hm : s.mem.wf = true) (id : Nat) : (s.dropOut id).mem.wf = true := by
  simp [State.dropOut, hm]

@[simp] theorem wf_requestBad {s : State} (hm : s.mem.wf = true) (o : FabOut) (failed : Bool) :
    (s.requestBad o failed).mem.wf = true := by
  unfold State.requestBad
  split <;> simp [hm]

@[simp] theorem wf_execFabricResponse {s : State} (hm : s.mem.wf = true) (id : Nat) (answer : FabAnswer) :
    NextWf (execFabricResponse id answer s) := by
  grind [execFabricResponse, NextWf, wf_accessAnswer, wf_answered, wf_commandAnswer, wf_watchAnswer, wf_dropOut, wf_requestBad]

@[simp] theorem wf_execFabricRetransmit {s : State} (hm : s.mem.wf = true) (id : Nat) : NextWf (execFabricRetransmit id s) := by
  grind [execFabricRetransmit, NextWf, wf_requestBad]

@[simp] theorem wf_execFlitReplay {s : State} (hm : s.mem.wf = true) (_port : Nat) : NextWf (execFlitReplay _port s) := by
  simp [execFlitReplay, hm]

@[simp] theorem wf_execCensusFlit {s : State} (hm : s.mem.wf = true) (port vc : Nat) (count : BitVec 16) :
    NextWf (execCensusFlit port vc count s) := by
  unfold execCensusFlit
  split <;> simp [hm]

@[simp] theorem wf_execLinkRetrain {s : State} (hm : s.mem.wf = true) (port rounds lanes : Nat) (agreed : Bool) :
    NextWf (execLinkRetrain port rounds lanes agreed s) := by
  grind [execLinkRetrain, NextWf]

@[simp] theorem wf_execPortEnable {s : State} (hm : s.mem.wf = true) (port : Nat) (lport : BitVec 16) (offset : BitVec 64) :
    NextWf (execPortEnable port lport offset s) := by
  grind [execPortEnable, NextWf]

@[simp] theorem wf_execSyncFlit {s : State} (hm : s.mem.wf = true) (slew : Int) : NextWf (execSyncFlit slew s) := by
  simp [execSyncFlit, hm]

/-! ### Boot -/

@[simp] theorem wf_again {s : State} (hm : s.mem.wf = true) : s.again.mem.wf = true :=
  Memory.wf_filter hm _

@[simp] theorem wf_bootDies {s : State} (hm : s.mem.wf = true) : (s.bootDies).mem.wf = true := by
  grind [State.bootDies, wf_foldl, wf_dropCircuits]

@[simp] theorem wf_bootReady {s : State} (hm : s.mem.wf = true) : (s.bootReady).mem.wf = true := by
  simp [State.bootReady, hm]

@[simp] theorem wf_execPackageReset {s : State} (hm : s.mem.wf = true) : NextWf (execPackageReset s) := by
  unfold execPackageReset
  split <;> simp [hm]

/-! ### A step, but for its issue -/

theorem wf_earlyTrap {s : State} (hm : s.mem.wf = true) (e : Env) {t : State} (ht : s.earlyTrap e = some t) : t.mem.wf = true := by
  have htaken (f : Slice → Slice) : (if e.muted then s else s.modSlice e.cur.grp e.cur.a f).mem.wf = true := by
    split
    · exact hm
    · exact wf_modSlice hm ..
  unfold State.earlyTrap at ht
  dsimp only at ht
  split at ht
  · obtain rfl := Option.some.inj ht; exact wf_takeTrap (htaken _) ..
  · obtain rfl := Option.some.inj ht; exact wf_takeTrap (htaken _) ..
  · obtain ⟨i, -, rfl⟩ := Option.map_eq_some_iff.mp ht
    exact wf_takeTrap hm ..

@[simp] theorem wf_probeSlot {s : State} (hm : s.mem.wf = true) (c : Cursor) : (s.probeSlot c).mem.wf = true := by
  grind [State.probeSlot, wf_modCore, wf_modSlice]

@[simp] theorem wf_probe {s : State} (hm : s.mem.wf = true) (core : Nat) : (s.probe core).mem.wf = true := by
  grind [State.probe, wf_foldl, wf_probeSlot]

@[simp] theorem wf_capSkids {s : State} (hm : s.mem.wf = true) (core : Nat) : (s.capSkids core).mem.wf = true := by
  simp [State.capSkids, hm]

@[simp] theorem wf_coreEdge {s : State} (hm : s.mem.wf = true) (core : Nat) : (s.coreEdge core).mem.wf = true := by
  grind [State.coreEdge, wf_foldl, wf_modCore, wf_followCandidates, wf_acceptBanks, wf_probe, wf_capSkids, wf_execIdleCycle,
    wf_after]

@[simp] theorem wf_dieEdge {s : State} (hm : s.mem.wf = true) (d : Nat) : (s.dieEdge d).mem.wf = true := by
  grind [State.dieEdge, wf_foldl, wf_modCluster, wf_modDie, wf_coreEdge]

@[simp] theorem wf_tick {s : State} (hm : s.mem.wf = true) : (s.tick).mem.wf = true := by
  grind [State.tick, wf_foldl, wf_dieEdge]

end Sys2Proof.Proofs
end

section
/-!
PROOFS. Every part of an instruction's meaning keeps memory in its canonical form (O57).
-/
namespace Sys2Proof.Proofs
open Sys2Proof.Machine Sys2Proof.Claims Sys2Proof.Laws

/-! ### Meanings that keep the canonical form -/

/-- The state that a stop leaves behind, where it leaves one, has its memory in its canonical form. -/
def StopWf : Stop → Prop
  | .trap _ (some k) => k.mem.wf = true
  | .hold _ _ (some k) => k.mem.wf = true
  | _ => True

/-- A meaning that keeps the canonical form of memory, whether it ends or stops. -/
structure Keeps {α : Type} (m : Exec α) : Prop where
  of : ∀ s, s.mem.wf = true → match m s with
    | .ok (_, t) => t.mem.wf = true
    | .error x => StopWf x

theorem keeps_pure {α : Type} (x : α) : Keeps (pure x) := ⟨fun _ hm => hm⟩

theorem keeps_error {α : Type} {x : Stop} (hx : StopWf x) : Keeps (fun _ => .error x : Exec α) := ⟨fun _ _ => hx⟩

theorem keeps_bind {α β : Type} {m : Exec α} {k : α → Exec β} (hm : Keeps m) (hk : ∀ x, Keeps (k x)) : Keeps (m >>= k) := by
  refine ⟨fun s hs => ?_⟩
  have h := hm.of s hs
  cases hr : m s with
  | ok r =>
    rw [hr] at h
    rw [exec_bind_ok hr]
    exact (hk r.1).of r.2 h
  | error x =>
    rw [hr] at h
    rw [exec_bind_error hr]
    exact h

/-- What reads the state may use that it is in its canonical form. -/
theorem keeps_get_bind {β : Type} {k : State → Exec β} (hk : ∀ s, s.mem.wf = true → Keeps (k s)) : Keeps (get >>= k) :=
  ⟨fun s hs => (hk s hs).of s hs⟩

theorem keeps_set {t : State} (ht : t.mem.wf = true) : Keeps (set t) := ⟨fun _ _ => ht⟩

theorem keeps_modify {f : State → State} (hf : ∀ s, s.mem.wf = true → (f s).mem.wf = true) : Keeps (modify f) :=
  ⟨fun s hs => hf s hs⟩

theorem keeps_raise {α : Type} (e : Env) (c : BitVec 8) (x y : W64) : Keeps (raise e c x y : Exec α) := keeps_error trivial

theorem keeps_hold {α : Type} (h : Hold) (w : List WalkReq) : Keeps (hold h w : Exec α) := keeps_error trivial

theorem keeps_trapIf (e : Env) (b : Bool) (c : BitVec 8) (x y : W64) : Keeps (trapIf e b c x y) := by
  grind [trapIf, keeps_raise, keeps_pure]

theorem keeps_holdIf (b : Bool) (h : Hold) : Keeps (holdIf b h) := by
  grind [holdIf, keeps_hold, keeps_pure]

theorem keeps_modSl (e : Env) (f : Slice → Slice) : Keeps (modSl e f) := keeps_modify (fun _ hs => wf_modSlice hs ..)

theorem keeps_modGrp (e : Env) (f : Group → Group) : Keeps (modGrp e f) := keeps_modify (fun _ hs => wf_modGroup hs ..)

theorem keeps_advance (e : Env) (n : Nat) : Keeps (advance e n) := keeps_modSl ..

theorem keeps_orLower {α : Type} {a : Exec α} {b : Exec Unit} (ha : Keeps a) (hb : Keeps b) : Keeps (orLower a b) := by
  refine ⟨fun s hs => ?_⟩
  have h1 := ha.of s hs
  have h2 := hb.of s hs
  grind [orLower, StopWf]

theorem keeps_ite {α : Type} {c : Prop} [Decidable c] {m n : Exec α} (hm : Keeps m) (hn : Keeps n) :
    Keeps (if c then m else n) := by
  split
  · exact hm
  · exact hn

/-- A step that is made only where a condition holds, before the rest. -/
theorem keeps_when {α : Type} {c : Prop} [Decidable c] {m : Exec Unit} {k : Unit → Exec α} (hm : Keeps m)
    (hk : ∀ u, Keeps (k u)) : Keeps (if c then m >>= k else k ()) :=
  keeps_ite (keeps_bind hm hk) (hk ())

/-! ### Checks, queues and operands -/

theorem keeps_raiseLowest (e : Env) (cs : List Cond) : Keeps (raiseLowest e cs) := by
  grind [raiseLowest, keeps_pure, keeps_raise]

theorem keeps_checkNamed (e : Env) (extra : List Cond) (l : List Named) : Keeps (checkNamed e extra l) := by
  grind [checkNamed, keeps_bind, keeps_get_bind, keeps_holdIf, keeps_raiseLowest]

theorem wf_markHead {e : Env} (he : e.before.mem.wf = true) (n : Nat) (q : Queue) (x : QEntry) : (e.markHead n q x).mem.wf = true :=
  wf_modGroup he ..

theorem keeps_curGroup (e : Env) : Keeps (curGroup e) := by
  grind [curGroup, keeps_get_bind, keeps_pure]

theorem keeps_raiseToken {α : Type} {e : Env} (he : e.before.mem.wf = true) (n : Nat) (q : Queue) (x : QEntry) (t : Token) :
    Keeps (raiseToken e n q x t : Exec α) := by
  refine ⟨fun s hs => ?_⟩
  grind [raiseToken, wf_markHead, StopWf]

theorem keeps_tableRoom {e : Env} (he : e.before.mem.wf = true) (n : Nat) : Keeps (tableRoom e n) := by
  refine ⟨fun s hs => ?_⟩
  grind [tableRoom, keeps_hold, wf_modCore, StopWf]

theorem keeps_noPoison (ps : List (Nat × W64 × Place)) : Keeps (noPoison ps) := by
  refine ⟨fun s hs => ?_⟩
  grind [noPoison, StopWf]

theorem keeps_replayToken {α : Type} {e : Env} (he : e.before.mem.wf = true) (n : Nat) (q : Queue) (x : QEntry) (t : Token) :
    Keeps (replayToken e n q x t : Exec α) := by
  unfold replayToken
  refine keeps_get_bind fun s hs => ?_
  dsimp only
  split
  · exact keeps_hold ..
  · split
    · split
      · exact keeps_error trivial
      · exact keeps_raiseToken he ..
    · refine keeps_bind (keeps_noPoison _) fun _ => keeps_bind (keeps_tableRoom he _) fun _ => keeps_error ?_
      have h (u : QEntry) (f : Core → Core) (p : Pending) :
          (((e.markHead n q u).modCore e.g.core f).addPend e.g.core p).mem.wf = true :=
        wf_addPend (wf_modCore (wf_markHead he ..) ..) ..
      simp only [StopWf]
      split
      · exact wf_modSlice (h ..) ..
      · exact h ..

theorem keeps_acquireIds (e : Env) (ids : List Nat) : Keeps (acquireIds e ids) := by
  unfold acquireIds
  exact keeps_modSl e ..

theorem keeps_syncReady (e : Env) : Keeps (syncReady e) := by
  grind [syncReady, keeps_bind, keeps_get_bind, keeps_holdIf]

theorem keeps_popEntry {e : Env} (he : e.before.mem.wf = true) (n : Nat) : Keeps (popEntry e n) := by
  unfold popEntry
  refine keeps_bind (keeps_curGroup e) fun g => ?_
  dsimp only
  split
  · split
    · exact keeps_raise ..
    · exact keeps_hold ..
  · split
    · exact keeps_hold ..
    · split
      · exact keeps_bind (keeps_syncReady e) fun _ => keeps_bind (keeps_modGrp ..) fun _ =>
          keeps_bind (keeps_acquireIds e _) fun _ => keeps_pure _
      · split
        · exact keeps_replayToken he ..
        · exact keeps_raiseToken he ..

theorem keeps_popEngine (e : Env) (n : Nat) : Keeps (popEngine e n) := by
  grind [popEngine, keeps_bind, keeps_get_bind, keeps_pure, keeps_hold, keeps_modSl, keeps_syncReady]

theorem keeps_pushEntries (e : Env) (n : Nat) (xs : List QEntry) : Keeps (pushEntries e n xs) := by
  grind [pushEntries, keeps_bind, keeps_get_bind, keeps_pure, keeps_hold, keeps_modGrp, keeps_curGroup, keeps_syncReady]

theorem keeps_popLanes {e : Env} (he : e.before.mem.wf = true) (n : Nat) (wide : Bool) : Keeps (popLanes e n wide) := by
  grind [popLanes, keeps_bind, keeps_pure, keeps_popEntry]

theorem keeps_srcV {e : Env} (he : e.before.mem.wf = true) (t : Ty) (code : BitVec 8) (lit : Option W32) :
    Keeps (srcV e t code lit) := by
  unfold srcV
  split
  · exact keeps_pure _
  · split
    · exact keeps_pure _
    · exact keeps_pure _
    · exact keeps_popLanes he ..
    · exact keeps_pure _

theorem keeps_srcS {e : Env} (he : e.before.mem.wf = true) (code : BitVec 8) (lit : Option W32) : Keeps (srcS e code lit) := by
  unfold srcS
  split
  · exact keeps_pure _
  · split
    · exact keeps_pure _
    · split
      · exact keeps_popEngine e _
      · exact keeps_bind (keeps_popEntry he _) fun _ => keeps_pure _
    · exact keeps_pure _
    · exact keeps_pure _
    · exact keeps_pure _

theorem keeps_dstV (e : Env) (wide : Bool) (m : W32) (code : BitVec 8) (x : Lanes64) : Keeps (dstV e wide m code x) := by
  grind [dstV, keeps_pure, keeps_modSl, keeps_pushEntries]

theorem keeps_dstS (e : Env) (m : W32) (code : BitVec 8) (x : W64) : Keeps (dstS e m code x) := by
  grind [dstS, keeps_pure, keeps_modSl, keeps_pushEntries]

theorem keeps_dstP (e : Env) (m : W32) (code : BitVec 8) (x : W32) : Keeps (dstP e m code x) := by
  unfold dstP
  exact keeps_modSl e ..

/-! ### Frames -/

theorem keeps_hostReady (va : W64) (p : Place) : Keeps (hostReady va p) := by
  refine ⟨fun s hs => ?_⟩
  cases p <;> grind [hostReady, StopWf]

theorem keeps_recordEv (e : Env) (ev : Events) : Keeps (recordEv e ev) := by
  grind [recordEv, keeps_modify, wf_record]

theorem keeps_begin_ (e : Env) (sp : FSpec) (f : FFrame) (lit : Option W32) (extra : List Cond) :
    Keeps (begin_ e sp f lit extra) := by
  grind [begin_, keeps_bind, keeps_trapIf, keeps_checkNamed]

theorem keeps_srcS? {e : Env} (he : e.before.mem.wf = true) (p : Pos) (code : BitVec 8) (lit : Option W32) :
    Keeps (srcS? e p code lit) := by
  grind [srcS?, keeps_pure, keeps_srcS]

theorem keeps_srcV? {e : Env} (he : e.before.mem.wf = true) (t : Ty) (p : Pos) (code : BitVec 8) (lit : Option W32) :
    Keeps (srcV? e t p code lit) := by
  grind [srcV?, keeps_pure, keeps_srcV]

theorem keeps_sources {α β γ : Type} {a : Exec α} {b : Exec β} {c : Exec γ} (ha : Keeps a) (hb : Keeps b) (hc : Keeps c) :
    Keeps (sources a b c) := by
  have hc1 : Keeps (do let _ ← c; pure () : Exec Unit) := keeps_bind hc fun _ => keeps_pure _
  have hb1 : Keeps (do let _ ← orLower b (do let _ ← c; pure ()); do let _ ← c; pure () : Exec Unit) :=
    keeps_bind (keeps_orLower hb hc1) fun _ => hc1
  exact keeps_bind (keeps_orLower ha hb1) fun _ => keeps_bind (keeps_orLower hb hc1) fun _ =>
    keeps_bind hc fun _ => keeps_pure _

theorem keeps_scalarBody {e : Env} (he : e.before.mem.wf = true) (sp : FSpec) (f : FFrame) (lit : Option W32)
    (fn : W64 → W64 → W64 → W64 × Events) : Keeps (scalarBody sp f lit fn e) := by
  grind [scalarBody, keeps_bind, keeps_pure, keeps_srcS, keeps_dstS, keeps_begin_, keeps_srcS?, keeps_sources]

theorem keeps_vecSources {e : Env} (he : e.before.mem.wf = true) (sp : FSpec) (f : FFrame) (lit : Option W32) (ta tb tc : Ty) :
    Keeps (vecSources e sp f lit ta tb tc) := by
  grind [vecSources, keeps_srcV, keeps_srcV?, keeps_sources]

theorem keeps_vectorBody {e : Env} (he : e.before.mem.wf = true) (sp : FSpec) (f : FFrame) (lit : Option W32) (ta tb tc : Ty)
    (wideDst : Bool) (fn : Nat → Nat → Nat → Nat → Nat × Events) : Keeps (vectorBody sp f lit ta tb tc wideDst fn e) := by
  grind [vectorBody, keeps_bind, keeps_pure, keeps_dstV, keeps_begin_, keeps_vecSources]

theorem keeps_predBody {e : Env} (he : e.before.mem.wf = true) (sp : FSpec) (f : FFrame) (lit : Option W32) (ta tb : Ty)
    (fn : Nat → Nat → Nat × Events) : Keeps (predBody sp f lit ta tb fn e) := by
  grind [predBody, keeps_bind, keeps_pure, keeps_dstP, keeps_begin_, keeps_vecSources]

theorem keeps_beginW (e : Env) (sp : WSpec) (w : WFrame) (xOnly : Bool) (extra : List Cond) :
    Keeps (beginW e sp w xOnly extra) := by
  grind [beginW, keeps_bind, keeps_raiseLowest, keeps_checkNamed]

/-! ### Scalar integers -/

theorem keeps_scalarInt {e : Env} (he : e.before.mem.wf = true) (sp : FSpec) (fn : IntFn) (lit : Option W32) (f : FFrame) :
    Keeps (scalarInt sp fn lit f e) := by
  unfold scalarInt
  exact keeps_scalarBody he ..

@[simp] theorem keeps_bodySadd {e : Env} (he : e.before.mem.wf = true) (lit : Option W32) (f : FFrame) :
    Keeps (bodySadd lit f e) := keeps_scalarInt he ..

@[simp] theorem keeps_bodySsub {e : Env} (he : e.before.mem.wf = true) (lit : Option W32) (f : FFrame) :
    Keeps (bodySsub lit f e) := keeps_scalarInt he ..

@[simp] theorem keeps_bodySmul {e : Env} (he : e.before.mem.wf = true) (lit : Option W32) (f : FFrame) :
    Keeps (bodySmul lit f e) := keeps_scalarInt he ..

@[simp] theorem keeps_bodySmulh {e : Env} (he : e.before.mem.wf = true) (lit : Option W32) (f : FFrame) :
    Keeps (bodySmulh lit f e) := keeps_scalarInt he ..

@[simp] theorem keeps_bodySand {e : Env} (he : e.before.mem.wf = true) (lit : Option W32) (f : FFrame) :
    Keeps (bodySand lit f e) := keeps_scalarInt he ..

@[simp] theorem keeps_bodySor {e : Env} (he : e.before.mem.wf = true) (lit : Option W32) (f : FFrame) :
    Keeps (bodySor lit f e) := keeps_scalarInt he ..

@[simp] theorem keeps_bodySxor {e : Env} (he : e.before.mem.wf = true) (lit : Option W32) (f : FFrame) :
    Keeps (bodySxor lit f e) := keeps_scalarInt he ..

@[simp] theorem keeps_bodySnot {e : Env} (he : e.before.mem.wf = true) (lit : Option W32) (f : FFrame) :
    Keeps (bodySnot lit f e) := keeps_scalarInt he ..

@[simp] theorem keeps_bodySshl {e : Env} (he : e.before.mem.wf = true) (lit : Option W32) (f : FFrame) :
    Keeps (bodySshl lit f e) := keeps_scalarInt he ..

@[simp] theorem keeps_bodySshr {e : Env} (he : e.before.mem.wf = true) (lit : Option W32) (f : FFrame) :
    Keeps (bodySshr lit f e) := keeps_scalarInt he ..

@[simp] theorem keeps_bodySsra {e : Env} (he : e.before.mem.wf = true) (lit : Option W32) (f : FFrame) :
    Keeps (bodySsra lit f e) := keeps_scalarInt he ..

@[simp] theorem keeps_bodySmin {e : Env} (he : e.before.mem.wf = true) (lit : Option W32) (f : FFrame) :
    Keeps (bodySmin lit f e) := keeps_scalarInt he ..

@[simp] theorem keeps_bodySmax {e : Env} (he : e.before.mem.wf = true) (lit : Option W32) (f : FFrame) :
    Keeps (bodySmax lit f e) := keeps_scalarInt he ..

@[simp] theorem keeps_bodySmov {e : Env} (he : e.before.mem.wf = true) (lit : Option W32) (f : FFrame) :
    Keeps (bodySmov lit f e) := keeps_scalarInt he ..

@[simp] theorem keeps_bodySli {e : Env} (he : e.before.mem.wf = true) (lit : Option W32) (f : FFrame) :
    Keeps (bodySli lit f e) := keeps_scalarInt he ..

@[simp] theorem keeps_bodyScmp {e : Env} (he : e.before.mem.wf = true) (lit : Option W32) (f : FFrame) :
    Keeps (bodyScmp lit f e) := keeps_scalarInt he ..

@[simp] theorem keeps_bodySsel {e : Env} (he : e.before.mem.wf = true) (lit : Option W32) (f : FFrame) :
    Keeps (bodySsel lit f e) := keeps_scalarInt he ..

@[simp] theorem keeps_bodySclz {e : Env} (he : e.before.mem.wf = true) (lit : Option W32) (f : FFrame) :
    Keeps (bodySclz lit f e) := keeps_scalarInt he ..

@[simp] theorem keeps_bodySpopc {e : Env} (he : e.before.mem.wf = true) (lit : Option W32) (f : FFrame) :
    Keeps (bodySpopc lit f e) := keeps_scalarInt he ..

@[simp] theorem keeps_bodySbfx {e : Env} (he : e.before.mem.wf = true) (lit : Option W32) (f : FFrame) :
    Keeps (bodySbfx lit f e) := keeps_scalarInt he ..

@[simp] theorem keeps_bodySbfi {e : Env} (he : e.before.mem.wf = true) (lit : Option W32) (f : FFrame) :
    Keeps (bodySbfi lit f e) := keeps_scalarInt he ..

/-! ### Vector integers -/

theorem keeps_vectorInt {e : Env} (he : e.before.mem.wf = true) (sp : FSpec) (fn : IntFn) (lit : Option W32) (f : FFrame) :
    Keeps (vectorInt sp fn lit f e) := by
  unfold vectorInt
  exact keeps_vectorBody he ..

@[simp] theorem keeps_bodyVli {e : Env} (he : e.before.mem.wf = true) (lit : Option W32) (f : FFrame) :
    Keeps (bodyVli lit f e) := by
  unfold bodyVli
  exact keeps_vectorBody he ..

@[simp] theorem keeps_bodyVsel {e : Env} (he : e.before.mem.wf = true) (lit : Option W32) (f : FFrame) :
    Keeps (bodyVsel lit f e) := by
  grind [bodyVsel, keeps_bind, keeps_pure, keeps_srcV, keeps_dstV, keeps_begin_, keeps_sources]

theorem keeps_vcarry {e : Env} (he : e.before.mem.wf = true) (sub : Bool) (lit : Option W32) (f : FFrame) :
    Keeps (vcarry sub lit f e) := by
  grind [vcarry, keeps_bind, keeps_pure, keeps_modSl, keeps_srcV, keeps_dstV, keeps_begin_, keeps_sources]

@[simp] theorem keeps_bodyVcmp {e : Env} (he : e.before.mem.wf = true) (lit : Option W32) (f : FFrame) :
    Keeps (bodyVcmp lit f e) := by
  unfold bodyVcmp
  exact keeps_predBody he ..

@[simp] theorem keeps_bodyVidot4 {e : Env} (he : e.before.mem.wf = true) (lit : Option W32) (f : FFrame) :
    Keeps (bodyVidot4 lit f e) := by
  unfold bodyVidot4
  exact keeps_vectorBody he ..

@[simp] theorem keeps_bodyVadd {e : Env} (he : e.before.mem.wf = true) (lit : Option W32) (f : FFrame) :
    Keeps (bodyVadd lit f e) := keeps_vectorInt he ..

@[simp] theorem keeps_bodyVsub {e : Env} (he : e.before.mem.wf = true) (lit : Option W32) (f : FFrame) :
    Keeps (bodyVsub lit f e) := keeps_vectorInt he ..

@[simp] theorem keeps_bodyVmul {e : Env} (he : e.before.mem.wf = true) (lit : Option W32) (f : FFrame) :
    Keeps (bodyVmul lit f e) := keeps_vectorInt he ..

@[simp] theorem keeps_bodyVmulh {e : Env} (he : e.before.mem.wf = true) (lit : Option W32) (f : FFrame) :
    Keeps (bodyVmulh lit f e) := keeps_vectorInt he ..

@[simp] theorem keeps_bodyVmad {e : Env} (he : e.before.mem.wf = true) (lit : Option W32) (f : FFrame) :
    Keeps (bodyVmad lit f e) := keeps_vectorInt he ..

@[simp] theorem keeps_bodyVand {e : Env} (he : e.before.mem.wf = true) (lit : Option W32) (f : FFrame) :
    Keeps (bodyVand lit f e) := keeps_vectorInt he ..

@[simp] theorem keeps_bodyVor {e : Env} (he : e.before.mem.wf = true) (lit : Option W32) (f : FFrame) :
    Keeps (bodyVor lit f e) := keeps_vectorInt he ..

@[simp] theorem keeps_bodyVxor {e : Env} (he : e.before.mem.wf = true) (lit : Option W32) (f : FFrame) :
    Keeps (bodyVxor lit f e) := keeps_vectorInt he ..

@[simp] theorem keeps_bodyVnot {e : Env} (he : e.before.mem.wf = true) (lit : Option W32) (f : FFrame) :
    Keeps (bodyVnot lit f e) := keeps_vectorInt he ..

@[simp] theorem keeps_bodyVshl {e : Env} (he : e.before.mem.wf = true) (lit : Option W32) (f : FFrame) :
    Keeps (bodyVshl lit f e) := keeps_vectorInt he ..

@[simp] theorem keeps_bodyVshr {e : Env} (he : e.before.mem.wf = true) (lit : Option W32) (f : FFrame) :
    Keeps (bodyVshr lit f e) := keeps_vectorInt he ..

@[simp] theorem keeps_bodyVsra {e : Env} (he : e.before.mem.wf = true) (lit : Option W32) (f : FFrame) :
    Keeps (bodyVsra lit f e) := keeps_vectorInt he ..

@[simp] theorem keeps_bodyVmin {e : Env} (he : e.before.mem.wf = true) (lit : Option W32) (f : FFrame) :
    Keeps (bodyVmin lit f e) := keeps_vectorInt he ..

@[simp] theorem keeps_bodyVmax {e : Env} (he : e.before.mem.wf = true) (lit : Option W32) (f : FFrame) :
    Keeps (bodyVmax lit f e) := keeps_vectorInt he ..

@[simp] theorem keeps_bodyVabs {e : Env} (he : e.before.mem.wf = true) (lit : Option W32) (f : FFrame) :
    Keeps (bodyVabs lit f e) := keeps_vectorInt he ..

@[simp] theorem keeps_bodyVneg {e : Env} (he : e.before.mem.wf = true) (lit : Option W32) (f : FFrame) :
    Keeps (bodyVneg lit f e) := keeps_vectorInt he ..

@[simp] theorem keeps_bodyVclz {e : Env} (he : e.before.mem.wf = true) (lit : Option W32) (f : FFrame) :
    Keeps (bodyVclz lit f e) := keeps_vectorInt he ..

@[simp] theorem keeps_bodyVpopc {e : Env} (he : e.before.mem.wf = true) (lit : Option W32) (f : FFrame) :
    Keeps (bodyVpopc lit f e) := keeps_vectorInt he ..

@[simp] theorem keeps_bodyVbfx {e : Env} (he : e.before.mem.wf = true) (lit : Option W32) (f : FFrame) :
    Keeps (bodyVbfx lit f e) := keeps_vectorInt he ..

@[simp] theorem keeps_bodyVbfi {e : Env} (he : e.before.mem.wf = true) (lit : Option W32) (f : FFrame) :
    Keeps (bodyVbfi lit f e) := keeps_vectorInt he ..

@[simp] theorem keeps_bodyVbrev {e : Env} (he : e.before.mem.wf = true) (lit : Option W32) (f : FFrame) :
    Keeps (bodyVbrev lit f e) := keeps_vectorInt he ..

@[simp] theorem keeps_bodyVmov {e : Env} (he : e.before.mem.wf = true) (lit : Option W32) (f : FFrame) :
    Keeps (bodyVmov lit f e) := keeps_vectorInt he ..

@[simp] theorem keeps_bodyVaddc {e : Env} (he : e.before.mem.wf = true) (lit : Option W32) (f : FFrame) :
    Keeps (bodyVaddc lit f e) := keeps_vcarry he ..

@[simp] theorem keeps_bodyVsubb {e : Env} (he : e.before.mem.wf = true) (lit : Option W32) (f : FFrame) :
    Keeps (bodyVsubb lit f e) := keeps_vcarry he ..

/-! ### Floats and special functions -/

theorem keeps_floatRounded {e : Env} (he : e.before.mem.wf = true) (nsrc : Nat) (fn : FloatFn) (lit : Option W32) (f : FFrame) :
    Keeps (floatRounded nsrc fn lit f e) := by
  unfold floatRounded
  exact keeps_vectorBody he ..

theorem keeps_floatMinMax {e : Env} (he : e.before.mem.wf = true) (isMax : Bool) (lit : Option W32) (f : FFrame) :
    Keeps (floatMinMax isMax lit f e) := by
  unfold floatMinMax
  exact keeps_vectorBody he ..

theorem keeps_floatSign {e : Env} (he : e.before.mem.wf = true) (neg : Bool) (lit : Option W32) (f : FFrame) :
    Keeps (floatSign neg lit f e) := by
  unfold floatSign
  exact keeps_vectorBody he ..

@[simp] theorem keeps_bodyVfcmp {e : Env} (he : e.before.mem.wf = true) (lit : Option W32) (f : FFrame) :
    Keeps (bodyVfcmp lit f e) := by
  unfold bodyVfcmp
  exact keeps_predBody he ..

@[simp] theorem keeps_bodyVfclass {e : Env} (he : e.before.mem.wf = true) (lit : Option W32) (f : FFrame) :
    Keeps (bodyVfclass lit f e) := by
  unfold bodyVfclass
  exact keeps_predBody he ..

@[simp] theorem keeps_bodyVfround {e : Env} (he : e.before.mem.wf = true) (lit : Option W32) (f : FFrame) :
    Keeps (bodyVfround lit f e) := by
  unfold bodyVfround
  exact keeps_vectorBody he ..

theorem keeps_dotSrc {e : Env} (he : e.before.mem.wf = true) (ft : Fmt) (code : BitVec 8) (lit : Option W32) :
    Keeps (dotSrc e ft code lit) := by
  grind [dotSrc, keeps_bind, keeps_pure, keeps_srcV]

@[simp] theorem keeps_bodyVfdot2 {e : Env} (he : e.before.mem.wf = true) (lit : Option W32) (f : FFrame) :
    Keeps (bodyVfdot2 lit f e) := by
  unfold bodyVfdot2
  refine keeps_bind (keeps_begin_ ..) fun _ => keeps_bind (keeps_sources (keeps_dotSrc he ..) ?_ (keeps_srcV he ..)) fun _ =>
    keeps_bind (keeps_dstV ..) fun _ => keeps_pure _
  split
  · exact keeps_pure _
  · exact keeps_dotSrc he ..

@[simp] theorem keeps_bodyVfscale {e : Env} (he : e.before.mem.wf = true) (lit : Option W32) (f : FFrame) :
    Keeps (bodyVfscale lit f e) := by
  unfold bodyVfscale
  exact keeps_vectorBody he ..

@[simp] theorem keeps_bodyVfadd {e : Env} (he : e.before.mem.wf = true) (lit : Option W32) (f : FFrame) :
    Keeps (bodyVfadd lit f e) := keeps_floatRounded he ..

@[simp] theorem keeps_bodyVfsub {e : Env} (he : e.before.mem.wf = true) (lit : Option W32) (f : FFrame) :
    Keeps (bodyVfsub lit f e) := keeps_floatRounded he ..

@[simp] theorem keeps_bodyVfmul {e : Env} (he : e.before.mem.wf = true) (lit : Option W32) (f : FFrame) :
    Keeps (bodyVfmul lit f e) := keeps_floatRounded he ..

@[simp] theorem keeps_bodyVfma {e : Env} (he : e.before.mem.wf = true) (lit : Option W32) (f : FFrame) :
    Keeps (bodyVfma lit f e) := keeps_floatRounded he ..

@[simp] theorem keeps_bodyVfmin {e : Env} (he : e.before.mem.wf = true) (lit : Option W32) (f : FFrame) :
    Keeps (bodyVfmin lit f e) := keeps_floatMinMax he ..

@[simp] theorem keeps_bodyVfmax {e : Env} (he : e.before.mem.wf = true) (lit : Option W32) (f : FFrame) :
    Keeps (bodyVfmax lit f e) := keeps_floatMinMax he ..

@[simp] theorem keeps_bodyVfabs {e : Env} (he : e.before.mem.wf = true) (lit : Option W32) (f : FFrame) :
    Keeps (bodyVfabs lit f e) := keeps_floatSign he ..

@[simp] theorem keeps_bodyVfneg {e : Env} (he : e.before.mem.wf = true) (lit : Option W32) (f : FFrame) :
    Keeps (bodyVfneg lit f e) := keeps_floatSign he ..

theorem keeps_specialBody {e : Env} (he : e.before.mem.wf = true) (fn : SpecialFn) (lit : Option W32) (f : FFrame) :
    Keeps (specialBody fn lit f e) := by
  unfold specialBody
  exact keeps_vectorBody he ..

@[simp] theorem keeps_bodyVrcp {e : Env} (he : e.before.mem.wf = true) (lit : Option W32) (f : FFrame) :
    Keeps (bodyVrcp lit f e) := keeps_specialBody he ..

@[simp] theorem keeps_bodyVrsq {e : Env} (he : e.before.mem.wf = true) (lit : Option W32) (f : FFrame) :
    Keeps (bodyVrsq lit f e) := keeps_specialBody he ..

@[simp] theorem keeps_bodyVsqrt {e : Env} (he : e.before.mem.wf = true) (lit : Option W32) (f : FFrame) :
    Keeps (bodyVsqrt lit f e) := keeps_specialBody he ..

@[simp] theorem keeps_bodyVexp2 {e : Env} (he : e.before.mem.wf = true) (lit : Option W32) (f : FFrame) :
    Keeps (bodyVexp2 lit f e) := keeps_specialBody he ..

@[simp] theorem keeps_bodyVlog2 {e : Env} (he : e.before.mem.wf = true) (lit : Option W32) (f : FFrame) :
    Keeps (bodyVlog2 lit f e) := keeps_specialBody he ..

@[simp] theorem keeps_bodyVsin {e : Env} (he : e.before.mem.wf = true) (lit : Option W32) (f : FFrame) :
    Keeps (bodyVsin lit f e) := keeps_specialBody he ..

@[simp] theorem keeps_bodyVcos {e : Env} (he : e.before.mem.wf = true) (lit : Option W32) (f : FFrame) :
    Keeps (bodyVcos lit f e) := keeps_specialBody he ..

@[simp] theorem keeps_bodyVtanh {e : Env} (he : e.before.mem.wf = true) (lit : Option W32) (f : FFrame) :
    Keeps (bodyVtanh lit f e) := keeps_specialBody he ..

/-! ### Conversion and packing -/

theorem keeps_bodyVcvt {e : Env} (he : e.before.mem.wf = true) (f : FFrame) : Keeps (bodyVcvt f e) := by
  unfold bodyVcvt
  exact keeps_vectorBody he ..

theorem keeps_bodyVcvtb {e : Env} (he : e.before.mem.wf = true) (f : FFrame) : Keeps (bodyVcvtb f e) := by
  grind [bodyVcvtb, keeps_bind, keeps_pure, keeps_srcV, keeps_dstV, keeps_begin_]

theorem keeps_bodyVpack {e : Env} (he : e.before.mem.wf = true) (f : FFrame) : Keeps (bodyVpack f e) := by
  grind [bodyVpack, keeps_bind, keeps_pure, keeps_srcV, keeps_dstV, keeps_begin_]

theorem keeps_bodyVunpack {e : Env} (he : e.before.mem.wf = true) (f : FFrame) : Keeps (bodyVunpack f e) := by
  grind [bodyVunpack, keeps_bind, keeps_pure, keeps_srcV, keeps_dstV, keeps_begin_]

/-! ### Predicates -/

theorem keeps_predOp (e : Env) (nsrc : Nat) (fn : W32 → W32 → W32) (f : FFrame) : Keeps (predOp nsrc fn f e) := by
  grind [predOp, keeps_bind, keeps_pure, keeps_dstP, keeps_begin_]

theorem keeps_bodyPand (e : Env) (f : FFrame) : Keeps (bodyPand f e) := keeps_predOp e ..

theorem keeps_bodyPor (e : Env) (f : FFrame) : Keeps (bodyPor f e) := keeps_predOp e ..

theorem keeps_bodyPxor (e : Env) (f : FFrame) : Keeps (bodyPxor f e) := keeps_predOp e ..

theorem keeps_bodyPnot (e : Env) (f : FFrame) : Keeps (bodyPnot f e) := keeps_predOp e ..

theorem keeps_bodyPmov (e : Env) (f : FFrame) : Keeps (bodyPmov f e) := keeps_predOp e ..

theorem keeps_bodyPfrom {e : Env} (he : e.before.mem.wf = true) (f : FFrame) : Keeps (bodyPfrom f e) := by
  grind [bodyPfrom, keeps_bind, keeps_pure, keeps_srcV, keeps_srcS, keeps_dstP, keeps_begin_]

theorem keeps_bodyPto (e : Env) (f : FFrame) : Keeps (bodyPto f e) := by
  grind [bodyPto, keeps_bind, keeps_pure, keeps_dstV, keeps_dstS, keeps_begin_]

theorem keeps_predFold (e : Env) (all : Bool) (f : FFrame) : Keeps (predFold all f e) := by
  grind [predFold, keeps_bind, keeps_pure, keeps_dstS, keeps_begin_]

theorem keeps_bodyPany (e : Env) (f : FFrame) : Keeps (bodyPany f e) := keeps_predFold e ..

theorem keeps_bodyPall (e : Env) (f : FFrame) : Keeps (bodyPall f e) := keeps_predFold e ..

/-! ### Accesses of the load and store unit -/

theorem keeps_throttle {e : Env} (he : e.before.mem.wf = true) : Keeps (throttle e) := by
  refine ⟨fun s hs => ?_⟩
  grind [throttle, keeps_hold, wf_modCore, StopWf]

theorem keeps_curSlice (e : Env) : Keeps (curSlice e) := by
  grind [curSlice, keeps_bind, keeps_get_bind, keeps_pure]

theorem keeps_depsFor (e : Env) (write : Bool) (order : Nat) : Keeps (depsFor e write order) := by
  grind [depsFor, keeps_bind, keeps_get_bind, keeps_pure, keeps_curSlice]

theorem keeps_holdDeps (e : Env) (l : List Nat) : Keeps (holdDeps e l) := by
  grind [holdDeps, keeps_bind, keeps_get_bind, keeps_holdIf]

theorem keeps_counterRoom (e : Env) (k : PendKind) : Keeps (counterRoom e k) := by
  grind [counterRoom, keeps_bind, keeps_holdIf, keeps_curSlice]

theorem keeps_windowRoom (accs : List LaneAcc) : Keeps (windowRoom accs) := by
  grind [windowRoom, keeps_bind, keeps_get_bind, keeps_holdIf]

theorem keeps_enter {e : Env} (he : e.before.mem.wf = true) (x : NewPend) : Keeps (enter e x) :=
  keeps_bind (keeps_counterRoom ..) fun _ => keeps_bind (keeps_tableRoom he _) fun _ => keeps_bind (keeps_windowRoom ..) fun _ =>
  keeps_bind (keeps_depsFor ..) fun _ => keeps_get_bind fun _ _ => keeps_bind (keeps_modify fun _ hs => wf_addPend hs ..) fun _ =>
  keeps_modSl ..

theorem keeps_reserve (e : Env) (n : Nat) (scalar : Bool) (xs : List QEntry) : Keeps (reserve e n scalar xs) := by
  grind [reserve, keeps_bind, keeps_get_bind, keeps_pure, keeps_curGroup, keeps_pushEntries]

theorem keeps_laneVas {e : Env} (he : e.before.mem.wf = true) (f : FFrame) (d : Int) (m : W32) : Keeps (laneVas e f d m) := by
  grind [laneVas, keeps_bind, keeps_pure, keeps_srcV]

theorem keeps_raiseLanes {α : Type} (e : Env) (c : BitVec 8) (va : W64) (mask : W32) (peer : W64) :
    Keeps (raiseLanes e c va mask peer : Exec α) := by
  grind [raiseLanes, keeps_raise]

theorem keeps_placesOf (e : Env) (vas : List (Nat × W64)) (size : Nat) (acc : Access) (all : Option W32) :
    Keeps (placesOf e vas size acc all) := by
  unfold placesOf
  refine keeps_get_bind fun s _ => ?_
  dsimp only
  split
  · exact keeps_hold ..
  · split
    · exact keeps_ite (keeps_error trivial) (keeps_raiseLanes ..)
    · exact keeps_pure _

theorem keeps_plainLs {e : Env} (he : e.before.mem.wf = true) (f : FFrame) (d : Int) (m : W32) : Keeps (plainLs e f d m) := by
  grind [plainLs, keeps_bind, keeps_pure, keeps_srcV, keeps_srcS]

theorem keeps_laneReject {α : Type} (e : Env) (gcode reason : Nat) (mask : W32) :
    Keeps (laneReject e gcode reason mask : Exec α) := by
  unfold laneReject
  exact keeps_raise e ..

theorem keeps_checkLs (e : Env) (size : Nat) (xs : List (Nat × W32 × Option LsRef)) : Keeps (checkLs e size xs) := by
  grind [checkLs, keeps_bind, keeps_trapIf]

theorem keeps_lsRefs {e : Env} (he : e.before.mem.wf = true) (f : FFrame) (size : Nat) (disp : Bool) (m : W32) :
    Keeps (lsRefs e f size disp m) := by
  unfold lsRefs
  refine keeps_get_bind fun s _ => ?_
  dsimp only
  split
  · exact keeps_bind (keeps_plainLs he ..) fun _ => keeps_bind (keeps_checkLs ..) fun _ => keeps_pure _
  · refine keeps_bind (keeps_srcS he ..) fun _ => keeps_bind (keeps_srcV he ..) fun _ => ?_
    split
    · exact keeps_laneReject ..
    · exact keeps_when (keeps_laneReject ..) fun _ => keeps_bind (keeps_checkLs ..) fun _ =>
        keeps_when (keeps_laneReject ..) fun _ => keeps_pure _

theorem keeps_enterLs {e : Env} (he : e.before.mem.wf = true) (x : NewPend) : Keeps (enterLs e x) := by
  grind [enterLs, keeps_bind, keeps_get_bind, keeps_modSl, keeps_modify, keeps_enter, wf_enqueueBanks]

theorem keeps_lsReady (e : Env) : Keeps (lsReady e) := by
  grind [lsReady, keeps_bind, keeps_get_bind, keeps_holdIf]

theorem keeps_lgeomReady (e : Env) : Keeps (lgeomReady e) := by
  grind [lgeomReady, keeps_pure, keeps_checkNamed]

theorem keeps_loadDst (e : Env) (f : FFrame) : Keeps (loadDst e f) := by
  grind [loadDst, keeps_pure, keeps_reserve]

theorem keeps_pushZeros (e : Env) (f : FFrame) : Keeps (pushZeros e f) := by
  grind [pushZeros, keeps_pure, keeps_pushEntries]

theorem keeps_storeData {e : Env} (he : e.before.mem.wf = true) (f : FFrame) : Keeps (storeData e f) := by
  grind [storeData, keeps_bind, keeps_pure, keeps_srcV]

theorem keeps_bodyLd {e : Env} (he : e.before.mem.wf = true) (f : FFrame) : Keeps (bodyLd f e) :=
  keeps_bind (keeps_throttle he) fun _ => keeps_bind (keeps_trapIf ..) fun _ => keeps_bind (keeps_checkNamed ..) fun _ =>
  keeps_ite (keeps_bind (keeps_pushZeros ..) fun _ => keeps_pure _)
    (keeps_bind (keeps_laneVas he ..) fun _ => keeps_bind (keeps_placesOf ..) fun _ => keeps_bind (keeps_noPoison _) fun _ =>
      keeps_bind (keeps_loadDst ..) fun _ => keeps_bind (keeps_enter he _) fun _ => keeps_pure _)

theorem keeps_bodySt {e : Env} (he : e.before.mem.wf = true) (f : FFrame) : Keeps (bodySt f e) :=
  keeps_bind (keeps_throttle he) fun _ => keeps_bind (keeps_trapIf ..) fun _ => keeps_bind (keeps_checkNamed ..) fun _ =>
  keeps_bind (keeps_orLower (keeps_storeData he _) (keeps_bind (keeps_bind (keeps_laneVas he ..) fun _ => keeps_placesOf ..) fun _ =>
    keeps_pure _)) fun _ =>
  keeps_ite (keeps_pure _) (keeps_bind (keeps_bind (keeps_laneVas he ..) fun _ => keeps_placesOf ..) fun _ =>
    keeps_bind (keeps_enter he _) fun _ => keeps_pure _)

theorem keeps_scalarVa {e : Env} (he : e.before.mem.wf = true) (f : FFrame) (size : Nat) : Keeps (scalarVa e f size) := by
  grind [scalarVa, keeps_bind, keeps_pure, keeps_srcS]

theorem keeps_bodyLds {e : Env} (he : e.before.mem.wf = true) (f : FFrame) : Keeps (bodyLds f e) :=
  keeps_bind (keeps_throttle he) fun _ => keeps_bind (keeps_trapIf ..) fun _ => keeps_bind (keeps_checkNamed ..) fun _ =>
  keeps_ite (keeps_bind (keeps_dstS ..) fun _ => keeps_pure _)
    (keeps_bind (keeps_scalarVa he ..) fun _ => keeps_bind (keeps_placesOf ..) fun _ => keeps_bind (keeps_noPoison _) fun _ => by
      dsimp only
      split
      · exact keeps_bind (keeps_reserve ..) fun _ => keeps_bind (keeps_enter he _) fun _ => keeps_pure _
      · exact keeps_bind (keeps_pure _) fun _ => keeps_bind (keeps_enter he _) fun _ => keeps_pure _)

theorem keeps_stsData {e : Env} (he : e.before.mem.wf = true) (f : FFrame) : Keeps (stsData e f) := by
  unfold stsData
  dsimp only
  split
  · exact keeps_pure _
  · exact keeps_get_bind fun _ hs => keeps_bind (keeps_set (by exact hs)) fun _ => keeps_pure _
  · exact keeps_srcS he ..

theorem keeps_bodySts {e : Env} (he : e.before.mem.wf = true) (f : FFrame) : Keeps (bodySts f e) :=
  keeps_bind (keeps_throttle he) fun _ => keeps_bind (keeps_trapIf ..) fun _ => keeps_bind (keeps_checkNamed ..) fun _ =>
  keeps_bind (keeps_orLower (keeps_stsData he _) (keeps_bind (keeps_bind (keeps_scalarVa he ..) fun _ => keeps_placesOf ..) fun _ =>
    keeps_pure _)) fun _ =>
  keeps_ite (keeps_pure _) (keeps_bind (keeps_bind (keeps_scalarVa he ..) fun _ => keeps_placesOf ..) fun _ =>
    keeps_bind (keeps_enter he _) fun _ => keeps_pure _)

theorem keeps_noLanes (e : Env) : Keeps (noLanes e) := by
  unfold noLanes
  exact keeps_modSl e ..

theorem keeps_bodyLdl {e : Env} (he : e.before.mem.wf = true) (f : FFrame) : Keeps (bodyLdl f e) :=
  keeps_bind (keeps_trapIf ..) fun _ => keeps_bind (keeps_checkNamed ..) fun _ => keeps_bind (keeps_lgeomReady _) fun _ =>
  keeps_bind (keeps_lsReady _) fun _ =>
  keeps_ite (keeps_bind (keeps_noLanes _) fun _ => keeps_bind (keeps_pushZeros ..) fun _ => keeps_pure _)
    (keeps_bind (keeps_lsRefs he ..) fun _ => keeps_bind (keeps_loadDst ..) fun _ => keeps_bind (keeps_enterLs he _) fun _ =>
      keeps_pure _)

theorem keeps_bodyStl {e : Env} (he : e.before.mem.wf = true) (f : FFrame) : Keeps (bodyStl f e) :=
  keeps_bind (keeps_trapIf ..) fun _ => keeps_bind (keeps_checkNamed ..) fun _ => keeps_bind (keeps_lgeomReady _) fun _ =>
  keeps_bind (keeps_lsReady _) fun _ =>
  keeps_bind (keeps_orLower (keeps_storeData he _) (keeps_bind (keeps_lsRefs he ..) fun _ => keeps_pure _)) fun _ =>
  keeps_ite (keeps_bind (keeps_noLanes _) fun _ => keeps_pure _)
    (keeps_bind (keeps_lsRefs he ..) fun _ => keeps_bind (keeps_enterLs he _) fun _ => keeps_pure _)

theorem keeps_bodyLdq {e : Env} (he : e.before.mem.wf = true) (f : FFrame) : Keeps (bodyLdq f e) := by
  unfold bodyLdq
  refine keeps_bind (keeps_throttle he) fun _ => keeps_bind (keeps_raiseLowest ..) fun _ => keeps_bind (keeps_checkNamed ..) fun _ =>
    keeps_ite (keeps_bind (keeps_pushEntries ..) fun _ => keeps_pure _) ?_
  refine keeps_bind (keeps_scalarVa he ..) fun _ => keeps_bind (keeps_srcV he ..) fun _ => keeps_when (keeps_raise ..) fun _ =>
    keeps_get_bind fun _ _ => ?_
  dsimp only
  split
  · exact keeps_hold ..
  · exact keeps_bind (keeps_noPoison _) fun _ => keeps_bind (keeps_modify fun _ hs => wf_dropFaults hs ..) fun _ =>
      keeps_ite (keeps_bind (keeps_pushEntries ..) fun _ => keeps_pure _)
        (keeps_bind (keeps_reserve ..) fun _ => keeps_bind (keeps_enter he _) fun _ => keeps_pure _)

theorem keeps_namedLines {e : Env} (he : e.before.mem.wf = true) (f : FFrame) : Keeps (namedLines e f) := by
  grind [namedLines, keeps_bind, keeps_get_bind, keeps_pure, keeps_hold, keeps_modify, keeps_laneVas, wf_dropFaults]

theorem keeps_bodyPref {e : Env} (he : e.before.mem.wf = true) (f : FFrame) : Keeps (bodyPref f e) := by
  refine keeps_bind (keeps_throttle he) fun _ => keeps_bind (keeps_begin_ ..) fun _ => keeps_bind (keeps_namedLines he _) fun _ =>
    keeps_ite (keeps_pure _) (keeps_bind (keeps_modify fun _ hs => wf_foldl (fun _ _ h => ?_) hs _) fun _ => keeps_pure _)
  split
  · exact h
  · exact wf_l1Read h ..

theorem keeps_bodyCctl {e : Env} (he : e.before.mem.wf = true) (f : FFrame) : Keeps (bodyCctl f e) := by
  grind [bodyCctl, keeps_bind, keeps_pure, keeps_modify, keeps_begin_, keeps_namedLines, wf_modCore, wf_l1Drop]

theorem keeps_atomicRoom (e : Env) : Keeps (atomicRoom e) :=
  keeps_get_bind fun _ _ => keeps_holdIf ..

theorem keeps_enterAtomic {e : Env} (he : e.before.mem.wf = true) (f : FFrame) (cas ret : Bool) (data cmp : Nat → List Byte) :
    Keeps (enterAtomic e f cas ret data cmp) := by
  have hwait (c : Prop) [Decidable c] (n : Nat) (l : List QEntry) (d : PendDst) : Keeps (do
      if ret then atomicRoom e
      if c then reserve e n false l
      else if ret then pure d
      else pure .none) :=
    keeps_when (keeps_atomicRoom e) fun _ => keeps_ite (keeps_reserve ..) (keeps_ite (keeps_pure _) (keeps_pure _))
  unfold enterAtomic
  refine keeps_ite (keeps_when (keeps_noLanes e) fun _ => keeps_ite (keeps_pushEntries ..) (keeps_pure _)) ?_
  refine keeps_ite ?_ ?_
  · exact keeps_bind (keeps_lgeomReady e) fun _ => keeps_bind (keeps_lsReady e) fun _ => keeps_bind (keeps_lsRefs he ..) fun _ =>
      keeps_bind (hwait ..) fun _ => keeps_enterLs he _
  · exact keeps_bind (keeps_laneVas he ..) fun _ => keeps_bind (keeps_placesOf ..) fun _ => keeps_bind (keeps_noPoison _) fun _ =>
      keeps_bind (hwait ..) fun _ => keeps_enter he _

theorem keeps_beginAtomic {e : Env} (he : e.before.mem.wf = true) (sp : FSpec) (f : FFrame) : Keeps (beginAtomic e sp f) := by
  grind [beginAtomic, keeps_bind, keeps_pure, keeps_begin_, keeps_throttle]

theorem keeps_atomChecks {e : Env} (he : e.before.mem.wf = true) (f : FFrame) : Keeps (atomChecks e f) := by
  grind [atomChecks, keeps_bind, keeps_pure, keeps_laneVas, keeps_placesOf, keeps_lsRefs]

theorem keeps_atomData {e : Env} (he : e.before.mem.wf = true) (f : FFrame) : Keeps (atomData e f) := by
  grind [atomData, keeps_bind, keeps_pure, keeps_srcV, keeps_srcS]

theorem keeps_bodyAtom {e : Env} (he : e.before.mem.wf = true) (f : FFrame) : Keeps (bodyAtom f e) := by
  grind [bodyAtom, keeps_bind, keeps_pure, keeps_orLower, keeps_enterAtomic, keeps_beginAtomic, keeps_atomChecks,
    keeps_atomData]

theorem keeps_bodyRed {e : Env} (he : e.before.mem.wf = true) (f : FFrame) : Keeps (bodyRed f e) := by
  grind [bodyRed, keeps_bind, keeps_pure, keeps_orLower, keeps_enterAtomic, keeps_beginAtomic, keeps_atomChecks, keeps_atomData]

theorem keeps_bodyCas {e : Env} (he : e.before.mem.wf = true) (f : FFrame) : Keeps (bodyCas f e) := by
  grind [bodyCas, keeps_bind, keeps_pure, keeps_enterAtomic, keeps_beginAtomic]

theorem keeps_readReady (e : Env) (ps : List (Nat × W64 × Place)) (size : Nat) (own : Bool) (sync : Bool) :
    Keeps (readReady e ps size own sync) := by
  grind [readReady, keeps_bind, keeps_get_bind, keeps_holdIf, keeps_curSlice]

theorem keeps_readPieces (e : Env) (sc : Scope) (todo : List Place) : Keeps (readPieces e sc todo) := by
  induction todo <;> grind [readPieces, keeps_bind, keeps_get_bind, keeps_pure, keeps_set, wf_readPlace]

theorem keeps_readNow {e : Env} (he : e.before.mem.wf = true) (va : W64) (n : Nat) (sc : Scope) (mask : W32) (own sync : Bool) :
    Keeps (readNow e va n sc mask own sync) := by
  unfold readNow
  refine keeps_bind (keeps_placesOf ..) fun _ => keeps_bind (keeps_noPoison _) fun _ => keeps_get_bind fun _ _ =>
    keeps_ite (keeps_bind (keeps_readReady ..) fun _ => keeps_bind (keeps_readPieces ..) fun _ => keeps_pure _) ?_
  split
  · exact keeps_ite (keeps_pure _) (keeps_hold ..)
  · exact keeps_bind (keeps_windowRoom _) fun _ => keeps_bind (keeps_depsFor ..) fun _ => keeps_error (wf_addPend he ..)

theorem keeps_readSeen {e : Env} (he : e.before.mem.wf = true) (va : W64) (n : Nat) (sc : Scope) (mask : W32) (own : Bool)
    (sync : Bool) : Keeps (readSeen e va n sc mask own sync) := by
  grind [readSeen, keeps_bind, keeps_pure, keeps_modify, keeps_readNow, wf_watchHit]

theorem keeps_raiseDrop {α : Type} {e : Env} (he : e.before.mem.wf = true) (cause : BitVec 8) (aux0 aux1 : W64) :
    Keeps (raiseDrop e cause aux0 aux1 : Exec α) := by
  refine ⟨fun s hs => ?_⟩
  grind [raiseDrop, wf_dropStages, StopWf]

theorem keeps_bodyStc {e : Env} (he : e.before.mem.wf = true) (f : FFrame) : Keeps (bodyStc f e) := by
  unfold bodyStc
  refine keeps_bind (keeps_throttle he) fun _ => keeps_bind (keeps_begin_ ..) fun _ => keeps_ite (keeps_pure _) ?_
  have hplaces (l : List (Nat × W64)) (m : Option W32) : Keeps (do let _ ← placesOf e l 1 .store m; pure () : Exec Unit) :=
    keeps_bind (keeps_placesOf ..) fun _ => keeps_pure _
  refine keeps_get_bind fun _ _ => keeps_when (keeps_orLower (keeps_raiseLowest ..) (hplaces ..)) fun _ => ?_
  split
  · exact keeps_bind (keeps_orLower (keeps_raise ..) (hplaces ..)) fun _ => keeps_pure _
  · exact keeps_bind (keeps_readReady ..) fun _ => keeps_bind (keeps_holdIf ..) fun _ =>
      keeps_bind (keeps_orLower (keeps_raiseLowest ..) (hplaces ..)) fun _ => keeps_bind (keeps_placesOf ..) fun _ =>
      keeps_bind (keeps_enter he _) fun _ => keeps_pure _

theorem keeps_bodyLdx {e : Env} (he : e.before.mem.wf = true) (f : FFrame) : Keeps (bodyLdx f e) := by
  unfold bodyLdx
  refine keeps_bind (keeps_throttle he) fun _ => keeps_bind (keeps_begin_ ..) fun _ => keeps_ite (keeps_pure _) ?_
  refine keeps_bind (keeps_lsReady _) fun _ => keeps_bind (keeps_placesOf ..) fun _ => keeps_bind (keeps_readSeen he ..) fun _ => ?_
  split
  · exact keeps_raiseDrop he ..
  · refine keeps_bind (keeps_readSeen he ..) fun _ => ?_
    split
    · exact keeps_raiseDrop he ..
    · refine keeps_get_bind fun _ _ => ?_
      split
      · exact keeps_raiseDrop he ..
      · exact keeps_bind (keeps_tableRoom he _) fun _ => keeps_bind (keeps_modify fun _ hs => wf_dropStages hs _) fun _ =>
          keeps_bind (keeps_enterLs he _) fun _ => keeps_when (keeps_modify fun _ hs => wf_acquireL1 hs ..) fun _ => keeps_pure _

/-! ### Geometry -/

theorem keeps_setGeom (e : Env) (code : BitVec 8) (x : BitVec 512) : Keeps (setGeom e code x) := by
  unfold setGeom
  exact keeps_modGrp e ..

theorem keeps_raiseGeom {α : Type} (e : Env) (code : BitVec 8) (x : GErr) : Keeps (raiseGeom e code x : Exec α) := by
  unfold raiseGeom
  exact keeps_raise e ..

theorem keeps_wellFormed (e : Env) (code : BitVec 8) : Keeps (wellFormed e code) := by
  grind [wellFormed, keeps_pure, keeps_raiseGeom]

theorem keeps_imageParts (e : Env) (va : W64) (acc : Access) (m : W32) : Keeps (imageParts e va acc m) := by
  grind [imageParts, keeps_bind, keeps_pure, keeps_placesOf]

theorem keeps_imageLs (e : Env) (va : W64) (m : W32) : Keeps (imageLs e va m) := by
  grind [imageLs, keeps_bind, keeps_get_bind, keeps_pure, keeps_raise]

theorem keeps_moveImage {e : Env} (he : e.before.mem.wf = true) (w : WFrame) (kind : PendKind) (dst : PendDst)
    (data : List Byte) (acc : Access) : Keeps (moveImage w kind dst data acc e) := by
  grind [moveImage, keeps_bind, keeps_noPoison, keeps_enter, keeps_enterLs, keeps_lsReady, keeps_imageParts, keeps_imageLs]

theorem keeps_putGeom (e : Env) (dst src : BitVec 8) (r : Except GErr Geom) : Keeps (putGeom e dst src r) := by
  cases r with
  | ok g => exact keeps_setGeom ..
  | error x => exact keeps_raiseGeom ..

theorem keeps_restrict {e : Env} (he : e.before.mem.wf = true) (w : WFrame)
    (fn : Geom → Nat → Nat → Nat → Except GErr (Geom × Int)) : Keeps (restrict w fn e) := by
  grind [restrict, keeps_bind, keeps_modSl, keeps_srcS, keeps_setGeom, keeps_raiseGeom, keeps_wellFormed]

/-! ### Control -/

theorem keeps_stackCell (e : Env) (call : Bool) (i : Nat) : Keeps (stackCell e call i) := by
  refine ⟨fun s hs => ?_⟩
  grind [stackCell, raise, StopWf]

theorem keeps_readEntry (e : Env) (call : Bool) (i : Nat) : Keeps (readEntry e call i) := by
  grind [readEntry, keeps_bind, keeps_get_bind, keeps_pure, keeps_noPoison, keeps_stackCell]

theorem keeps_writeEntry (e : Env) (call : Bool) (i v : Nat) : Keeps (writeEntry e call i v) :=
  keeps_bind (keeps_stackCell ..) fun _ => keeps_modify fun _ hs => Memory.wf_writeNat hs ..

theorem keeps_readStack (e : Env) (todo : Nat) : Keeps (readStack e todo) := by
  induction todo <;> grind [readStack, keeps_bind, keeps_pure, keeps_readEntry]

theorem keeps_readPaths (e : Env) : Keeps (readPaths e) := by
  grind [readPaths, keeps_bind, keeps_pure, keeps_readStack]

theorem keeps_writeStack (e : Env) (todo : List Path) : Keeps (writeStack e todo) := by
  induction todo <;> grind [writeStack, keeps_bind, keeps_pure, keeps_writeEntry]

theorem keeps_writePaths (e : Env) (ps : Paths) : Keeps (writePaths e ps) := by
  grind [writePaths, keeps_bind, keeps_modSl, keeps_writeStack]

theorem keeps_readCalls (e : Env) (todo : Nat) : Keeps (readCalls e todo) := by
  induction todo <;> grind [readCalls, keeps_bind, keeps_pure, keeps_readEntry]

theorem keeps_writeCalls (e : Env) (todo : List (Va × W32)) : Keeps (writeCalls e todo) := by
  induction todo <;> grind [writeCalls, keeps_bind, keeps_pure, keeps_writeEntry]

theorem keeps_setCalls (e : Env) (l : List (Va × W32)) : Keeps (setCalls e l) := by
  grind [setCalls, keeps_bind, keeps_modSl, keeps_writeCalls]

theorem keeps_endLanes (e : Env) (m : W32) : Keeps (endLanes e m) := by
  grind [endLanes, keeps_bind, keeps_pure, keeps_readCalls, keeps_setCalls]

theorem keeps_jump (e : Env) (pc : Va) : Keeps (jump e pc) := by
  unfold jump
  exact keeps_modSl e ..

theorem keeps_checkTarget (e : Env) (t : W64) : Keeps (checkTarget e t) := by
  grind [checkTarget, keeps_bind, keeps_get_bind, keeps_pure, keeps_trapIf]

theorem keeps_notInHandler (e : Env) : Keeps (notInHandler e) := by
  unfold notInHandler
  exact keeps_trapIf e ..

theorem keeps_controlScalar {e : Env} (he : e.before.mem.wf = true) (c : CFrame) : Keeps (controlScalar e c) := by
  grind [controlScalar, keeps_bind, keeps_checkNamed, keeps_srcS]

theorem keeps_branchTest {e : Env} (he : e.before.mem.wf = true) (nonzero : Bool) (c : CFrame) :
    Keeps (branchTest nonzero c e) := by
  grind [branchTest, keeps_bind, keeps_get_bind, keeps_advance, keeps_jump, keeps_controlScalar]

theorem keeps_split (e : Env) (c : CFrame) : Keeps (split e c) := by
  unfold split
  refine keeps_ite (keeps_advance ..) (keeps_ite (keeps_jump ..) ?_)
  refine keeps_bind (keeps_trapIf ..) fun _ => keeps_bind (keeps_readPaths _) fun _ => ?_
  have hend (qs : Paths) (f : Slice → Slice) : Keeps (do writePaths e qs; modSl e f) :=
    keeps_bind (keeps_writePaths ..) fun _ => keeps_modSl ..
  dsimp only
  split
  · exact keeps_bind (keeps_pure _) fun _ => hend ..
  · refine keeps_bind (keeps_trapIf ..) fun _ => ?_
    split
    · exact keeps_bind (keeps_pure _) fun _ => hend ..
    · exact keeps_bind (keeps_pure _) fun _ => hend ..

theorem keeps_joinPath (e : Env) : Keeps (joinPath e) := by
  grind [joinPath, keeps_bind, keeps_advance, keeps_readPaths, keeps_writePaths]

theorem keeps_brq {e : Env} (he : e.before.mem.wf = true) (c : CFrame) : Keeps (brq c e) := by
  unfold brq
  refine keeps_bind (keeps_trapIf ..) fun _ => keeps_bind (keeps_raiseLowest ..) fun _ => ?_
  have hend (f : Slice → Slice) (g : State → State) (hg : ∀ s, s.mem.wf = true → (g s).mem.wf = true) (b : Bool) (t : Va) :
      Keeps (do modSl e f; modify g; if b then jump e t else advance e 8) :=
    keeps_bind (keeps_modSl ..) fun _ => keeps_bind (keeps_modify hg) fun _ => keeps_ite (keeps_jump ..) (keeps_advance ..)
  split
  · exact keeps_bind (keeps_pure _) fun _ => hend _ _ (fun _ hs => wf_modCore hs ..) ..
  · exact keeps_bind (keeps_popEntry he _) fun _ => keeps_bind (keeps_pure _) fun _ => hend _ _ (fun _ hs => wf_modCore hs ..) ..

theorem keeps_callTo (e : Env) (target : Va) : Keeps (callTo e target) := by
  grind [callTo, keeps_bind, keeps_get_bind, keeps_trapIf, keeps_modSl, keeps_writeEntry, keeps_jump]

theorem keeps_ret (e : Env) : Keeps (ret e) := by
  grind [ret, keeps_bind, keeps_get_bind, keeps_raise, keeps_readCalls, keeps_setCalls, keeps_jump, keeps_checkTarget]

theorem keeps_exitLanes (e : Env) (m : W32) : Keeps (exitLanes e m) := by
  grind [exitLanes, keeps_bind, keeps_modSl, keeps_readPaths, keeps_writePaths, keeps_endLanes]

theorem keeps_eret (e : Env) : Keeps (eret e) := by
  grind [eret, keeps_bind, keeps_get_bind, keeps_modSl, keeps_modify, keeps_readPaths, keeps_writePaths, keeps_endLanes,
    keeps_checkTarget, wf_leaveHandler]

/-! ### Synchronization -/

theorem keeps_bodyFence (e : Env) (f : FFrame) : Keeps (bodyFence f e) :=
  keeps_bind (keeps_begin_ ..) fun _ => keeps_ite (keeps_pure _) (keeps_get_bind fun _ _ =>
    keeps_when (keeps_holdDeps ..) fun _ => keeps_when (keeps_modSl ..) fun _ =>
    keeps_ite (keeps_bind (keeps_acquireIds ..) fun _ => keeps_bind (keeps_modify fun _ hs => wf_acquireL1 hs ..) fun _ =>
      keeps_pure _) (keeps_pure _))

theorem keeps_bodyFencex (e : Env) (f : FFrame) : Keeps (bodyFencex f e) := by
  grind [bodyFencex, keeps_bind, keeps_get_bind, keeps_pure, keeps_holdIf, keeps_modSl, keeps_modify, keeps_begin_,
    wf_acquireL1]

theorem keeps_bodyWaitcnt (e : Env) (f : FFrame) : Keeps (bodyWaitcnt f e) := by
  grind [bodyWaitcnt, keeps_bind, keeps_pure, keeps_holdIf, keeps_begin_, keeps_curSlice]

theorem keeps_curTags (e : Env) (write : Bool) : Keeps (curTags e write) := by
  grind [curTags, keeps_bind, keeps_get_bind, keeps_pure, keeps_curSlice, keeps_holdDeps]

theorem keeps_setTags (e : Env) (t : List (List TagEntry)) : Keeps (setTags e t) := by
  grind [setTags, keeps_modify, wf_modWg]

theorem keeps_raiseTag (e : Env) (n : Nat) (key : Nat → BitVec 48) (way : Nat → Nat) (bad : W32) :
    Keeps (raiseTag e n key way bad) := by
  unfold raiseTag
  exact keeps_trapIf e ..

theorem keeps_bodyTlook (e : Env) (f : FFrame) : Keeps (bodyTlook f e) := by
  grind [bodyTlook, keeps_bind, keeps_pure, keeps_dstV, keeps_begin_, keeps_curTags, keeps_raiseTag]

theorem keeps_bodyTset {e : Env} (he : e.before.mem.wf = true) (f : FFrame) : Keeps (bodyTset f e) := by
  grind [bodyTset, keeps_bind, keeps_pure, keeps_srcV, keeps_begin_, keeps_curTags, keeps_setTags, keeps_raiseTag]

theorem keeps_bodyTclr (e : Env) (f : FFrame) : Keeps (bodyTclr f e) := by
  grind [bodyTclr, keeps_bind, keeps_pure, keeps_begin_, keeps_curTags, keeps_setTags, keeps_raiseTag]

theorem keeps_raiseBar {α : Type} (e : Env) (va : W64) (reason : Nat) : Keeps (raiseBar e va reason : Exec α) := by
  unfold raiseBar
  exact keeps_raise e ..

theorem keeps_barReady (e : Env) (probe : List LaneAcc) (write : Bool) : Keeps (barReady e probe write) := by
  grind [barReady, keeps_bind, keeps_get_bind, keeps_holdIf, keeps_syncReady, keeps_curSlice]

theorem keeps_lsObj (e : Env) (addr : W32) (m : W32) : Keeps (lsObj e addr m) := by
  grind [lsObj, keeps_bind, keeps_get_bind, keeps_pure, keeps_raise, keeps_raiseBar]

theorem keeps_globalObj (e : Env) (va : W64) (acc : Access) (m : W32) : Keeps (globalObj e va acc m) := by
  unfold globalObj
  refine keeps_bind (keeps_placesOf ..) fun _ => keeps_bind (keeps_noPoison _) fun _ => keeps_when (keeps_raiseBar ..) fun _ => ?_
  split
  · split
    · exact keeps_raise ..
    · exact keeps_pure _
  · exact keeps_raise ..

theorem keeps_findObj (e : Env) (f : FFrame) (write : Bool) (m : W32) : Keeps (findObj e f write m) := by
  grind [findObj, keeps_bind, keeps_get_bind, keeps_pure, keeps_holdIf, keeps_hostReady, keeps_barReady, keeps_lsObj,
    keeps_globalObj]

theorem keeps_checkObj (e : Env) (o : BarObj) (op : BarOp) : Keeps (checkObj e o op) := by
  grind [checkObj, keeps_bind, keeps_get_bind, keeps_pure, keeps_raiseBar]

theorem keeps_releaseReady (e : Env) : Keeps (releaseReady e) := by
  grind [releaseReady, keeps_bind, keeps_get_bind, keeps_holdIf]

theorem keeps_noteStore (e : Env) (o : BarObj) (rd wr : Bool) : Keeps (noteStore e o rd wr) := by
  grind [noteStore, keeps_pure, keeps_modify, wf_watchHit]

theorem keeps_bodyBinit (e : Env) (f : FFrame) : Keeps (bodyBinit f e) := by
  unfold bodyBinit
  refine keeps_bind (keeps_begin_ ..) fun _ => keeps_ite (keeps_pure _) ?_
  refine keeps_bind (keeps_findObj ..) fun o => keeps_bind (keeps_checkObj ..) fun _ => keeps_when (keeps_raiseBar ..) fun _ =>
    keeps_when (keeps_raiseBar ..) fun _ => keeps_bind (keeps_modify fun _ hs => by exact hs) fun _ => ?_
  refine keeps_bind ?_ fun _ => keeps_bind (keeps_noteStore ..) fun _ => keeps_pure _
  split
  · exact keeps_get_bind fun _ _ => keeps_bind (keeps_holdIf ..) fun _ =>
      keeps_modify fun _ hs => wf_objWrite (wf_objWrite hs ..) ..
  · exact keeps_modify fun _ hs => wf_objWrite hs ..

theorem keeps_arrive (e : Env) (f : FFrame) (op : BarOp) (fn : Nat → Nat) (release : Bool) :
    Keeps (arrive f op fn release e) := by
  grind [arrive, keeps_bind, keeps_pure, keeps_trapIf, keeps_modify, keeps_findObj, keeps_checkObj, keeps_releaseReady,
    keeps_noteStore, wf_objModify]

theorem keeps_bodyBarr (e : Env) (f : FFrame) : Keeps (bodyBarr f e) := by
  grind [bodyBarr, keeps_bind, keeps_pure, keeps_begin_, keeps_arrive]

theorem keeps_bodyBarrx (e : Env) (f : FFrame) : Keeps (bodyBarrx f e) := by
  grind [bodyBarrx, keeps_bind, keeps_pure, keeps_begin_, keeps_arrive]

theorem keeps_promInstant {e : Env} (he : e.before.mem.wf = true) (f : FFrame) : Keeps (promInstant e f) := by
  grind [promInstant, keeps_bind, keeps_pure, keeps_srcS, keeps_curSlice]

theorem keeps_raisePromise (e : Env) (t : W64) (ptb : Nat) : Keeps (raisePromise e t ptb) := by
  refine ⟨fun s hs => ?_⟩
  grind [raisePromise, wf_modSlice, StopWf]

theorem keeps_bwait {e : Env} (he : e.before.mem.wf = true) (f : FFrame) : Keeps (bwait f e) := by
  unfold bwait
  refine keeps_bind (keeps_trapIf ..) fun _ => keeps_bind (keeps_checkNamed ..) fun _ => keeps_ite ?_ ?_
  · exact keeps_ite (keeps_bind (keeps_srcS he ..) fun _ => keeps_advance ..) (keeps_bind (keeps_pure _) fun _ => keeps_advance ..)
  · refine keeps_bind (keeps_srcS he ..) fun _ => ?_
    have hfound (m : W32) : Keeps (do let o ← findObj e f false m; checkObj e o .look; pure o) :=
      keeps_bind (keeps_findObj ..) fun _ => keeps_bind (keeps_checkObj ..) fun _ => keeps_pure _
    refine keeps_bind (keeps_orLower (hfound _) (keeps_bind (keeps_promInstant he _) fun _ => keeps_pure _)) fun _ =>
      keeps_bind (keeps_promInstant he _) fun t => keeps_get_bind fun _ _ => keeps_bind (keeps_modSl ..) fun _ => ?_
    refine keeps_ite (keeps_bind (keeps_modify fun _ hs => wf_setProm hs ..) fun _ => keeps_modSl ..) (keeps_ite ?_ ?_)
    · exact keeps_bind (keeps_modSl ..) fun _ => keeps_bind (keeps_modify fun _ hs => wf_barAcquire hs ..) fun _ =>
        keeps_bind (keeps_noteStore ..) fun _ => keeps_advance ..
    · split
      · exact keeps_ite (keeps_raisePromise ..)
          (keeps_bind (keeps_modify fun _ hs => wf_missPromise hs ..) fun _ => keeps_modSl ..)
      · exact keeps_modSl ..

theorem keeps_bodyBtest (e : Env) (f : FFrame) : Keeps (bodyBtest f e) :=
  keeps_bind (keeps_begin_ ..) fun _ => keeps_ite (keeps_pure _) (keeps_bind (keeps_findObj ..) fun _ =>
    keeps_bind (keeps_checkObj ..) fun _ => keeps_get_bind fun _ _ => keeps_bind (keeps_dstS ..) fun _ =>
    keeps_when (keeps_modify fun _ hs => wf_barAcquire hs ..) fun _ => keeps_bind (keeps_noteStore ..) fun _ => keeps_pure _)

theorem keeps_bodyBwatch (e : Env) (f : FFrame) : Keeps (bodyBwatch f e) := by
  unfold bodyBwatch
  refine keeps_bind (keeps_begin_ ..) fun _ => keeps_ite (keeps_pure _) ?_
  refine keeps_bind (keeps_placesOf ..) fun _ => keeps_bind (keeps_noPoison _) fun _ => keeps_bind (keeps_findObj ..) fun _ =>
    keeps_bind (keeps_checkObj ..) fun _ => keeps_get_bind fun _ hs => keeps_bind ?_ fun _ => keeps_pure _
  split
  · exact keeps_bind (keeps_set (by exact hs)) fun _ => keeps_modify fun _ h => wf_askWatch (wf_objModify h ..) ..
  · exact keeps_pure _

/-! ### The matrix unit -/

theorem keeps_fencesTo (e : Env) (s : State) (p : PathCode) : Keeps (State.fencesTo s e p) := by
  grind [State.fencesTo, keeps_bind, keeps_pure, keeps_curSlice]

theorem keeps_passRoom (e : Env) (n : Nat) : Keeps (passRoom e n) := by
  grind [passRoom, keeps_bind, keeps_get_bind, keeps_holdIf, keeps_curSlice]

theorem keeps_addPass (e : Env) (op : PassOp) (cycles : Nat) (tiles vregs : List Nat) :
    Keeps (addPass e op cycles tiles vregs) := by
  grind [addPass, keeps_bind, keeps_get_bind, keeps_modSl, keeps_modify, keeps_fencesTo, wf_modCore]

theorem keeps_tilesReady (e : Env) (tiles : List Nat) : Keeps (tilesReady e tiles) := by
  grind [tilesReady, keeps_bind, keeps_get_bind, keeps_holdIf]

theorem keeps_forM {α : Type} {l : List α} {k : α → Exec Unit} (hk : ∀ x, Keeps (k x)) : Keeps (l.forM k) := by
  induction l with
  | nil => exact keeps_pure _
  | cons x l ih => exact keeps_bind (hk x) fun _ => ih

theorem keeps_issueMul (e : Env) (w : WFrame) (x : MulIn) : Keeps (issueMul w x e) := by
  unfold issueMul
  have hrest (k : State → Exec Unit) (hk : ∀ s, Keeps (k s)) : Keeps (do passRoom e x.classes.length; let s ← get; k s) :=
    keeps_bind (keeps_passRoom ..) fun _ => keeps_get_bind fun s _ => hk s
  have hmul (cs : List Cond) (l : List ((W64 × List Nat) × Accept)) (k : (W64 × List Nat) × Accept → Exec Unit)
      (hk : ∀ c, Keeps (k c)) : Keeps (do raiseLowest e cs; l.forM k) :=
    keeps_bind (keeps_raiseLowest ..) fun _ => keeps_forM hk
  refine keeps_ite (keeps_get_bind fun _ _ => keeps_bind (keeps_fencesTo ..) fun _ => keeps_bind (keeps_holdIf ..) fun _ =>
    keeps_bind (keeps_holdIf ..) fun _ => hrest _ fun _ => ?_) (hrest _ fun _ => ?_)
  · exact hmul _ _ _ fun _ => keeps_addPass ..
  · exact hmul _ _ _ fun _ => keeps_addPass ..

theorem keeps_beginMul (e : Env) (sp : WSpec) (w : WFrame) (sparse : Bool) : Keeps (beginMul e sp w sparse) := by
  grind [beginMul, keeps_bind, keeps_raiseLowest, keeps_beginW]

theorem keeps_mulVec (e : Env) (w : WFrame) (sparse : Bool) : Keeps (mulVec w sparse e) := by
  grind [mulVec, keeps_bind, keeps_pure, keeps_issueMul, keeps_beginMul]

theorem keeps_setFblock (e : Env) (code : BitVec 8) (x : BitVec 256) : Keeps (setFblock e code x) := by
  unfold setFblock
  exact keeps_modGrp e ..

theorem keeps_fblockLoad {e : Env} (he : e.before.mem.wf = true) (w : WFrame) : Keeps (fblockLoad w e) := by
  unfold fblockLoad
  refine keeps_get_bind fun _ _ => keeps_ite ?_ ?_
  · refine keeps_bind (keeps_fencesTo ..) fun _ => keeps_bind (keeps_holdIf ..) fun _ => keeps_bind (keeps_lsReady _) fun _ => ?_
    dsimp only
    split
    · exact keeps_raise ..
    · exact keeps_bind (keeps_trapIf ..) fun _ => keeps_enterLs he _
  · exact keeps_bind (keeps_placesOf ..) fun _ => keeps_bind (keeps_placesOf ..) fun _ => keeps_bind (keeps_noPoison _) fun _ =>
      keeps_enter he _

theorem keeps_issueMove (e : Env) (w : WFrame) (load : Bool) : Keeps (issueMove w load e) := by
  grind [issueMove, keeps_bind, keeps_get_bind, keeps_pure, keeps_raise, keeps_holdIf, keeps_raiseLowest, keeps_beginW,
    keeps_passRoom, keeps_addPass]

/-! ### Commands -/

theorem keeps_settleOperands (e : Env) (r : Resolve) (cs : List Cond) : Keeps (settleOperands e r cs) := by
  unfold settleOperands
  refine keeps_when (keeps_hold ..) fun _ => ?_
  split
  · exact keeps_ite (keeps_raise ..) (keeps_error trivial)
  · exact keeps_ite (keeps_pure _) (keeps_error trivial)

theorem keeps_optionReady (e : Env) (w : WFrame) : Keeps (optionReady e w) := by
  grind [optionReady, keeps_pure, keeps_checkNamed]

theorem keeps_engineRoom (e : Env) (i : EngineId) (prio : Bool) : Keeps (engineRoom e i prio) := by
  grind [engineRoom, keeps_bind, keeps_get_bind, keeps_holdIf, keeps_curSlice]

theorem keeps_submit (e : Env) (c : Command) (cost : Nat) : Keeps (submit e c cost) := by
  unfold submit
  refine keeps_get_bind fun _ _ => keeps_bind (keeps_fencesTo ..) fun _ =>
    keeps_bind (keeps_modify fun s hs => wf_modEngine (s := s) hs ..) fun _ =>
    keeps_bind (keeps_modify fun _ hs => wf_traceCmdIf hs ..) fun _ => ?_
  refine keeps_ite (keeps_bind (keeps_modify fun _ hs => by exact hs) fun _ => keeps_modSl ..) (keeps_ite ?_ ?_)
  · exact keeps_bind (keeps_modify fun _ hs => wf_traceCmd (by exact hs) ..) fun _ => keeps_modSl ..
  · exact keeps_bind (keeps_modify fun _ hs => wf_modEngine hs ..) fun _ => keeps_modSl ..

/-! ### Forms and copies -/

theorem keeps_readForm {e : Env} (he : e.before.mem.wf = true) (x : CopyIn) (off n : Nat) : Keeps (readForm e x off n) := by
  grind [readForm, keeps_bind, keeps_get_bind, keeps_pure, keeps_holdIf, keeps_readNow]

theorem keeps_readWords {e : Env} (he : e.before.mem.wf = true) (x : CopyIn) (off n : Nat) : Keeps (readWords e x off n) := by
  grind [readWords, keeps_bind, keeps_pure, keeps_readForm]

theorem keeps_badForm {α : Type} {e : Env} (he : e.before.mem.wf = true) (x : CopyIn) (off : Nat) :
    Keeps (badForm e x off : Exec α) := by
  unfold badForm
  exact keeps_raiseDrop he ..

theorem keeps_flatIssue {e : Env} (he : e.before.mem.wf = true) (x : CopyIn) : Keeps (flatIssue e x) := by
  unfold flatIssue
  refine keeps_when (keeps_badForm he ..) fun _ => keeps_bind (keeps_readWords he ..) fun _ => ?_
  dsimp only
  split
  · exact keeps_badForm he ..
  · refine keeps_when (keeps_badForm he ..) fun _ => keeps_bind (keeps_readWords he ..) fun _ => ?_
    split
    · exact keeps_badForm he ..
    · exact keeps_pure _

theorem keeps_hbmIssue {e : Env} (he : e.before.mem.wf = true) (x : CopyIn) : Keeps (hbmIssue e x) := by
  unfold hbmIssue
  refine keeps_when (keeps_badForm he ..) fun _ => keeps_bind (keeps_readWords he ..) fun _ => ?_
  split
  · exact keeps_badForm he ..
  · refine keeps_bind (keeps_readWords he ..) fun _ => ?_
    split
    · exact keeps_badForm he ..
    · exact keeps_pure _

theorem keeps_kvpIssue {e : Env} (he : e.before.mem.wf = true) (x : CopyIn) (k p : Nat) : Keeps (kvpIssue e x k p) := by
  induction k generalizing p with
  | zero => exact keeps_pure _
  | succ k ih =>
    exact keeps_bind (keeps_readForm he ..) fun _ => keeps_when (keeps_badForm he ..) fun _ => keeps_bind (ih _) fun _ => keeps_pure _

theorem keeps_cooIssue {e : Env} (he : e.before.mem.wf = true) (x : CopyIn) : Keeps (cooIssue e x) := by
  unfold cooIssue
  refine keeps_when (keeps_badForm he ..) fun _ => keeps_bind (keeps_readWords he ..) fun _ => ?_
  split
  · exact keeps_badForm he ..
  · exact keeps_bind (keeps_readWords he ..) fun _ => keeps_when (keeps_badForm he ..) fun _ =>
      keeps_when (keeps_raiseDrop he ..) fun _ => keeps_when (keeps_raiseDrop he ..) fun _ =>
      keeps_when (keeps_raiseDrop he ..) fun _ => keeps_pure _

theorem keeps_formIssue {e : Env} (he : e.before.mem.wf = true) (x : CopyIn) : Keeps (formIssue e x) := by
  unfold formIssue
  refine keeps_ite (keeps_pure _) ?_
  split
  · exact keeps_flatIssue he _
  · exact keeps_hbmIssue he _
  · exact keeps_kvpIssue he ..
  · exact keeps_cooIssue he _
  · exact keeps_pure _

theorem keeps_indexList {e : Env} (he : e.before.mem.wf = true) (kind : CmdKind) (w : WFrame) : Keeps (indexList e kind w) := by
  grind [indexList, keeps_bind, keeps_pure, keeps_srcV]

theorem keeps_raiseAfterForm {e : Env} (he : e.before.mem.wf = true) (cs : List Cond) : Keeps (raiseAfterForm e cs) := by
  grind [raiseAfterForm, keeps_pure, keeps_raiseDrop]

theorem keeps_issueCopy {e : Env} (he : e.before.mem.wf = true) (kind : CmdKind) (sp : WSpec) (w : WFrame) :
    Keeps (issueCopy kind sp w e) := by
  unfold issueCopy
  refine keeps_bind (keeps_beginW ..) fun _ => keeps_bind (keeps_optionReady ..) fun _ => keeps_bind (keeps_indexList he ..) fun idx =>
    keeps_ite (keeps_pure _) ?_
  refine keeps_get_bind fun s _ => keeps_bind (keeps_engineRoom ..) fun _ => keeps_bind (keeps_settleOperands ..) fun _ => ?_
  have hend (x : CopyIn) (cs : List Cond) (c : List Nat → Command) (cost : Nat) : Keeps (do
      let form ← formIssue e x
      raiseAfterForm e cs
      modify (fun s => s.dropStages e)
      submit e (c form) cost) :=
    keeps_bind (keeps_formIssue he _) fun _ => keeps_bind (keeps_raiseAfterForm he _) fun _ =>
      keeps_bind (keeps_modify fun _ hs => wf_dropStages hs _) fun _ => keeps_submit ..
  exact keeps_ite (keeps_bind (keeps_fencesTo ..) fun _ => keeps_bind (keeps_holdIf ..) fun _ => hend ..) (hend ..)

/-! ### Fabric commands -/

theorem keeps_peersReady (e : Env) (x : W64) : Keeps (peersReady e x) := by
  grind [peersReady, keeps_bind, keeps_get_bind, keeps_pure, keeps_holdIf]

/-! ### System -/

theorem keeps_bodySrd (e : Env) (f : FFrame) : Keeps (bodySrd f e) := by
  grind [bodySrd, keeps_bind, keeps_get_bind, keeps_pure, keeps_dstS, keeps_begin_]

theorem keeps_bodySwr {e : Env} (he : e.before.mem.wf = true) (f : FFrame) : Keeps (bodySwr f e) := by
  grind [bodySwr, keeps_bind, keeps_pure, keeps_modSl, keeps_modify, keeps_srcS, keeps_begin_, wf_modCore]

theorem keeps_holdKeep {α : Type} (h : Hold) {keep : State} (hk : keep.mem.wf = true) : Keeps (holdKeep h keep : Exec α) :=
  keeps_error hk

theorem keeps_bodyTlbi (e : Env) (f : FFrame) : Keeps (bodyTlbi f e) := by
  unfold bodyTlbi
  refine keeps_bind (keeps_begin_ ..) fun _ => keeps_ite (keeps_pure _) (keeps_get_bind fun s hs => ?_)
  split
  · exact keeps_bind (keeps_holdIf ..) fun _ => keeps_bind (keeps_modSl ..) fun _ => keeps_pure _
  · refine keeps_bind (keeps_holdIf ..) fun _ => ?_
    have hds (op : TlbiOp) (ds : List Nat) : (ds.foldl (fun s d => s.tlbiDie op d) s).mem.wf = true :=
      wf_foldl (fun _ _ h => wf_tlbiDie h ..) hs _
    exact keeps_ite (keeps_holdKeep _ (wf_modSlice (hds ..) ..)) (keeps_bind (keeps_set (hds ..)) fun _ => keeps_pure _)

theorem keeps_bodyTrace {e : Env} (he : e.before.mem.wf = true) (f : FFrame) : Keeps (bodyTrace f e) := by
  grind [bodyTrace, keeps_bind, keeps_pure, keeps_modify, keeps_srcS, keeps_begin_, keeps_sources, wf_traceSlice]

theorem keeps_bodyTmark {e : Env} (he : e.before.mem.wf = true) (f : FFrame) : Keeps (bodyTmark f e) := by
  grind [bodyTmark, keeps_bind, keeps_pure, keeps_modSl, keeps_modify, keeps_srcS, keeps_begin_, wf_traceSlice]

theorem keeps_bodyPerf {e : Env} (he : e.before.mem.wf = true) (f : FFrame) : Keeps (bodyPerf f e) := by
  grind [bodyPerf, keeps_bind, keeps_get_bind, keeps_pure, keeps_srcS, keeps_dstS, keeps_begin_]

/-! ### Work -/

theorem keeps_readDesc {e : Env} (he : e.before.mem.wf = true) (code : W64) (m : W32) : Keeps (readDesc e code m) := by
  grind [readDesc, keeps_bind, keeps_pure, keeps_readSeen]

theorem keeps_spawnCheck {e : Env} (he : e.before.mem.wf = true) (code : W64) (d : Option (BitVec 1024)) (nBad : Bool)
    (joins : List W64) : Keeps (spawnCheck e code d nBad joins) := by
  unfold spawnCheck
  refine keeps_ite (keeps_raiseDrop he ..) (keeps_ite (keeps_raiseDrop he ..) ?_)
  split
  · exact keeps_raiseDrop he ..
  · exact keeps_pure _

theorem keeps_bodyJdec {e : Env} (he : e.before.mem.wf = true) (f : FFrame) : Keeps (bodyJdec f e) := by
  unfold bodyJdec
  refine keeps_bind (keeps_begin_ ..) fun _ => keeps_bind (keeps_srcS he ..) fun _ => keeps_ite (keeps_pure _)
    (keeps_bind (keeps_releaseReady ..) fun _ => keeps_ite (keeps_pure _) ?_)
  refine keeps_bind (keeps_placesOf ..) fun _ => keeps_bind (keeps_noPoison _) fun _ => ?_
  have hend (va : W64) (p : Place) (a : Nat) (l : List (W64 × Nat)) : Keeps (do
      hostReady va p
      let s ← get
      match s.joinStep e.g.core p a with
      | none => raise e 0x41 va
      | some s1 => do
        set (s1.watchHit e.cur.grp e.cur.a l true true)
        pure (0 : Events)) := by
    refine keeps_bind (keeps_hostReady ..) fun _ => keeps_get_bind fun _ hs => ?_
    split
    · exact keeps_raise ..
    · next ht => exact keeps_bind (keeps_set (wf_watchHit (wf_joinStep hs _ _ _ ht) ..)) fun _ => keeps_pure _
  split
  · split
    · exact keeps_bind (keeps_raise ..) fun _ => hend ..
    · exact keeps_bind (keeps_pure _) fun _ => hend ..
  · exact keeps_bind (keeps_raise ..) fun _ => hend ..

theorem keeps_bodyTget {e : Env} (he : e.before.mem.wf = true) (f : FFrame) : Keeps (bodyTget f e) := by
  grind [bodyTget, keeps_bind, keeps_get_bind, keeps_pure, keeps_srcS, keeps_dstS, keeps_begin_]

theorem keeps_bodyEget (e : Env) (f : FFrame) : Keeps (bodyEget f e) := by
  grind [bodyEget, keeps_bind, keeps_get_bind, keeps_pure, keeps_dstS, keeps_begin_]

theorem keeps_bodyEpost (e : Env) (f : FFrame) : Keeps (bodyEpost f e) := by
  grind [bodyEpost, keeps_bind, keeps_pure, keeps_modify, keeps_begin_, wf_modLaunch]

/-! ### Packed frames -/

theorem keeps_literalBody {e : Env} (he : e.before.mem.wf = true) (l : LFrame) : Keeps (literalBody l e) := by
  generalize hb : literalBody l = b
  unfold literalBody at hb
  split at hb
  all_goals
    subst hb
    simp [he, keeps_raise]

theorem keeps_halfBody {e : Env} (he : e.before.mem.wf = true) (h : PHalf) : Keeps (halfBody h e) := by
  generalize hb : halfBody h = b
  unfold halfBody at hb
  split at hb
  all_goals
    subst hb
    simp [he, keeps_raise]

/-! ### Cross-lane -/

theorem keeps_bodyShfl {e : Env} (he : e.before.mem.wf = true) (f : FFrame) : Keeps (bodyShfl f e) := by
  grind [bodyShfl, keeps_bind, keeps_pure, keeps_srcV, keeps_dstV, keeps_begin_, keeps_sources]

theorem keeps_bodyBcast {e : Env} (he : e.before.mem.wf = true) (f : FFrame) : Keeps (bodyBcast f e) := by
  grind [bodyBcast, keeps_bind, keeps_pure, keeps_srcV, keeps_srcS, keeps_dstV, keeps_begin_, keeps_sources]

theorem keeps_bodyVcomp {e : Env} (he : e.before.mem.wf = true) (f : FFrame) : Keeps (bodyVcomp f e) := by
  grind [bodyVcomp, keeps_bind, keeps_pure, keeps_srcV, keeps_dstV, keeps_begin_]

theorem keeps_bodyVote {e : Env} (he : e.before.mem.wf = true) (f : FFrame) : Keeps (bodyVote f e) := by
  grind [bodyVote, keeps_bind, keeps_pure, keeps_srcV, keeps_dstS, keeps_begin_]

theorem keeps_bodyMatch {e : Env} (he : e.before.mem.wf = true) (f : FFrame) : Keeps (bodyMatch f e) := by
  grind [bodyMatch, keeps_bind, keeps_pure, keeps_srcV, keeps_dstV, keeps_begin_]

theorem keeps_bodyVred {e : Env} (he : e.before.mem.wf = true) (f : FFrame) : Keeps (bodyVred f e) := by
  grind [bodyVred, keeps_bind, keeps_pure, keeps_srcV, keeps_dstV, keeps_dstS, keeps_begin_]

theorem keeps_bodyVscan {e : Env} (he : e.before.mem.wf = true) (f : FFrame) : Keeps (bodyVscan f e) := by
  grind [bodyVscan, keeps_bind, keeps_pure, keeps_srcV, keeps_dstV, keeps_begin_]

theorem keeps_bodyGfence (e : Env) (f : FFrame) : Keeps (bodyGfence f e) := by
  grind [bodyGfence, keeps_bind, keeps_get_bind, keeps_pure, keeps_acquireIds, keeps_begin_]

theorem keeps_inspect (e : Env) (kind : Nat) (f : FFrame) : Keeps (inspect kind f e) :=
  keeps_bind (keeps_trapIf ..) fun _ => keeps_bind (keeps_raiseLowest ..) fun _ => keeps_get_bind fun _ _ =>
  keeps_bind (keeps_holdIf ..) fun _ => keeps_bind (keeps_dstS ..) fun _ =>
  keeps_ite
    (keeps_bind (keeps_syncReady _) fun _ => keeps_ite (keeps_bind (keeps_modSl ..) fun _ => keeps_pure _)
      (keeps_bind (keeps_modGrp ..) fun _ => keeps_bind (keeps_acquireIds ..) fun _ => keeps_pure _))
    (keeps_pure _)

theorem keeps_bodyQcnt (e : Env) (f : FFrame) : Keeps (bodyQcnt f e) := keeps_inspect e ..

theorem keeps_bodyQroom (e : Env) (f : FFrame) : Keeps (bodyQroom f e) := keeps_inspect e ..

theorem keeps_bodyQdrain (e : Env) (f : FFrame) : Keeps (bodyQdrain f e) := keeps_inspect e ..

end Sys2Proof.Proofs
end

section
/-!
PROOFS. A step keeps memory in its canonical form (O57).
-/
namespace Sys2Proof.Proofs
open Sys2Proof.Machine Sys2Proof.Claims Sys2Proof.Laws

/-! ### Issuing -/

theorem env?_before {s : State} {e : Env} (h : s.env? = some e) : e.before = s := by
  unfold State.env? at h
  split at h
  · cases h
  · split at h
    · cases h
    · split at h
      · cases h
      · split at h
        · cases h
        · split at h
          · cases h
          · cases h; rfl

theorem wf_keptTrap {s : State} (hm : s.mem.wf = true) {t : TrapInfo} {k : Option State} (h : StopWf (.trap t k)) :
    (k.getD s).mem.wf = true := by
  cases k with
  | none => exact hm
  | some k => exact h

theorem wf_keptHold {s : State} (hm : s.mem.wf = true) {q : Hold} {l : List WalkReq} {k : Option State}
    (h : StopWf (.hold q l k)) : (k.getD s).mem.wf = true := by
  cases k with
  | none => exact hm
  | some k => exact h

/-- An issue of a meaning that keeps the canonical form goes on in a state that has it. -/
theorem nextWf_issue {s : State} (hm : s.mem.wf = true) {g : List (BitVec 6)} {body : Env → Exec Unit}
    (hb : ∀ e, e.before.mem.wf = true → Keeps (body e)) : NextWf (issue g body s) := by
  have hstop (e : Env) (t u : State) (i : StopInfo) (ht : t.mem.wf = true) (hu : u.mem.wf = true) (b : Bool) :
      NextWf (if b then .next (t.stopBefore e) else .next (u.stopWg e i)) := by
    split
    · exact nextWf_next.mpr (wf_stopBefore ht _)
    · exact nextWf_next.mpr (wf_stopWg hu ..)
  unfold issue
  split
  · exact nextWf_fault
  · next e henv =>
    have h := (hb e (by rw [env?_before henv]; exact hm)).of s hm
    dsimp only
    generalize body e s = r at h
    cases r with
    | ok r => exact nextWf_next.mpr (wf_takeDue (wf_afterIssue h ..) _)
    | error x =>
      cases x with
      | trap t keep =>
        dsimp only
        split
        · exact nextWf_next.mpr (wf_takeTrap hm ..)
        · exact nextWf_next.mpr (wf_takeTrap (wf_afterIssue (wf_dropFaults (wf_keptTrap hm h) ..) ..) ..)
      | hold q l keep => exact nextWf_next.mpr (wf_holdSlot (wf_keptHold hm h) ..)
      | pages l => exact hstop _ _ _ _ hm (wf_dropFaults hm ..) _
      | poison va => exact hstop _ _ _ _ hm (wf_standAt hm _) _
      | refused va aux => exact hstop _ _ _ _ hm (wf_standAt hm _) _
      | fault f => exact nextWf_fault

theorem nextWf_issueF {s : State} (hm : s.mem.wf = true) {g : BitVec 6} {body : Body}
    (hb : ∀ e, e.before.mem.wf = true → Keeps (body e)) : NextWf (issueF g body s) :=
  nextWf_issue hm fun e he => keeps_bind (hb e he) fun _ => keeps_bind (keeps_recordEv ..) fun _ => keeps_advance ..

theorem nextWf_issueW {s : State} (hm : s.mem.wf = true) {g : BitVec 6} {body : Env → Exec Unit}
    (hb : ∀ e, e.before.mem.wf = true → Keeps (body e)) : NextWf (issueW g body s) :=
  nextWf_issue hm fun e he => keeps_bind (hb e he) fun _ => keeps_advance ..

theorem nextWf_issueC {s : State} (hm : s.mem.wf = true) {c : CFrame} {form : CForm} {g : Bool} {body : Env → Exec Unit}
    (hb : ∀ e, e.before.mem.wf = true → Keeps (body e)) : NextWf (issueC c form g body s) :=
  nextWf_issue hm fun e he => keeps_bind (keeps_trapIf ..) fun _ => hb e he

theorem nextWf_onceW {s : State} (hm : s.mem.wf = true) {sp : WSpec} {w : WFrame} {act : Env → Exec Unit}
    (ha : ∀ e, e.before.mem.wf = true → Keeps (act e)) : NextWf (onceW sp w act s) :=
  nextWf_issueW hm fun e he => keeps_bind (keeps_beginW ..) fun _ => keeps_ite (keeps_pure _) (ha e he)

/-! ### The arms that write out what they do -/

section
variable {s : State} (hm : s.mem.wf = true)
include hm

theorem wf_execGdef (w : WFrame) : NextWf (execGdef w s) :=
  nextWf_onceW hm fun _ he => keeps_bind (keeps_srcS he ..) fun _ => keeps_setGeom ..

theorem wf_execGmov (w : WFrame) : NextWf (execGmov w s) := nextWf_onceW hm fun _ _ => keeps_setGeom ..

theorem wf_execGld (w : WFrame) : NextWf (execGld w s) := nextWf_onceW hm fun _ he => keeps_moveImage he ..

theorem wf_execGst (w : WFrame) : NextWf (execGst w s) := nextWf_onceW hm fun _ he => keeps_moveImage he ..

theorem wf_execGchain (w : WFrame) : NextWf (execGchain w s) :=
  nextWf_onceW hm fun _ _ => keeps_bind (keeps_wellFormed ..) fun _ => keeps_bind (keeps_wellFormed ..) fun _ => keeps_putGeom ..

theorem wf_execGtran (w : WFrame) : NextWf (execGtran w s) :=
  nextWf_onceW hm fun _ _ => keeps_bind (keeps_wellFormed ..) fun _ => keeps_putGeom ..

theorem wf_execGflat (w : WFrame) : NextWf (execGflat w s) :=
  nextWf_onceW hm fun _ _ => keeps_bind (keeps_wellFormed ..) fun _ => keeps_putGeom ..

theorem wf_execGslice (w : WFrame) : NextWf (execGslice w s) := nextWf_onceW hm fun _ he => keeps_restrict he ..

theorem wf_execGpart (w : WFrame) : NextWf (execGpart w s) := nextWf_onceW hm fun _ he => keeps_restrict he ..

theorem wf_execGswz (w : WFrame) : NextWf (execGswz w s) := nextWf_onceW hm fun _ _ => keeps_setGeom ..

theorem wf_execGchk (w : WFrame) : NextWf (execGchk w s) :=
  nextWf_onceW hm fun _ he => keeps_bind (keeps_srcS he ..) fun _ => keeps_dstS ..

theorem wf_execGbank (w : WFrame) : NextWf (execGbank w s) :=
  nextWf_onceW hm fun _ he => keeps_bind (keeps_srcS he ..) fun _ => keeps_dstS ..

theorem wf_execNop (c : CFrame) : NextWf (execNop c s) := nextWf_issueC hm fun _ _ => keeps_advance ..

theorem wf_execBra (c : CFrame) : NextWf (execBra c s) :=
  nextWf_issueC hm fun _ _ => keeps_ite (keeps_jump ..) (keeps_advance ..)

theorem wf_execBrz (c : CFrame) : NextWf (execBrz c s) := nextWf_issueC hm fun _ he => keeps_branchTest he ..

theorem wf_execBrnz (c : CFrame) : NextWf (execBrnz c s) := nextWf_issueC hm fun _ he => keeps_branchTest he ..

theorem wf_execBrx (c : CFrame) : NextWf (execBrx c s) :=
  nextWf_issueC hm fun _ he => keeps_bind (keeps_controlScalar he _) fun _ =>
    keeps_ite (keeps_bind (keeps_checkTarget ..) fun _ => keeps_jump ..) (keeps_advance ..)

theorem wf_execBrd (c : CFrame) : NextWf (execBrd c s) :=
  nextWf_issueC hm fun _ _ => keeps_bind (keeps_notInHandler _) fun _ => keeps_split ..

theorem wf_execJoin (c : CFrame) : NextWf (execJoin c s) :=
  nextWf_issueC hm fun _ _ => keeps_bind (keeps_notInHandler _) fun _ => keeps_joinPath _

theorem wf_execBrq (c : CFrame) : NextWf (execBrq c s) := nextWf_issueC hm fun _ he => keeps_brq he _

theorem wf_execCall (c : CFrame) : NextWf (execCall c s) :=
  nextWf_issueC hm fun _ _ => keeps_bind (keeps_notInHandler _) fun _ => keeps_ite (keeps_callTo ..) (keeps_advance ..)

theorem wf_execCallx (c : CFrame) : NextWf (execCallx c s) :=
  nextWf_issueC hm fun _ he => keeps_bind (keeps_notInHandler _) fun _ => keeps_bind (keeps_controlScalar he _) fun _ =>
    keeps_ite (keeps_bind (keeps_checkTarget ..) fun _ => keeps_callTo ..) (keeps_advance ..)

theorem wf_execRet (c : CFrame) : NextWf (execRet c s) :=
  nextWf_issueC hm fun _ _ => keeps_bind (keeps_notInHandler _) fun _ => keeps_ite (keeps_ret _) (keeps_advance ..)

theorem wf_execExit (c : CFrame) : NextWf (execExit c s) :=
  nextWf_issueC hm fun _ _ => keeps_ite (keeps_advance ..)
    (keeps_ite (keeps_bind (keeps_exitLanes ..) fun _ => keeps_modify fun _ h => wf_leaveHandler h _) (keeps_exitLanes ..))

theorem wf_execYield (c : CFrame) : NextWf (execYield c s) :=
  nextWf_issueC hm fun _ _ => keeps_get_bind fun _ _ => keeps_when (keeps_modSl ..) fun _ => keeps_advance ..

theorem wf_execSleep (c : CFrame) : NextWf (execSleep c s) :=
  nextWf_issueC hm fun _ he => keeps_bind (keeps_controlScalar he _) fun _ => keeps_get_bind fun _ _ =>
    keeps_ite (keeps_modSl ..) (keeps_advance ..)

theorem wf_execTrap (c : CFrame) : NextWf (execTrap c s) :=
  nextWf_issueC hm fun _ _ => keeps_ite (keeps_error trivial) (keeps_advance ..)

theorem wf_execBkpt (c : CFrame) : NextWf (execBkpt c s) :=
  nextWf_issueC hm fun _ _ => keeps_ite (keeps_raise ..) (keeps_advance ..)

theorem wf_execEret (c : CFrame) : NextWf (execEret c s) :=
  nextWf_issueC hm fun _ _ => keeps_bind (keeps_trapIf ..) fun _ => keeps_ite (keeps_eret _) (keeps_advance ..)

theorem wf_execBwait (f : FFrame) : NextWf (execBwait f s) := nextWf_issue hm fun _ he => keeps_bwait he _

theorem wf_execMma (w : WFrame) : NextWf (execMma w s) := nextWf_issueW hm fun _ _ => keeps_mulVec ..

theorem wf_execMmsp (w : WFrame) : NextWf (execMmsp w s) := nextWf_issueW hm fun _ _ => keeps_mulVec ..

theorem wf_execMmad (w : WFrame) : NextWf (execMmad w s) :=
  nextWf_issueW hm fun _ he => keeps_bind (keeps_beginMul ..) fun _ => keeps_ite (keeps_pure _)
    (keeps_bind (keeps_srcS he ..) fun _ => keeps_bind (keeps_srcS he ..) fun _ => keeps_issueMul ..)

theorem wf_execFbset (w : WFrame) : NextWf (execFbset w s) :=
  nextWf_issueW hm fun _ he => keeps_bind (keeps_beginW ..) fun _ => keeps_ite (keeps_pure _)
    (keeps_ite (keeps_fblockLoad he _) (keeps_bind (keeps_srcS he ..) fun _ => keeps_setFblock ..))

theorem wf_execAczero (w : WFrame) : NextWf (execAczero w s) :=
  nextWf_issueW hm fun _ _ => keeps_bind (keeps_beginW ..) fun _ => keeps_ite (keeps_pure _)
    (keeps_bind (keeps_tilesReady ..) fun _ => keeps_modGrp ..)

theorem wf_execAcld (w : WFrame) : NextWf (execAcld w s) := nextWf_issueW hm fun _ _ => keeps_issueMove ..

theorem wf_execAcst (w : WFrame) : NextWf (execAcst w s) := nextWf_issueW hm fun _ _ => keeps_issueMove ..

theorem wf_execAcrd (w : WFrame) : NextWf (execAcrd w s) :=
  nextWf_issueW hm fun _ he => keeps_bind (keeps_beginW ..) fun _ => keeps_when (keeps_tilesReady ..) fun _ =>
    keeps_bind (keeps_srcS he ..) fun _ => keeps_dstV ..

theorem wf_execAcwr (w : WFrame) : NextWf (execAcwr w s) :=
  nextWf_issueW hm fun _ he => keeps_bind (keeps_beginW ..) fun _ => keeps_when (keeps_tilesReady ..) fun _ =>
    keeps_bind (keeps_srcV he ..) fun _ => keeps_bind (keeps_srcS he ..) fun _ => keeps_modGrp ..

theorem wf_execAcmax (w : WFrame) : NextWf (execAcmax w s) :=
  nextWf_issueW hm fun _ _ => keeps_bind (keeps_beginW ..) fun _ => keeps_ite (keeps_pure _)
    (keeps_bind (keeps_tilesReady ..) fun _ => keeps_dstS ..)

theorem wf_execCpy (w : WFrame) : NextWf (execCpy w s) := nextWf_issueW hm fun _ he => keeps_issueCopy he ..

theorem wf_execCpyg (w : WFrame) : NextWf (execCpyg w s) := nextWf_issueW hm fun _ he => keeps_issueCopy he ..

theorem wf_execCpys (w : WFrame) : NextWf (execCpys w s) := nextWf_issueW hm fun _ he => keeps_issueCopy he ..

theorem wf_execCpyz (w : WFrame) : NextWf (execCpyz w s) := nextWf_issueW hm fun _ he => keeps_issueCopy he ..

theorem wf_execCpym (w : WFrame) : NextWf (execCpym w s) := nextWf_issueW hm fun _ he => keeps_issueCopy he ..

theorem wf_execPsel (w : WFrame) : NextWf (execPsel w s) :=
  nextWf_issueW hm fun _ _ => keeps_bind (keeps_beginW ..) fun _ => keeps_ite (keeps_pure _)
    (keeps_bind (keeps_engineRoom ..) fun _ => keeps_get_bind fun _ _ => keeps_bind (keeps_settleOperands ..) fun _ =>
      keeps_submit ..)

theorem wf_execCpyr (w : WFrame) : NextWf (execCpyr w s) :=
  nextWf_issueW hm fun _ _ => keeps_bind (keeps_beginW ..) fun _ => keeps_bind (keeps_optionReady ..) fun _ =>
    keeps_ite (keeps_pure _) (keeps_bind (keeps_engineRoom ..) fun _ => keeps_bind (keeps_peersReady ..) fun _ =>
      keeps_get_bind fun _ _ => keeps_bind (keeps_settleOperands ..) fun _ => keeps_submit ..)

theorem wf_execStrep (w : WFrame) : NextWf (execStrep w s) :=
  nextWf_issueW hm fun _ he => keeps_bind (keeps_beginW ..) fun _ => keeps_bind (keeps_optionReady ..) fun _ =>
    keeps_ite (keeps_pure _) (keeps_bind (keeps_engineRoom ..) fun _ => keeps_bind (keeps_peersReady ..) fun _ =>
      keeps_get_bind fun _ _ => keeps_bind (keeps_srcS he ..) fun _ => keeps_bind (keeps_settleOperands ..) fun _ =>
      keeps_submit ..)

theorem wf_execFcoll (w : WFrame) : NextWf (execFcoll w s) :=
  nextWf_issueW hm fun _ he => keeps_bind (keeps_beginW ..) fun _ => keeps_bind (keeps_optionReady ..) fun _ =>
    keeps_ite (keeps_pure _) (keeps_bind (keeps_engineRoom ..) fun _ => keeps_get_bind fun _ _ =>
      keeps_bind (keeps_srcS he ..) fun _ => keeps_bind (keeps_srcS he ..) fun _ => keeps_bind (keeps_settleOperands ..) fun _ =>
      keeps_bind (keeps_modify fun _ h => by exact h) fun _ => keeps_submit ..)

theorem wf_execSpawn (w : WFrame) : NextWf (execSpawn w s) :=
  nextWf_issueW hm fun _ he => keeps_bind (keeps_beginW ..) fun _ => keeps_ite (keeps_pure _)
    (keeps_bind (keeps_srcS he ..) fun _ => keeps_bind (keeps_readDesc he ..) fun _ => keeps_bind (keeps_spawnCheck he ..) fun _ =>
      keeps_bind (keeps_releaseReady _) fun _ => keeps_get_bind fun _ _ => keeps_ite
        (keeps_bind (keeps_holdIf ..) fun _ => keeps_bind (keeps_counterRoom ..) fun _ =>
          keeps_bind (keeps_modify fun _ h => wf_startWork h _ _ (wf_spawnInto h ..)) fun _ =>
          keeps_bind (keeps_modSl ..) fun _ => keeps_modify fun _ h => wf_dropStages h _)
        (keeps_modify fun _ h => wf_dropStages h _))

theorem wf_execSpawnj (w : WFrame) : NextWf (execSpawnj w s) := by
  refine nextWf_issueW hm fun _ he => keeps_bind (keeps_beginW ..) fun _ => keeps_ite (keeps_pure _) ?_
  refine keeps_bind (keeps_srcS he ..) fun _ => keeps_bind (keeps_readDesc he ..) fun _ => ?_
  have hps {c : Prop} [Decidable c] {a : Exec (List (Nat × W64 × Place))} {k : List (Nat × W64 × Place) → Exec Unit}
      (ha : Keeps a) (hk : ∀ ps, Keeps (k ps)) : Keeps (if c then a >>= k else pure [] >>= k) :=
    keeps_ite (keeps_bind ha hk) (keeps_bind (keeps_pure _) hk)
  exact hps (keeps_placesOf ..) fun _ => keeps_bind (keeps_spawnCheck he ..) fun _ => keeps_get_bind fun _ _ =>
    keeps_bind (keeps_holdIf ..) fun _ => keeps_bind (keeps_modify fun _ h => wf_dropStages h _) fun _ =>
    keeps_bind (keeps_enter he _) fun _ =>
    keeps_ite (keeps_modify fun _ h => wf_startWork h _ _ (wf_spawnInto h ..)) (keeps_pure _)

theorem wf_execLaunch (w : WFrame) : NextWf (execLaunch w s) := by
  refine nextWf_issueW hm fun e he => keeps_bind (keeps_beginW ..) fun _ => keeps_ite (keeps_pure _) (keeps_get_bind fun _ _ => ?_)
  have hend (image : W64) (m : W32) (target : Nat) : Keeps (do
      releaseReady e
      counterRoom e .store
      let bs ← readSeen e image 128 .dev m
      let s1 ← get
      match s1.appendLaunch target bs with
      | none => hold .launchQueueFull
      | some s2 =>
        if e.w.stepping then do
          set ((s1.startWork e (heldBy e [] (some (target, bs)) true) (fun s => s)).dropStages e)
          modSl e (fun sl => { sl with stores := sl.stores + 1 })
        else set (s2.dropStages e)) := by
    refine keeps_bind (keeps_releaseReady _) fun _ => keeps_bind (keeps_counterRoom ..) fun _ =>
      keeps_bind (keeps_readSeen he ..) fun _ => keeps_get_bind fun s1 h1 => ?_
    split
    · exact keeps_hold ..
    · next ht =>
      exact keeps_ite (keeps_bind (keeps_set (wf_dropStages (wf_startWork h1 _ _ h1) _)) fun _ => keeps_modSl ..)
        (keeps_set (wf_dropStages (wf_appendLaunch h1 _ _ ht) _))
  exact keeps_ite
    (keeps_bind (keeps_placesOf ..) fun _ => keeps_bind (keeps_raiseLowest ..) fun _ => hend ..)
    (keeps_bind (keeps_raiseLowest ..) fun _ => hend ..)

theorem wf_execLiteralFrame (l : LFrame) : NextWf (execLiteralFrame l s) :=
  nextWf_issueF hm fun _ he => keeps_bind (keeps_trapIf ..) fun _ => keeps_literalBody he _

theorem wf_execPairFrame (h0 h1 : PHalf) : NextWf (execPairFrame h0 h1 s) := by
  refine nextWf_issue hm fun _ he => keeps_bind (keeps_trapIf ..) fun _ => ?_
  split
  · exact keeps_raise ..
  · exact keeps_bind (keeps_halfBody he _) fun _ => keeps_bind (keeps_halfBody he _) fun _ =>
      keeps_bind (keeps_recordEv ..) fun _ => keeps_advance ..

theorem wf_execReservedOpcode (word : BitVec 64) : NextWf (execReservedOpcode word s) :=
  nextWf_issue hm fun _ _ => keeps_raise ..

end

/-! ### Every instruction and every event -/

theorem wf_exec {s : State} (hm : s.mem.wf = true) (i : Instr) : NextWf (exec i s) := by
  cases i with
  | nop _ => exact wf_execNop hm _
  | bra _ => exact wf_execBra hm _
  | brz _ => exact wf_execBrz hm _
  | brnz _ => exact wf_execBrnz hm _
  | brx _ => exact wf_execBrx hm _
  | brd _ => exact wf_execBrd hm _
  | join _ => exact wf_execJoin hm _
  | brq _ => exact wf_execBrq hm _
  | call _ => exact wf_execCall hm _
  | callx _ => exact wf_execCallx hm _
  | ret _ => exact wf_execRet hm _
  | exit _ => exact wf_execExit hm _
  | yield _ => exact wf_execYield hm _
  | sleep _ => exact wf_execSleep hm _
  | trap _ => exact wf_execTrap hm _
  | bkpt _ => exact wf_execBkpt hm _
  | eret _ => exact wf_execEret hm _
  | sadd _ => exact nextWf_issueF hm fun _ he => keeps_bodySadd he ..
  | ssub _ => exact nextWf_issueF hm fun _ he => keeps_bodySsub he ..
  | smul _ => exact nextWf_issueF hm fun _ he => keeps_bodySmul he ..
  | smulh _ => exact nextWf_issueF hm fun _ he => keeps_bodySmulh he ..
  | sand _ => exact nextWf_issueF hm fun _ he => keeps_bodySand he ..
  | sor _ => exact nextWf_issueF hm fun _ he => keeps_bodySor he ..
  | sxor _ => exact nextWf_issueF hm fun _ he => keeps_bodySxor he ..
  | snot _ => exact nextWf_issueF hm fun _ he => keeps_bodySnot he ..
  | sshl _ => exact nextWf_issueF hm fun _ he => keeps_bodySshl he ..
  | sshr _ => exact nextWf_issueF hm fun _ he => keeps_bodySshr he ..
  | ssra _ => exact nextWf_issueF hm fun _ he => keeps_bodySsra he ..
  | smin _ => exact nextWf_issueF hm fun _ he => keeps_bodySmin he ..
  | smax _ => exact nextWf_issueF hm fun _ he => keeps_bodySmax he ..
  | smov _ => exact nextWf_issueF hm fun _ he => keeps_bodySmov he ..
  | sli _ => exact nextWf_issueF hm fun _ he => keeps_bodySli he ..
  | scmp _ => exact nextWf_issueF hm fun _ he => keeps_bodyScmp he ..
  | ssel _ => exact nextWf_issueF hm fun _ he => keeps_bodySsel he ..
  | sclz _ => exact nextWf_issueF hm fun _ he => keeps_bodySclz he ..
  | spopc _ => exact nextWf_issueF hm fun _ he => keeps_bodySpopc he ..
  | sbfx _ => exact nextWf_issueF hm fun _ he => keeps_bodySbfx he ..
  | sbfi _ => exact nextWf_issueF hm fun _ he => keeps_bodySbfi he ..
  | vadd _ => exact nextWf_issueF hm fun _ he => keeps_bodyVadd he ..
  | vsub _ => exact nextWf_issueF hm fun _ he => keeps_bodyVsub he ..
  | vmul _ => exact nextWf_issueF hm fun _ he => keeps_bodyVmul he ..
  | vmulh _ => exact nextWf_issueF hm fun _ he => keeps_bodyVmulh he ..
  | vmad _ => exact nextWf_issueF hm fun _ he => keeps_bodyVmad he ..
  | vand _ => exact nextWf_issueF hm fun _ he => keeps_bodyVand he ..
  | vor _ => exact nextWf_issueF hm fun _ he => keeps_bodyVor he ..
  | vxor _ => exact nextWf_issueF hm fun _ he => keeps_bodyVxor he ..
  | vnot _ => exact nextWf_issueF hm fun _ he => keeps_bodyVnot he ..
  | vshl _ => exact nextWf_issueF hm fun _ he => keeps_bodyVshl he ..
  | vshr _ => exact nextWf_issueF hm fun _ he => keeps_bodyVshr he ..
  | vsra _ => exact nextWf_issueF hm fun _ he => keeps_bodyVsra he ..
  | vmin _ => exact nextWf_issueF hm fun _ he => keeps_bodyVmin he ..
  | vmax _ => exact nextWf_issueF hm fun _ he => keeps_bodyVmax he ..
  | vabs _ => exact nextWf_issueF hm fun _ he => keeps_bodyVabs he ..
  | vneg _ => exact nextWf_issueF hm fun _ he => keeps_bodyVneg he ..
  | vclz _ => exact nextWf_issueF hm fun _ he => keeps_bodyVclz he ..
  | vpopc _ => exact nextWf_issueF hm fun _ he => keeps_bodyVpopc he ..
  | vbfx _ => exact nextWf_issueF hm fun _ he => keeps_bodyVbfx he ..
  | vbfi _ => exact nextWf_issueF hm fun _ he => keeps_bodyVbfi he ..
  | vbrev _ => exact nextWf_issueF hm fun _ he => keeps_bodyVbrev he ..
  | vsel _ => exact nextWf_issueF hm fun _ he => keeps_bodyVsel he ..
  | vmov _ => exact nextWf_issueF hm fun _ he => keeps_bodyVmov he ..
  | vli _ => exact nextWf_issueF hm fun _ he => keeps_bodyVli he ..
  | vaddc _ => exact nextWf_issueF hm fun _ he => keeps_bodyVaddc he ..
  | vsubb _ => exact nextWf_issueF hm fun _ he => keeps_bodyVsubb he ..
  | vcmp _ => exact nextWf_issueF hm fun _ he => keeps_bodyVcmp he ..
  | vidot4 _ => exact nextWf_issueF hm fun _ he => keeps_bodyVidot4 he ..
  | vfadd _ => exact nextWf_issueF hm fun _ he => keeps_bodyVfadd he ..
  | vfsub _ => exact nextWf_issueF hm fun _ he => keeps_bodyVfsub he ..
  | vfmul _ => exact nextWf_issueF hm fun _ he => keeps_bodyVfmul he ..
  | vfma _ => exact nextWf_issueF hm fun _ he => keeps_bodyVfma he ..
  | vfmin _ => exact nextWf_issueF hm fun _ he => keeps_bodyVfmin he ..
  | vfmax _ => exact nextWf_issueF hm fun _ he => keeps_bodyVfmax he ..
  | vfabs _ => exact nextWf_issueF hm fun _ he => keeps_bodyVfabs he ..
  | vfneg _ => exact nextWf_issueF hm fun _ he => keeps_bodyVfneg he ..
  | vfcmp _ => exact nextWf_issueF hm fun _ he => keeps_bodyVfcmp he ..
  | vfclass _ => exact nextWf_issueF hm fun _ he => keeps_bodyVfclass he ..
  | vfround _ => exact nextWf_issueF hm fun _ he => keeps_bodyVfround he ..
  | vfdot2 _ => exact nextWf_issueF hm fun _ he => keeps_bodyVfdot2 he ..
  | vfscale _ => exact nextWf_issueF hm fun _ he => keeps_bodyVfscale he ..
  | vrcp _ => exact nextWf_issueF hm fun _ he => keeps_bodyVrcp he ..
  | vrsq _ => exact nextWf_issueF hm fun _ he => keeps_bodyVrsq he ..
  | vsqrt _ => exact nextWf_issueF hm fun _ he => keeps_bodyVsqrt he ..
  | vexp2 _ => exact nextWf_issueF hm fun _ he => keeps_bodyVexp2 he ..
  | vlog2 _ => exact nextWf_issueF hm fun _ he => keeps_bodyVlog2 he ..
  | vsin _ => exact nextWf_issueF hm fun _ he => keeps_bodyVsin he ..
  | vcos _ => exact nextWf_issueF hm fun _ he => keeps_bodyVcos he ..
  | vtanh _ => exact nextWf_issueF hm fun _ he => keeps_bodyVtanh he ..
  | vcvt _ => exact nextWf_issueF hm fun _ he => keeps_bodyVcvt he ..
  | vcvtb _ => exact nextWf_issueF hm fun _ he => keeps_bodyVcvtb he ..
  | vpack _ => exact nextWf_issueF hm fun _ he => keeps_bodyVpack he ..
  | vunpack _ => exact nextWf_issueF hm fun _ he => keeps_bodyVunpack he ..
  | pand _ => exact nextWf_issueF hm fun e _ => keeps_bodyPand e ..
  | por _ => exact nextWf_issueF hm fun e _ => keeps_bodyPor e ..
  | pxor _ => exact nextWf_issueF hm fun e _ => keeps_bodyPxor e ..
  | pnot _ => exact nextWf_issueF hm fun e _ => keeps_bodyPnot e ..
  | pmov _ => exact nextWf_issueF hm fun e _ => keeps_bodyPmov e ..
  | pfrom _ => exact nextWf_issueF hm fun _ he => keeps_bodyPfrom he ..
  | pto _ => exact nextWf_issueF hm fun e _ => keeps_bodyPto e ..
  | pany _ => exact nextWf_issueF hm fun e _ => keeps_bodyPany e ..
  | pall _ => exact nextWf_issueF hm fun e _ => keeps_bodyPall e ..
  | shfl _ => exact nextWf_issueF hm fun _ he => keeps_bodyShfl he ..
  | vote _ => exact nextWf_issueF hm fun _ he => keeps_bodyVote he ..
  | matchLanes _ => exact nextWf_issueF hm fun _ he => keeps_bodyMatch he ..
  | vred _ => exact nextWf_issueF hm fun _ he => keeps_bodyVred he ..
  | vscan _ => exact nextWf_issueF hm fun _ he => keeps_bodyVscan he ..
  | bcast _ => exact nextWf_issueF hm fun _ he => keeps_bodyBcast he ..
  | vcomp _ => exact nextWf_issueF hm fun _ he => keeps_bodyVcomp he ..
  | gfence _ => exact nextWf_issueF hm fun e _ => keeps_bodyGfence e ..
  | qcnt _ => exact nextWf_issueF hm fun e _ => keeps_bodyQcnt e ..
  | qroom _ => exact nextWf_issueF hm fun e _ => keeps_bodyQroom e ..
  | qdrain _ => exact nextWf_issueF hm fun e _ => keeps_bodyQdrain e ..
  | lds _ => exact nextWf_issueF hm fun _ he => keeps_bodyLds he ..
  | sts _ => exact nextWf_issueF hm fun _ he => keeps_bodySts he ..
  | ld _ => exact nextWf_issueF hm fun _ he => keeps_bodyLd he ..
  | st _ => exact nextWf_issueF hm fun _ he => keeps_bodySt he ..
  | ldl _ => exact nextWf_issueF hm fun _ he => keeps_bodyLdl he ..
  | stl _ => exact nextWf_issueF hm fun _ he => keeps_bodyStl he ..
  | ldq _ => exact nextWf_issueF hm fun _ he => keeps_bodyLdq he ..
  | stc _ => exact nextWf_issueF hm fun _ he => keeps_bodyStc he ..
  | ldx _ => exact nextWf_issueF hm fun _ he => keeps_bodyLdx he ..
  | pref _ => exact nextWf_issueF hm fun _ he => keeps_bodyPref he ..
  | cctl _ => exact nextWf_issueF hm fun _ he => keeps_bodyCctl he ..
  | atom _ => exact nextWf_issueF hm fun _ he => keeps_bodyAtom he ..
  | red _ => exact nextWf_issueF hm fun _ he => keeps_bodyRed he ..
  | cas _ => exact nextWf_issueF hm fun _ he => keeps_bodyCas he ..
  | fence _ => exact nextWf_issueF hm fun e _ => keeps_bodyFence e ..
  | fencex _ => exact nextWf_issueF hm fun e _ => keeps_bodyFencex e ..
  | waitcnt _ => exact nextWf_issueF hm fun e _ => keeps_bodyWaitcnt e ..
  | tlook _ => exact nextWf_issueF hm fun e _ => keeps_bodyTlook e ..
  | tset _ => exact nextWf_issueF hm fun _ he => keeps_bodyTset he ..
  | tclr _ => exact nextWf_issueF hm fun e _ => keeps_bodyTclr e ..
  | binit _ => exact nextWf_issueF hm fun e _ => keeps_bodyBinit e ..
  | barr _ => exact nextWf_issueF hm fun e _ => keeps_bodyBarr e ..
  | barrx _ => exact nextWf_issueF hm fun e _ => keeps_bodyBarrx e ..
  | bwait _ => exact wf_execBwait hm _
  | btest _ => exact nextWf_issueF hm fun e _ => keeps_bodyBtest e ..
  | bwatch _ => exact nextWf_issueF hm fun e _ => keeps_bodyBwatch e ..
  | gdef _ => exact wf_execGdef hm _
  | gld _ => exact wf_execGld hm _
  | gst _ => exact wf_execGst hm _
  | gmov _ => exact wf_execGmov hm _
  | gchain _ => exact wf_execGchain hm _
  | gpart _ => exact wf_execGpart hm _
  | gtran _ => exact wf_execGtran hm _
  | gflat _ => exact wf_execGflat hm _
  | gslice _ => exact wf_execGslice hm _
  | gswz _ => exact wf_execGswz hm _
  | gchk _ => exact wf_execGchk hm _
  | gbank _ => exact wf_execGbank hm _
  | mma _ => exact wf_execMma hm _
  | mmad _ => exact wf_execMmad hm _
  | mmsp _ => exact wf_execMmsp hm _
  | fbset _ => exact wf_execFbset hm _
  | aczero _ => exact wf_execAczero hm _
  | acld _ => exact wf_execAcld hm _
  | acst _ => exact wf_execAcst hm _
  | acrd _ => exact wf_execAcrd hm _
  | acwr _ => exact wf_execAcwr hm _
  | acmax _ => exact wf_execAcmax hm _
  | cpy _ => exact wf_execCpy hm _
  | cpyg _ => exact wf_execCpyg hm _
  | cpys _ => exact wf_execCpys hm _
  | cpyz _ => exact wf_execCpyz hm _
  | cpym _ => exact wf_execCpym hm _
  | psel _ => exact wf_execPsel hm _
  | cpyr _ => exact wf_execCpyr hm _
  | strep _ => exact wf_execStrep hm _
  | fcoll _ => exact wf_execFcoll hm _
  | spawn _ => exact wf_execSpawn hm _
  | spawnj _ => exact wf_execSpawnj hm _
  | jdec _ => exact nextWf_issueF hm fun _ he => keeps_bodyJdec he ..
  | launch _ => exact wf_execLaunch hm _
  | tget _ => exact nextWf_issueF hm fun _ he => keeps_bodyTget he ..
  | eget _ => exact nextWf_issueF hm fun e _ => keeps_bodyEget e ..
  | epost _ => exact nextWf_issueF hm fun e _ => keeps_bodyEpost e ..
  | srd _ => exact nextWf_issueF hm fun e _ => keeps_bodySrd e ..
  | swr _ => exact nextWf_issueF hm fun _ he => keeps_bodySwr he ..
  | tlbi _ => exact nextWf_issueF hm fun e _ => keeps_bodyTlbi e ..
  | trace _ => exact nextWf_issueF hm fun _ he => keeps_bodyTrace he ..
  | tmark _ => exact nextWf_issueF hm fun _ he => keeps_bodyTmark he ..
  | perf _ => exact nextWf_issueF hm fun _ he => keeps_bodyPerf he ..
  | literalFrame _ => exact wf_execLiteralFrame hm _
  | pairFrame _ _ => exact wf_execPairFrame hm _ _
  | haltArrival _ _ _ => exact wf_execHaltArrival hm _ _ _
  | idleCycle _ _ => exact wf_execIdleCycle hm _ _
  | yieldWindowEnd _ _ => exact wf_execYieldWindowEnd hm _ _
  | sleepWake _ _ => exact wf_execSleepWake hm _ _
  | bwaitPromWake _ _ => exact wf_execBwaitPromWake hm _ _
  | bwaitComplete _ _ _ => exact wf_execBwaitComplete hm _ _ _
  | throttleDecay _ => exact wf_execThrottleDecay hm _
  | throttleWindow _ => exact wf_execThrottleWindow hm _
  | bankServe _ _ => exact wf_execBankServe hm _ _
  | loadResponse _ _ => exact wf_execLoadResponse hm _ _
  | storePerformed _ _ => exact wf_execStorePerformed hm _ _
  | atomicResponse _ _ => exact wf_execAtomicResponse hm _ _
  | matrixPassStart _ _ => exact wf_execMatrixPassStart hm _ _
  | matrixPassComplete _ _ => exact wf_execMatrixPassComplete hm _ _
  | commandStart _ => exact wf_execCommandStart hm _
  | engineByteSubtract _ _ => exact wf_execEngineByteSubtract hm _ _
  | commandComplete _ => exact wf_execCommandComplete hm _
  | tileTaskReplay _ => exact wf_execTileTaskReplay hm _
  | pselComplete _ => exact wf_execPselComplete hm _
  | watchRead _ => exact wf_execWatchRead hm _
  | pairMessageArrive _ => exact wf_execPairMessageArrive hm _
  | buddyRequestArrive _ _ => exact wf_execBuddyRequestArrive hm _ _
  | pageWalk _ => exact wf_execPageWalk hm _
  | itemQueueEnter _ => exact wf_execItemQueueEnter hm _
  | couplerCycle _ => exact wf_execCouplerCycle hm _
  | couplerIdleTimeout _ => exact wf_execCouplerIdleTimeout hm _
  | clusterAdmit _ => exact wf_execClusterAdmit hm _
  | groupRetire _ => exact wf_execGroupRetire hm _
  | swapOut _ => exact wf_execSwapOut hm _
  | contextSave _ => exact wf_execContextSave hm _
  | faultRecordDeferred _ => exact wf_execFaultRecordDeferred hm _
  | pagePresentResume _ => exact wf_execPagePresentResume hm _
  | restore _ => exact wf_execRestore hm _
  | watchdogExpiry _ => exact wf_execWatchdogExpiry hm _
  | saveBudgetExpiry _ => exact wf_execSaveBudgetExpiry hm _
  | poisonRead _ => exact wf_execPoisonRead hm _
  | distributorStep => exact wf_execDistributorStep hm
  | launchRead _ => exact wf_execLaunchRead hm _
  | launchComplete _ => exact wf_execLaunchComplete hm _
  | energyWindowStart _ => exact wf_execEnergyWindowStart hm _
  | regionActivate _ => exact wf_execRegionActivate hm _
  | regionDeactivate _ => exact wf_execRegionDeactivate hm _
  | circuitReady => exact wf_execCircuitReady hm
  | faultResume _ _ => exact wf_execFaultResume hm _ _
  | faultDomainReset _ _ => exact wf_execFaultDomainReset hm _ _
  | preemptStop _ => exact wf_execPreemptStop hm _
  | preemptResume _ => exact wf_execPreemptResume hm _
  | stepEnd _ => exact wf_execStepEnd hm _
  | hostRequestTimeout _ => exact wf_execHostRequestTimeout hm _
  | portFailure _ => exact wf_execPortFailure hm _
  | attestComplete => exact wf_execAttestComplete hm
  | packageReset => exact wf_execPackageReset hm
  | exportWait _ => exact wf_execExportWait hm _
  | fabricRetransmit _ => exact wf_execFabricRetransmit hm _
  | reservedOpcode w => exact wf_execReservedOpcode hm w
  | fabricRequestArrive _ => exact wf_execFabricRequestArrive hm _
  | fabricResponse _ _ => exact wf_execFabricResponse hm _ _
  | fabricRefusal _ _ => exact wf_execFabricRefusal hm _ _
  | collLineResend _ _ => exact wf_execCollLineResend hm _ _
  | droopStretch _ => exact wf_execDroopStretch hm _
  | eccError _ _ _ _ => exact wf_execEccError hm _ _ _ _
  | dieFail _ => exact wf_execDieFail hm _
  | wavelengthFail _ => exact wf_execWavelengthFail hm _
  | energyCharge _ _ _ => exact wf_execEnergyCharge hm _ _ _
  | powerMeasure _ => exact wf_execPowerMeasure hm _
  | ctabWrite _ _ => exact wf_execCtabWrite hm _ _
  | debugAttach _ => exact wf_execDebugAttach hm _
  | debugDetach _ => exact wf_execDebugDetach hm _
  | debugStop _ => exact wf_execDebugStop hm _
  | debugHold _ => exact wf_execDebugHold hm _
  | debugRelease _ => exact wf_execDebugRelease hm _
  | debugStep _ _ => exact wf_execDebugStep hm _ _
  | pushWindowWrite _ _ _ => exact wf_execPushWindowWrite hm _ _ _
  | hostRead _ _ _ _ => exact wf_execHostRead hm _ _ _ _
  | hostWrite _ _ _ => exact wf_execHostWrite hm _ _ _
  | hostAtomic _ _ _ _ _ _ => exact wf_execHostAtomic hm _ _ _ _ _ _
  | heartbeatWrite _ => exact wf_execHeartbeatWrite hm _
  | attestGo _ => exact wf_execAttestGo hm _
  | firmwareImageUpload _ => exact wf_execFirmwareImageUpload hm _
  | registerWrite _ _ _ => exact wf_execRegisterWrite hm _ _ _
  | flitReplay w => exact wf_execFlitReplay hm w
  | censusFlit _ _ _ => exact wf_execCensusFlit hm _ _ _
  | linkRetrain _ _ _ _ => exact wf_execLinkRetrain hm _ _ _ _
  | portEnable _ _ _ => exact wf_execPortEnable hm _ _ _
  | syncFlit _ => exact wf_execSyncFlit hm _
  | correlationPacket _ _ _ _ _ _ _ => exact wf_execCorrelationPacket hm _ _ _ _ _ _ _
  | collResultArrive _ _ _ _ => exact wf_execCollResultArrive hm _ _ _ _
  | hostLinkDown _ => exact wf_execHostLinkDown hm _
  | hostLinkUp _ => exact wf_execHostLinkUp hm _

/-! ### Fetching -/

theorem stopWf_hostReady {s : State} (hm : s.mem.wf = true) {va : W64} {p : Place} {x : Stop} (h : hostReady va p s = .error x) :
    StopWf x := by
  have hk := (keeps_hostReady va p).of s hm
  rw [h] at hk
  exact hk

theorem stopWf_fetchWord {s : State} (hm : s.mem.wf = true) {e : Env} {pc : Va} {x : Stop} (h : fetchWord s e pc = .error x) :
    StopWf x := by
  grind [fetchWord, fetchTrap, StopWf, stopWf_hostReady]

theorem stopWf_secondWordStop {e : Env} {bs : List Byte} {x : Stop} (h : StopWf x) : StopWf (secondWordStop e bs x) := by
  unfold secondWordStop
  split
  · exact h
  · exact h
  · split
    · split
      · split
        · exact trivial
        · exact h
      · exact h
    · exact h

theorem stopWf_fetch {s : State} (hm : s.mem.wf = true) {e : Env} {x : Stop} (h : fetch s e = .error x) : StopWf x := by
  unfold fetch at h
  split at h
  · cases h; exact trivial
  · split at h
    · next hw => cases h; exact stopWf_fetchWord hm hw
    · split at h
      · cases h
      · split at h
        · next hw => cases h; exact stopWf_secondWordStop (stopWf_fetchWord hm hw)
        · split at h
          · cases h
          · cases h; exact trivial

/-! ### A step -/

theorem wf_tryIssue {s : State} (hm : s.mem.wf = true) : NextWf s.tryIssue := by
  unfold State.tryIssue
  split
  · exact nextWf_next.mpr hm
  · split
    · next ht => exact nextWf_next.mpr (wf_earlyTrap hm _ ht)
    · split
      · exact wf_exec hm _
      · next hx => exact nextWf_issue hm fun _ _ => keeps_error (stopWf_fetch hm hx)

/-- What trying slots gives has its memory in the canonical form. -/
def TriedWf : Tried → Prop
  | .done _ o => NextWf o
  | .held t => t.mem.wf = true

theorem wf_tryCursors {s : State} (hm : s.mem.wf = true) (l : List Cursor) : TriedWf (s.tryCursors l) := by
  induction l generalizing s with
  | nil => exact hm
  | cons c l ih =>
    have ht : NextWf { s with cur := some c }.tryIssue := wf_tryIssue hm
    unfold State.tryCursors
    split
    · next t h =>
      rw [h, nextWf_next] at ht
      split
      · exact ih ht
      · exact nextWf_next.mpr ht
    · exact ht

theorem wf_trySlices {s : State} (hm : s.mem.wf = true) (l : List (Group × Bool × Slice)) : TriedWf (s.trySlices l) := by
  induction l generalizing s with
  | nil => exact hm
  | cons x l ih =>
    have ht := wf_tryCursors hm (s.cursorsOf x)
    unfold State.trySlices
    split
    · next h => rw [h] at ht; exact ht
    · next h => rw [h] at ht; exact ih ht

theorem wf_firstTrap {s : State} (hm : s.mem.wf = true) (k : Nat) (l : List Nat) (c : Cursor) {t : State} (ht : t.mem.wf = true) :
    TriedWf (s.firstTrap k l c t) := by
  unfold State.firstTrap
  split
  · exact nextWf_next.mpr ht
  · refine nextWf_next.mpr (List.foldlRecOn (motive := fun b : Nat × Cursor × State => b.2.2.mem.wf = true) _ _ ht
      fun b hb j _ => ?_)
    have hj := wf_trySlices hm (s.order (j / 4) (j % 4))
    split
    · next h =>
      rw [h] at hj
      split
      · split
        · exact nextWf_next.mp hj
        · exact hb
      · exact hb
    · exact hb

theorem wf_trySubs {s : State} (hm : s.mem.wf = true) (l : List Nat) : TriedWf (s.trySubs l) := by
  induction l generalizing s with
  | nil => exact hm
  | cons k l ih =>
    have ht := wf_trySlices hm (s.order (k / 4) (k % 4))
    unfold State.trySubs
    split
    · next h => rw [h] at ht; exact wf_firstTrap hm _ _ _ (nextWf_next.mp ht)
    · next h => rw [h] at ht; exact ht
    · next h => rw [h] at ht; exact ih ht

theorem wf_advance {s : State} (hm : s.mem.wf = true) : NextWf s.advance := by
  unfold State.advance
  split
  · split
    · exact wf_exec (by exact hm) _
    · exact nextWf_next.mpr hm
  · split
    · next c _ =>
      have ht : NextWf { s with cur := some c }.tryIssue := wf_tryIssue hm
      split
      · next h => rw [h, nextWf_next] at ht; exact nextWf_next.mpr ht
      · exact ht
    · split
      · exact wf_exec hm _
      · have ht := wf_trySubs hm s.openSubs
        split
        · next h => rw [h] at ht; exact ht
        · next h =>
          rw [h] at ht
          split
          · exact wf_exec ht _
          · exact nextWf_next.mpr (wf_tick ht)

/-- Settles O57: every operation of the state, every meaning of an instruction and every event keeps the canonical form, because
memory changes by `Memory.write` and `List.filter` alone; a step is made of them. -/
theorem memoryCanonical : Obligations.MemoryCanonical := by
  unfold Obligations.MemoryCanonical
  intro s t hm hstep
  exact wf_advance hm t hstep

end Sys2Proof.Proofs
end
